-- ==== Sys2Proof/Word.lean ====
section
/-! DEFINITION. The words of the Dzioft (PY-DZ128): byte and word types, the index types of its
instances (00_scope R12), the paths by which registers are reached (17_register_pages R481) and the
records that arrive from outside (packets and messages), as plain data. -/

namespace Sys2Proof

/-- One byte of any memory of the device (R7). -/
abbrev Byte := BitVec 8
/-- A 64-bit register word (R476). -/
abbrev Word := BitVec 64
/-- A physical core, 0 to 143 (R12, R17). -/
abbrev CoreId := Fin 144
/-- A resident context slot of a core (R108, R139). -/
abbrev SlotId := Fin 4
/-- A queue of a context: 0 matrix, 1 vector, 2 mover (R112, R148). -/
abbrev QueueId := Fin 3
/-- An accumulation group (R73). -/
abbrev GroupId := Fin 8
/-- A compute die (R12). -/
abbrev DieId := Fin 4
/-- A Yepen stack (R12). -/
abbrev StackId := Fin 32
/-- A partition (R252). -/
abbrev PartId := Fin 64
/-- A Pyrol Link port (R12). -/
abbrev PortId := Fin 16
/-- A ring (R319). -/
abbrev RingId := BitVec 18
/-- An extent number (R226). -/
abbrev ExtentId := BitVec 19
/-- A 20-bit device ID (R300). -/
abbrev DeviceId := BitVec 20

/-- The path by which a register is written or read (R481, R483): an open session of the host port,
a management session, the banker, or a firmware component. -/
inductive Path where
  /-- origin 1: DCP session number of the host port -/
  | session (n : BitVec 32)
  /-- origin 2: management session number -/
  | mgmt (n : BitVec 32)
  /-- origin 3: the banker -/
  | banker
  /-- origin 4: internal firmware component, 0 to 6 (R435) -/
  | firmware (c : Fin 7)
deriving DecidableEq, Repr

/-- The ORIGIN code of a path (R462, R481). -/
def Path.origin : Path → Nat
  | .session _ => 1
  | .mgmt _ => 2
  | .banker => 3
  | .firmware _ => 4

/-- A key that separates the copies of the paths (R483). -/
def Path.key : Path → Nat
  | .session n => 4 * n.toNat
  | .mgmt n => 4 * n.toNat + 1
  | .banker => 2
  | .firmware c => 4 * c.val + 3

/-- Where a DCP packet arrives: the host port or a management port (R352, R453). -/
inductive NetPort where
  | host
  | mgt (n : Fin 2)
deriving DecidableEq, Repr

/-- The scope named by an OPEN (R353 item 3). -/
inductive Scope where
  | device
  | partition (p : PartId)
deriving DecidableEq, Repr

/-- Where a frame of an Ethernet port comes from or goes: the IP address, an IPv4 one in its IPv4-mapped form (R370), the
UDP port, and the VLAN ID of the frame, 0 when it is untagged (R350, R352). -/
structure NetAddr where
  ip : BitVec 128 := 0
  port : BitVec 16 := 0
  vlan : BitVec 12 := 0
deriving DecidableEq, Repr

/-- An OPEN packet as it arrives (R352, R353): its source, MAGIC and VERSION, and the six items of its body. The verdicts of
the signature check and of the decapsulation come with it: the spec names ML-DSA-87 and ML-KEM-1024 and does not define
them. -/
structure OpenPacket where
  port : NetPort
  source : NetAddr
  magic : BitVec 16
  version : BitVec 8
  ciphertext : BitVec 12544
  hostNonce : BitVec 256
  scope : BitVec 64
  ring : BitVec 32
  keyIndex : BitVec 16
  signature : BitVec 37016
  /-- the signature verifies under the named operator (or owner) key over the SHA3-512 digest of items 1 to 5 -/
  signatureOk : Bool
  /-- the ciphertext decapsulates -/
  decapsOk : Bool
deriving DecidableEq, Repr

/-- Header facts of a REQUEST packet (R352, R358). -/
structure ReqHead where
  port : NetPort
  source : NetAddr
  magic : BitVec 16
  version : BitVec 8
  type : BitVec 8
  /-- the AES-256-GCM tag verifies under the session's host-to-device key, with the nonce of SESSION and SEQ -/
  tagOk : Bool
  session : BitVec 32
  seq : BitVec 64
  /-- LENGTH of the packet header -/
  length : BitVec 16
  /-- every reserved field of the operation header is zero -/
  reservedZero : Bool
deriving DecidableEq, Repr

/-- The operation carried by a REQUEST (R358, R359). -/
structure DcpOp where
  op : BitVec 8
  addr : BitVec 64
  count : BitVec 32
  ring : RingId
  data : List Byte
deriving DecidableEq, Repr

/-- A Pyrol Link packet (R296). -/
structure Packet where
  dst : DeviceId
  src : DeviceId
  job : BitVec 16
  pkind : BitVec 4
  last : Bool
  flowSeq : BitVec 32
  ring : RingId
  addr : BitVec 41
  kindData : BitVec 64
  payload : List Byte
deriving DecidableEq, Repr

/-- A flit (R291): the header fields and what it carries of a packet. -/
structure Flit where
  fseq : BitVec 16
  ack : BitVec 16
  nak : Bool
  fkind : BitVec 3
  vset : BitVec 6
  vc : BitVec 1
  crVset : BitVec 6
  crVc : BitVec 1
  crCount : BitVec 12
  body : List Byte
  /-- the CRC-32C field, bytes 252 to 255 -/
  crc : BitVec 32
deriving DecidableEq, Repr

/-- A beacon (R313) as received, with the two stamps the receiver computes with (R314). -/
structure Beacon where
  device : DeviceId
  port : BitVec 4
  pendingDigest : BitVec 64
  hops : BitVec 8
  t1 : BitVec 64
  t2 : BitVec 64
  t3 : BitVec 64
  t4 : BitVec 64
deriving DecidableEq, Repr

/-- By which network a banker message arrives (R465). -/
inductive MsgVia where
  | fabric
  | mgmt (n : Fin 2)
deriving DecidableEq, Repr

/-- A banker message (R389, R465): the common payload, the message's own fields as words, and for a
UDP copy its boot count and whether its tag verifies. -/
structure BankerMsg where
  via : MsgVia
  tagOk : Bool
  bootCount : BitVec 32
  device : DeviceId
  job : BitVec 16
  seq : BitVec 32
  turn : BitVec 48
  epoch : BitVec 32
  time : BitVec 64
  f0 : BitVec 64
  f1 : BitVec 64
  f2 : BitVec 64
deriving DecidableEq, Repr

/-- A pace or release notice (R389). -/
structure PaceNotice where
  device : DeviceId
  job : BitVec 16
  /-- byte 0 of KIND_DATA is 0x02 -/
  release : Bool
  rate : BitVec 5
  seq : BitVec 32
  turn : BitVec 48
  time : BitVec 64
deriving DecidableEq, Repr

/-- Where a packet stands in its message (R364; the opcodes of the InfiniBand transport header). -/
inductive MsgPlace where
  | only
  | first
  | middle
  | last
deriving DecidableEq, Repr

/-- What a response packet says (R364). -/
inductive RoceAnswer where
  | data
  /-- receiver not ready: the request is to be made again -/
  | rnr
  /-- a NAK, or an error completion -/
  | nak
deriving DecidableEq, Repr

/-- An inbound RoCE v2 request packet (R364): address, key and length are those of a WRITE's first or only packet, or of a
READ. -/
structure RocePacket where
  source : NetAddr
  qpn : BitVec 24
  psn : BitVec 24
  place : MsgPlace
  va : BitVec 64
  rkey : BitVec 32
  /-- length of a READ, or of a WRITE's whole message -/
  length : BitVec 32
  data : List Byte
  /-- the IP header is marked ECN CE (R366) -/
  ce : Bool
deriving DecidableEq, Repr

/-- A response to a device-initiated READ (R364). -/
structure RoceResponse where
  source : NetAddr
  qpn : BitVec 24
  psn : BitVec 24
  answer : RoceAnswer
  /-- it is the last response packet of the request -/
  last : Bool
  data : List Byte
deriving DecidableEq, Repr

/-- Requests of R350 that the port answers itself. -/
inductive NeighbourKind where
  | arp
  | neighbourDiscovery
  | icmpEcho
  | icmpv6Echo
deriving DecidableEq, Repr

/-- A neighbour request as it arrives (R350): its source, and the address asked for. -/
structure NeighbourFrame where
  kind : NeighbourKind
  source : NetAddr
  asked : BitVec 128
deriving DecidableEq, Repr

/-- Operations of the JTAG TAP (R455, IEEE 1149.1). -/
inductive TapOp where
  | reset
  | idcode
  | bypass (tdi : Bool)
  | boundarySample
  | boundaryShift (tdi : Bool)
deriving DecidableEq, Repr

/-- An IEEE 1588 message of interest (R367): its domain, and the offset measured with it. -/
structure PtpMessage where
  domain : BitVec 8
  /-- a valid Sync (with its follow-up and delay exchange) -/
  sync : Bool
  /-- offset from the grandmaster in ns -/
  offset : Int
deriving DecidableEq, Repr

/-- An energy estimate of one 10 µs interval (R393): rail, the account charged and the amount in
units of 2^-16 pip. -/
inductive Account where
  | partition (p : PartId)
  | ring (r : RingId)
  | transit
  | device
deriving DecidableEq, Repr

end Sys2Proof
end

