-- ==== Sys2Proof/Syntax.lean ====
section
/-! DEFINITION. The commands of the block: one constructor per row of spec/opcode_table.json, in the
table's order. The operands of a command are what its sender or its cause gives it; a command of a
unit's queue (a tensor command) lies in that queue, so its row names the core and the slot only
(spec 04_core_engines R116). -/

namespace Sys2Proof

/-- The commands of the block (spec/opcode_table.json). -/
inductive Instr where
  /-- R108. The control processor issues one instruction from a runnable hart in round-robin order. -/
  | hartInstruction (c : CoreId)
  /-- R113. Copies a 64-byte command from the data window onto the context's matrix queue and returns its sequence number. -/
  | tpushM (c : CoreId) (k : SlotId) (rd rs1 : BitVec 5)
  /-- R113. Copies a 64-byte command onto the context's vector queue. -/
  | tpushV (c : CoreId) (k : SlotId) (rd rs1 : BitVec 5)
  /-- R113. Copies a 64-byte command onto the context's mover queue. -/
  | tpushS (c : CoreId) (k : SlotId) (rd rs1 : BitVec 5)
  /-- R115. Blocks the hart until a semaphore satisfies the waited value. -/
  | semwait (c : CoreId) (k : SlotId) (rs1 rs2 : BitVec 5)
  /-- R113. Adds an amount to a semaphore modulo 2^16. -/
  | semsig (c : CoreId) (k : SlotId) (rs1 rs2 : BitVec 5)
  /-- R113. Returns a semaphore's value to rd. -/
  | semread (c : CoreId) (k : SlotId) (rd rs1 : BitVec 5)
  /-- R113. Blocks the hart until every command pushed so far to the selected queues has completed. -/
  | tfence (c : CoreId) (k : SlotId) (rs1 : BitVec 5)
  /-- R120. A NOP command issues after its wait and signals at issue. -/
  | nop (c : CoreId) (k : SlotId) (q : QueueId)
  /-- R124. A matrix pass issues its rows in forward, transposed or outer-product mode, opening, continuing or closing a group. -/
  | matrixPass (c : CoreId) (k : SlotId)
  /-- R123. A tile load issues and starts filling the shadow tile through the weight-load path. -/
  | tileLoad (c : CoreId) (k : SlotId)
  /-- R63. The shadow tile is completely loaded and the tile load completes and signals. -/
  | tileLoadDone (c : CoreId)
  /-- R117. The last row of an OPEN or CONTINUE pass becomes visible or absorbed and the pass signals. -/
  | passComplete (c : CoreId)
  /-- R80. A closing group's drain starts through the epilogue once the closing pass's last row is visible. -/
  | groupDrainStart (c : CoreId) (g : GroupId)
  /-- R80. The last group row has left the epilogue, the group becomes free and the CLOSE completes. -/
  | groupDrainEnd (c : CoreId) (g : GroupId)
  /-- R72. The outer-product drain starts in the cycle after the closing pass's last row is absorbed. -/
  | outerProductDrainStart (c : CoreId)
  /-- R72. The drain's last row is written, the cell registers are zero and the CLOSE completes. -/
  | outerProductDrainEnd (c : CoreId)
  /-- R126. The matrix unit begins changing its holder context, saving and loading tiles. -/
  | holderChange (c : CoreId)
  /-- R126. The holder change ends and the incoming holder's commands may issue. -/
  | holderChangeDone (c : CoreId)
  /-- R132. Vector addition D = A + B. -/
  | vadd (c : CoreId) (k : SlotId)
  /-- R132. Vector subtraction D = A - B. -/
  | vsub (c : CoreId) (k : SlotId)
  /-- R132. Vector multiplication D = A x B. -/
  | vmul (c : CoreId) (k : SlotId)
  /-- R132. Fused multiply-add D = A x B + D with one rounding. -/
  | vfma (c : CoreId) (k : SlotId)
  /-- R57. Element-wise maximum of A and B. -/
  | vmax (c : CoreId) (k : SlotId)
  /-- R57. Element-wise minimum of A and B. -/
  | vmin (c : CoreId) (k : SlotId)
  /-- R56. Element-wise comparison writing 1 or 0 in INT8. -/
  | vcmp (c : CoreId) (k : SlotId)
  /-- R129. Writes converted B to D where the INT8 mask A is non-zero. -/
  | vsel (c : CoreId) (k : SlotId)
  /-- R132. Converts A to D's format, optionally applying E8M0 block scales from B. -/
  | vcvt (c : CoreId) (k : SlotId)
  /-- R132. Correctly rounded division D = A / B. -/
  | vdiv (c : CoreId) (k : SlotId)
  /-- R132. Correctly rounded square root of A. -/
  | vsqrt (c : CoreId) (k : SlotId)
  /-- R133. Evaluates a transcendental function of A in FP32. -/
  | vfunc (c : CoreId) (k : SlotId)
  /-- R133. Reduces each row of A over a fixed binary tree. -/
  | vred (c : CoreId) (k : SlotId)
  /-- R137. Forms dY times the activation derivative from the stored output. -/
  | vdact (c : CoreId) (k : SlotId)
  /-- R138. Forms dY times the activation derivative from the kept pre-activation. -/
  | vdpre (c : CoreId) (k : SlotId)
  /-- R134. Exact element-wise addition of long partials. -/
  | ladd (c : CoreId) (k : SlotId)
  /-- R134. Exact row sum of long partials. -/
  | lred (c : CoreId) (k : SlotId)
  /-- R135. Converts the exact sum of two long partials to FP32 or FP64 with an exponent adjustment. -/
  | lcvt (c : CoreId) (k : SlotId)
  /-- R136. Splits FP64 values into eight INT8 slice tensors and writes line exponents. -/
  | vsplit (c : CoreId) (k : SlotId)
  /-- R117. A vector command's last result is written, its FP64 flags are ORed and it signals. -/
  | vectorComplete (c : CoreId)
  /-- R168. Copies scratchpad rows to scratchpad rows. -/
  | mcopy (c : CoreId) (k : SlotId)
  /-- R169. Copies device memory to scratchpad in up to three dimensions. -/
  | mload (c : CoreId) (k : SlotId)
  /-- R169. Copies scratchpad to device memory in up to three dimensions. -/
  | mstore (c : CoreId) (k : SlotId)
  /-- R168. Gathers indexed memory rows into scratchpad rows. -/
  | mgather (c : CoreId) (k : SlotId)
  /-- R173. Scatters scratchpad rows to indexed memory rows in index-list order. -/
  | mscatter (c : CoreId) (k : SlotId)
  /-- R324. Sends scratchpad rows as one message on a ring once the ring has room. -/
  | msend (c : CoreId) (k : SlotId)
  /-- R325. Takes the next visible message of a ring into scratchpad rows. -/
  | mrecv (c : CoreId) (k : SlotId)
  /-- R163. Writes an open group to a scratchpad image and frees the group. -/
  | acfsave (c : CoreId) (k : SlotId)
  /-- R164. Opens a group from a scratchpad image. -/
  | acfload (c : CoreId) (k : SlotId)
  /-- R171. A mover command's last byte is written or accepted and it signals. -/
  | moverComplete (c : CoreId) (k : SlotId)
  /-- R174. An issued mover command meets an error, stops, halts its queue and records MOV_c_ERR_k. -/
  | moverError (c : CoreId) (k : SlotId) (code : BitVec 4) (row : Nat)
  /-- R144. A write of CORE_c_CTL.RESUME discards a slot's rejected command and resumes its halted queue. -/
  | coreResume (w : Path) (c : CoreId) (mask : BitVec 4)
  /-- R144. A write of CORE_c_CTL.HALT stops or restarts fetching for a slot. -/
  | coreHalt (w : Path) (c : CoreId) (mask : BitVec 4)
  /-- R140. A CORE_c_SWAP write with DIR 0 starts swapping a resident context out to its image. -/
  | swapOut (w : Path) (c : CoreId) (k : SlotId) (ext : ExtentId)
  /-- R141. A CORE_c_SWAP write with DIR 1 starts placing a swap image in a free slot. -/
  | swapIn (w : Path) (c : CoreId) (k : SlotId) (ext : ExtentId)
  /-- R140. A swap-out's image is written and the context's groups and window are freed. -/
  | swapOutDone (c : CoreId)
  /-- R141. A swap-in's image is restored and the context becomes runnable. -/
  | swapInDone (c : CoreId)
  /-- R260. A context's ko hold window ends. -/
  | koHoldEnd (c : CoreId)
  /-- R101. A write of ARY_c_CTL.HOLD stops or resumes the issue of passes. -/
  | aryHold (w : Path) (c : CoreId) (hold : Bool)
  /-- R101. A write of ARY_c_CTL.CLR_COUNTS clears the array counters. -/
  | aryClrCounts (w : Path) (c : CoreId)
  /-- R151. A write of VEC_c_CTL.CLR_COUNTS clears the vector counters. -/
  | vecClrCounts (w : Path) (c : CoreId)
  /-- R179. A write of MOV_c_CTL.RESUME discards a slot's failed mover command and resumes its queue. -/
  | movResume (w : Path) (c : CoreId) (mask : BitVec 4)
  /-- R160. The zeroing of scratchpad and accumulator file ends and INIT_BUSY clears. -/
  | scratchpadInitDone (c : CoreId)
  /-- R235. XMAP command that allocates FREE extents to an owner and starts clearing them. -/
  | allocate (w : Path) (d : DieId) (index : BitVec 17) (countM1 : BitVec 12)
  /-- R235. XMAP command that returns extents to FREE, or RETIRED when retirement is pending. -/
  | free (w : Path) (d : DieId) (index : BitVec 17) (countM1 : BitVec 12)
  /-- R235. XMAP command that clears loadable extents for a new load. -/
  | loadBegin (w : Path) (d : DieId) (index : BitVec 17) (countM1 : BitVec 12)
  /-- R245. XMAP command that compares digests and makes loaded extents VALID. -/
  | loadEnd (w : Path) (d : DieId) (index : BitVec 17) (countM1 : BitVec 12)
  /-- R235. XMAP command that makes VALID extents FROZEN. -/
  | freeze (w : Path) (d : DieId) (index : BitVec 17) (countM1 : BitVec 12)
  /-- R235. XMAP command that returns FROZEN extents to VALID. -/
  | thaw (w : Path) (d : DieId) (index : BitVec 17) (countM1 : BitVec 12)
  /-- R235. XMAP command that sets the generation number of WEIGHT extents. -/
  | setGen (w : Path) (d : DieId) (index : BitVec 17) (countM1 : BitVec 12)
  /-- R235. Firmware XMAP command that retires an extent at once or marks it pending. -/
  | retire (w : Path) (d : DieId) (index : BitVec 17) (countM1 : BitVec 12)
  /-- R236. A waiting map command proceeds once every access checked against the old entry has completed. -/
  | xmapWaitEnd (d : DieId)
  /-- R236. A map command's wait exceeds 10 ms and it fails with BUSY_TIMEOUT. -/
  | xmapBusyTimeout (d : DieId)
  /-- R233. An extent's clearing ends and it enters LOADING or VALID. -/
  | clearingDone (ext : ExtentId)
  /-- R251. A write takes a snapshot of an extent map entry. -/
  | xmapReadIdx (w : Path) (d : DieId) (index : BitVec 17)
  /-- R241. The patrol reads the next codeword, writing back corrected data. -/
  | patrolRead (k : StackId)
  /-- R247. A stack enters IDLE after 1 us without requests. -/
  | stackAutoIdle (k : StackId)
  /-- R247. A stack enters SELF_REFRESH once its in-flight requests complete. -/
  | selfRefreshEntry (k : StackId)
  /-- R247. A request arriving at an idle or self-refreshing stack brings it back to ACTIVE. -/
  | stackPowerExit (k : StackId)
  /-- R248. The logic die samples its sensors and applies refresh, rate and alarm actions. -/
  | stackTempSample (k : StackId) (temps : List (BitVec 8)) (logic : BitVec 8)
  /-- R243. The stack microcontroller's watchdog expires and FW_OK clears. -/
  | stackFwWatchdog (k : StackId)
  /-- R254. Partition command CREATE makes a FREE partition ACTIVE. -/
  | partCreate (w : Path) (p : PartId)
  /-- R254. Partition command DELETE makes an empty partition FREE. -/
  | partDelete (w : Path) (p : PartId)
  /-- R254. Partition command that gives an idle core to the partition after clearing it. -/
  | addCore (w : Path) (p : PartId) (core : BitVec 8)
  /-- R254. Partition command that swaps out, clears and idles a core. -/
  | removeCore (w : Path) (p : PartId) (core : BitVec 8)
  /-- R261. Partition command that lends a core to another partition. -/
  | lend (w : Path) (p : PartId) (core : BitVec 8) (target : BitVec 6)
  /-- R262. Partition command that asks for a lent core's return at the borrower's next boundary. -/
  | recallCore (w : Path) (p : PartId) (core : BitVec 8)
  /-- R262. The recall limit expires and the return is forced, posting event 13. -/
  | recallForced (p : PartId) (core : CoreId)
  /-- R254. Partition command that requests HELD from the next boundary. -/
  | hold (w : Path) (p : PartId)
  /-- R255. A partition with HOLD requested reaches its boundary and becomes HELD. -/
  | holdReached (p : PartId)
  /-- R254. Partition command that returns a HELD partition to ACTIVE. -/
  | release (w : Path) (p : PartId)
  /-- R256. Context command that copies a creation image into swap extents and homes the context. -/
  | ctxCreate (w : Path) (p : PartId) (ctx : BitVec 16) (core : BitVec 8) (ext : ExtentId)
  /-- R256. Context command that stops a context and ends its existence. -/
  | destroy (w : Path) (p : PartId) (ctx : BitVec 16)
  /-- R256. Context command that homes a swapped-out context on another core. -/
  | rehome (w : Path) (p : PartId) (ctx : BitVec 16) (core : BitVec 8)
  /-- R256. Context command that makes a swapped-out context runnable. -/
  | ctxWake (w : Path) (p : PartId) (ctx : BitVec 16)
  /-- R269. The step composer takes sequence commands and composes and publishes the next step. -/
  | stepCompose (p : PartId)
  /-- R277. A sequence still on a non-live generation after OLD_GEN_LIMIT is marked for pre-emption. -/
  | oldGenLimitExpiry (p : PartId)
  /-- R273. Generation command that starts loading a generation from its manifest. -/
  | stage (w : Path) (p : PartId) (gen : BitVec 24)
  /-- R273. Generation command that makes a castling pending for the next boundary. -/
  | castle (w : Path) (p : PartId) (gen : BitVec 24)
  /-- R273. Generation command that stops loading and frees a generation. -/
  | abandon (w : Path) (p : PartId) (gen : BitVec 24)
  /-- R274. Every 10 ms the hub retries freeing a drained generation's extents. -/
  | generationFreeRetry (p : PartId)
  /-- R278. A loading member reads a shard from storage over RoCE and forwards it along the chain. -/
  | shardRead (p : PartId) (shard : Nat)
  /-- R281. No byte of a shard arrives within LOADCFG.TIMEOUT and the shard fails. -/
  | shardTimeout (p : PartId) (shard : Nat)
  /-- R264. The banker moves a held partition to another device. -/
  | partitionMove (p : PartId) (target : DeviceId)
  /-- R289. A write of PL_n_CTL enables, disables or retrains a port. -/
  | plCtlWrite (w : Path) (n : PortId) (v : BitVec 32)
  /-- R288. Port training ends on a lane set and the port enters CHECK, or fails to DOWN. -/
  | trainDone (n : PortId) (lanes : List (Fin 16))
  /-- R289. A port in TRAIN for 20 ms enters DOWN. -/
  | trainTimeout (n : PortId)
  /-- R290. A port receives its partner's identity, mode and share digest and goes UP or DOWN. -/
  | checkExchange (n : PortId) (device : DeviceId) (port : BitVec 4) (mode : BitVec 2) (digest : BitVec 64)
  /-- R289. A port in CHECK for 1 ms enters DOWN. -/
  | checkTimeout (n : PortId)
  /-- R289. Every 100 ms a DOWN port retries training. -/
  | downRetrain (n : PortId)
  /-- R306. Light is lost on half or more active lanes for 1 us. -/
  | lightLoss (n : PortId)
  /-- R289. Light returns to a DOWN port and training starts at once. -/
  | lightReturn (n : PortId)
  /-- R294. A port receives a flit, checks CRC and FSEQ, and accepts it or discards and NAKs. -/
  | flitReceive (n : PortId) (flit : Flit)
  /-- R307. The egress arbiter sends the next flit of a set holding a credit, or an idle flit. -/
  | flitSend (n : PortId)
  /-- R302. The router selects an output port for a packet and forwards it. -/
  | packetForward (arrival : Option PortId) (pkt : Packet)
  /-- R329. A ring message or credit-return packet arrives and is checked and written to its ring. -/
  | ringMessagePacket (pkt : Packet)
  /-- R297. A bulk write packet arrives and is written to device memory after the map check. -/
  | bulkWritePacket (pkt : Packet)
  /-- R297. A write acknowledgement of a bulk transfer arrives at its source. -/
  | writeAckPacket (pkt : Packet)
  /-- R311. An error notice arrives and fails its transfer. -/
  | errorNoticePacket (pkt : Packet)
  /-- R313. Every 100 us an UP port sends a beacon to its partner. -/
  | beaconSend (n : PortId)
  /-- R314. A beacon arrives; time offset and link delay are computed and the time base slewed or stepped. -/
  | beaconReceive (n : PortId) (b : Beacon)
  /-- R306. No beacon arrives for 1 ms on an UP port and it enters DOWN. -/
  | beaconTimeout (n : PortId)
  /-- R311. A packet held 5 ms without an UP port is discarded with error notices. -/
  | heldPacketDiscard
  /-- R311. A destination holding a flow's packet 5 ms behind a gap declares the flow failed. -/
  | flowFailed (src : DeviceId) (job : BitVec 16)
  /-- R308. A write of PL_n_SHARE_i is checked and left pending for the partner. -/
  | shareTableWrite (w : Path) (n : PortId) (i : Fin 32) (v : BitVec 64)
  /-- R304. A write of FAB_CTL sets the device ID or changes mode, retraining every port. -/
  | fabCtlWrite (w : Path) (v : BitVec 64)
  /-- R318. A write selects a route entry and takes a snapshot into FAB_RT_READ. -/
  | fabRtIdx (w : Path) (v : BitVec 32)
  /-- R318. A write stores a route entry into all four die copies. -/
  | fabRtData (w : Path) (v : BitVec 64)
  /-- R328. A MESSAGE ring sends a credit return after 1 us or a quarter of its slots. -/
  | ringCreditReturn (r : RingId)
  /-- R218. A written shadow member is sent to the buddy's mirror shadow member. -/
  | mirrorSend (ext : ExtentId)
  /-- R347. Ring command ALLOCATE writes a ring context. -/
  | ringAllocate (w : Path) (ring : RingId)
  /-- R347. Ring command FREE frees a ring once nothing is in flight. -/
  | ringFree (w : Path) (ring : RingId)
  /-- R347. A ring FREE waits 10 ms and ends with BUSY_TIMEOUT. -/
  | ringFreeTimeout
  /-- R347. Ring command RESET zeroes counts, clears ERROR and discards slots. -/
  | ringReset (w : Path) (ring : RingId)
  /-- R347. Ring command that changes a ring's peer device and peer ring. -/
  | retarget (w : Path) (ring : RingId)
  /-- R348. A write takes a snapshot of a ring context. -/
  | ringReadIdx (w : Path) (ring : RingId)
  /-- R330. Turn-scoped rings are not drained 10 ms after the last seat completes, and the turn fails. -/
  | turnScopedTimeout (job : BitVec 16)
  /-- R336. Collective that reduces every seat's source on the seating-order tree to every seat. -/
  | allReduce (c : CoreId) (k : SlotId)
  /-- R336. Collective that leaves chunk s of the reduction at rank s. -/
  | reduceScatter (c : CoreId) (k : SlotId)
  /-- R337. Collective that gathers every seat's source in rank order. -/
  | allGather (c : CoreId) (k : SlotId)
  /-- R337. Collective that copies the root's source to every seat. -/
  | broadcast (c : CoreId) (k : SlotId)
  /-- R336. Collective that delivers the reduction to the root. -/
  | reduce (c : CoreId) (k : SlotId)
  /-- R337. Collective that exchanges blocks between all seats by rank. -/
  | allToAll (c : CoreId) (k : SlotId)
  /-- R337. Collective that completes only after every seat has called it. -/
  | barrier (c : CoreId) (k : SlotId)
  /-- R354. An OPEN packet is verified and answered with OPEN_ACK or REJECT. -/
  | dcpOpen (pkt : OpenPacket)
  /-- R359. DCP operation NOP keeps the session alive. -/
  | dcpNop (h : ReqHead)
  /-- R359. DCP operation that reads register words. -/
  | regRead (h : ReqHead) (o : DcpOp)
  /-- R359. DCP operation that writes register words in ascending order. -/
  | regWrite (h : ReqHead) (o : DcpOp)
  /-- R359. DCP operation that reads bytes of device memory. -/
  | memRead (h : ReqHead) (o : DcpOp)
  /-- R360. DCP operation that writes bytes of device memory. -/
  | memWrite (h : ReqHead) (o : DcpOp)
  /-- R362. DCP operation that produces a host message on a ring. -/
  | doorbell (h : ReqHead) (o : DcpOp)
  /-- R362. DCP operation that consumes a visible message on a host-consumed ring. -/
  | consume (h : ReqHead) (o : DcpOp)
  /-- R363. DCP operation that subscribes to or ends ring or telemetry notifications. -/
  | subscribe (h : ReqHead) (o : DcpOp)
  /-- R356. DCP operation CLOSE ends the session after its response. -/
  | dcpClose (h : ReqHead)
  /-- R361. A held out-of-order request unexecuted after 100 ms is dropped. -/
  | heldRequestExpiry (session : BitVec 32)
  /-- R356. No request arrives for the idle limit and the session closes. -/
  | sessionIdleExpiry (session : BitVec 32)
  /-- R363. A NOTIFY of a ring's counts is sent once the notify gap allows. -/
  | notifySend (session : BitVec 32) (ring : RingId)
  /-- R364. An inbound RDMA WRITE is checked and written into device memory. -/
  | rdmaWrite (pkt : RocePacket)
  /-- R364. An inbound RDMA READ is checked and answered from device memory. -/
  | rdmaRead (pkt : RocePacket)
  /-- R364. An inbound RoCE SEND is placed as a message on the QP's receive ring. -/
  | send (pkt : RocePacket)
  /-- R364. A read response or NAK arrives for a device-initiated RDMA READ. -/
  | readResponse (r : RoceResponse)
  /-- R365. A requester QP's acknowledgement timeout expires and it retries or fails. -/
  | ackTimeout (qp : RingId)
  /-- R366. A congestion notification packet lowers a QP's sending rate. -/
  | cnpReceive (qp : RingId)
  /-- R366. Every 55 us without a CNP the QP's congestion estimate decays. -/
  | alphaDecay (qp : RingId)
  /-- R366. Every t_inc without a CNP the QP's rate rises toward its target. -/
  | rateIncrease (qp : RingId)
  /-- R366. A priority pause frame is received and honoured. -/
  | pauseFrame (prio : BitVec 3) (on : Bool)
  /-- R350. An ARP, neighbour discovery or echo request is answered. -/
  | neighbourRequest (q : NeighbourFrame)
  /-- R367. An IEEE 1588 message updates the grandmaster offset and, at the time root, steers time. -/
  | ptpMessage (m : PtpMessage)
  /-- R367. No valid Sync arrives for 10 s and the device enters holdover. -/
  | ptpHoldover
  /-- R350. A write of HOST_CTL enables the port or changes speed and retrains it. -/
  | hostCtlWrite (w : Path) (v : BitVec 32)
  /-- R350. Host port training completes and the link comes up. -/
  | hostLinkUp
  /-- R493. A cage module is inserted and host training starts. -/
  | cageInsert
  /-- R493. The cage module is removed and the host link goes down. -/
  | cageRemove
  /-- R370. A write selects a peer table entry and takes a snapshot. -/
  | hostPeerIdx (w : Path) (v : BitVec 32)
  /-- R370. A write stores the three peer registers into the selected entry. -/
  | hostPeerMac (w : Path) (v : BitVec 64)
  /-- R372. Every 10 us the main input voltage is checked and limits or turn-off applied. -/
  | mainInputSample (mv : BitVec 16)
  /-- R375. A die whose target differs from its set point starts programming its idle PLL. -/
  | setPointChange (d : DieId)
  /-- R375. The idle PLL settles and the clock switches to it when droop allows. -/
  | pllSettled (d : DieId)
  /-- R378. A core's droop detector trips and the die's clock is stretched. -/
  | droopTrip (c : CoreId)
  /-- R378. Every detector has released for 32 stretched cycles and the droop flag clears. -/
  | droopRelease (d : DieId)
  /-- R381. Every 100 us the power controller cuts or raises a class level against the caps. -/
  | capEvaluation (measured : BitVec 16)
  /-- R382. Every class is at its floor and a cap is exceeded for 10 ms. -/
  | capUnmet
  /-- R385. Every 10 us junction sensors are read and each die's THERMAL limit adjusted. -/
  | thermalSample (temps : List (Option (BitVec 8)))
  /-- R386. A sensor stays at 105 C for 100 ms and every main rail turns off. -/
  | thermalTrip
  /-- R388. A device becoming throttled, or changing RATE, sends a pace notice. -/
  | paceNoticeSend (p : PartId)
  /-- R388. While throttled, the pace notice is repeated every 1 ms. -/
  | paceNoticeRepeat (p : PartId)
  /-- R388. After 1 ms unthrottled the device sends a release notice. -/
  | releaseNoticeSend (p : PartId)
  /-- R391. A pace or release notice is received and the PACE limit recomputed. -/
  | paceNoticeReceive (n : PaceNotice)
  /-- R391. A pace notice with no newer notice for 5 ms expires. -/
  | paceNoticeExpiry (device : DeviceId) (job : BitVec 16)
  /-- R393. Every 10 us each rail's energy is estimated and charged to accounts. -/
  | energyEstimate (charges : List (BitVec 6 × Account × BitVec 64))
  /-- R394. Every 1 ms charges are scaled to measured energy and the pip counters advance. -/
  | energyReconcile (measured : List (BitVec 32))
  /-- R396. A write takes a snapshot of a rail's energy. -/
  | pwrRailIdx (w : Path) (v : BitVec 32)
  /-- R396. A write takes a snapshot of a ring's pip counter. -/
  | pwrRingIdx (w : Path) (v : BitVec 32)
  /-- R398. A write takes a snapshot of a sensor's temperature. -/
  | thmIdx (w : Path) (v : BitVec 32)
  /-- R401. A fault source raises an error, which is latched and captured. -/
  | faultRaise (src : Fin 4096) (code : BitVec 8) (detail : BitVec 64) (req : Option PartId)
  /-- R400. A source pair holds equal levels for two hub cycles and a wire fault is captured. -/
  | wireFault (src : Fin 4096)
  /-- R403. Loaded-dice force bit that drives a source to the error state. -/
  | force (w : Path)
  /-- R403. Loaded-dice force bit that drives a source pair to a wire fault. -/
  | forceWire (w : Path)
  /-- R427. A write selects the source for FLT_SRC_CFG and FLT_SRC_STATE. -/
  | fltSrcIdx (w : Path) (v : BitVec 32)
  /-- R427. A write takes a snapshot of an error log entry. -/
  | fltLogIdx (w : Path) (v : BitVec 32)
  /-- R427. A write takes a snapshot of a dump slot's status. -/
  | fltDumpIdx (w : Path) (v : BitVec 32)
  /-- R411. A write of FLT_RESET starts a reset of the named domain after a dump. -/
  | domainReset (w : Path) (v : BitVec 32)
  /-- R410. A domain reset ends and its blocks run again. -/
  | resetDone
  /-- R408. A unit's oldest command reaches the hang limit and its source raises. -/
  | hourglassTimerExpiry (c : CoreId) (unit : Fin 3)
  /-- R409. A partition stays in stalemate for the limit and its source raises. -/
  | stalemateDetected (p : PartId)
  /-- R422. Fence command that fences a core and hands its seat to a reserve. -/
  | fence (w : Path) (core : BitVec 8)
  /-- R423. Fence command that removes a core from the fence map. -/
  | clear (w : Path) (core : BitVec 8)
  /-- R219. A device meeting every ready condition reports ready for the turn. -/
  | readyReportSend (job : BitVec 16)
  /-- R219. Every 1 ms the ready report is repeated until a notice arrives. -/
  | readyRepeat (job : BitVec 16)
  /-- R220. The banker receives a ready report and decides the commit once all have arrived. -/
  | ready (m : BankerMsg)
  /-- R220. The standby records the active banker's commit or failure decision and acknowledges. -/
  | decision (m : BankerMsg)
  /-- R466. An acknowledgement arrives, admitting a member or releasing a recorded decision. -/
  | ack (m : BankerMsg)
  /-- R220. A device applies a commit notice, advancing the turn numbers of the job's partitions. -/
  | commit (m : BankerMsg)
  /-- R220. A device has not reported ready within the ready limit and the banker fails the turn. -/
  | readyLimitExpiry (job : BitVec 16)
  /-- R220. No commit is decided within the turn limit and the banker fails the turn. -/
  | turnLimitExpiry (job : BitVec 16)
  /-- R415. The banker receives a device's failure report and answers with a failure notice. -/
  | failureReport (m : BankerMsg)
  /-- R417. A device applies a failure notice, stopping the job's contexts and resetting turn rings. -/
  | failureNotice (m : BankerMsg)
  /-- R417. Once stopped commands end, the device reports quiesced. -/
  | quiesceReportSend (job : BitVec 16)
  /-- R416. The banker receives quiesce reports and sends the replay notice once all are in. -/
  | quiesced (m : BankerMsg)
  /-- R416. A device not quiesced within 1 s of the failure notice is failed. -/
  | quiesceTimeout (job : BitVec 16)
  /-- R418. A device applies a replay notice, restoring every context from its entry image. -/
  | replay (m : BankerMsg)
  /-- R425. The banker replaces a failed device with a spare. -/
  | spareSubstitution (job : BitVec 16) (failed spare : DeviceId)
  /-- R312. The banker receives a partner report about a DOWN port. -/
  | partner (m : BankerMsg)
  /-- R465. A device holds every partition of the job and posts event 4. -/
  | jobEnd (m : BankerMsg)
  /-- R466. A banker ANNOUNCE is received and followed, stepped down from or recorded. -/
  | announce (m : BankerMsg)
  /-- R467. A HEARTBEAT is received from a member, standby or active banker. -/
  | heartbeat (m : BankerMsg)
  /-- R466. Every 100 ms in election an eligible device sends a candidate ANNOUNCE. -/
  | candidateAnnounce
  /-- R466. ELECT_MS passes without admission and the candidates rank themselves. -/
  | electionTimeout
  /-- R467. Every HB_MS a device sends its HEARTBEAT. -/
  | heartbeatSend
  /-- R467. No HEARTBEAT arrives for MISS periods; the device is failed and a standby may take over. -/
  | heartbeatMiss (device : DeviceId)
  /-- R473. A write selects a member entry and takes a snapshot. -/
  | bnkMemberIdx (w : Path) (v : BitVec 32)
  /-- R473. A write stores the selected member entry. -/
  | bnkMember (w : Path) (v : BitVec 64)
  /-- R440. Firmware command that erases and writes the inactive slot from the staging window. -/
  | write (w : Path) (comp : Fin 7)
  /-- R440. Firmware command STAGE that marks the written slot STAGED. -/
  | stageImage (w : Path) (comp : Fin 7)
  /-- R440. Firmware command that empties the inactive slot. -/
  | discard (w : Path) (comp : Fin 7)
  /-- R440. Firmware command COMMIT that raises the component's anti-rollback counter. -/
  | fwCommit (w : Path) (comp : Fin 7)
  /-- R450. A write takes a snapshot of a firmware slot's state. -/
  | secFwSlotIdx (w : Path) (v : BitVec 32)
  /-- R450. A write takes a snapshot of an anti-rollback counter. -/
  | secCounterIdx (w : Path) (v : BitVec 32)
  /-- R434. Attestation command that writes a signed report to the system extent. -/
  | report (w : Path)
  /-- R433. Attestation command that extends a measurement register with the nonce. -/
  | extend (w : Path) (index : BitVec 4)
  /-- R432. An entropy health test fails and the security engine's source raises. -/
  | entropyHealthFail
  /-- R446. Position command that stores a position from the staging window into a slot. -/
  | store (w : Path) (slot : BitVec 3) (source : BitVec 22)
  /-- R446. Position command that puts a stored position in force on trial. -/
  | activate (w : Path) (slot : BitVec 3)
  /-- R446. Position command that makes the trial position ACTIVE. -/
  | settle (w : Path)
  /-- R446. Position command that returns to the previous position. -/
  | takeBack (w : Path)
  /-- R446. Position command that empties a position slot. -/
  | erase (w : Path) (slot : BitVec 3)
  /-- R451. A write takes a snapshot of a position slot. -/
  | cfgSlotIdx (w : Path) (v : BitVec 32)
  /-- R448. The trial window ends without SETTLE and the device takes back. -/
  | trialExpiry
  /-- R459. Every 100 us the hourglass unit samples sensors, filters them and evaluates its rules. -/
  | hguSample (readings : List (Option (BitVec 16)))
  /-- R471. A write of HGU_CTL.WAKE wakes the module unless a shutdown rule is active. -/
  | wake (w : Path)
  /-- R471. A write of HGU_CTL.SHUTDOWN turns off every main rail. -/
  | shutdown (w : Path)
  /-- R471. A write takes a snapshot of a sensor's filtered and raw values. -/
  | hguSensorIdx (w : Path) (v : BitVec 32)
  /-- R461. Every telemetry period a NOTIFY goes to subscribed management sessions. -/
  | telemetryNotify
  /-- R455. The I3C target takes a dynamic address. -/
  | i3cEntdaa (addr : BitVec 7)
  /-- R455. An I3C private read returns the HGU page and TIME_NOW. -/
  | i3cPrivateRead (len : Nat)
  /-- R455. An I3C private write of 0x01 acts as a wake. -/
  | i3cWake
  /-- R455. An I3C private write of 0x02 acts as a shutdown. -/
  | i3cShutdown
  /-- R472. A write takes a snapshot of a journal entry. -/
  | jnlReadIdx (w : Path) (v : BitVec 32)
  /-- R474. A write steps the time base when its source is the oscillator. -/
  | timeSet (w : Path) (v : BitVec 64)
  /-- R498. Auxiliary power arrives; the hourglass unit starts and the time base counts from 0. -/
  | auxPowerUp
  /-- R501. Auxiliary power is lost; main rails turn off and volatile state is lost. -/
  | auxPowerLoss
  /-- R498. The main input stays in range for 10 ms and MAIN_PRESENT is set. -/
  | mainPresent
  /-- R503. Main power is lost and every main rail turns off within 50 us. -/
  | mainPowerLoss
  /-- R494. 10 ms after auxiliary power is in range the management PHY resets are released. -/
  | phyResetRelease
  /-- R8. A write to a register that has no row of its own sets its fields under their access codes. -/
  | registerWrite (w : Path) (addr : BitVec 32) (v : BitVec 64)
  /-- R376. A step up whose PLL settled while the droop flag was set switches to the new PLL once the flag has been clear for 64 array cycles. -/
  | deferredSwitch (d : DieId)
  /-- R371. The host port loses its link with the cage module still present, and HOST_STATUS.LINK falls to 0. -/
  | hostLinkDown
  /-- R471. A management port's SGMII link to its PHY comes up or goes down, changing HGU_MGT_n_STATUS.LINK. -/
  | managementLinkChange (n : Fin 2) (up : Bool)
  /-- R455. A JTAG TAP operation runs IEEE 1149.1 boundary scan, IDCODE or BYPASS. -/
  | boundaryScan (op : TapOp)
deriving DecidableEq, Repr

end Sys2Proof
end

