-- ==== Sys2Proof/Decode.lean ====
section
/-! DEFINITION. The command that a word of the opcode table spells: the table gives no row any bits,
so no word spells a command (spec 98_reader). -/

namespace Sys2Proof

/-- The command of a word numbered as spec/opcode_table.json numbers it: none, since no row of the
table has bits. -/
def decodeTableWord (_nbits _w : Nat) : Option Instr := none

end Sys2Proof
end

