-- ==== Sys2Proof/Machine/Table.lean ====
section
/-! DEFINITION. Sparse tables: lists of key and value with keys strictly rising, and the byte tables
built on them. They hold the register file, device memory, the on-die memories and every table of
the device that is indexed by a number. -/

namespace Sys2Proof.Machine

/-- A sparse table. -/
abbrev Table (α : Type) := List (Nat × α)

/-- The entry at key k. -/
def tFind {α : Type} (k : Nat) : Table α → Option α
  | [] => none
  | (j, v) :: t => if j = k then some v else tFind k t

/-- The entry at key k, or what an unlisted key holds. -/
def tGet {α : Type} (d : α) (t : Table α) (k : Nat) : α := (tFind k t).getD d

/-- Enters v at key k, in order, in place of an entry that is there. -/
def tPut {α : Type} (k : Nat) (v : α) : Table α → Table α
  | [] => [(k, v)]
  | (j, u) :: t =>
    if k < j then (k, v) :: (j, u) :: t
    else if j = k then (k, v) :: t
    else (j, u) :: tPut k v t

/-- Takes the entry at key k out. -/
def tDel {α : Type} (k : Nat) (t : Table α) : Table α := t.filter fun e => decide (e.1 ≠ k)

/-- Sets the entry at key k in a table whose unlisted keys hold d: d itself is never listed. -/
def tSet {α : Type} [DecidableEq α] (d : α) (k : Nat) (v : α) (t : Table α) : Table α :=
  if v = d then tDel k t else tPut k v t

/-- Takes out every entry with lo ≤ key < lo + n. -/
def tDelRange {α : Type} (lo n : Nat) (t : Table α) : Table α :=
  t.filter fun e => !(decide (lo ≤ e.1) && decide (e.1 < lo + n))

/-- Changes the entry at key k with f, in a table whose unlisted keys hold d. -/
def tMod {α : Type} [DecidableEq α] (d : α) (k : Nat) (f : α → α) (t : Table α) : Table α :=
  tSet d k (f (tGet d t k)) t

/-- The keys are strictly rising, the first above lo (none: no bound). -/
def tRising {α : Type} : Option Nat → Table α → Bool
  | _, [] => true
  | lo, (j, _) :: t => (match lo with | none => true | some b => decide (b < j)) && tRising (some j) t

/-- A byte table: a memory whose unlisted bytes read as 0. -/
abbrev Bytes := Table Byte

/-- Reads one byte. -/
def bGet (t : Bytes) (a : Nat) : Byte := tGet 0 t a

/-- Writes one byte. -/
def bSet (a : Nat) (b : Byte) (t : Bytes) : Bytes := tSet 0 a b t

/-- Reads n bytes from a upward. -/
def bRead (t : Bytes) (a n : Nat) : List Byte := (List.range n).map fun i => bGet t (a + i)

/-- Writes bytes from a upward. -/
def bWrite (a : Nat) (l : List Byte) (t : Bytes) : Bytes :=
  match l with
  | [] => t
  | b :: r => bWrite (a + 1) r (bSet a b t)

/-- Little-endian value of bytes (R7). -/
def leNat : List Byte → Nat
  | [] => 0
  | b :: r => b.toNat + 256 * leNat r

/-- The n bytes of a value, little-endian (R7). -/
def leBytes : Nat → Nat → List Byte
  | 0, _ => []
  | n + 1, v => BitVec.ofNat 8 v :: leBytes n (v / 256)

/-- Little-endian value of the n bytes at a. -/
def bNat (t : Bytes) (a n : Nat) : Nat := leNat (bRead t a n)

/-- Bits [lo + w - 1 : lo] of a number. -/
def bits (v lo w : Nat) : Nat := v / 2 ^ lo % 2 ^ w

/-- v with bits [lo + w - 1 : lo] set to x. -/
def setBits (v lo w x : Nat) : Nat :=
  v - bits v lo w * 2 ^ lo + x % 2 ^ w * 2 ^ lo

/-- One bit of a number as a Bool. -/
def bitAt (v i : Nat) : Bool := v / 2 ^ i % 2 == 1

/-- 1 for true, 0 for false. -/
def b2n (b : Bool) : Nat := if b then 1 else 0

end Sys2Proof.Machine
end

