-- ==== Sys2Proof/Machine/Sha3.lean ====
section
/-! DEFINITION. SHA3-512, which the spec names without defining (15_security_firmware, R463):
PRESUMED from FIPS 202 (log 10). A state is five planes, y = 0 to 4, of five 64-bit words each, x = 0 to 4. -/

namespace Sys2Proof.Machine

/-- A word of the sponge's state. -/
abbrev SpongeWord := BitVec 64
/-- The sponge's state, by planes. -/
abbrev Sponge := List (List SpongeWord)

/-- A list moved round by n places. -/
def turned (n : Nat) (l : List SpongeWord) : List SpongeWord := l.drop n ++ l.take n

/-- The exclusive or of two lists of words, word by word. -/
def mixed (a b : List SpongeWord) : List SpongeWord := List.zipWith (fun x y => x ^^^ y) a b

/-- The linear feedback register of the round constants after t steps. -/
def constantRegister : Nat → Nat
  | 0 => 1
  | t + 1 =>
    let x := 2 * constantRegister t
    if x < 256 then x else x ^^^ 0x171

/-- The constant of round i: bit 2^j - 1 is the register's lowest bit after 7 i + j steps. -/
def roundConstant (i : Nat) : SpongeWord :=
  BitVec.ofNat 64 ((List.range 7).foldl (fun s j => s + constantRegister (7 * i + j) % 2 * 2 ^ (2 ^ j - 1)) 0)

/-- By how much the words turn left that a walk of n further steps from (x, y) visits, its first step being the t-th. -/
def turnsFrom : Nat → Nat → Nat → Nat → List ((Nat × Nat) × Nat)
  | 0, _, _, _ => []
  | n + 1, t, x, y => ((x, y), (t + 1) * (t + 2) / 2 % 64) :: turnsFrom n (t + 1) y ((2 * x + 3 * y) % 5)

/-- The turn of the word at (x, y); the word at (0, 0) does not turn. -/
def turnAt (x y : Nat) : Nat := (((turnsFrom 24 0 1 0).find? fun e => e.1 == (x, y)).map fun e => e.2).getD 0

/-- Each column takes in the parity of its two neighbours. -/
def spreadParity (s : Sponge) : Sponge :=
  let p := s.foldl mixed (List.replicate 5 0)
  let e := mixed (turned 4 p) ((turned 1 p).map fun w => w.rotateLeft 1)
  s.map (mixed e)

/-- The word that plane v holds at u after the words have turned and changed places. -/
def movedWord (s : Sponge) (u v : Nat) : SpongeWord :=
  let x := (u + 3 * v) % 5
  ((s.getD u []).getD x 0).rotateLeft (turnAt x u)

/-- A plane after its nonlinear step. -/
def bentPlane (p : List SpongeWord) : List SpongeWord :=
  mixed p (List.zipWith (fun x y => (~~~ x) &&& y) (turned 1 p) (turned 2 p))

/-- One round of the permutation. -/
def spongeRound (s : Sponge) (i : Nat) : Sponge :=
  let t := spreadParity s
  let planes := (List.range 5).map fun v => bentPlane ((List.range 5).map fun u => movedWord t u v)
  (planes.take 1).map (mixed (roundConstant i :: List.replicate 4 0)) ++ planes.drop 1

/-- The permutation: 24 rounds. -/
def permuted (s : Sponge) : Sponge := (List.range 24).foldl spongeRound s

/-- The nine words of a 72-byte block, laid over the state's first two planes. -/
def blockPlanes (l : List Byte) : Sponge :=
  let w := (List.range 9).map fun i => BitVec.ofNat 64 (leNat ((l.drop (8 * i)).take 8))
  [w.take 5, w.drop 5 ++ [0]] ++ List.replicate 3 (List.replicate 5 0)

/-- The state after n more blocks of a padded message. -/
def taken : Nat → List Byte → Sponge → Sponge
  | 0, _, s => s
  | n + 1, l, s => taken n (l.drop 72) (permuted (List.zipWith mixed s (blockPlanes l)))

/-- The padding of a message of n bytes: suffix 01 and the two ends of 10*1. -/
def shaPad (n : Nat) : List Byte :=
  match 71 - n % 72 with
  | 0 => [0x86]
  | k + 1 => 0x06 :: (List.replicate k 0 ++ [0x80])

/-- SHA3-512: 64 bytes. -/
def sha3 (l : List Byte) : List Byte :=
  let m := l ++ shaPad l.length
  let words := (taken (m.length / 72) m (List.replicate 5 (List.replicate 5 0))).flatten
  (List.range 8).flatMap fun i => leBytes 8 (words.getD i 0).toNat

end Sys2Proof.Machine
end

