-- ==== Sys2Proof/Config.lean ====
section
/-! DEFINITION. The free values: what the spec leaves open and the device nevertheless produces.
Each is an opaque constant, so no proof can see which value it takes (log 5). -/

namespace Sys2Proof

/-- Bits of an FP32 activation of R94 (ACT codes 4 to 9) at an FP32 argument (R95: the algorithms
are not published). -/
opaque Config.actBits : Nat → BitVec 32 → BitVec 32
/-- Bits of the FP32 natural logarithm of a positive finite argument (R133). -/
opaque Config.lnBits : BitVec 32 → BitVec 32
/-- Bits of the FP32 reciprocal square root of a positive finite argument (R133). -/
opaque Config.rsqrtBits : BitVec 32 → BitVec 32
/-- Bits of the FP32 derivative of an activation of R94 (codes 4 to 9) at a finite argument (R138). -/
opaque Config.derivBits : Nat → BitVec 32 → BitVec 32

/-- A fresh 64-bit value for the count of free values drawn so far: session numbers, nonces and
other values the spec calls random (R354, R432). -/
opaque Config.fresh : Nat → BitVec 64
/-- A byte the spec leaves open, for the count of free values drawn so far. -/
opaque Config.freeByte : Nat → BitVec 8
/-- A byte of the secret that a ciphertext decapsulates to under the session key: ML-KEM-1024 is named and not defined (R353,
R354). -/
opaque Config.sharedSecret : BitVec 12544 → Nat → BitVec 8
/-- Public keys of the holders of certificates, 0 root to 4 firmware key (R429, R431): 2,592 bytes for ML-DSA-87, 1,568 for
ML-KEM-1024. -/
opaque Config.publicKey : Nat → Nat → BitVec 8
/-- The signature of a certificate by its issuer's key (R431). -/
opaque Config.certSignature : Nat → Nat → BitVec 8
/-- The serial number of the factory data (R429, R450). -/
opaque Config.serial : BitVec 64
/-- The MAC address of the factory data (R350). -/
opaque Config.mac : BitVec 48
/-- Millivolts of a compute die at a set point, calibrated at the factory (R374). -/
opaque Config.voltage : Nat → Nat → BitVec 16
/-- Whether SIGNER is a root digest and SIGNATURE verifies over D, for the bytes of an image (R439). -/
opaque Config.imageSigned : List (BitVec 8) → Bool
/-- Whether KEM_CT decapsulates and WRAPPED_KEY's tag verifies, for the bytes of an image (R439). -/
opaque Config.imageKey : List (BitVec 8) → Bool
/-- Whether the payload's tag verifies, for the bytes of an image (R439). -/
opaque Config.imageTag : List (BitVec 8) → Bool
/-- LEVEL of the image of a component as it leaves the factory. -/
opaque Config.factoryLevel : Nat → BitVec 16
/-- Whether the factory image of a component accepts a level of another. -/
opaque Config.factoryAccepts : Nat → Nat → BitVec 16 → Bool
/-- The signed digest D of a component's factory image, by byte (R433, R437). -/
opaque Config.factoryDigest : Nat → Nat → BitVec 8
/-- Signature bytes of the security engine, for the bytes signed and a byte's place (R434). -/
opaque Config.signature : List (BitVec 8) → Nat → BitVec 8

/-- The DRAM row of a line among the rows of its extent in a pseudo-channel, and its bank (R223, R227). -/
opaque Config.dramRow : Nat → BitVec 16
/-- See Config.dramRow. -/
opaque Config.dramBank : Nat → BitVec 6

/-- The device of a member of a loading group, by generation and number: the spec gives the manifest no field
for it (R278, R279). -/
opaque Config.memberDevice : Nat → Nat → BitVec 20
/-- The first extent of a shard on a member, by generation, number and shard (R278, R279). -/
opaque Config.memberExtent : Nat → Nat → Nat → BitVec 19

/-- The buddy that installation software's own map gives a device of a job, if it gives one (R217). -/
opaque Config.buddyMap : Nat → Nat → Option (BitVec 20)
/-- The mirror on the buddy of an extent of a device, by job, device and extent, and the extent that a mirror of this device
mirrors: the spec gives the device no register for them (R217, R218). -/
opaque Config.mirrorExtent : Nat → Nat → Nat → BitVec 19
/-- See Config.mirrorExtent. -/
opaque Config.mirroredExtent : Nat → Nat → BitVec 19

/-- Watts that the calibrated coefficients give for one level of a class, 0 links, 1 memory, 2 compute, of a die at a
level (R381, R393). -/
opaque Config.levelWatts : Nat → Nat → Nat → BitVec 16
/-- The devices of a job in seat order: installation software gives them to the banker, and the spec names no
register for them (R469). -/
opaque Config.jobDevices : Nat → List (BitVec 20)
/-- Extra reads that the seed takes at a boot, by boot count; 3 or more: it cannot be reconstructed (R430). -/
opaque Config.seedRetries : Nat → Nat
/-- Whether a core passes built-in self-test, by core and boot count (R19). -/
opaque Config.selfTest : Nat → Nat → Bool
/-- IDCODE of the TAP, and what boundary scan captures (R455). -/
opaque Config.idcode : BitVec 32
/-- The CHECK of the factory position, by byte (R433, R445). -/
opaque Config.factoryCheck : Nat → BitVec 8
/-- SVN of the image of a component as it leaves the factory. -/
opaque Config.factorySvn : Nat → BitVec 32

end Sys2Proof
end

