-- ==== Sys2Proof/Machine/Flags.lean ====
section
/-! DEFINITION. Flags that arithmetic leaves: the FP64 exception flags of kfpflags (04_core_engines
R111, 02_number_formats R38) and the flags of long words (03_two_way_array R87). Which operation
sets which is in Num.lean (encodeVal, the operations on Val, Long.add) and Vector.lean. -/

namespace Sys2Proof.Machine

/-- Exception flags of FP64, as the bits of kfpflags (R111). -/
def flagNX : Nat := 1
/-- Underflow. -/
def flagUF : Nat := 2
/-- Overflow. -/
def flagOF : Nat := 4
/-- Division by zero. -/
def flagDZ : Nat := 8
/-- Invalid. -/
def flagNV : Nat := 16

/-- Flags of a long word (R87). -/
def lfNan : Nat := 1
/-- A +∞ contribution. -/
def lfPos : Nat := 2
/-- A −∞ contribution. -/
def lfNeg : Nat := 4
/-- A product above the window was dropped. -/
def lfAbove : Nat := 8
/-- A product below the window was flushed. -/
def lfFlushed : Nat := 16
/-- V saturated. -/
def lfRange : Nat := 32

/-- Flags are sticky: new ones are ORed in (R38, R85, R111). -/
def orFlags (old : BitVec 5) (new : Nat) : BitVec 5 := old ||| BitVec.ofNat 5 new

end Sys2Proof.Machine
end

