-- ==== Sys2Proof/Machine/Num.lean ====
section
/-! DEFINITION. Number formats and their arithmetic (02_number_formats R29 to R58), the long partial
(03_two_way_array R82 to R88, 04_core_engines R134) and the generator of stochastic rounding
(06_determinism R194). Operands are decoded to exact values, computed exactly, and rounded once. -/

namespace Sys2Proof.Machine

/-- Element formats, by the codes of R121. -/
inductive Fmt where
  | e4m3
  | e5m2
  | int8
  | fp4
  | int4
  | bf16
  | fp16
  | fp32
  | long
  | fp64
  | e8m0
  | int32
deriving DecidableEq, Repr

/-- The format of a code of R121; none for the reserved codes and for 15 (absent). -/
def Fmt.ofCode : Nat → Option Fmt
  | 0 => some .e4m3
  | 1 => some .e5m2
  | 2 => some .int8
  | 3 => some .fp4
  | 4 => some .int4
  | 5 => some .bf16
  | 6 => some .fp16
  | 7 => some .fp32
  | 8 => some .long
  | 9 => some .fp64
  | 10 => some .e8m0
  | 11 => some .int32
  | _ => none

/-- The width of an element in bits (R30 to R32, R87, R121). -/
def Fmt.bits : Fmt → Nat
  | .e4m3 => 8
  | .e5m2 => 8
  | .int8 => 8
  | .fp4 => 4
  | .int4 => 4
  | .bf16 => 16
  | .fp16 => 16
  | .fp32 => 32
  | .long => 128
  | .fp64 => 64
  | .e8m0 => 8
  | .int32 => 32

/-- Layout and limits of a floating-point format (R30): mantissa bits, bias, exponent bits, the
largest finite magnitude maxM × 2^maxE, whether subnormals are flushed (R36, R37), the canonical NaN. -/
structure FloatFmt where
  mant : Nat
  bias : Nat
  ebits : Nat
  maxM : Nat
  maxE : Int
  flush : Bool
  nan : Nat
deriving DecidableEq, Repr

/-- The floating-point formats of R30. -/
def Fmt.float : Fmt → Option FloatFmt
  | .e4m3 => some ⟨3, 7, 4, 14, 5, false, 0x7F⟩
  | .e5m2 => some ⟨2, 15, 5, 7, 13, false, 0x7E⟩
  | .fp4 => some ⟨1, 1, 2, 3, 1, false, 0⟩
  | .bf16 => some ⟨7, 127, 8, 255, 120, true, 0x7FC0⟩
  | .fp16 => some ⟨10, 15, 5, 2047, 5, true, 0x7E00⟩
  | .fp32 => some ⟨23, 127, 8, 2 ^ 24 - 1, 104, true, 0x7FC00000⟩
  | .fp64 => some ⟨52, 1023, 11, 2 ^ 53 - 1, 971, false, 0x7FF8000000000000⟩
  | _ => none

/-- A value: NaN, an infinity, or (−1)^s × m × 2^e, exactly; m = 0 is a zero of sign s. -/
inductive Val where
  | nan
  | inf (s : Bool)
  | fin (s : Bool) (m : Nat) (e : Int)
deriving DecidableEq, Repr

/-- The value of a small integer. -/
def Val.ofInt (x : Int) : Val := .fin (decide (x < 0)) x.natAbs 0

/-- Two's-complement value of the low w bits of n. -/
def sext (n w : Nat) : Int :=
  let x := n % 2 ^ w
  if x < 2 ^ (w - 1) then (x : Int) else (x : Int) - (2 ^ w : Nat)

/-- The low w bits of an integer in two's complement. -/
def toBits (x : Int) (w : Nat) : Nat := (x % ((2 ^ w : Nat) : Int)).toNat

/-- Decodes a floating-point encoding (R29, R30, R35, R36). -/
def decodeFloat (f : Fmt) (p : FloatFmt) (n : Nat) : Val :=
  let s := bitAt n (p.mant + p.ebits)
  let e := Machine.bits n p.mant p.ebits
  let m := Machine.bits n 0 p.mant
  let top := 2 ^ p.ebits - 1
  if e = top ∧ f ≠ .fp4 ∧ f ≠ .e4m3 then
    if m = 0 then .inf s else .nan
  else if f = .e4m3 ∧ e = top ∧ m = 7 then .nan
  else if e = 0 then
    if p.flush then .fin s 0 0 else .fin s m (1 - p.bias - p.mant)
  else .fin s (2 ^ p.mant + m) ((e : Int) - p.bias - p.mant)

/-- Decodes an element of a format that has values (R29 to R32, R36). -/
def decodeVal (f : Fmt) (n : Nat) : Val :=
  match f.float with
  | some p => decodeFloat f p n
  | none =>
    match f with
    | .int8 => Val.ofInt (sext n 8)
    | .int4 => Val.ofInt (sext n 4)
    | .int32 => Val.ofInt (sext n 32)
    | .e8m0 => if n % 256 = 255 then .nan else .fin false 1 ((n % 256 : Nat) - 127)
    | _ => .nan

/-- A signalling NaN of FP64 (R39). -/
def isSNaN64 (n : Nat) : Bool :=
  Machine.bits n 52 11 == 2047 && Machine.bits n 0 52 != 0 && !bitAt n 51

/-- Rounding modes of a conversion (R46, R47, R131); the stochastic mode carries its random value. -/
inductive Rnd where
  | rne
  | stoch (r : Nat)
  | rtz
  | rtp
  | rtn
deriving DecidableEq, Repr

/-- Rounds m × 2^e of sign s to a multiple n × 2^q, answering n and whether it is inexact (R46, R47). -/
def roundMag (rnd : Rnd) (s : Bool) (m : Nat) (e q : Int) : Nat × Bool :=
  if q ≤ e then (m * 2 ^ (e - q).toNat, false)
  else
    let sh := (q - e).toNat
    let t := m / 2 ^ sh
    let r := m % 2 ^ sh
    let up : Bool := match rnd with
      | .rne => decide (2 ^ sh < 2 * r) || (decide (2 * r = 2 ^ sh) && decide (t % 2 = 1))
      | .stoch x => decide (65536 ≤ r * 65536 / 2 ^ sh + x)
      | .rtz => false
      | .rtp => decide (r ≠ 0) && !s
      | .rtn => decide (r ≠ 0) && s
    (if up then t + 1 else t, decide (r ≠ 0))

/-- Compares two magnitudes m1 × 2^e1 < m2 × 2^e2. -/
def ltMag (m1 : Nat) (e1 : Int) (m2 : Nat) (e2 : Int) : Bool :=
  let e := min e1 e2
  decide (m1 * 2 ^ (e1 - e).toNat < m2 * 2 ^ (e2 - e).toNat)

/-- An encoded result: its bits, the FP64 flags of its rounding (R38) and whether an invalid
conversion is counted (R51). -/
structure Enc where
  bits : Nat
  flags : Nat := 0
  invalid : Bool := false
deriving DecidableEq, Repr

/-- Encodes a finite non-zero magnitude n × 2^q that fits the format (R29). -/
def encodeFin (p : FloatFmt) (s : Bool) (n : Nat) (q : Int) : Nat :=
  let sign := b2n s * 2 ^ (p.mant + p.ebits)
  if n = 0 then sign else
  let l : Int := (Nat.log2 n : Int) + q
  if l < 1 - (p.bias : Int) then
    sign + n * 2 ^ (q - (1 - (p.bias : Int) - p.mant)).toNat
  else
    let k : Int := q - (l - p.mant)
    let sig := if 0 ≤ k then n * 2 ^ k.toNat else n / 2 ^ (-k).toNat
    sign + (l + p.bias).toNat * 2 ^ p.mant + (sig - 2 ^ p.mant)

/-- The infinity of a format that has one. -/
def encodeInf (p : FloatFmt) (s : Bool) : Nat :=
  b2n s * 2 ^ (p.mant + p.ebits) + (2 ^ p.ebits - 1) * 2 ^ p.mant

/-- The largest finite value of sign s. -/
def encodeMax (p : FloatFmt) (s : Bool) : Nat := encodeFin p s p.maxM p.maxE

/-- An infinite source (R50). -/
def convInf (f : Fmt) (p : FloatFmt) (nosat : Bool) (s : Bool) : Nat :=
  match f with
  | .e4m3 => if nosat then p.nan else encodeMax p s
  | .fp4 => encodeMax p s
  | _ => encodeInf p s

/-- A finite source whose rounded magnitude exceeds the largest finite (R50, R38). -/
def convOver (f : Fmt) (p : FloatFmt) (rnd : Rnd) (nosat : Bool) (s : Bool) : Nat :=
  match f with
  | .e4m3 => if nosat then p.nan else encodeMax p s
  | .e5m2 => if nosat then encodeInf p s else encodeMax p s
  | .fp4 => encodeMax p s
  | .fp64 =>
    match rnd with
    | .rtz => encodeMax p s
    | .rtp => if s then encodeMax p s else encodeInf p s
    | .rtn => if s then encodeInf p s else encodeMax p s
    | _ => encodeInf p s
  | _ => encodeInf p s

/-- Rounds a finite non-zero value to a floating-point format (R37, R38, R46, R47, R50). -/
def convFin (f : Fmt) (p : FloatFmt) (rnd : Rnd) (nosat : Bool) (s : Bool) (m : Nat) (e : Int) : Enc :=
  let l : Int := (Nat.log2 m : Int) + e
  let emin : Int := 1 - (p.bias : Int)
  let q0 := l - p.mant
  let q := if p.flush then q0 else max q0 (emin - p.mant)
  let (n, ix) := roundMag rnd s m e q
  if ltMag p.maxM p.maxE n q then
    ⟨convOver f p rnd nosat s, if f = .fp64 then flagOF + flagNX else 0, false⟩
  else if p.flush && ltMag n q 1 emin then ⟨b2n s * 2 ^ (p.mant + p.ebits), 0, false⟩
  else
    let u := (roundMag rnd s m e q0).1
    let tiny := decide (u ≠ 0) && ltMag u q0 1 emin
    let fl := if f = .fp64 then b2n ix * flagNX + b2n (ix && tiny) * flagUF else 0
    ⟨encodeFin p s n q, fl, false⟩

/-- A conversion to INT8 or INT4 (R51) of width w. -/
def convInt (w : Nat) (rnd : Rnd) (v : Val) : Enc :=
  match v with
  | .nan => ⟨0, 0, true⟩
  | .inf s => ⟨if s then 2 ^ (w - 1) else 2 ^ (w - 1) - 1, 0, false⟩
  | .fin s m e =>
    let n := (roundMag rnd s m e 0).1
    if s then ⟨(2 ^ w - min n (2 ^ (w - 1))) % 2 ^ w, 0, false⟩
    else ⟨min n (2 ^ (w - 1) - 1), 0, false⟩

/-- Converts a value to a format (R48 to R51). -/
def encodeVal (f : Fmt) (rnd : Rnd) (nosat : Bool) (v : Val) : Enc :=
  match f.float with
  | some p =>
    match v with
    | .nan => ⟨p.nan, 0, decide (f = .fp4)⟩
    | .inf s => ⟨convInf f p nosat s, 0, false⟩
    | .fin s m e =>
      if m = 0 then ⟨b2n s * 2 ^ (p.mant + p.ebits), 0, false⟩ else convFin f p rnd nosat s m e
  | none =>
    match f with
    | .int8 => convInt 8 rnd v
    | .int4 => convInt 4 rnd v
    | _ => ⟨0, 0, false⟩

/-- Expansion of a 4-bit weight (R44): FP4 to FP8 E4M3, INT4 to INT8. -/
def expand4 (f : Fmt) (n : Nat) : Nat :=
  match f with
  | .fp4 => (encodeVal .e4m3 .rne false (decodeVal .fp4 n)).bits
  | _ => toBits (sext n 4) 8

/-- The negation of a value. -/
def Val.neg : Val → Val
  | .nan => .nan
  | .inf s => .inf (!s)
  | .fin s m e => .fin (!s) m e

/-- The magnitude of a value. -/
def Val.abs : Val → Val
  | .nan => .nan
  | .inf _ => .inf false
  | .fin _ m e => .fin false m e

/-- A value times 2^k, exactly. -/
def Val.scale (k : Int) : Val → Val
  | .fin s m e => .fin s m (e + k)
  | v => v

/-- Signed significand of a finite value at exponent q ≤ e. -/
def sigAt (s : Bool) (m : Nat) (e q : Int) : Int :=
  let x : Int := ((m * 2 ^ (e - q).toNat : Nat) : Int)
  if s then -x else x

/-- Exact sum (R40): the value and the invalid flag. -/
def Val.add (rnd : Rnd) (a b : Val) : Val × Nat :=
  match a, b with
  | .nan, _ => (.nan, 0)
  | _, .nan => (.nan, 0)
  | .inf s, .inf t => if s = t then (.inf s, 0) else (.nan, flagNV)
  | .inf s, _ => (.inf s, 0)
  | _, .inf t => (.inf t, 0)
  | .fin s m e, .fin t n f =>
    let q := min e f
    let x := sigAt s m e q + sigAt t n f q
    if x = 0 then (.fin (if s = t then s else decide (rnd = .rtn)) 0 0, 0)
    else (.fin (decide (x < 0)) x.natAbs q, 0)

/-- Exact product (R40). -/
def Val.mul (a b : Val) : Val × Nat :=
  match a, b with
  | .nan, _ => (.nan, 0)
  | _, .nan => (.nan, 0)
  | .inf s, .inf t => (.inf (s != t), 0)
  | .inf s, .fin t n _ => if n = 0 then (.nan, flagNV) else (.inf (s != t), 0)
  | .fin s m _, .inf t => if m = 0 then (.nan, flagNV) else (.inf (s != t), 0)
  | .fin s m e, .fin t n f => (.fin (s != t) (m * n) (e + f), 0)

/-- Exact a × b + c (R40, R54). -/
def Val.fma (rnd : Rnd) (a b c : Val) : Val × Nat :=
  let (p, fl) := a.mul b
  let (r, gl) := p.add rnd c
  (r, fl ||| gl)

/-- Quotient to at least 70 significant bits, the last a sticky bit (R40). -/
def Val.div (a b : Val) : Val × Nat :=
  match a, b with
  | .nan, _ => (.nan, 0)
  | _, .nan => (.nan, 0)
  | .inf _, .inf _ => (.nan, flagNV)
  | .inf s, .fin t _ _ => (.inf (s != t), 0)
  | .fin s _ _, .inf t => (.fin (s != t) 0 0, 0)
  | .fin s m e, .fin t n f =>
    if n = 0 then
      if m = 0 then (.nan, flagNV) else (.inf (s != t), flagDZ)
    else if m = 0 then (.fin (s != t) 0 0, 0)
    else
      let k := 70 + Nat.log2 n
      let x := m * 2 ^ k
      (.fin (s != t) (2 * (x / n) + b2n (decide (x % n ≠ 0))) (e - f - k - 1), 0)

/-- The largest r with r² ≤ n and r < 2^(b) above the start, bit by bit. -/
def isqrtAux (n : Nat) : Nat → Nat → Nat
  | 0, r => r
  | b + 1, r => isqrtAux n b (if (r + 2 ^ b) * (r + 2 ^ b) ≤ n then r + 2 ^ b else r)

/-- Integer square root. -/
def isqrt (n : Nat) : Nat := isqrtAux n (Nat.log2 n / 2 + 1) 0

/-- Square root to at least 70 significant bits, the last a sticky bit (R40). -/
def Val.sqrt (a : Val) : Val × Nat :=
  match a with
  | .nan => (.nan, 0)
  | .inf s => if s then (.nan, flagNV) else (.inf false, 0)
  | .fin s m e =>
    if m = 0 then (.fin s 0 0, 0)
    else if s then (.nan, flagNV)
    else
      let k : Nat := if e % 2 = 0 then 140 else 141
      let x := m * 2 ^ k
      let r := isqrt x
      (.fin false (2 * r + b2n (decide (r * r ≠ x))) ((e - k) / 2 - 1), 0)

/-- Numerical order of two values that are not NaN: a < b (R56). -/
def Val.lt (a b : Val) : Bool :=
  match a, b with
  | .nan, _ => false
  | _, .nan => false
  | .inf s, .inf t => s && !t
  | .inf s, .fin _ _ _ => s
  | .fin _ _ _, .inf t => !t
  | .fin s m e, .fin t n f =>
    let q := min e f
    decide (sigAt s m e q < sigAt t n f q)

/-- Equality of values (R56): −0 equals +0. -/
def Val.eqv (a b : Val) : Bool :=
  match a, b with
  | .nan, _ => false
  | _, .nan => false
  | _, _ => !(a.lt b) && !(b.lt a)

/-- The sign of a value. -/
def Val.sign : Val → Bool
  | .nan => false
  | .inf s => s
  | .fin s _ _ => s

/-- Maximum (R57). -/
def Val.max (a b : Val) : Val :=
  match a, b with
  | .nan, _ => .nan
  | _, .nan => .nan
  | _, _ => if a.lt b then b else if b.lt a then a else if a.sign then b else a

/-- Minimum (R57). -/
def Val.min (a b : Val) : Val :=
  match a, b with
  | .nan, _ => .nan
  | _, .nan => .nan
  | _, _ => if a.lt b then a else if b.lt a then b else if a.sign then a else b

/-- Rounds a value to FP32 to nearest even and reads it back (R37, R53). -/
def round32 (v : Val) : Val := decodeVal .fp32 (encodeVal .fp32 .rne false v).bits

/-- FP32 sum, rounded once. -/
def add32 (a b : Val) : Val := round32 (a.add .rne b).1
/-- FP32 product, rounded once. -/
def mul32 (a b : Val) : Val := round32 (a.mul b).1
/-- FP32 fused multiply-add, rounded once (R54). -/
def fma32 (a b c : Val) : Val := round32 (Val.fma .rne a b c).1

/-- One round of the mixing function of R194. -/
def mix64 (h0 : BitVec 64) : BitVec 64 :=
  let h1 := h0 ^^^ (h0 >>> 32)
  let h2 := h1 * 0x8F1BD4C72E63A5D9#64
  let h3 := h2 ^^^ (h2 >>> 29)
  let h4 := h3 * 0xE7A35C19B04D6F83#64
  h4 ^^^ (h4 >>> 32)

/-- The 16-bit random value of an element (R194). -/
def genRandom (seed : BitVec 64) (turn index : BitVec 48) : Nat :=
  let h := mix64 (seed ^^^ turn.zeroExtend 64)
  (mix64 (h ^^^ index.zeroExtend 64)).toNat / 2 ^ 48

/-- A long word (R82, R87): V, the reference exponent E and the flags, NAN in bit 0 to RANGE in bit 5. -/
structure Long where
  v : Int := 0
  e : Nat := 127
  flags : Nat := 0
deriving DecidableEq, Repr

/-- Reads a long word (R87). -/
def Long.decode (n : Nat) : Long :=
  ⟨sext n 112, Machine.bits n 112 8, Machine.bits n 120 6⟩

/-- The 128 bits of a long word (R87). -/
def Long.encode (l : Long) : Nat :=
  toBits l.v 112 + l.e % 256 * 2 ^ 112 + l.flags % 64 * 2 ^ 120

/-- Saturation to the 112-bit range (R84): the value and whether it saturated. -/
def sat112 (x : Int) : Int × Bool :=
  if x < -(2 ^ 111 : Int) then (-(2 ^ 111 : Int), true)
  else if (2 ^ 111 - 1 : Int) < x then (2 ^ 111 - 1, true)
  else (x, false)

/-- Addition of long words (R134): the sum and how many RANGE events it counts (R84). -/
def Long.add (a b : Long) : Long × Nat :=
  let fl := a.flags ||| b.flags
  if a.e = 255 ∧ b.e = 255 then (⟨0, 127, fl ||| lfNan⟩, 0)
  else if a.e = 255 then (⟨b.v, b.e, fl ||| lfNan⟩, 0)
  else if b.e = 255 then (⟨a.v, a.e, fl ||| lfNan⟩, 0)
  else
    let e := min a.e b.e
    let (x, sx) := sat112 (a.v * (2 ^ (a.e - e) : Nat))
    let (y, sy) := sat112 (b.v * (2 ^ (b.e - e) : Nat))
    let (z, sz) := sat112 (x + y)
    let k := b2n sx + b2n sy + b2n sz
    (⟨z, e, if k = 0 then fl else fl ||| lfRange⟩, k)

/-- One bit of a long word's flags. -/
def Long.has (l : Long) (f : Nat) : Bool := decide (l.flags / f % 2 = 1)

/-- The value to which a long word converts (R52, R86), before its one rounding. -/
def Long.value (l : Long) : Val :=
  if l.has lfNan || l.has lfAbove || decide (l.e = 255) then .nan
  else if l.has lfPos && l.has lfNeg then .nan
  else if l.has lfPos then .inf false
  else if l.has lfNeg then .inf true
  else if l.has lfRange then .inf (decide (l.v < 0))
  else if l.v = 0 then .fin false 0 0
  else .fin (decide (l.v < 0)) l.v.natAbs ((l.e : Int) - 191)

end Sys2Proof.Machine
end

