-- ==== Sys2Proof/Machine/CoreTypes.lean ====
section
/-! DEFINITION. The state of a core: contexts, queues, accumulation groups, tiles, outer-product
registers, the vector engine and the stream mover (03_two_way_array, 04_core_engines,
05_on_die_storage). -/

namespace Sys2Proof.Machine

/-- A pushed tensor command: its 512 bits, its sequence number and the kseed and kturn recorded at
the push (R110, R112, R113). -/
structure Cmd where
  word : BitVec 512
  seq : BitVec 32
  seed : BitVec 64
  turn : BitVec 48
deriving DecidableEq, Repr

/-- A command queue of a context (R112, R119): unissued commands in push order, the next sequence
number, whether a rejection halts it, and whether a mover error does (R174). -/
structure CmdQueue where
  cmds : List Cmd := []
  next : BitVec 32 := 0
  halted : Bool := false
  failed : Bool := false
deriving DecidableEq, Repr

/-- What a hart waits in (R113, R139). -/
inductive Wait where
  /-- SEMWAIT on a semaphore for a value -/
  | sem (n : BitVec 5) (v : BitVec 16)
  /-- TFENCE over the selected queues -/
  | fence (sel : BitVec 3)
  /-- TPUSH to a full queue: the queue, rd and the command copied -/
  | push (q : QueueId) (rd : BitVec 5) (word : BitVec 512)
  /-- a collective whose schedule is not yet fully pushed -/
  | collective
deriving DecidableEq, Repr

/-- Modes of a hart (R107, R108). -/
inductive HartMode where
  | user
  | machine
deriving DecidableEq, Repr

/-- A hart's registers (R107, R110, R142); x0 is not held. -/
structure Hart where
  xs : Table Word := []
  pc : Word := 0
  mode : HartMode := .user
  mstatus : Word := 0
  mtvec : Word := 0
  mscratch : Word := 0
  mie : Word := 0
  mepc : Word := 0
  mcause : Word := 0
  mtval : Word := 0
  /-- the reservation of LR: the address reserved -/
  reservation : Option Nat := none
  kfpflags : BitVec 5 := 0
  kseed : BitVec 64 := 0
  kturn : BitVec 48 := 0
deriving DecidableEq, Repr

/-- State of an accumulation group (R106). -/
inductive GState where
  | free
  | isOpen
  | draining
deriving DecidableEq, Repr

/-- A closing command whose drain has not started: the slot, the command, the epilogue descriptor read
at issue, and the cycle at which its drain may start (R80, R97). -/
structure Closing where
  slot : SlotId
  cmd : Cmd
  epi : Nat
  /-- the closing pass's last row is visible -/
  ready : Bool := false
  startAt : Nat := 0
deriving DecidableEq, Repr

/-- An accumulation group (R74, R106). -/
structure Group where
  base : Nat := 0
  count : Nat := 0
  long : Bool := false
  /-- width code: 0 w = 512, 1 w = 256, 2 w = 128 -/
  width : Nat := 0
  exp : Nat := 0
  st : GState := .free
  owner : SlotId := 0
  passes : Nat := 0
  /-- an ACFLOAD into the group has not completed (R164) -/
  loading : Bool := false
  closing : Option Closing := none
  /-- cycle from which the draining group is free, once it is known (R80, R163) -/
  freeAt : Option Nat := none
  /-- what an entry holds that is not listed: zero at the reference exponent (R75) -/
  fill : Nat := 0
  /-- the entries of the group's segments in order: entry k of result row r at key r × w + k (R74, R161) -/
  entries : Table Nat := []
deriving DecidableEq, Repr

/-- A drain of a group that has started (R80, R92): the group as the epilogue reads it, its closing command, and
the cycle in which the last row is written. -/
structure GroupDrain where
  g : GroupId
  record : Group
  closing : Closing
  endAt : Nat
deriving DecidableEq, Repr

/-- One outer-product register: the 64-bit U and the bits NAN (0), POS_INF (1), NEG_INF (2), SAT (3)
(R59, R90). -/
structure Cell where
  u : Int := 0
  bits : Nat := 0
deriving DecidableEq, Repr

/-- The outer-product registers (R81, R105). -/
structure OpRegs where
  isOpen : Bool := false
  /-- 0 8-bit float, 1 INT8, 2 BF16, 3 FP16 -/
  cls : Nat := 0
  lambda : Nat := 0
  owner : SlotId := 0
  rows : Nat := 0
  /-- cell (i, j) at key 512 i + j -/
  cells : Table Cell := []
  closing : Option Closing := none
deriving DecidableEq, Repr

/-- An outer-product drain that has started (R72): the registers that leave the cells, the closing command, and
the cycle in which the last row is written. -/
structure OpDrain where
  regs : OpRegs
  closing : Closing
  endAt : Nat
deriving DecidableEq, Repr

/-- A weight tile (R60, R63): its format, whether it has block scales, the context that loaded it,
its bytes row by row, and its scales, block b of column j at key 512 b + j. -/
structure Tile where
  fmt : Fmt
  mx : Bool
  owner : Nat
  data : Bytes
  scales : Bytes
deriving DecidableEq, Repr

/-- A tile load in flight (R123). -/
structure TileLoad where
  slot : SlotId
  cmd : Cmd
  tile : Tile
  due : Nat
deriving DecidableEq, Repr

/-- Modes of a pass (R66, R68, R69). -/
inductive PassMode where
  | forward
  | transposed
  | outer
deriving DecidableEq, Repr

/-- Actions of a pass (R77, R124). -/
inductive PassAction where
  | opens
  | continues
  | closes
  | openClose
deriving DecidableEq, Repr

/-- A pass that has issued: its operands as they were read (rows of bytes and of scales), the tile
it uses, and the cycle from which its last row is visible or absorbed (R67 to R70). -/
structure PassRec where
  slot : SlotId
  cmd : Cmd
  mode : PassMode
  wide : Bool
  action : PassAction
  group : GroupId
  first : Nat
  inFmt : Fmt
  wFmt : Fmt
  inMx : Bool
  wMx : Bool
  rows : List (List Byte)
  scales : List (List Byte)
  south : List (List Byte)
  tile : Option Tile
  /-- it waits at the array edge for the ACFLOAD of its group (R164); due is open until then -/
  edge : Bool := false
  due : Nat
deriving DecidableEq, Repr

/-- The vector command that executes (R127): what it will write, to physical scratchpad addresses,
and what it will count. -/
structure VecExec where
  slot : SlotId
  cmd : Cmd
  writes : List (Nat × List Byte)
  flags : Nat
  invalids : Nat
  ranges : Nat
  due : Nat
deriving DecidableEq, Repr

/-- A mover command in flight (R166): the message taken by an MRECV, and whether an error ended it. -/
structure MovExec where
  slot : SlotId
  cmd : Cmd
  /-- message number claimed on the ring, and the producer's turn at the claim (MRECV, MSEND) -/
  slotNo : Nat := 0
  turn : Nat := 0
  /-- the ring was in error at issue: the command ends with RING (R324) -/
  doomed : Bool := false
  due : Nat := 0
deriving DecidableEq, Repr

/-- A change of the matrix holder (R126): to whom, and the cycles of its start and end. -/
structure HolderChange where
  next : SlotId
  startAt : Nat
  endAt : Nat
deriving DecidableEq, Repr

/-- A swap that runs on a core (R140, R141, R259). -/
structure Swap where
  slot : SlotId
  /-- true for a swap-in -/
  dirIn : Bool
  ext : Nat
  ctx : Nat
deriving DecidableEq, Repr

/-- Pointers of a core's arbiters (R191): hart, matrix unit, vector engine, stream mover. -/
structure Arbiters where
  hart : Nat := 0
  matrix : Nat := 0
  vector : Nat := 0
  mover : Nat := 0
deriving DecidableEq, Repr

/-- The last pass issued (R71): its mode, its width and the cycle in which its last row issued. -/
structure LastPass where
  mode : PassMode
  wide : Bool
  lastIssue : Nat
deriving DecidableEq, Repr

/-- A group saved in a swap image (R142): its number, and its record with its entries. -/
structure SavedGroup where
  g : GroupId
  record : Group
deriving DecidableEq, Repr

/-- Why a swapped-out context is not a candidate, or may not be swapped yet (R141, R257 to R260). -/
structure Sched where
  /-- stopped by a context fault or a failed turn (R257, R420) -/
  stopped : Bool := false
  /-- a DESTROY waits for its issued commands (R256) -/
  dying : Bool := false
  /-- a refused swap-in: no candidate until REHOME or WAKE (R141) -/
  refused : Bool := false
  /-- created, restored or woken since its swap-out: runnable whatever its hart waits for (R256, R258) -/
  runnable : Bool := true
  /-- stamp from which it is runnable, while swapped out -/
  runnableSince : Option Nat := none
  /-- stamp from which it is blocked while resident -/
  blockedSince : Option Nat := none
  /-- end of the ko hold against swapping out (R260) -/
  koOut : Nat := 0
  /-- end of the ko hold against swapping in (R260) -/
  koIn : Nat := 0
deriving DecidableEq, Repr

/-- Where a context is. -/
inductive Place where
  | out
  | resident (c : CoreId) (k : SlotId)
deriving DecidableEq, Repr

/-- A context (R256): its number and partition, the core that is its home, the first of its two
swap extents, and its whole state, resident or saved (R142). -/
structure Ctx where
  num : BitVec 16 := 0
  part : PartId := 0
  home : CoreId := 0
  ext : Nat := 0
  /-- first of the extents that hold its entry image (R418) -/
  entryExt : Nat := 0
  place : Place := .out
  hart : Hart := {}
  sems : Table (BitVec 16) := []
  mq : CmdQueue := {}
  vq : CmdQueue := {}
  sq : CmdQueue := {}
  imem : Bytes := []
  dmem : Bytes := []
  wait : Option Wait := none
  sched : Sched := {}
  /-- commands of a collective not yet pushed: queue and word, in order (R331) -/
  schedule : List (QueueId × BitVec 512) := []
  /-- what semaphores 30 and 31 come to when every collective scheduled has run (R331) -/
  coll30 : Nat := 0
  coll31 : Nat := 0
  /-- OP of the collective whose schedule is pushed, and sequence numbers of mover commands that BARRIER has pushed (R343) -/
  collOp : Nat := 0
  barriers : List (BitVec 32) := []
  /-- sequence numbers of the latest mover commands that collectives pushed (R339) -/
  collCmds : List (BitVec 32) := []
  /-- CORE_c_ERR_k and MOV_c_ERR_k as saved at a swap-out -/
  err : Word := 0
  movErr : Word := 0
  /-- window base and size of the saved window, in units of 64 KiB -/
  winBase : Nat := 0
  winSize : Nat := 0
  savedSpd : Bytes := []
  savedGroups : List SavedGroup := []
  savedOp : Option OpRegs := none
  tiles : Option Tile × Option Tile := (none, none)
  tilesFresh : Bool := false
  /-- it has loaded a tile since it was created (R126) -/
  loadedTile : Bool := false
deriving DecidableEq, Repr

/-- What becomes of a core once its contexts are swapped out and it is cleared (R253, R254, R261, R262,
R422). -/
inductive CorePlan where
  /-- ADD_CORE: the partition owns and homes it -/
  | add (p : PartId)
  /-- REMOVE_CORE: it is idle -/
  | idle
  /-- LEND: the target owns it -/
  | lend (target : PartId)
  /-- RECALL: its home partition owns it again -/
  | giveBack
  /-- a partition move: only the swaps (R264) -/
  | empty
deriving DecidableEq, Repr

/-- A physical core (R16, R17). -/
structure Core where
  owner : Option PartId := none
  home : Option PartId := none
  selfTestOk : Bool := true
  fenced : Bool := false
  rated : Bool := false
  /-- the cycle at which the zeroing of R160 ends -/
  clearing : Option Nat := none
  lastReset : Option Nat := none
  spd : Bytes := []
  groups : Table Group := []
  op : OpRegs := {}
  active : Option Tile := none
  shadow : Option Tile := none
  shadowFresh : Bool := false
  tileLoad : Option TileLoad := none
  passes : List PassRec := []
  lastPass : Option LastPass := none
  /-- first cycle in which the input edge is free (R70) -/
  edgeFree : Nat := 0
  /-- cycle in which the last pass issued its first row (R123) -/
  firstIssue : Nat := 0
  /-- spans of cycles, from the first up to but not including the last, in which cells are active (R104) -/
  cellSpans : List (Nat × Nat) := []
  /-- first cycle in which the last outer-product drain has left the cells (R71) -/
  cellsFreeFrom : Nat := 0
  /-- drains that have started and not ended: of groups, oldest first, and of the outer-product registers -/
  drains : List GroupDrain := []
  opDrain : Option OpDrain := none
  holder : Option SlotId := none
  change : Option HolderChange := none
  vec : Option VecExec := none
  mover : List MovExec := []
  arb : Arbiters := {}
  /-- key of the resident context, by slot -/
  slots : Table Nat := []
  swap : Option Swap := none
  /-- a command takes the core's contexts out: nothing swaps in (R254, R261, R262, R422) -/
  plan : Option CorePlan := none
  /-- swaps asked for through CORE_c_SWAP that wait for the running one (R259) -/
  waiting : List Swap := []
  /-- context to swap in when the running swap-out completes (R259) -/
  nextIn : Option Nat := none
  /-- stamps of the start of the oldest command of matrix, vector and mover (R408) -/
  hang : Table Nat := []
deriving DecidableEq, Repr

end Sys2Proof.Machine
end

