-- ==== Sys2Proof/Machine/RegMap.lean ====
section
/-! DEFINITION. The register map: every field of every register of the spec's register tables, with
its page, offset, bits, access code and reset value (R8, R9, R475, R478). A field's definition is
named by its register and its field, without the register's instance and index letters. -/

namespace Sys2Proof.Machine

/-- Access codes (R8). -/
inductive Access where
  | rw
  | ro
  | wo
  | w1c
  | w1s
deriving DecidableEq, Repr

/-- One field of a register: block code, byte offset of the register, stride and count of an indexed
register, lowest bit, width, access code and reset value (none: loaded from flash, R9). -/
structure Fld where
  blk : Nat
  off : Nat
  stride : Nat
  count : Nat
  lo : Nat
  width : Nat
  acc : Access
  reset : Option Nat
deriving DecidableEq, Repr

/-- One block of the page directory (R478): code, number of instances, last offset. -/
structure Blk where
  code : Nat
  insts : Nat
  last : Nat
deriving DecidableEq, Repr

/-- The page directory (R478). -/
def pageDirectory : List Blk :=
  [⟨0x01, 144, 0x0158⟩, ⟨0x02, 144, 0x0178⟩, ⟨0x03, 144, 0x0120⟩, ⟨0x04, 144, 0x02FC⟩, ⟨0x05, 144, 0x0108⟩,
   ⟨0x06, 144, 0x0138⟩, ⟨0x10, 4, 0x0140⟩, ⟨0x11, 32, 0x0168⟩, ⟨0x12, 1, 0x0160⟩, ⟨0x20, 16, 0x02F8⟩,
   ⟨0x21, 1, 0x0138⟩, ⟨0x28, 1, 0x05F8⟩, ⟨0x30, 64, 0x0248⟩, ⟨0x31, 64, 0x0160⟩, ⟨0x32, 64, 0x0178⟩,
   ⟨0x40, 1, 0x05F8⟩, ⟨0x41, 4, 0x0120⟩, ⟨0x42, 1, 0x0120⟩, ⟨0x48, 1, 0x01A8⟩, ⟨0x50, 1, 0x03F8⟩,
   ⟨0x51, 1, 0x01B8⟩, ⟨0x52, 1, 0x0150⟩, ⟨0x53, 1, 0x0180⟩, ⟨0x54, 1, 0x0168⟩, ⟨0x55, 1, 0x0110⟩]

/-- CORE_c_CTL, R144 -/
def F.CORE_CTL_RESUME : Fld := ⟨0x01, 0x0100, 0, 1, 0, 4, .wo, some 0⟩
/-- CORE_c_CTL, R144 -/
def F.CORE_CTL_HALT : Fld := ⟨0x01, 0x0100, 0, 1, 4, 4, .rw, some 0⟩
/-- CORE_c_STATUS, R145 -/
def F.CORE_STATUS_RESIDENT : Fld := ⟨0x01, 0x0108, 0, 1, 0, 4, .ro, some 0⟩
/-- CORE_c_STATUS, R145 -/
def F.CORE_STATUS_BLOCKED : Fld := ⟨0x01, 0x0108, 0, 1, 4, 4, .ro, some 0⟩
/-- CORE_c_STATUS, R145 -/
def F.CORE_STATUS_HALTED : Fld := ⟨0x01, 0x0108, 0, 1, 8, 4, .ro, some 0⟩
/-- CORE_c_STATUS, R145 -/
def F.CORE_STATUS_HOLDER : Fld := ⟨0x01, 0x0108, 0, 1, 12, 2, .ro, some 0⟩
/-- CORE_c_STATUS, R145 -/
def F.CORE_STATUS_HOLDER_VALID : Fld := ⟨0x01, 0x0108, 0, 1, 14, 1, .ro, some 0⟩
/-- CORE_c_STATUS, R145 -/
def F.CORE_STATUS_SWAP_BUSY : Fld := ⟨0x01, 0x0108, 0, 1, 15, 1, .ro, some 0⟩
/-- CORE_c_STATUS, R145 -/
def F.CORE_STATUS_SWAP_ERR : Fld := ⟨0x01, 0x0108, 0, 1, 16, 1, .w1c, some 0⟩
/-- CORE_c_SWAP, R146 -/
def F.CORE_SWAP_SLOT : Fld := ⟨0x01, 0x0110, 0, 1, 0, 2, .wo, some 0⟩
/-- CORE_c_SWAP, R146 -/
def F.CORE_SWAP_DIR : Fld := ⟨0x01, 0x0110, 0, 1, 2, 1, .wo, some 0⟩
/-- CORE_c_SWAP, R146 -/
def F.CORE_SWAP_EXTENT : Fld := ⟨0x01, 0x0110, 0, 1, 3, 19, .wo, some 0⟩
/-- CORE_c_CTX_k, R147 -/
def F.CORE_CTX_CONTEXT : Fld := ⟨0x01, 0x0118, 8, 4, 0, 16, .ro, some 0⟩
/-- CORE_c_CTX_k, R147 -/
def F.CORE_CTX_PARTITION : Fld := ⟨0x01, 0x0118, 8, 4, 16, 6, .ro, some 0⟩
/-- CORE_c_CTX_k, R147 -/
def F.CORE_CTX_STATE : Fld := ⟨0x01, 0x0118, 8, 4, 22, 3, .ro, some 0⟩
/-- CORE_c_CTX_k, R147 -/
def F.CORE_CTX_SPD_BASE : Fld := ⟨0x01, 0x0118, 8, 4, 32, 7, .rw, some 0⟩
/-- CORE_c_CTX_k, R147 -/
def F.CORE_CTX_SPD_SIZE : Fld := ⟨0x01, 0x0118, 8, 4, 40, 7, .rw, some 0⟩
/-- CORE_c_ERR_k, R148 -/
def F.CORE_ERR_OP : Fld := ⟨0x01, 0x0138, 8, 4, 0, 8, .ro, some 0⟩
/-- CORE_c_ERR_k, R148 -/
def F.CORE_ERR_REASON : Fld := ⟨0x01, 0x0138, 8, 4, 8, 4, .ro, some 0⟩
/-- CORE_c_ERR_k, R148 -/
def F.CORE_ERR_QUEUE : Fld := ⟨0x01, 0x0138, 8, 4, 12, 2, .ro, some 0⟩
/-- CORE_c_ERR_k, R148 -/
def F.CORE_ERR_VALID : Fld := ⟨0x01, 0x0138, 8, 4, 14, 1, .ro, some 0⟩
/-- CORE_c_ERR_k, R148 -/
def F.CORE_ERR_OVERFLOW : Fld := ⟨0x01, 0x0138, 8, 4, 15, 1, .ro, some 0⟩
/-- CORE_c_ERR_k, R148 -/
def F.CORE_ERR_SEQ : Fld := ⟨0x01, 0x0138, 8, 4, 16, 32, .ro, some 0⟩
/-- CORE_c_ERR_k, R148 -/
def F.CORE_ERR_TAG : Fld := ⟨0x01, 0x0138, 8, 4, 48, 16, .ro, some 0⟩
/-- CORE_c_HOLDER_CYCLES, R149 -/
def F.CORE_HOLDER_CYCLES_CYCLES : Fld := ⟨0x01, 0x0158, 0, 1, 0, 64, .ro, some 0⟩

/-- Fields of the CORE pages. -/
def fieldsCORE0 : List Fld :=
  [F.CORE_CTL_RESUME, F.CORE_CTL_HALT, F.CORE_STATUS_RESIDENT, F.CORE_STATUS_BLOCKED,
   F.CORE_STATUS_HALTED, F.CORE_STATUS_HOLDER, F.CORE_STATUS_HOLDER_VALID, F.CORE_STATUS_SWAP_BUSY,
   F.CORE_STATUS_SWAP_ERR, F.CORE_SWAP_SLOT, F.CORE_SWAP_DIR, F.CORE_SWAP_EXTENT,
   F.CORE_CTX_CONTEXT, F.CORE_CTX_PARTITION, F.CORE_CTX_STATE, F.CORE_CTX_SPD_BASE,
   F.CORE_CTX_SPD_SIZE, F.CORE_ERR_OP, F.CORE_ERR_REASON, F.CORE_ERR_QUEUE,
   F.CORE_ERR_VALID, F.CORE_ERR_OVERFLOW, F.CORE_ERR_SEQ, F.CORE_ERR_TAG]
/-- Fields of the CORE pages. -/
def fieldsCORE1 : List Fld :=
  [F.CORE_HOLDER_CYCLES_CYCLES]
/-- All fields of the CORE pages. -/
def fieldsCORE : List Fld := fieldsCORE0 ++ fieldsCORE1

/-- ARY_c_CTL, R101 -/
def F.ARY_CTL_HOLD : Fld := ⟨0x02, 0x0100, 0, 1, 0, 1, .rw, some 0⟩
/-- ARY_c_CTL, R101 -/
def F.ARY_CTL_CLR_COUNTS : Fld := ⟨0x02, 0x0100, 0, 1, 1, 1, .wo, some 0⟩
/-- ARY_c_STATUS, R102 -/
def F.ARY_STATUS_MODE : Fld := ⟨0x02, 0x0108, 0, 1, 0, 3, .ro, some 0⟩
/-- ARY_c_STATUS, R102 -/
def F.ARY_STATUS_WIDE : Fld := ⟨0x02, 0x0108, 0, 1, 3, 1, .ro, some 0⟩
/-- ARY_c_STATUS, R102 -/
def F.ARY_STATUS_SHADOW_READY : Fld := ⟨0x02, 0x0108, 0, 1, 4, 1, .ro, some 0⟩
/-- ARY_c_STATUS, R102 -/
def F.ARY_STATUS_OP_OPEN : Fld := ⟨0x02, 0x0108, 0, 1, 5, 1, .ro, some 0⟩
/-- ARY_c_STATUS, R102 -/
def F.ARY_STATUS_GROUP_OPEN : Fld := ⟨0x02, 0x0108, 0, 1, 6, 8, .ro, some 0⟩
/-- ARY_c_STATUS, R102 -/
def F.ARY_STATUS_GROUP_DRAINING : Fld := ⟨0x02, 0x0108, 0, 1, 14, 8, .ro, some 0⟩
/-- ARY_c_FLUSH_COUNT, R103 -/
def F.ARY_FLUSH_COUNT_COUNT : Fld := ⟨0x02, 0x0110, 0, 1, 0, 32, .ro, some 0⟩
/-- ARY_c_ABOVE_COUNT, R103 -/
def F.ARY_ABOVE_COUNT_COUNT : Fld := ⟨0x02, 0x0118, 0, 1, 0, 32, .ro, some 0⟩
/-- ARY_c_RANGE_COUNT, R103 -/
def F.ARY_RANGE_COUNT_COUNT : Fld := ⟨0x02, 0x0120, 0, 1, 0, 32, .ro, some 0⟩
/-- ARY_c_OP_STATE, R105 -/
def F.ARY_OP_STATE_CLASS : Fld := ⟨0x02, 0x0128, 0, 1, 0, 2, .ro, some 0⟩
/-- ARY_c_OP_STATE, R105 -/
def F.ARY_OP_STATE_LAMBDA : Fld := ⟨0x02, 0x0128, 0, 1, 2, 6, .ro, some 0⟩
/-- ARY_c_OP_STATE, R105 -/
def F.ARY_OP_STATE_OWNER : Fld := ⟨0x02, 0x0128, 0, 1, 8, 8, .ro, some 0⟩
/-- ARY_c_OP_STATE, R105 -/
def F.ARY_OP_STATE_ROWS : Fld := ⟨0x02, 0x0128, 0, 1, 16, 32, .ro, some 0⟩
/-- ARY_c_BUSY_CYCLES, R104 -/
def F.ARY_BUSY_CYCLES_CYCLES : Fld := ⟨0x02, 0x0130, 0, 1, 0, 64, .ro, some 0⟩
/-- ARY_c_SWITCH_CYCLES, R104 -/
def F.ARY_SWITCH_CYCLES_CYCLES : Fld := ⟨0x02, 0x0138, 0, 1, 0, 64, .ro, some 0⟩
/-- ARY_c_GROUP_g, R106 -/
def F.ARY_GROUP_BASE : Fld := ⟨0x02, 0x0140, 8, 8, 0, 4, .ro, some 0⟩
/-- ARY_c_GROUP_g, R106 -/
def F.ARY_GROUP_COUNT : Fld := ⟨0x02, 0x0140, 8, 8, 4, 5, .ro, some 0⟩
/-- ARY_c_GROUP_g, R106 -/
def F.ARY_GROUP_LONG : Fld := ⟨0x02, 0x0140, 8, 8, 9, 1, .ro, some 0⟩
/-- ARY_c_GROUP_g, R106 -/
def F.ARY_GROUP_WIDTH : Fld := ⟨0x02, 0x0140, 8, 8, 10, 2, .ro, some 0⟩
/-- ARY_c_GROUP_g, R106 -/
def F.ARY_GROUP_EXP : Fld := ⟨0x02, 0x0140, 8, 8, 12, 8, .ro, some 0⟩
/-- ARY_c_GROUP_g, R106 -/
def F.ARY_GROUP_STATE : Fld := ⟨0x02, 0x0140, 8, 8, 20, 2, .ro, some 0⟩
/-- ARY_c_GROUP_g, R106 -/
def F.ARY_GROUP_OWNER : Fld := ⟨0x02, 0x0140, 8, 8, 22, 2, .ro, some 0⟩
/-- ARY_c_GROUP_g, R106 -/
def F.ARY_GROUP_PASSES : Fld := ⟨0x02, 0x0140, 8, 8, 32, 32, .ro, some 0⟩

/-- Fields of the ARY pages. -/
def fieldsARY0 : List Fld :=
  [F.ARY_CTL_HOLD, F.ARY_CTL_CLR_COUNTS, F.ARY_STATUS_MODE, F.ARY_STATUS_WIDE,
   F.ARY_STATUS_SHADOW_READY, F.ARY_STATUS_OP_OPEN, F.ARY_STATUS_GROUP_OPEN, F.ARY_STATUS_GROUP_DRAINING,
   F.ARY_FLUSH_COUNT_COUNT, F.ARY_ABOVE_COUNT_COUNT, F.ARY_RANGE_COUNT_COUNT, F.ARY_OP_STATE_CLASS,
   F.ARY_OP_STATE_LAMBDA, F.ARY_OP_STATE_OWNER, F.ARY_OP_STATE_ROWS, F.ARY_BUSY_CYCLES_CYCLES,
   F.ARY_SWITCH_CYCLES_CYCLES, F.ARY_GROUP_BASE, F.ARY_GROUP_COUNT, F.ARY_GROUP_LONG,
   F.ARY_GROUP_WIDTH, F.ARY_GROUP_EXP, F.ARY_GROUP_STATE, F.ARY_GROUP_OWNER]
/-- Fields of the ARY pages. -/
def fieldsARY1 : List Fld :=
  [F.ARY_GROUP_PASSES]
/-- All fields of the ARY pages. -/
def fieldsARY : List Fld := fieldsARY0 ++ fieldsARY1

/-- VEC_c_CTL, R151 -/
def F.VEC_CTL_CLR_COUNTS : Fld := ⟨0x03, 0x0100, 0, 1, 0, 1, .wo, some 0⟩
/-- VEC_c_STATUS, R151 -/
def F.VEC_STATUS_BUSY : Fld := ⟨0x03, 0x0108, 0, 1, 0, 1, .ro, some 0⟩
/-- VEC_c_STATUS, R151 -/
def F.VEC_STATUS_SLOT : Fld := ⟨0x03, 0x0108, 0, 1, 1, 2, .ro, some 0⟩
/-- VEC_c_STATUS, R151 -/
def F.VEC_STATUS_OP : Fld := ⟨0x03, 0x0108, 0, 1, 3, 8, .ro, some 0⟩
/-- VEC_c_INVCVT_COUNT, R152 -/
def F.VEC_INVCVT_COUNT_COUNT : Fld := ⟨0x03, 0x0110, 0, 1, 0, 32, .ro, some 0⟩
/-- VEC_c_RANGE_COUNT, R152 -/
def F.VEC_RANGE_COUNT_COUNT : Fld := ⟨0x03, 0x0118, 0, 1, 0, 32, .ro, some 0⟩
/-- VEC_c_BUSY_CYCLES, R152 -/
def F.VEC_BUSY_CYCLES_CYCLES : Fld := ⟨0x03, 0x0120, 0, 1, 0, 64, .ro, some 0⟩

/-- Fields of the VEC pages. -/
def fieldsVEC : List Fld :=
  [F.VEC_CTL_CLR_COUNTS, F.VEC_STATUS_BUSY, F.VEC_STATUS_SLOT, F.VEC_STATUS_OP,
   F.VEC_INVCVT_COUNT_COUNT, F.VEC_RANGE_COUNT_COUNT, F.VEC_BUSY_CYCLES_CYCLES]

/-- SPD_c_STATUS, R177 -/
def F.SPD_STATUS_INIT_BUSY : Fld := ⟨0x04, 0x0100, 0, 1, 0, 1, .ro, some 1⟩
/-- SPD_c_ECC_COUNT, R177 -/
def F.SPD_ECC_COUNT_CORRECTED : Fld := ⟨0x04, 0x0108, 0, 1, 0, 16, .w1c, some 0⟩
/-- SPD_c_ECC_COUNT, R177 -/
def F.SPD_ECC_COUNT_UNCORRECTED : Fld := ⟨0x04, 0x0108, 0, 1, 16, 16, .w1c, some 0⟩
/-- SPD_c_CONFLICT_CYCLES, R177 -/
def F.SPD_CONFLICT_CYCLES_CYCLES : Fld := ⟨0x04, 0x0110, 0, 1, 0, 64, .ro, some 0⟩
/-- SPD_c_DUMP_WIN_n, R177 -/
def F.SPD_DUMP_WIN_INDEX : Fld := ⟨0x04, 0x0200, 4, 64, 0, 11, .rw, some 0⟩
/-- SPD_c_DUMP_WIN_n, R177 -/
def F.SPD_DUMP_WIN_SLOT : Fld := ⟨0x04, 0x0200, 4, 64, 11, 2, .rw, some 0⟩
/-- SPD_c_DUMP_WIN_n, R177 -/
def F.SPD_DUMP_WIN_SLOT_REL : Fld := ⟨0x04, 0x0200, 4, 64, 13, 1, .rw, some 0⟩
/-- SPD_c_DUMP_WIN_n, R177 -/
def F.SPD_DUMP_WIN_EN : Fld := ⟨0x04, 0x0200, 4, 64, 14, 1, .rw, some 0⟩

/-- Fields of the SPD pages. -/
def fieldsSPD : List Fld :=
  [F.SPD_STATUS_INIT_BUSY, F.SPD_ECC_COUNT_CORRECTED, F.SPD_ECC_COUNT_UNCORRECTED, F.SPD_CONFLICT_CYCLES_CYCLES,
   F.SPD_DUMP_WIN_INDEX, F.SPD_DUMP_WIN_SLOT, F.SPD_DUMP_WIN_SLOT_REL, F.SPD_DUMP_WIN_EN]

/-- ACF_c_STATUS, R178 -/
def F.ACF_STATUS_SEG_USED : Fld := ⟨0x05, 0x0100, 0, 1, 0, 16, .ro, some 0⟩
/-- ACF_c_STATUS, R178 -/
def F.ACF_STATUS_SEG_DRAINING : Fld := ⟨0x05, 0x0100, 0, 1, 16, 16, .ro, some 0⟩
/-- ACF_c_ECC_COUNT, R178 -/
def F.ACF_ECC_COUNT_CORRECTED : Fld := ⟨0x05, 0x0108, 0, 1, 0, 16, .w1c, some 0⟩
/-- ACF_c_ECC_COUNT, R178 -/
def F.ACF_ECC_COUNT_UNCORRECTED : Fld := ⟨0x05, 0x0108, 0, 1, 16, 16, .w1c, some 0⟩

/-- Fields of the ACF pages. -/
def fieldsACF : List Fld :=
  [F.ACF_STATUS_SEG_USED, F.ACF_STATUS_SEG_DRAINING, F.ACF_ECC_COUNT_CORRECTED, F.ACF_ECC_COUNT_UNCORRECTED]

/-- MOV_c_CTL, R179 -/
def F.MOV_CTL_RESUME : Fld := ⟨0x06, 0x0100, 0, 1, 0, 4, .wo, some 0⟩
/-- MOV_c_STATUS, R179 -/
def F.MOV_STATUS_INFLIGHT : Fld := ⟨0x06, 0x0108, 0, 1, 0, 4, .ro, some 0⟩
/-- MOV_c_STATUS, R179 -/
def F.MOV_STATUS_HALTED : Fld := ⟨0x06, 0x0108, 0, 1, 4, 4, .ro, some 0⟩
/-- MOV_c_ERR_k, R179 -/
def F.MOV_ERR_OP : Fld := ⟨0x06, 0x0110, 8, 4, 0, 8, .ro, some 0⟩
/-- MOV_c_ERR_k, R179 -/
def F.MOV_ERR_CODE : Fld := ⟨0x06, 0x0110, 8, 4, 8, 4, .ro, some 0⟩
/-- MOV_c_ERR_k, R179 -/
def F.MOV_ERR_VALID : Fld := ⟨0x06, 0x0110, 8, 4, 12, 1, .ro, some 0⟩
/-- MOV_c_ERR_k, R179 -/
def F.MOV_ERR_SEQ : Fld := ⟨0x06, 0x0110, 8, 4, 16, 32, .ro, some 0⟩
/-- MOV_c_ERR_k, R179 -/
def F.MOV_ERR_TAG : Fld := ⟨0x06, 0x0110, 8, 4, 48, 16, .ro, some 0⟩
/-- MOV_c_BYTES_RD, R179 -/
def F.MOV_BYTES_RD_BYTES : Fld := ⟨0x06, 0x0130, 0, 1, 0, 64, .ro, some 0⟩
/-- MOV_c_BYTES_WR, R179 -/
def F.MOV_BYTES_WR_BYTES : Fld := ⟨0x06, 0x0138, 0, 1, 0, 64, .ro, some 0⟩

/-- Fields of the MOV pages. -/
def fieldsMOV : List Fld :=
  [F.MOV_CTL_RESUME, F.MOV_STATUS_INFLIGHT, F.MOV_STATUS_HALTED, F.MOV_ERR_OP,
   F.MOV_ERR_CODE, F.MOV_ERR_VALID, F.MOV_ERR_SEQ, F.MOV_ERR_TAG,
   F.MOV_BYTES_RD_BYTES, F.MOV_BYTES_WR_BYTES]

/-- XMAP_k_CMD, R251 -/
def F.XMAP_CMD_OP : Fld := ⟨0x10, 0x0100, 0, 1, 0, 4, .wo, some 0⟩
/-- XMAP_k_CMD, R251 -/
def F.XMAP_CMD_INDEX : Fld := ⟨0x10, 0x0100, 0, 1, 4, 17, .wo, some 0⟩
/-- XMAP_k_CMD, R251 -/
def F.XMAP_CMD_COUNT_M1 : Fld := ⟨0x10, 0x0100, 0, 1, 21, 12, .wo, some 0⟩
/-- XMAP_k_ARG0, R251 -/
def F.XMAP_ARG0_ENTRY : Fld := ⟨0x10, 0x0108, 0, 1, 0, 64, .rw, some 0⟩
/-- XMAP_k_ARG1, R251 -/
def F.XMAP_ARG1_EXPECTED : Fld := ⟨0x10, 0x0110, 0, 1, 0, 64, .rw, some 0⟩
/-- XMAP_k_STATUS, R251 -/
def F.XMAP_STATUS_BUSY : Fld := ⟨0x10, 0x0118, 0, 1, 0, 1, .ro, some 0⟩
/-- XMAP_k_STATUS, R251 -/
def F.XMAP_STATUS_RESULT : Fld := ⟨0x10, 0x0118, 0, 1, 1, 3, .ro, some 0⟩
/-- XMAP_k_STATUS, R251 -/
def F.XMAP_STATUS_OVERRUN : Fld := ⟨0x10, 0x0118, 0, 1, 4, 1, .w1c, some 0⟩
/-- XMAP_k_STATUS, R251 -/
def F.XMAP_STATUS_FAIL_INDEX : Fld := ⟨0x10, 0x0118, 0, 1, 5, 18, .ro, some 0⟩
/-- XMAP_k_READ_IDX, R251 -/
def F.XMAP_READ_IDX_INDEX : Fld := ⟨0x10, 0x0120, 0, 1, 0, 17, .rw, some 0⟩
/-- XMAP_k_READ_LO, R251 -/
def F.XMAP_READ_LO_ENTRY_LO : Fld := ⟨0x10, 0x0128, 0, 1, 0, 64, .ro, some 0⟩
/-- XMAP_k_READ_HI, R251 -/
def F.XMAP_READ_HI_ENTRY_HI : Fld := ⟨0x10, 0x0130, 0, 1, 0, 64, .ro, some 0⟩
/-- XMAP_k_FREE, R251 -/
def F.XMAP_FREE_COUNT : Fld := ⟨0x10, 0x0138, 0, 1, 0, 18, .ro, some 0⟩
/-- XMAP_k_DIGEST_FAILS, R251 -/
def F.XMAP_DIGEST_FAILS_COUNT : Fld := ⟨0x10, 0x0140, 0, 1, 0, 16, .w1c, some 0⟩

/-- Fields of the XMAP pages. -/
def fieldsXMAP : List Fld :=
  [F.XMAP_CMD_OP, F.XMAP_CMD_INDEX, F.XMAP_CMD_COUNT_M1, F.XMAP_ARG0_ENTRY,
   F.XMAP_ARG1_EXPECTED, F.XMAP_STATUS_BUSY, F.XMAP_STATUS_RESULT, F.XMAP_STATUS_OVERRUN,
   F.XMAP_STATUS_FAIL_INDEX, F.XMAP_READ_IDX_INDEX, F.XMAP_READ_LO_ENTRY_LO, F.XMAP_READ_HI_ENTRY_HI,
   F.XMAP_FREE_COUNT, F.XMAP_DIGEST_FAILS_COUNT]

/-- STK_s_CTL, R250 -/
def F.STK_CTL_TARGET : Fld := ⟨0x11, 0x0100, 0, 1, 0, 2, .rw, some 0⟩
/-- STK_s_CTL, R250 -/
def F.STK_CTL_AUTO_IDLE : Fld := ⟨0x11, 0x0100, 0, 1, 2, 1, .rw, some 1⟩
/-- STK_s_STATUS, R250 -/
def F.STK_STATUS_PSTATE : Fld := ⟨0x11, 0x0108, 0, 1, 0, 2, .ro, some 0⟩
/-- STK_s_STATUS, R250 -/
def F.STK_STATUS_THROTTLE : Fld := ⟨0x11, 0x0108, 0, 1, 2, 1, .ro, some 0⟩
/-- STK_s_STATUS, R250 -/
def F.STK_STATUS_REFRESH_2X : Fld := ⟨0x11, 0x0108, 0, 1, 3, 1, .ro, some 0⟩
/-- STK_s_STATUS, R250 -/
def F.STK_STATUS_FW_OK : Fld := ⟨0x11, 0x0108, 0, 1, 4, 1, .ro, some 0⟩
/-- STK_s_ECC_COUNT, R250 -/
def F.STK_ECC_COUNT_CORRECTED : Fld := ⟨0x11, 0x0110, 0, 1, 0, 32, .w1c, some 0⟩
/-- STK_s_ECC_COUNT, R250 -/
def F.STK_ECC_COUNT_UNCORRECTED : Fld := ⟨0x11, 0x0110, 0, 1, 32, 16, .w1c, some 0⟩
/-- STK_s_ECC_COUNT, R250 -/
def F.STK_ECC_COUNT_LINK_RETRY : Fld := ⟨0x11, 0x0110, 0, 1, 48, 16, .w1c, some 0⟩
/-- STK_s_ECC_LAST, R250 -/
def F.STK_ECC_LAST_LINE : Fld := ⟨0x11, 0x0118, 0, 1, 0, 35, .ro, some 0⟩
/-- STK_s_ECC_LAST, R250 -/
def F.STK_ECC_LAST_VALID : Fld := ⟨0x11, 0x0118, 0, 1, 35, 1, .w1c, some 0⟩
/-- STK_s_PATROL, R250 -/
def F.STK_PATROL_PERIOD : Fld := ⟨0x11, 0x0120, 0, 1, 0, 8, .rw, some 24⟩
/-- STK_s_PATROL, R250 -/
def F.STK_PATROL_RECHECK : Fld := ⟨0x11, 0x0120, 0, 1, 8, 4, .rw, some 1⟩
/-- STK_s_PATROL_POS, R250 -/
def F.STK_PATROL_POS_EXTENT : Fld := ⟨0x11, 0x0128, 0, 1, 0, 14, .ro, some 0⟩
/-- STK_s_PATROL_POS, R250 -/
def F.STK_PATROL_POS_PASSES : Fld := ⟨0x11, 0x0128, 0, 1, 14, 16, .ro, some 0⟩
/-- STK_s_SPARE, R250 -/
def F.STK_SPARE_RECORDS : Fld := ⟨0x11, 0x0130, 0, 1, 0, 13, .ro, none⟩
/-- STK_s_SPARE, R250 -/
def F.STK_SPARE_FULL : Fld := ⟨0x11, 0x0130, 0, 1, 13, 1, .ro, none⟩
/-- STK_s_TEMP, R250 -/
def F.STK_TEMP_DRAM_MAX : Fld := ⟨0x11, 0x0138, 0, 1, 0, 8, .ro, some 0⟩
/-- STK_s_TEMP, R250 -/
def F.STK_TEMP_LOGIC : Fld := ⟨0x11, 0x0138, 0, 1, 8, 8, .ro, some 0⟩
/-- STK_s_TEMP, R250 -/
def F.STK_TEMP_HOT_DIE : Fld := ⟨0x11, 0x0138, 0, 1, 16, 4, .ro, some 0⟩
/-- STK_s_ERASE_q, R250 -/
def F.STK_ERASE_DIE_0 : Fld := ⟨0x11, 0x0140, 8, 4, 0, 4, .ro, none⟩
/-- STK_s_ERASE_q, R250 -/
def F.STK_ERASE_DIE_1 : Fld := ⟨0x11, 0x0140, 8, 4, 8, 4, .ro, none⟩
/-- STK_s_ERASE_q, R250 -/
def F.STK_ERASE_DIE_2 : Fld := ⟨0x11, 0x0140, 8, 4, 16, 4, .ro, none⟩
/-- STK_s_ERASE_q, R250 -/
def F.STK_ERASE_DIE_3 : Fld := ⟨0x11, 0x0140, 8, 4, 24, 4, .ro, none⟩
/-- STK_s_ERASE_q, R250 -/
def F.STK_ERASE_DIE_4 : Fld := ⟨0x11, 0x0140, 8, 4, 32, 4, .ro, none⟩
/-- STK_s_ERASE_q, R250 -/
def F.STK_ERASE_DIE_5 : Fld := ⟨0x11, 0x0140, 8, 4, 40, 4, .ro, none⟩
/-- STK_s_ERASE_q, R250 -/
def F.STK_ERASE_DIE_6 : Fld := ⟨0x11, 0x0140, 8, 4, 48, 4, .ro, none⟩
/-- STK_s_ERASE_q, R250 -/
def F.STK_ERASE_DIE_7 : Fld := ⟨0x11, 0x0140, 8, 4, 56, 4, .ro, none⟩
/-- STK_s_ERASE_q, R250 -/
def F.STK_ERASE_VALID_0 : Fld := ⟨0x11, 0x0140, 8, 4, 4, 1, .ro, none⟩
/-- STK_s_ERASE_q, R250 -/
def F.STK_ERASE_VALID_1 : Fld := ⟨0x11, 0x0140, 8, 4, 12, 1, .ro, none⟩
/-- STK_s_ERASE_q, R250 -/
def F.STK_ERASE_VALID_2 : Fld := ⟨0x11, 0x0140, 8, 4, 20, 1, .ro, none⟩
/-- STK_s_ERASE_q, R250 -/
def F.STK_ERASE_VALID_3 : Fld := ⟨0x11, 0x0140, 8, 4, 28, 1, .ro, none⟩
/-- STK_s_ERASE_q, R250 -/
def F.STK_ERASE_VALID_4 : Fld := ⟨0x11, 0x0140, 8, 4, 36, 1, .ro, none⟩
/-- STK_s_ERASE_q, R250 -/
def F.STK_ERASE_VALID_5 : Fld := ⟨0x11, 0x0140, 8, 4, 44, 1, .ro, none⟩
/-- STK_s_ERASE_q, R250 -/
def F.STK_ERASE_VALID_6 : Fld := ⟨0x11, 0x0140, 8, 4, 52, 1, .ro, none⟩
/-- STK_s_ERASE_q, R250 -/
def F.STK_ERASE_VALID_7 : Fld := ⟨0x11, 0x0140, 8, 4, 60, 1, .ro, none⟩
/-- STK_s_BYTES_RD, R250 -/
def F.STK_BYTES_RD_BYTES : Fld := ⟨0x11, 0x0160, 0, 1, 0, 64, .ro, some 0⟩
/-- STK_s_BYTES_WR, R250 -/
def F.STK_BYTES_WR_BYTES : Fld := ⟨0x11, 0x0168, 0, 1, 0, 64, .ro, some 0⟩

/-- Fields of the STK pages. -/
def fieldsSTK0 : List Fld :=
  [F.STK_CTL_TARGET, F.STK_CTL_AUTO_IDLE, F.STK_STATUS_PSTATE, F.STK_STATUS_THROTTLE,
   F.STK_STATUS_REFRESH_2X, F.STK_STATUS_FW_OK, F.STK_ECC_COUNT_CORRECTED, F.STK_ECC_COUNT_UNCORRECTED,
   F.STK_ECC_COUNT_LINK_RETRY, F.STK_ECC_LAST_LINE, F.STK_ECC_LAST_VALID, F.STK_PATROL_PERIOD,
   F.STK_PATROL_RECHECK, F.STK_PATROL_POS_EXTENT, F.STK_PATROL_POS_PASSES, F.STK_SPARE_RECORDS,
   F.STK_SPARE_FULL, F.STK_TEMP_DRAM_MAX, F.STK_TEMP_LOGIC, F.STK_TEMP_HOT_DIE,
   F.STK_ERASE_DIE_0, F.STK_ERASE_DIE_1, F.STK_ERASE_DIE_2, F.STK_ERASE_DIE_3]
/-- Fields of the STK pages. -/
def fieldsSTK1 : List Fld :=
  [F.STK_ERASE_DIE_4, F.STK_ERASE_DIE_5, F.STK_ERASE_DIE_6, F.STK_ERASE_DIE_7,
   F.STK_ERASE_VALID_0, F.STK_ERASE_VALID_1, F.STK_ERASE_VALID_2, F.STK_ERASE_VALID_3,
   F.STK_ERASE_VALID_4, F.STK_ERASE_VALID_5, F.STK_ERASE_VALID_6, F.STK_ERASE_VALID_7,
   F.STK_BYTES_RD_BYTES, F.STK_BYTES_WR_BYTES]
/-- All fields of the STK pages. -/
def fieldsSTK : List Fld := fieldsSTK0 ++ fieldsSTK1

/-- RING_CMD, R348 -/
def F.RING_CMD_OP : Fld := ⟨0x12, 0x0100, 0, 1, 0, 3, .wo, some 0⟩
/-- RING_CMD, R348 -/
def F.RING_CMD_RING : Fld := ⟨0x12, 0x0100, 0, 1, 3, 18, .wo, some 0⟩
/-- RING_STATUS, R348 -/
def F.RING_STATUS_BUSY : Fld := ⟨0x12, 0x0108, 0, 1, 0, 1, .ro, some 0⟩
/-- RING_STATUS, R348 -/
def F.RING_STATUS_RESULT : Fld := ⟨0x12, 0x0108, 0, 1, 1, 3, .ro, some 0⟩
/-- RING_STATUS, R348 -/
def F.RING_STATUS_OVERRUN : Fld := ⟨0x12, 0x0108, 0, 1, 4, 1, .w1c, some 0⟩
/-- RING_ARG_i, R348 -/
def F.RING_ARG_WORD : Fld := ⟨0x12, 0x0110, 8, 4, 0, 64, .rw, some 0⟩
/-- RING_READ_IDX, R348 -/
def F.RING_READ_IDX_RING : Fld := ⟨0x12, 0x0130, 0, 1, 0, 18, .rw, some 0⟩
/-- RING_READ_i, R348 -/
def F.RING_READ_WORD : Fld := ⟨0x12, 0x0138, 8, 4, 0, 64, .ro, some 0⟩
/-- RING_ERR, R348 -/
def F.RING_ERR_RING : Fld := ⟨0x12, 0x0158, 0, 1, 0, 18, .ro, some 0⟩
/-- RING_ERR, R348 -/
def F.RING_ERR_CAUSE : Fld := ⟨0x12, 0x0158, 0, 1, 18, 4, .ro, some 0⟩
/-- RING_ERR, R348 -/
def F.RING_ERR_VALID : Fld := ⟨0x12, 0x0158, 0, 1, 22, 1, .w1c, some 0⟩
/-- RING_ERR, R348 -/
def F.RING_ERR_OVERFLOW : Fld := ⟨0x12, 0x0158, 0, 1, 23, 1, .ro, some 0⟩
/-- RING_ERR, R348 -/
def F.RING_ERR_SRC_DEVICE : Fld := ⟨0x12, 0x0158, 0, 1, 24, 20, .ro, some 0⟩
/-- RING_COUNTS, R348 -/
def F.RING_COUNTS_FREE : Fld := ⟨0x12, 0x0160, 0, 1, 0, 19, .ro, some 262144⟩
/-- RING_COUNTS, R348 -/
def F.RING_COUNTS_QP : Fld := ⟨0x12, 0x0160, 0, 1, 19, 15, .ro, some 0⟩

/-- Fields of the RING pages. -/
def fieldsRING : List Fld :=
  [F.RING_CMD_OP, F.RING_CMD_RING, F.RING_STATUS_BUSY, F.RING_STATUS_RESULT,
   F.RING_STATUS_OVERRUN, F.RING_ARG_WORD, F.RING_READ_IDX_RING, F.RING_READ_WORD,
   F.RING_ERR_RING, F.RING_ERR_CAUSE, F.RING_ERR_VALID, F.RING_ERR_OVERFLOW,
   F.RING_ERR_SRC_DEVICE, F.RING_COUNTS_FREE, F.RING_COUNTS_QP]

/-- PL_n_CTL, R317 -/
def F.PL_CTL_EN : Fld := ⟨0x20, 0x0100, 0, 1, 0, 1, .rw, none⟩
/-- PL_n_CTL, R317 -/
def F.PL_CTL_HALF_ONLY : Fld := ⟨0x20, 0x0100, 0, 1, 1, 1, .rw, some 0⟩
/-- PL_n_STATUS, R317 -/
def F.PL_STATUS_STATE : Fld := ⟨0x20, 0x0108, 0, 1, 0, 3, .ro, some 0⟩
/-- PL_n_STATUS, R317 -/
def F.PL_STATUS_WIDTH : Fld := ⟨0x20, 0x0108, 0, 1, 3, 2, .ro, some 0⟩
/-- PL_n_STATUS, R317 -/
def F.PL_STATUS_CAUSE : Fld := ⟨0x20, 0x0108, 0, 1, 5, 4, .ro, some 0⟩
/-- PL_n_STATUS, R317 -/
def F.PL_STATUS_SHARE_ERR : Fld := ⟨0x20, 0x0108, 0, 1, 9, 1, .w1c, some 0⟩
/-- PL_n_STATUS, R317 -/
def F.PL_STATUS_SHARE_PENDING : Fld := ⟨0x20, 0x0108, 0, 1, 10, 1, .ro, some 0⟩
/-- PL_n_PARTNER, R317 -/
def F.PL_PARTNER_DEVICE : Fld := ⟨0x20, 0x0110, 0, 1, 0, 20, .ro, some 0⟩
/-- PL_n_PARTNER, R317 -/
def F.PL_PARTNER_PORT : Fld := ⟨0x20, 0x0110, 0, 1, 20, 4, .ro, some 0⟩
/-- PL_n_PARTNER, R317 -/
def F.PL_PARTNER_VALID : Fld := ⟨0x20, 0x0110, 0, 1, 24, 1, .ro, some 0⟩
/-- PL_n_EXPECT, R317 -/
def F.PL_EXPECT_DEVICE : Fld := ⟨0x20, 0x0118, 0, 1, 0, 20, .rw, none⟩
/-- PL_n_EXPECT, R317 -/
def F.PL_EXPECT_PORT : Fld := ⟨0x20, 0x0118, 0, 1, 20, 4, .rw, none⟩
/-- PL_n_ERR_COUNT, R317 -/
def F.PL_ERR_COUNT_FEC_CORR : Fld := ⟨0x20, 0x0120, 0, 1, 0, 32, .w1c, some 0⟩
/-- PL_n_ERR_COUNT, R317 -/
def F.PL_ERR_COUNT_FEC_UNCORR : Fld := ⟨0x20, 0x0120, 0, 1, 32, 16, .w1c, some 0⟩
/-- PL_n_ERR_COUNT, R317 -/
def F.PL_ERR_COUNT_CRC_FAIL : Fld := ⟨0x20, 0x0120, 0, 1, 48, 16, .w1c, some 0⟩
/-- PL_n_REPLAY, R317 -/
def F.PL_REPLAY_REPLAYS : Fld := ⟨0x20, 0x0128, 0, 1, 0, 32, .w1c, some 0⟩
/-- PL_n_REPLAY, R317 -/
def F.PL_REPLAY_DOWNS : Fld := ⟨0x20, 0x0128, 0, 1, 32, 16, .w1c, some 0⟩
/-- PL_n_REPLAY, R317 -/
def F.PL_REPLAY_RESENT : Fld := ⟨0x20, 0x0128, 0, 1, 48, 16, .w1c, some 0⟩
/-- PL_n_DELAY, R317 -/
def F.PL_DELAY_DELAY : Fld := ⟨0x20, 0x0130, 0, 1, 0, 24, .ro, some 0⟩
/-- PL_n_FLITS_TX, R317 -/
def F.PL_FLITS_TX_FLITS : Fld := ⟨0x20, 0x0138, 0, 1, 0, 64, .ro, some 0⟩
/-- PL_n_FLITS_RX, R317 -/
def F.PL_FLITS_RX_FLITS : Fld := ⟨0x20, 0x0140, 0, 1, 0, 64, .ro, some 0⟩
/-- PL_n_SHARE_i, R317 -/
def F.PL_SHARE_JOB : Fld := ⟨0x20, 0x0200, 8, 32, 0, 16, .rw, none⟩
/-- PL_n_SHARE_i, R317 -/
def F.PL_SHARE_WEIGHT : Fld := ⟨0x20, 0x0200, 8, 32, 16, 8, .rw, none⟩
/-- PL_n_SHARE_i, R317 -/
def F.PL_SHARE_CREDITS : Fld := ⟨0x20, 0x0200, 8, 32, 24, 12, .rw, none⟩

/-- Fields of the PL pages. -/
def fieldsPL : List Fld :=
  [F.PL_CTL_EN, F.PL_CTL_HALF_ONLY, F.PL_STATUS_STATE, F.PL_STATUS_WIDTH,
   F.PL_STATUS_CAUSE, F.PL_STATUS_SHARE_ERR, F.PL_STATUS_SHARE_PENDING, F.PL_PARTNER_DEVICE,
   F.PL_PARTNER_PORT, F.PL_PARTNER_VALID, F.PL_EXPECT_DEVICE, F.PL_EXPECT_PORT,
   F.PL_ERR_COUNT_FEC_CORR, F.PL_ERR_COUNT_FEC_UNCORR, F.PL_ERR_COUNT_CRC_FAIL, F.PL_REPLAY_REPLAYS,
   F.PL_REPLAY_DOWNS, F.PL_REPLAY_RESENT, F.PL_DELAY_DELAY, F.PL_FLITS_TX_FLITS,
   F.PL_FLITS_RX_FLITS, F.PL_SHARE_JOB, F.PL_SHARE_WEIGHT, F.PL_SHARE_CREDITS]

/-- FAB_CTL, R318 -/
def F.FAB_CTL_DEVICE_ID : Fld := ⟨0x21, 0x0100, 0, 1, 0, 20, .rw, none⟩
/-- FAB_CTL, R318 -/
def F.FAB_CTL_MODE : Fld := ⟨0x21, 0x0100, 0, 1, 20, 1, .rw, none⟩
/-- FAB_STATUS, R318 -/
def F.FAB_STATUS_PORTS_UP : Fld := ⟨0x21, 0x0108, 0, 1, 0, 16, .ro, some 0⟩
/-- FAB_RT_IDX, R318 -/
def F.FAB_RT_IDX_INDEX : Fld := ⟨0x21, 0x0110, 0, 1, 0, 12, .rw, some 0⟩
/-- FAB_RT_IDX, R318 -/
def F.FAB_RT_IDX_POD_TABLE : Fld := ⟨0x21, 0x0110, 0, 1, 12, 1, .rw, some 0⟩
/-- FAB_RT_DATA, R318 -/
def F.FAB_RT_DATA_ENTRY : Fld := ⟨0x21, 0x0118, 0, 1, 0, 64, .wo, some 0⟩
/-- FAB_RT_READ, R318 -/
def F.FAB_RT_READ_ENTRY : Fld := ⟨0x21, 0x0120, 0, 1, 0, 64, .ro, some 0⟩
/-- FAB_DROPS, R318 -/
def F.FAB_DROPS_DUP : Fld := ⟨0x21, 0x0128, 0, 1, 0, 16, .w1c, some 0⟩
/-- FAB_DROPS, R318 -/
def F.FAB_DROPS_REORDER : Fld := ⟨0x21, 0x0128, 0, 1, 16, 12, .w1c, some 0⟩
/-- FAB_DROPS, R318 -/
def F.FAB_DROPS_NO_ROUTE : Fld := ⟨0x21, 0x0128, 0, 1, 28, 12, .w1c, some 0⟩
/-- FAB_DROPS, R318 -/
def F.FAB_DROPS_NO_SHARE : Fld := ⟨0x21, 0x0128, 0, 1, 40, 12, .w1c, some 0⟩
/-- FAB_DROPS, R318 -/
def F.FAB_DROPS_FLOWS : Fld := ⟨0x21, 0x0128, 0, 1, 52, 6, .w1c, some 0⟩
/-- FAB_DROPS, R318 -/
def F.FAB_DROPS_BAD : Fld := ⟨0x21, 0x0128, 0, 1, 58, 6, .w1c, some 0⟩
/-- FAB_TIME_SYNC, R318 -/
def F.FAB_TIME_SYNC_HOPS : Fld := ⟨0x21, 0x0130, 0, 1, 0, 8, .ro, some 255⟩
/-- FAB_TIME_SYNC, R318 -/
def F.FAB_TIME_SYNC_SOURCE_PORT : Fld := ⟨0x21, 0x0130, 0, 1, 8, 4, .ro, some 0⟩
/-- FAB_TIME_SYNC, R318 -/
def F.FAB_TIME_SYNC_HOLDOVER : Fld := ⟨0x21, 0x0130, 0, 1, 12, 1, .ro, some 1⟩
/-- FAB_TIME_SYNC, R318 -/
def F.FAB_TIME_SYNC_ROOT : Fld := ⟨0x21, 0x0130, 0, 1, 13, 1, .ro, some 0⟩
/-- FAB_TIME_SYNC, R318 -/
def F.FAB_TIME_SYNC_OFFSET : Fld := ⟨0x21, 0x0130, 0, 1, 32, 32, .ro, some 0⟩
/-- FAB_TRANSIT_FLITS, R318 -/
def F.FAB_TRANSIT_FLITS_FLITS : Fld := ⟨0x21, 0x0138, 0, 1, 0, 64, .ro, some 0⟩

/-- Fields of the FAB pages. -/
def fieldsFAB : List Fld :=
  [F.FAB_CTL_DEVICE_ID, F.FAB_CTL_MODE, F.FAB_STATUS_PORTS_UP, F.FAB_RT_IDX_INDEX,
   F.FAB_RT_IDX_POD_TABLE, F.FAB_RT_DATA_ENTRY, F.FAB_RT_READ_ENTRY, F.FAB_DROPS_DUP,
   F.FAB_DROPS_REORDER, F.FAB_DROPS_NO_ROUTE, F.FAB_DROPS_NO_SHARE, F.FAB_DROPS_FLOWS,
   F.FAB_DROPS_BAD, F.FAB_TIME_SYNC_HOPS, F.FAB_TIME_SYNC_SOURCE_PORT, F.FAB_TIME_SYNC_HOLDOVER,
   F.FAB_TIME_SYNC_ROOT, F.FAB_TIME_SYNC_OFFSET, F.FAB_TRANSIT_FLITS_FLITS]

/-- HOST_CTL, R371 -/
def F.HOST_CTL_EN : Fld := ⟨0x28, 0x0100, 0, 1, 0, 1, .rw, none⟩
/-- HOST_CTL, R371 -/
def F.HOST_CTL_SPEED : Fld := ⟨0x28, 0x0100, 0, 1, 1, 1, .rw, none⟩
/-- HOST_STATUS, R371 -/
def F.HOST_STATUS_LINK : Fld := ⟨0x28, 0x0108, 0, 1, 0, 1, .ro, some 0⟩
/-- HOST_STATUS, R371 -/
def F.HOST_STATUS_SPEED : Fld := ⟨0x28, 0x0108, 0, 1, 1, 1, .ro, some 0⟩
/-- HOST_STATUS, R371 -/
def F.HOST_STATUS_DEV_SESSIONS : Fld := ⟨0x28, 0x0108, 0, 1, 2, 4, .ro, some 0⟩
/-- HOST_MAC, R371 -/
def F.HOST_MAC_MAC : Fld := ⟨0x28, 0x0110, 0, 1, 0, 48, .ro, none⟩
/-- HOST_IP4, R371 -/
def F.HOST_IP4_ADDR : Fld := ⟨0x28, 0x0118, 0, 1, 0, 32, .rw, none⟩
/-- HOST_IP6_LO, R371 -/
def F.HOST_IP6_LO_ADDR : Fld := ⟨0x28, 0x0120, 0, 1, 0, 64, .rw, none⟩
/-- HOST_IP6_HI, R371 -/
def F.HOST_IP6_HI_ADDR : Fld := ⟨0x28, 0x0128, 0, 1, 0, 64, .rw, none⟩
/-- HOST_NET, R371 -/
def F.HOST_NET_VLAN : Fld := ⟨0x28, 0x0130, 0, 1, 0, 12, .rw, none⟩
/-- HOST_NET, R371 -/
def F.HOST_NET_PCP : Fld := ⟨0x28, 0x0130, 0, 1, 12, 3, .rw, none⟩
/-- HOST_NET, R371 -/
def F.HOST_NET_DSCP : Fld := ⟨0x28, 0x0130, 0, 1, 15, 6, .rw, none⟩
/-- HOST_NET, R371 -/
def F.HOST_NET_PFC_EN : Fld := ⟨0x28, 0x0130, 0, 1, 21, 1, .rw, some 0⟩
/-- HOST_NET, R371 -/
def F.HOST_NET_PFC_PRIO : Fld := ⟨0x28, 0x0130, 0, 1, 22, 3, .rw, some 3⟩
/-- HOST_DCP, R371 -/
def F.HOST_DCP_IDLE : Fld := ⟨0x28, 0x0138, 0, 1, 0, 16, .rw, some 60⟩
/-- HOST_DCP, R371 -/
def F.HOST_DCP_NOTIFY_GAP : Fld := ⟨0x28, 0x0138, 0, 1, 16, 10, .rw, some 10⟩
/-- HOST_CC, R371 -/
def F.HOST_CC_G : Fld := ⟨0x28, 0x0140, 0, 1, 0, 8, .rw, some 4⟩
/-- HOST_CC, R371 -/
def F.HOST_CC_T_INC : Fld := ⟨0x28, 0x0140, 0, 1, 8, 16, .rw, some 300⟩
/-- HOST_CC, R371 -/
def F.HOST_CC_MIN_RATE : Fld := ⟨0x28, 0x0140, 0, 1, 24, 16, .rw, some 10⟩
/-- HOST_PTP, R371 -/
def F.HOST_PTP_DOMAIN : Fld := ⟨0x28, 0x0148, 0, 1, 0, 8, .rw, some 0⟩
/-- HOST_PTP, R371 -/
def F.HOST_PTP_HOLDOVER : Fld := ⟨0x28, 0x0148, 0, 1, 8, 1, .ro, some 1⟩
/-- HOST_PTP, R371 -/
def F.HOST_PTP_OFFSET : Fld := ⟨0x28, 0x0148, 0, 1, 32, 32, .ro, some 0⟩
/-- HOST_ERR, R371 -/
def F.HOST_ERR_DCP_AUTH : Fld := ⟨0x28, 0x0150, 0, 1, 0, 16, .w1c, some 0⟩
/-- HOST_ERR, R371 -/
def F.HOST_ERR_DCP_SEQ : Fld := ⟨0x28, 0x0150, 0, 1, 16, 16, .w1c, some 0⟩
/-- HOST_ERR, R371 -/
def F.HOST_ERR_QP_ERRORS : Fld := ⟨0x28, 0x0150, 0, 1, 32, 16, .w1c, some 0⟩
/-- HOST_ERR, R371 -/
def F.HOST_ERR_CNP_RX : Fld := ⟨0x28, 0x0150, 0, 1, 48, 16, .w1c, some 0⟩
/-- HOST_PEER_IDX, R371 -/
def F.HOST_PEER_IDX_INDEX : Fld := ⟨0x28, 0x0158, 0, 1, 0, 12, .rw, some 0⟩
/-- HOST_PEER_LO, R371 -/
def F.HOST_PEER_LO_ADDR : Fld := ⟨0x28, 0x0160, 0, 1, 0, 64, .rw, some 0⟩
/-- HOST_PEER_HI, R371 -/
def F.HOST_PEER_HI_ADDR : Fld := ⟨0x28, 0x0168, 0, 1, 0, 64, .rw, some 0⟩
/-- HOST_PEER_MAC, R371 -/
def F.HOST_PEER_MAC_MAC : Fld := ⟨0x28, 0x0170, 0, 1, 0, 48, .rw, some 0⟩
/-- HOST_BYTES_RX, R371 -/
def F.HOST_BYTES_RX_BYTES : Fld := ⟨0x28, 0x0178, 0, 1, 0, 64, .ro, some 0⟩
/-- HOST_BYTES_TX, R371 -/
def F.HOST_BYTES_TX_BYTES : Fld := ⟨0x28, 0x0180, 0, 1, 0, 64, .ro, some 0⟩
/-- HOST_RKEY_SYS, R371 -/
def F.HOST_RKEY_SYS_KEY : Fld := ⟨0x28, 0x0188, 0, 1, 0, 32, .wo, some 0⟩
/-- HOST_RKEY_p, R371 -/
def F.HOST_RKEY_KEY : Fld := ⟨0x28, 0x0400, 8, 64, 0, 32, .rw, some 0⟩

/-- Fields of the HOST pages. -/
def fieldsHOST0 : List Fld :=
  [F.HOST_CTL_EN, F.HOST_CTL_SPEED, F.HOST_STATUS_LINK, F.HOST_STATUS_SPEED,
   F.HOST_STATUS_DEV_SESSIONS, F.HOST_MAC_MAC, F.HOST_IP4_ADDR, F.HOST_IP6_LO_ADDR,
   F.HOST_IP6_HI_ADDR, F.HOST_NET_VLAN, F.HOST_NET_PCP, F.HOST_NET_DSCP,
   F.HOST_NET_PFC_EN, F.HOST_NET_PFC_PRIO, F.HOST_DCP_IDLE, F.HOST_DCP_NOTIFY_GAP,
   F.HOST_CC_G, F.HOST_CC_T_INC, F.HOST_CC_MIN_RATE, F.HOST_PTP_DOMAIN,
   F.HOST_PTP_HOLDOVER, F.HOST_PTP_OFFSET, F.HOST_ERR_DCP_AUTH, F.HOST_ERR_DCP_SEQ]
/-- Fields of the HOST pages. -/
def fieldsHOST1 : List Fld :=
  [F.HOST_ERR_QP_ERRORS, F.HOST_ERR_CNP_RX, F.HOST_PEER_IDX_INDEX, F.HOST_PEER_LO_ADDR,
   F.HOST_PEER_HI_ADDR, F.HOST_PEER_MAC_MAC, F.HOST_BYTES_RX_BYTES, F.HOST_BYTES_TX_BYTES,
   F.HOST_RKEY_SYS_KEY, F.HOST_RKEY_KEY]
/-- All fields of the HOST pages. -/
def fieldsHOST : List Fld := fieldsHOST0 ++ fieldsHOST1

/-- PART_p_CMD, R283 -/
def F.PART_CMD_OP : Fld := ⟨0x30, 0x0100, 0, 1, 0, 4, .wo, some 0⟩
/-- PART_p_CMD, R283 -/
def F.PART_CMD_CORE : Fld := ⟨0x30, 0x0100, 0, 1, 4, 8, .wo, some 0⟩
/-- PART_p_CMD, R283 -/
def F.PART_CMD_TARGET : Fld := ⟨0x30, 0x0100, 0, 1, 12, 6, .wo, some 0⟩
/-- PART_p_STATUS, R283 -/
def F.PART_STATUS_STATE : Fld := ⟨0x30, 0x0108, 0, 1, 0, 3, .ro, some 0⟩
/-- PART_p_STATUS, R283 -/
def F.PART_STATUS_BUSY : Fld := ⟨0x30, 0x0108, 0, 1, 3, 1, .ro, some 0⟩
/-- PART_p_STATUS, R283 -/
def F.PART_STATUS_RESULT : Fld := ⟨0x30, 0x0108, 0, 1, 4, 4, .ro, some 0⟩
/-- PART_p_STATUS, R283 -/
def F.PART_STATUS_OVERRUN : Fld := ⟨0x30, 0x0108, 0, 1, 8, 1, .w1c, some 0⟩
/-- PART_p_STATUS, R283 -/
def F.PART_STATUS_CTX_OVERRUN : Fld := ⟨0x30, 0x0108, 0, 1, 9, 1, .w1c, some 0⟩
/-- PART_p_CONFIG, R283 -/
def F.PART_CONFIG_SLOTS : Fld := ⟨0x30, 0x0110, 0, 1, 0, 3, .rw, some 4⟩
/-- PART_p_CONFIG, R283 -/
def F.PART_CONFIG_WINDOW : Fld := ⟨0x30, 0x0110, 0, 1, 3, 7, .rw, some 24⟩
/-- PART_p_CONFIG, R283 -/
def F.PART_CONFIG_SERVING : Fld := ⟨0x30, 0x0110, 0, 1, 10, 1, .rw, some 0⟩
/-- PART_p_CONFIG, R283 -/
def F.PART_CONFIG_RECALL_LIMIT : Fld := ⟨0x30, 0x0110, 0, 1, 11, 10, .rw, some 10⟩
/-- PART_p_RINGS, R283 -/
def F.PART_RINGS_EVENT_RING : Fld := ⟨0x30, 0x0118, 0, 1, 0, 18, .rw, some 0⟩
/-- PART_p_RINGS, R283 -/
def F.PART_RINGS_SEQ_RING : Fld := ⟨0x30, 0x0118, 0, 1, 18, 18, .rw, some 0⟩
/-- PART_p_RINGS, R283 -/
def F.PART_RINGS_STEP_RING : Fld := ⟨0x30, 0x0118, 0, 1, 36, 18, .rw, some 0⟩
/-- PART_p_RINGS, R283 -/
def F.PART_RINGS_VALID : Fld := ⟨0x30, 0x0118, 0, 1, 54, 3, .rw, some 0⟩
/-- PART_p_SEED, R283 -/
def F.PART_SEED_SEED : Fld := ⟨0x30, 0x0120, 0, 1, 0, 64, .rw, some 0⟩
/-- PART_p_TURN, R283 -/
def F.PART_TURN_TURN : Fld := ⟨0x30, 0x0128, 0, 1, 0, 48, .rw, some 0⟩
/-- PART_p_TURN, R283 -/
def F.PART_TURN_IGNORED : Fld := ⟨0x30, 0x0128, 0, 1, 48, 16, .ro, some 0⟩
/-- PART_p_CORES_i, R283 -/
def F.PART_CORES_OWNED : Fld := ⟨0x30, 0x0130, 8, 3, 0, 64, .ro, some 0⟩
/-- PART_p_HOME_i, R283 -/
def F.PART_HOME_HOMED : Fld := ⟨0x30, 0x0148, 8, 3, 0, 64, .ro, some 0⟩
/-- PART_p_CTX_CMD, R283 -/
def F.PART_CTX_CMD_OP : Fld := ⟨0x30, 0x0160, 0, 1, 0, 3, .wo, some 0⟩
/-- PART_p_CTX_CMD, R283 -/
def F.PART_CTX_CMD_CONTEXT : Fld := ⟨0x30, 0x0160, 0, 1, 3, 16, .wo, some 0⟩
/-- PART_p_CTX_CMD, R283 -/
def F.PART_CTX_CMD_CORE : Fld := ⟨0x30, 0x0160, 0, 1, 19, 8, .wo, some 0⟩
/-- PART_p_CTX_CMD, R283 -/
def F.PART_CTX_CMD_EXTENT : Fld := ⟨0x30, 0x0160, 0, 1, 27, 19, .wo, some 0⟩
/-- PART_p_CTX_CMD, R283 -/
def F.PART_CTX_CMD_RESULT : Fld := ⟨0x30, 0x0160, 0, 1, 46, 3, .ro, some 0⟩
/-- PART_p_CTX_CMD, R283 -/
def F.PART_CTX_CMD_BUSY : Fld := ⟨0x30, 0x0160, 0, 1, 49, 1, .ro, some 0⟩
/-- PART_p_CTX_ARG, R283 -/
def F.PART_CTX_ARG_ADDR : Fld := ⟨0x30, 0x0168, 0, 1, 0, 41, .rw, some 0⟩
/-- PART_p_SCHED, R283 -/
def F.PART_SCHED_SWAPS : Fld := ⟨0x30, 0x0170, 0, 1, 0, 32, .ro, some 0⟩
/-- PART_p_SCHED, R283 -/
def F.PART_SCHED_KO_STALLS : Fld := ⟨0x30, 0x0170, 0, 1, 32, 32, .ro, some 0⟩
/-- PART_p_EVENTS_LOST, R283 -/
def F.PART_EVENTS_LOST_COUNT : Fld := ⟨0x30, 0x0178, 0, 1, 0, 32, .w1c, some 0⟩
/-- PART_p_IDLE_i, R349 -/
def F.PART_IDLE_NS : Fld := ⟨0x30, 0x0200, 8, 8, 0, 64, .ro, some 0⟩
/-- PART_p_STRAG, R349 -/
def F.PART_STRAG_INDEX : Fld := ⟨0x30, 0x0240, 0, 1, 0, 32, .ro, some 0⟩
/-- PART_p_STRAG, R349 -/
def F.PART_STRAG_THROTTLED : Fld := ⟨0x30, 0x0240, 0, 1, 32, 1, .ro, some 0⟩
/-- PART_p_STRAG, R349 -/
def F.PART_STRAG_VALID : Fld := ⟨0x30, 0x0240, 0, 1, 33, 1, .ro, some 0⟩
/-- PART_p_STRAG_TURN, R349 -/
def F.PART_STRAG_TURN_TURN : Fld := ⟨0x30, 0x0248, 0, 1, 0, 48, .ro, some 0⟩

/-- Fields of the PART pages. -/
def fieldsPART0 : List Fld :=
  [F.PART_CMD_OP, F.PART_CMD_CORE, F.PART_CMD_TARGET, F.PART_STATUS_STATE,
   F.PART_STATUS_BUSY, F.PART_STATUS_RESULT, F.PART_STATUS_OVERRUN, F.PART_STATUS_CTX_OVERRUN,
   F.PART_CONFIG_SLOTS, F.PART_CONFIG_WINDOW, F.PART_CONFIG_SERVING, F.PART_CONFIG_RECALL_LIMIT,
   F.PART_RINGS_EVENT_RING, F.PART_RINGS_SEQ_RING, F.PART_RINGS_STEP_RING, F.PART_RINGS_VALID,
   F.PART_SEED_SEED, F.PART_TURN_TURN, F.PART_TURN_IGNORED, F.PART_CORES_OWNED,
   F.PART_HOME_HOMED, F.PART_CTX_CMD_OP, F.PART_CTX_CMD_CONTEXT, F.PART_CTX_CMD_CORE]
/-- Fields of the PART pages. -/
def fieldsPART1 : List Fld :=
  [F.PART_CTX_CMD_EXTENT, F.PART_CTX_CMD_RESULT, F.PART_CTX_CMD_BUSY, F.PART_CTX_ARG_ADDR,
   F.PART_SCHED_SWAPS, F.PART_SCHED_KO_STALLS, F.PART_EVENTS_LOST_COUNT, F.PART_IDLE_NS,
   F.PART_STRAG_INDEX, F.PART_STRAG_THROTTLED, F.PART_STRAG_VALID, F.PART_STRAG_TURN_TURN]
/-- All fields of the PART pages. -/
def fieldsPART : List Fld := fieldsPART0 ++ fieldsPART1

/-- SEQ_p_RANGE, R284 -/
def F.SEQ_RANGE_BASE : Fld := ⟨0x31, 0x0100, 0, 1, 0, 14, .rw, some 0⟩
/-- SEQ_p_RANGE, R284 -/
def F.SEQ_RANGE_COUNT : Fld := ⟨0x31, 0x0100, 0, 1, 14, 15, .rw, some 0⟩
/-- SEQ_p_STEP, R284 -/
def F.SEQ_STEP_BUDGET_M1 : Fld := ⟨0x31, 0x0108, 0, 1, 0, 15, .rw, some 8191⟩
/-- SEQ_p_STEP, R284 -/
def F.SEQ_STEP_CHUNK_M1 : Fld := ⟨0x31, 0x0108, 0, 1, 15, 16, .rw, some 2047⟩
/-- SEQ_p_STEP, R284 -/
def F.SEQ_STEP_PAGE_TOKENS : Fld := ⟨0x31, 0x0108, 0, 1, 31, 12, .rw, some 256⟩
/-- SEQ_p_AREA, R284 -/
def F.SEQ_AREA_PT_EXTENT : Fld := ⟨0x31, 0x0110, 0, 1, 0, 19, .rw, some 0⟩
/-- SEQ_p_AREA, R284 -/
def F.SEQ_AREA_STEP_EXTENT : Fld := ⟨0x31, 0x0110, 0, 1, 19, 19, .rw, some 0⟩
/-- SEQ_p_POLICY, R284 -/
def F.SEQ_POLICY_OLD_GEN : Fld := ⟨0x31, 0x0118, 0, 1, 0, 1, .rw, some 0⟩
/-- SEQ_p_POLICY, R284 -/
def F.SEQ_POLICY_OLD_GEN_LIMIT : Fld := ⟨0x31, 0x0118, 0, 1, 1, 20, .rw, some 0⟩
/-- SEQ_p_STATUS, R284 -/
def F.SEQ_STATUS_LIVE : Fld := ⟨0x31, 0x0120, 0, 1, 0, 15, .ro, some 0⟩
/-- SEQ_p_STATUS, R284 -/
def F.SEQ_STATUS_QUEUED : Fld := ⟨0x31, 0x0120, 0, 1, 15, 15, .ro, some 0⟩
/-- SEQ_p_STEPNUM, R284 -/
def F.SEQ_STEPNUM_STEP : Fld := ⟨0x31, 0x0128, 0, 1, 0, 64, .ro, some 0⟩
/-- SEQ_p_PAGES, R284 -/
def F.SEQ_PAGES_FREE : Fld := ⟨0x31, 0x0130, 0, 1, 0, 23, .ro, some 0⟩
/-- SEQ_p_PAGES, R284 -/
def F.SEQ_PAGES_TOTAL : Fld := ⟨0x31, 0x0130, 0, 1, 23, 23, .ro, some 0⟩
/-- SEQ_p_COUNTS, R284 -/
def F.SEQ_COUNTS_PREEMPTS : Fld := ⟨0x31, 0x0138, 0, 1, 0, 32, .ro, some 0⟩
/-- SEQ_p_COUNTS, R284 -/
def F.SEQ_COUNTS_DEFERRED : Fld := ⟨0x31, 0x0138, 0, 1, 32, 16, .ro, some 0⟩
/-- SEQ_p_COUNTS, R284 -/
def F.SEQ_COUNTS_BAD_CMDS : Fld := ⟨0x31, 0x0138, 0, 1, 48, 16, .ro, some 0⟩
/-- SEQ_p_READ_IDX, R284 -/
def F.SEQ_READ_IDX_INDEX : Fld := ⟨0x31, 0x0140, 0, 1, 0, 14, .rw, some 0⟩
/-- SEQ_p_READ_j, R284 -/
def F.SEQ_READ_ENTRY : Fld := ⟨0x31, 0x0148, 8, 4, 0, 64, .ro, some 0⟩

/-- Fields of the SEQ pages. -/
def fieldsSEQ : List Fld :=
  [F.SEQ_RANGE_BASE, F.SEQ_RANGE_COUNT, F.SEQ_STEP_BUDGET_M1, F.SEQ_STEP_CHUNK_M1,
   F.SEQ_STEP_PAGE_TOKENS, F.SEQ_AREA_PT_EXTENT, F.SEQ_AREA_STEP_EXTENT, F.SEQ_POLICY_OLD_GEN,
   F.SEQ_POLICY_OLD_GEN_LIMIT, F.SEQ_STATUS_LIVE, F.SEQ_STATUS_QUEUED, F.SEQ_STEPNUM_STEP,
   F.SEQ_PAGES_FREE, F.SEQ_PAGES_TOTAL, F.SEQ_COUNTS_PREEMPTS, F.SEQ_COUNTS_DEFERRED,
   F.SEQ_COUNTS_BAD_CMDS, F.SEQ_READ_IDX_INDEX, F.SEQ_READ_ENTRY]

/-- GEN_p_CMD, R285 -/
def F.GEN_CMD_OP : Fld := ⟨0x32, 0x0100, 0, 1, 0, 3, .wo, some 0⟩
/-- GEN_p_CMD, R285 -/
def F.GEN_CMD_GEN : Fld := ⟨0x32, 0x0100, 0, 1, 3, 24, .wo, some 0⟩
/-- GEN_p_ARG, R285 -/
def F.GEN_ARG_MANIFEST : Fld := ⟨0x32, 0x0108, 0, 1, 0, 41, .rw, some 0⟩
/-- GEN_p_AT, R285 -/
def F.GEN_AT_AT : Fld := ⟨0x32, 0x0110, 0, 1, 0, 64, .rw, some 0⟩
/-- GEN_p_STATUS, R285 -/
def F.GEN_STATUS_BUSY : Fld := ⟨0x32, 0x0118, 0, 1, 0, 1, .ro, some 0⟩
/-- GEN_p_STATUS, R285 -/
def F.GEN_STATUS_RESULT : Fld := ⟨0x32, 0x0118, 0, 1, 1, 3, .ro, some 0⟩
/-- GEN_p_STATUS, R285 -/
def F.GEN_STATUS_OVERRUN : Fld := ⟨0x32, 0x0118, 0, 1, 4, 1, .w1c, some 0⟩
/-- GEN_p_STATUS, R285 -/
def F.GEN_STATUS_PENDING : Fld := ⟨0x32, 0x0118, 0, 1, 5, 1, .ro, some 0⟩
/-- GEN_p_LIVE, R285 -/
def F.GEN_LIVE_GEN : Fld := ⟨0x32, 0x0120, 0, 1, 0, 24, .ro, some 0⟩
/-- GEN_p_REFUSED, R285 -/
def F.GEN_REFUSED_GEN : Fld := ⟨0x32, 0x0128, 0, 1, 0, 24, .ro, some 0⟩
/-- GEN_p_REFUSED, R285 -/
def F.GEN_REFUSED_REASON : Fld := ⟨0x32, 0x0128, 0, 1, 24, 4, .ro, some 0⟩
/-- GEN_p_REFUSED, R285 -/
def F.GEN_REFUSED_SHARD : Fld := ⟨0x32, 0x0128, 0, 1, 28, 32, .ro, some 0⟩
/-- GEN_p_LOADCFG, R285 -/
def F.GEN_LOADCFG_RETRIES : Fld := ⟨0x32, 0x0130, 0, 1, 0, 4, .rw, some 3⟩
/-- GEN_p_LOADCFG, R285 -/
def F.GEN_LOADCFG_TIMEOUT : Fld := ⟨0x32, 0x0130, 0, 1, 4, 16, .rw, some 10⟩
/-- GEN_p_ENTRY_i, R285 -/
def F.GEN_ENTRY_GEN : Fld := ⟨0x32, 0x0140, 8, 8, 0, 24, .ro, some 0⟩
/-- GEN_p_ENTRY_i, R285 -/
def F.GEN_ENTRY_STATE : Fld := ⟨0x32, 0x0140, 8, 8, 24, 3, .ro, some 0⟩
/-- GEN_p_ENTRY_i, R285 -/
def F.GEN_ENTRY_REFS : Fld := ⟨0x32, 0x0140, 8, 8, 32, 24, .ro, some 0⟩
/-- GEN_p_ENTRY_i, R285 -/
def F.GEN_ENTRY_SHARDS_LEFT : Fld := ⟨0x32, 0x0140, 8, 8, 56, 8, .ro, some 0⟩

/-- Fields of the GEN pages. -/
def fieldsGEN : List Fld :=
  [F.GEN_CMD_OP, F.GEN_CMD_GEN, F.GEN_ARG_MANIFEST, F.GEN_AT_AT,
   F.GEN_STATUS_BUSY, F.GEN_STATUS_RESULT, F.GEN_STATUS_OVERRUN, F.GEN_STATUS_PENDING,
   F.GEN_LIVE_GEN, F.GEN_REFUSED_GEN, F.GEN_REFUSED_REASON, F.GEN_REFUSED_SHARD,
   F.GEN_LOADCFG_RETRIES, F.GEN_LOADCFG_TIMEOUT, F.GEN_ENTRY_GEN, F.GEN_ENTRY_STATE,
   F.GEN_ENTRY_REFS, F.GEN_ENTRY_SHARDS_LEFT]

/-- PWR_CTL, R396 -/
def F.PWR_CTL_FIRST : Fld := ⟨0x40, 0x0100, 0, 1, 0, 2, .rw, some 0⟩
/-- PWR_CTL, R396 -/
def F.PWR_CTL_SECOND : Fld := ⟨0x40, 0x0100, 0, 1, 2, 2, .rw, some 1⟩
/-- PWR_CTL, R396 -/
def F.PWR_CTL_THIRD : Fld := ⟨0x40, 0x0100, 0, 1, 4, 2, .rw, some 2⟩
/-- PWR_CAP, R396 -/
def F.PWR_CAP_SUSTAINED : Fld := ⟨0x40, 0x0108, 0, 1, 0, 9, .rw, none⟩
/-- PWR_CAP, R396 -/
def F.PWR_CAP_PEAK : Fld := ⟨0x40, 0x0108, 0, 1, 9, 9, .rw, none⟩
/-- PWR_STATUS, R396 -/
def F.PWR_STATUS_OVER : Fld := ⟨0x40, 0x0110, 0, 1, 0, 1, .ro, some 0⟩
/-- PWR_STATUS, R396 -/
def F.PWR_STATUS_UNMET : Fld := ⟨0x40, 0x0110, 0, 1, 1, 1, .w1c, some 0⟩
/-- PWR_STATUS, R396 -/
def F.PWR_STATUS_INPUT_LOW : Fld := ⟨0x40, 0x0110, 0, 1, 2, 1, .ro, some 0⟩
/-- PWR_STATUS, R396 -/
def F.PWR_STATUS_THROTTLED : Fld := ⟨0x40, 0x0110, 0, 1, 3, 1, .ro, some 0⟩
/-- PWR_MEAS, R396 -/
def F.PWR_MEAS_FAST_W : Fld := ⟨0x40, 0x0118, 0, 1, 0, 16, .ro, some 0⟩
/-- PWR_MEAS, R396 -/
def F.PWR_MEAS_AVG_W : Fld := ⟨0x40, 0x0118, 0, 1, 16, 16, .ro, some 0⟩
/-- PWR_MEAS, R396 -/
def F.PWR_MEAS_AUX_DW : Fld := ⟨0x40, 0x0118, 0, 1, 32, 16, .ro, some 0⟩
/-- PWR_INPUT, R396 -/
def F.PWR_INPUT_MAIN_MV : Fld := ⟨0x40, 0x0120, 0, 1, 0, 16, .ro, some 0⟩
/-- PWR_INPUT, R396 -/
def F.PWR_INPUT_AUX_MV : Fld := ⟨0x40, 0x0120, 0, 1, 16, 16, .ro, some 0⟩
/-- PWR_LEVELS, R396 -/
def F.PWR_LEVELS_LINK_LEVEL : Fld := ⟨0x40, 0x0128, 0, 1, 0, 4, .ro, some 8⟩
/-- PWR_LEVELS, R396 -/
def F.PWR_LEVELS_MEM_LEVEL : Fld := ⟨0x40, 0x0128, 0, 1, 4, 4, .ro, some 8⟩
/-- PWR_RAIL_IDX, R396 -/
def F.PWR_RAIL_IDX_RAIL : Fld := ⟨0x40, 0x0130, 0, 1, 0, 4, .rw, some 0⟩
/-- PWR_RAIL_ENERGY, R396 -/
def F.PWR_RAIL_ENERGY_PIPS : Fld := ⟨0x40, 0x0138, 0, 1, 0, 64, .ro, some 0⟩
/-- PWR_PACE_EN, R396 -/
def F.PWR_PACE_EN_EN : Fld := ⟨0x40, 0x0140, 0, 1, 0, 64, .rw, some 0⟩
/-- PWR_PACE_OUT, R396 -/
def F.PWR_PACE_OUT_RATE : Fld := ⟨0x40, 0x0148, 0, 1, 0, 5, .ro, some 0⟩
/-- PWR_PACE_OUT, R396 -/
def F.PWR_PACE_OUT_ACTIVE : Fld := ⟨0x40, 0x0148, 0, 1, 5, 1, .ro, some 0⟩
/-- PWR_PACE_OUT, R396 -/
def F.PWR_PACE_OUT_SEQ : Fld := ⟨0x40, 0x0148, 0, 1, 6, 32, .ro, some 0⟩
/-- PWR_PIP_TRANSIT, R396 -/
def F.PWR_PIP_TRANSIT_PIPS : Fld := ⟨0x40, 0x0150, 0, 1, 0, 64, .ro, some 0⟩
/-- PWR_PIP_DEVICE, R396 -/
def F.PWR_PIP_DEVICE_PIPS : Fld := ⟨0x40, 0x0158, 0, 1, 0, 64, .ro, some 0⟩
/-- PWR_RING_IDX, R396 -/
def F.PWR_RING_IDX_RING : Fld := ⟨0x40, 0x0160, 0, 1, 0, 18, .rw, some 0⟩
/-- PWR_RING_PIP, R396 -/
def F.PWR_RING_PIP_PIPS : Fld := ⟨0x40, 0x0168, 0, 1, 0, 64, .ro, some 0⟩
/-- PWR_PIP_p, R396 -/
def F.PWR_PIP_PIPS : Fld := ⟨0x40, 0x0400, 8, 64, 0, 64, .ro, some 0⟩

/-- Fields of the PWR pages. -/
def fieldsPWR0 : List Fld :=
  [F.PWR_CTL_FIRST, F.PWR_CTL_SECOND, F.PWR_CTL_THIRD, F.PWR_CAP_SUSTAINED,
   F.PWR_CAP_PEAK, F.PWR_STATUS_OVER, F.PWR_STATUS_UNMET, F.PWR_STATUS_INPUT_LOW,
   F.PWR_STATUS_THROTTLED, F.PWR_MEAS_FAST_W, F.PWR_MEAS_AVG_W, F.PWR_MEAS_AUX_DW,
   F.PWR_INPUT_MAIN_MV, F.PWR_INPUT_AUX_MV, F.PWR_LEVELS_LINK_LEVEL, F.PWR_LEVELS_MEM_LEVEL,
   F.PWR_RAIL_IDX_RAIL, F.PWR_RAIL_ENERGY_PIPS, F.PWR_PACE_EN_EN, F.PWR_PACE_OUT_RATE,
   F.PWR_PACE_OUT_ACTIVE, F.PWR_PACE_OUT_SEQ, F.PWR_PIP_TRANSIT_PIPS, F.PWR_PIP_DEVICE_PIPS]
/-- Fields of the PWR pages. -/
def fieldsPWR1 : List Fld :=
  [F.PWR_RING_IDX_RING, F.PWR_RING_PIP_PIPS, F.PWR_PIP_PIPS]
/-- All fields of the PWR pages. -/
def fieldsPWR : List Fld := fieldsPWR0 ++ fieldsPWR1

/-- CLK_k_CTL, R397 -/
def F.CLK_CTL_MAX : Fld := ⟨0x41, 0x0100, 0, 1, 0, 5, .rw, none⟩
/-- CLK_k_CTL, R397 -/
def F.CLK_CTL_STRETCH : Fld := ⟨0x41, 0x0100, 0, 1, 5, 2, .rw, some 1⟩
/-- CLK_k_CTL, R397 -/
def F.CLK_CTL_DROOP_MV : Fld := ⟨0x41, 0x0100, 0, 1, 7, 7, .rw, some 40⟩
/-- CLK_k_STATUS, R397 -/
def F.CLK_STATUS_CURRENT : Fld := ⟨0x41, 0x0108, 0, 1, 0, 5, .ro, some 28⟩
/-- CLK_k_STATUS, R397 -/
def F.CLK_STATUS_TARGET : Fld := ⟨0x41, 0x0108, 0, 1, 5, 5, .ro, some 28⟩
/-- CLK_k_STATUS, R397 -/
def F.CLK_STATUS_PLL : Fld := ⟨0x41, 0x0108, 0, 1, 10, 1, .ro, some 0⟩
/-- CLK_k_STATUS, R397 -/
def F.CLK_STATUS_CHANGING : Fld := ⟨0x41, 0x0108, 0, 1, 11, 1, .ro, some 0⟩
/-- CLK_k_STATUS, R397 -/
def F.CLK_STATUS_DROOP : Fld := ⟨0x41, 0x0108, 0, 1, 12, 1, .ro, some 0⟩
/-- CLK_k_STATUS, R397 -/
def F.CLK_STATUS_LIMITER : Fld := ⟨0x41, 0x0108, 0, 1, 13, 3, .ro, some 0⟩
/-- CLK_k_STATUS, R397 -/
def F.CLK_STATUS_VOLTAGE_MV : Fld := ⟨0x41, 0x0108, 0, 1, 16, 16, .ro, none⟩
/-- CLK_k_LIMITS, R397 -/
def F.CLK_LIMITS_CAP : Fld := ⟨0x41, 0x0110, 0, 1, 0, 5, .ro, some 28⟩
/-- CLK_k_LIMITS, R397 -/
def F.CLK_LIMITS_THERMAL : Fld := ⟨0x41, 0x0110, 0, 1, 5, 5, .ro, some 28⟩
/-- CLK_k_LIMITS, R397 -/
def F.CLK_LIMITS_HGU : Fld := ⟨0x41, 0x0110, 0, 1, 10, 5, .ro, some 28⟩
/-- CLK_k_LIMITS, R397 -/
def F.CLK_LIMITS_PACE : Fld := ⟨0x41, 0x0110, 0, 1, 15, 5, .ro, some 28⟩
/-- CLK_k_DROOP, R397 -/
def F.CLK_DROOP_EVENTS : Fld := ⟨0x41, 0x0118, 0, 1, 0, 32, .w1c, some 0⟩
/-- CLK_k_DROOP, R397 -/
def F.CLK_DROOP_STRETCHED : Fld := ⟨0x41, 0x0118, 0, 1, 32, 32, .w1c, some 0⟩
/-- CLK_k_CHANGES, R397 -/
def F.CLK_CHANGES_CHANGES : Fld := ⟨0x41, 0x0120, 0, 1, 0, 16, .w1c, some 0⟩
/-- CLK_k_CHANGES, R397 -/
def F.CLK_CHANGES_DEFERRED : Fld := ⟨0x41, 0x0120, 0, 1, 16, 16, .w1c, some 0⟩

/-- Fields of the CLK pages. -/
def fieldsCLK : List Fld :=
  [F.CLK_CTL_MAX, F.CLK_CTL_STRETCH, F.CLK_CTL_DROOP_MV, F.CLK_STATUS_CURRENT,
   F.CLK_STATUS_TARGET, F.CLK_STATUS_PLL, F.CLK_STATUS_CHANGING, F.CLK_STATUS_DROOP,
   F.CLK_STATUS_LIMITER, F.CLK_STATUS_VOLTAGE_MV, F.CLK_LIMITS_CAP, F.CLK_LIMITS_THERMAL,
   F.CLK_LIMITS_HGU, F.CLK_LIMITS_PACE, F.CLK_DROOP_EVENTS, F.CLK_DROOP_STRETCHED,
   F.CLK_CHANGES_CHANGES, F.CLK_CHANGES_DEFERRED]

/-- THM_CTL, R398 -/
def F.THM_CTL_THROTTLE_C : Fld := ⟨0x42, 0x0100, 0, 1, 0, 8, .rw, none⟩
/-- THM_CTL, R398 -/
def F.THM_CTL_RELEASE_C : Fld := ⟨0x42, 0x0100, 0, 1, 8, 8, .rw, none⟩
/-- THM_STATUS, R398 -/
def F.THM_STATUS_HOT : Fld := ⟨0x42, 0x0108, 0, 1, 0, 4, .ro, some 0⟩
/-- THM_STATUS, R398 -/
def F.THM_STATUS_LIMIT : Fld := ⟨0x42, 0x0108, 0, 1, 4, 1, .w1c, some 0⟩
/-- THM_STATUS, R398 -/
def F.THM_STATUS_TRIPPED : Fld := ⟨0x42, 0x0108, 0, 1, 5, 1, .w1c, some 0⟩
/-- THM_STATUS, R398 -/
def F.THM_STATUS_OPTICS_HOT : Fld := ⟨0x42, 0x0108, 0, 1, 6, 1, .ro, some 0⟩
/-- THM_MAX, R398 -/
def F.THM_MAX_DIE_0 : Fld := ⟨0x42, 0x0110, 0, 1, 0, 8, .ro, some 0⟩
/-- THM_MAX, R398 -/
def F.THM_MAX_DIE_1 : Fld := ⟨0x42, 0x0110, 0, 1, 8, 8, .ro, some 0⟩
/-- THM_MAX, R398 -/
def F.THM_MAX_DIE_2 : Fld := ⟨0x42, 0x0110, 0, 1, 16, 8, .ro, some 0⟩
/-- THM_MAX, R398 -/
def F.THM_MAX_DIE_3 : Fld := ⟨0x42, 0x0110, 0, 1, 24, 8, .ro, some 0⟩
/-- THM_MAX, R398 -/
def F.THM_MAX_HUB : Fld := ⟨0x42, 0x0110, 0, 1, 32, 8, .ro, some 0⟩
/-- THM_MAX, R398 -/
def F.THM_MAX_OPTICS : Fld := ⟨0x42, 0x0110, 0, 1, 40, 8, .ro, some 0⟩
/-- THM_IDX, R398 -/
def F.THM_IDX_SENSOR : Fld := ⟨0x42, 0x0118, 0, 1, 0, 8, .rw, some 0⟩
/-- THM_DATA, R398 -/
def F.THM_DATA_TEMP : Fld := ⟨0x42, 0x0120, 0, 1, 0, 8, .ro, some 0⟩
/-- THM_DATA, R398 -/
def F.THM_DATA_VALID : Fld := ⟨0x42, 0x0120, 0, 1, 8, 1, .ro, some 0⟩

/-- Fields of the THM pages. -/
def fieldsTHM : List Fld :=
  [F.THM_CTL_THROTTLE_C, F.THM_CTL_RELEASE_C, F.THM_STATUS_HOT, F.THM_STATUS_LIMIT,
   F.THM_STATUS_TRIPPED, F.THM_STATUS_OPTICS_HOT, F.THM_MAX_DIE_0, F.THM_MAX_DIE_1,
   F.THM_MAX_DIE_2, F.THM_MAX_DIE_3, F.THM_MAX_HUB, F.THM_MAX_OPTICS,
   F.THM_IDX_SENSOR, F.THM_DATA_TEMP, F.THM_DATA_VALID]

/-- FLT_CTL, R428 -/
def F.FLT_CTL_DICE_EN : Fld := ⟨0x48, 0x0100, 0, 1, 0, 1, .rw, some 0⟩
/-- FLT_CTL, R428 -/
def F.FLT_CTL_AUTO_CLEAR : Fld := ⟨0x48, 0x0100, 0, 1, 1, 1, .rw, some 1⟩
/-- FLT_CTL, R428 -/
def F.FLT_CTL_DUMP_OVERWRITE : Fld := ⟨0x48, 0x0100, 0, 1, 2, 1, .rw, some 0⟩
/-- FLT_CTL, R428 -/
def F.FLT_CTL_FENCE_WINDOW : Fld := ⟨0x48, 0x0100, 0, 1, 8, 8, .rw, some 60⟩
/-- FLT_STATUS, R428 -/
def F.FLT_STATUS_CAPTURE : Fld := ⟨0x48, 0x0108, 0, 1, 0, 1, .ro, some 0⟩
/-- FLT_STATUS, R428 -/
def F.FLT_STATUS_RESET_BUSY : Fld := ⟨0x48, 0x0108, 0, 1, 1, 1, .ro, some 0⟩
/-- FLT_STATUS, R428 -/
def F.FLT_STATUS_LAST_RESET : Fld := ⟨0x48, 0x0108, 0, 1, 2, 3, .ro, some 0⟩
/-- FLT_SRC_IDX, R428 -/
def F.FLT_SRC_IDX_SOURCE : Fld := ⟨0x48, 0x0110, 0, 1, 0, 12, .rw, some 0⟩
/-- FLT_SRC_CFG, R428 -/
def F.FLT_SRC_CFG_CLASS : Fld := ⟨0x48, 0x0118, 0, 1, 0, 4, .rw, none⟩
/-- FLT_SRC_CFG, R428 -/
def F.FLT_SRC_CFG_LEVEL : Fld := ⟨0x48, 0x0118, 0, 1, 4, 1, .ro, none⟩
/-- FLT_SRC_CFG, R428 -/
def F.FLT_SRC_CFG_FORCE : Fld := ⟨0x48, 0x0118, 0, 1, 5, 1, .wo, some 0⟩
/-- FLT_SRC_CFG, R428 -/
def F.FLT_SRC_CFG_FORCE_WIRE : Fld := ⟨0x48, 0x0118, 0, 1, 6, 1, .wo, some 0⟩
/-- FLT_SRC_STATE, R428 -/
def F.FLT_SRC_STATE_VALID : Fld := ⟨0x48, 0x0120, 0, 1, 0, 1, .w1c, some 0⟩
/-- FLT_SRC_STATE, R428 -/
def F.FLT_SRC_STATE_OVERFLOW : Fld := ⟨0x48, 0x0120, 0, 1, 1, 1, .ro, some 0⟩
/-- FLT_SRC_STATE, R428 -/
def F.FLT_SRC_STATE_WIRE : Fld := ⟨0x48, 0x0120, 0, 1, 2, 1, .w1c, some 0⟩
/-- FLT_SRC_STATE, R428 -/
def F.FLT_SRC_STATE_FORCED : Fld := ⟨0x48, 0x0120, 0, 1, 3, 1, .ro, some 0⟩
/-- FLT_SRC_STATE, R428 -/
def F.FLT_SRC_STATE_CODE : Fld := ⟨0x48, 0x0120, 0, 1, 4, 8, .ro, some 0⟩
/-- FLT_SRC_STATE, R428 -/
def F.FLT_SRC_STATE_TIME : Fld := ⟨0x48, 0x0120, 0, 1, 16, 48, .ro, some 0⟩
/-- FLT_FIRST, R428 -/
def F.FLT_FIRST_SOURCE : Fld := ⟨0x48, 0x0128, 0, 1, 0, 12, .ro, some 0⟩
/-- FLT_FIRST, R428 -/
def F.FLT_FIRST_VALID : Fld := ⟨0x48, 0x0128, 0, 1, 12, 1, .w1c, some 0⟩
/-- FLT_FIRST, R428 -/
def F.FLT_FIRST_TIME : Fld := ⟨0x48, 0x0128, 0, 1, 16, 48, .ro, some 0⟩
/-- FLT_LOG_POS, R428 -/
def F.FLT_LOG_POS_NEXT : Fld := ⟨0x48, 0x0130, 0, 1, 0, 12, .ro, some 0⟩
/-- FLT_LOG_POS, R428 -/
def F.FLT_LOG_POS_WRAPS : Fld := ⟨0x48, 0x0130, 0, 1, 12, 16, .ro, some 0⟩
/-- FLT_LOG_IDX, R428 -/
def F.FLT_LOG_IDX_ENTRY : Fld := ⟨0x48, 0x0138, 0, 1, 0, 12, .rw, some 0⟩
/-- FLT_LOG_DATA_j, R428 -/
def F.FLT_LOG_DATA_WORD : Fld := ⟨0x48, 0x0140, 8, 4, 0, 64, .ro, some 0⟩
/-- FLT_HANG, R428 -/
def F.FLT_HANG_LIMIT_MS : Fld := ⟨0x48, 0x0160, 0, 1, 0, 16, .rw, some 100⟩
/-- FLT_STALEMATE, R428 -/
def F.FLT_STALEMATE_LIMIT_MS : Fld := ⟨0x48, 0x0168, 0, 1, 0, 16, .rw, some 10⟩
/-- FLT_STALEMATE, R428 -/
def F.FLT_STALEMATE_FIRED : Fld := ⟨0x48, 0x0168, 0, 1, 16, 16, .w1c, some 0⟩
/-- FLT_RESET, R428 -/
def F.FLT_RESET_DOMAIN : Fld := ⟨0x48, 0x0170, 0, 1, 0, 3, .wo, some 0⟩
/-- FLT_RESET, R428 -/
def F.FLT_RESET_CORE : Fld := ⟨0x48, 0x0170, 0, 1, 3, 8, .wo, some 0⟩
/-- FLT_RESET, R428 -/
def F.FLT_RESET_NO_DUMP : Fld := ⟨0x48, 0x0170, 0, 1, 11, 1, .wo, some 0⟩
/-- FLT_FENCE_CMD, R428 -/
def F.FLT_FENCE_CMD_OP : Fld := ⟨0x48, 0x0178, 0, 1, 0, 2, .wo, some 0⟩
/-- FLT_FENCE_CMD, R428 -/
def F.FLT_FENCE_CMD_CORE : Fld := ⟨0x48, 0x0178, 0, 1, 2, 8, .wo, some 0⟩
/-- FLT_FENCE_CMD, R428 -/
def F.FLT_FENCE_CMD_RESULT : Fld := ⟨0x48, 0x0178, 0, 1, 10, 2, .ro, some 0⟩
/-- FLT_FENCE_CMD, R428 -/
def F.FLT_FENCE_CMD_BUSY : Fld := ⟨0x48, 0x0178, 0, 1, 12, 1, .ro, some 0⟩
/-- FLT_FENCE_MAP_i, R428 -/
def F.FLT_FENCE_MAP_FENCED : Fld := ⟨0x48, 0x0180, 8, 3, 0, 64, .ro, none⟩
/-- FLT_DUMP_IDX, R428 -/
def F.FLT_DUMP_IDX_CORE : Fld := ⟨0x48, 0x0198, 0, 1, 0, 8, .rw, some 0⟩
/-- FLT_DUMP, R428 -/
def F.FLT_DUMP_VALID : Fld := ⟨0x48, 0x01A0, 0, 1, 0, 1, .w1c, some 0⟩
/-- FLT_DUMP, R428 -/
def F.FLT_DUMP_PARTIAL : Fld := ⟨0x48, 0x01A0, 0, 1, 1, 1, .ro, some 0⟩
/-- FLT_DUMP, R428 -/
def F.FLT_DUMP_SKIPPED : Fld := ⟨0x48, 0x01A0, 0, 1, 8, 8, .ro, some 0⟩
/-- FLT_DUMP, R428 -/
def F.FLT_DUMP_TIME : Fld := ⟨0x48, 0x01A0, 0, 1, 16, 48, .ro, some 0⟩
/-- FLT_COUNTS, R428 -/
def F.FLT_COUNTS_REPLAYS : Fld := ⟨0x48, 0x01A8, 0, 1, 0, 16, .ro, some 0⟩
/-- FLT_COUNTS, R428 -/
def F.FLT_COUNTS_CORE_RESETS : Fld := ⟨0x48, 0x01A8, 0, 1, 16, 16, .ro, some 0⟩
/-- FLT_COUNTS, R428 -/
def F.FLT_COUNTS_FENCE_COUNT : Fld := ⟨0x48, 0x01A8, 0, 1, 32, 16, .ro, some 0⟩
/-- FLT_COUNTS, R428 -/
def F.FLT_COUNTS_WIRE_FAULTS : Fld := ⟨0x48, 0x01A8, 0, 1, 48, 16, .ro, some 0⟩

/-- Fields of the FLT pages. -/
def fieldsFLT0 : List Fld :=
  [F.FLT_CTL_DICE_EN, F.FLT_CTL_AUTO_CLEAR, F.FLT_CTL_DUMP_OVERWRITE, F.FLT_CTL_FENCE_WINDOW,
   F.FLT_STATUS_CAPTURE, F.FLT_STATUS_RESET_BUSY, F.FLT_STATUS_LAST_RESET, F.FLT_SRC_IDX_SOURCE,
   F.FLT_SRC_CFG_CLASS, F.FLT_SRC_CFG_LEVEL, F.FLT_SRC_CFG_FORCE, F.FLT_SRC_CFG_FORCE_WIRE,
   F.FLT_SRC_STATE_VALID, F.FLT_SRC_STATE_OVERFLOW, F.FLT_SRC_STATE_WIRE, F.FLT_SRC_STATE_FORCED,
   F.FLT_SRC_STATE_CODE, F.FLT_SRC_STATE_TIME, F.FLT_FIRST_SOURCE, F.FLT_FIRST_VALID,
   F.FLT_FIRST_TIME, F.FLT_LOG_POS_NEXT, F.FLT_LOG_POS_WRAPS, F.FLT_LOG_IDX_ENTRY]
/-- Fields of the FLT pages. -/
def fieldsFLT1 : List Fld :=
  [F.FLT_LOG_DATA_WORD, F.FLT_HANG_LIMIT_MS, F.FLT_STALEMATE_LIMIT_MS, F.FLT_STALEMATE_FIRED,
   F.FLT_RESET_DOMAIN, F.FLT_RESET_CORE, F.FLT_RESET_NO_DUMP, F.FLT_FENCE_CMD_OP,
   F.FLT_FENCE_CMD_CORE, F.FLT_FENCE_CMD_RESULT, F.FLT_FENCE_CMD_BUSY, F.FLT_FENCE_MAP_FENCED,
   F.FLT_DUMP_IDX_CORE, F.FLT_DUMP_VALID, F.FLT_DUMP_PARTIAL, F.FLT_DUMP_SKIPPED,
   F.FLT_DUMP_TIME, F.FLT_COUNTS_REPLAYS, F.FLT_COUNTS_CORE_RESETS, F.FLT_COUNTS_FENCE_COUNT,
   F.FLT_COUNTS_WIRE_FAULTS]
/-- All fields of the FLT pages. -/
def fieldsFLT : List Fld := fieldsFLT0 ++ fieldsFLT1

/-- HGU_CTL, R471 -/
def F.HGU_CTL_WAKE : Fld := ⟨0x50, 0x0100, 0, 1, 0, 1, .wo, some 0⟩
/-- HGU_CTL, R471 -/
def F.HGU_CTL_SHUTDOWN : Fld := ⟨0x50, 0x0100, 0, 1, 1, 1, .wo, some 0⟩
/-- HGU_CTL, R471 -/
def F.HGU_CTL_AUTO_ON : Fld := ⟨0x50, 0x0100, 0, 1, 2, 1, .rw, none⟩
/-- HGU_CTL, R471 -/
def F.HGU_CTL_I3C_POWER : Fld := ⟨0x50, 0x0100, 0, 1, 3, 1, .rw, some 0⟩
/-- HGU_CTL, R471 -/
def F.HGU_CTL_IIR_SHIFT : Fld := ⟨0x50, 0x0100, 0, 1, 4, 3, .rw, some 2⟩
/-- HGU_STATUS, R471 -/
def F.HGU_STATUS_ASLEEP : Fld := ⟨0x50, 0x0108, 0, 1, 0, 1, .ro, some 1⟩
/-- HGU_STATUS, R471 -/
def F.HGU_STATUS_MAIN_PRESENT : Fld := ⟨0x50, 0x0108, 0, 1, 1, 1, .ro, some 0⟩
/-- HGU_STATUS, R471 -/
def F.HGU_STATUS_SHUT_RULE : Fld := ⟨0x50, 0x0108, 0, 1, 2, 6, .ro, some 0⟩
/-- HGU_STATUS, R471 -/
def F.HGU_STATUS_SHUT_VALID : Fld := ⟨0x50, 0x0108, 0, 1, 8, 1, .w1c, some 0⟩
/-- HGU_STATUS, R471 -/
def F.HGU_STATUS_WAKE_REFUSED : Fld := ⟨0x50, 0x0108, 0, 1, 9, 1, .w1c, some 0⟩
/-- HGU_STATUS, R471 -/
def F.HGU_STATUS_ROM_ONLY : Fld := ⟨0x50, 0x0108, 0, 1, 10, 1, .ro, some 1⟩
/-- HGU_STATUS, R471 -/
def F.HGU_STATUS_PUF_FAIL : Fld := ⟨0x50, 0x0108, 0, 1, 11, 1, .ro, some 0⟩
/-- HGU_STATUS, R471 -/
def F.HGU_STATUS_THROTTLE : Fld := ⟨0x50, 0x0108, 0, 1, 12, 5, .ro, some 28⟩
/-- HGU_SENSOR_IDX, R471 -/
def F.HGU_SENSOR_IDX_SENSOR : Fld := ⟨0x50, 0x0110, 0, 1, 0, 8, .rw, some 0⟩
/-- HGU_SENSOR, R471 -/
def F.HGU_SENSOR_FILTERED : Fld := ⟨0x50, 0x0118, 0, 1, 0, 16, .ro, some 0⟩
/-- HGU_SENSOR, R471 -/
def F.HGU_SENSOR_RAW : Fld := ⟨0x50, 0x0118, 0, 1, 16, 16, .ro, some 0⟩
/-- HGU_SENSOR, R471 -/
def F.HGU_SENSOR_VALID : Fld := ⟨0x50, 0x0118, 0, 1, 32, 1, .ro, some 0⟩
/-- HGU_RULE_STATE, R471 -/
def F.HGU_RULE_STATE_ACTIVE : Fld := ⟨0x50, 0x0120, 0, 1, 0, 64, .ro, some 0⟩
/-- HGU_TELEM, R471 -/
def F.HGU_TELEM_PERIOD_MS : Fld := ⟨0x50, 0x0128, 0, 1, 0, 16, .rw, some 0⟩
/-- HGU_MGT_n_CFG, R471 -/
def F.HGU_MGT_CFG_EN : Fld := ⟨0x50, 0x0130, 8, 2, 0, 1, .rw, none⟩
/-- HGU_MGT_n_CFG, R471 -/
def F.HGU_MGT_CFG_VLAN : Fld := ⟨0x50, 0x0130, 8, 2, 1, 12, .rw, none⟩
/-- HGU_MGT_n_STATUS, R471 -/
def F.HGU_MGT_STATUS_LINK : Fld := ⟨0x50, 0x0140, 8, 2, 0, 1, .ro, some 0⟩
/-- HGU_MGT_n_STATUS, R471 -/
def F.HGU_MGT_STATUS_SESSIONS : Fld := ⟨0x50, 0x0140, 8, 2, 1, 3, .ro, some 0⟩
/-- HGU_MGT_n_IP_LO, R471 -/
def F.HGU_MGT_IP_LO_ADDR : Fld := ⟨0x50, 0x0150, 16, 2, 0, 64, .rw, none⟩
/-- HGU_MGT_n_IP_HI, R471 -/
def F.HGU_MGT_IP_HI_ADDR : Fld := ⟨0x50, 0x0158, 16, 2, 0, 64, .rw, none⟩
/-- HGU_RULE_i, R471 -/
def F.HGU_RULE_RULE : Fld := ⟨0x50, 0x0200, 8, 64, 0, 64, .rw, none⟩

/-- Fields of the HGU pages. -/
def fieldsHGU0 : List Fld :=
  [F.HGU_CTL_WAKE, F.HGU_CTL_SHUTDOWN, F.HGU_CTL_AUTO_ON, F.HGU_CTL_I3C_POWER,
   F.HGU_CTL_IIR_SHIFT, F.HGU_STATUS_ASLEEP, F.HGU_STATUS_MAIN_PRESENT, F.HGU_STATUS_SHUT_RULE,
   F.HGU_STATUS_SHUT_VALID, F.HGU_STATUS_WAKE_REFUSED, F.HGU_STATUS_ROM_ONLY, F.HGU_STATUS_PUF_FAIL,
   F.HGU_STATUS_THROTTLE, F.HGU_SENSOR_IDX_SENSOR, F.HGU_SENSOR_FILTERED, F.HGU_SENSOR_RAW,
   F.HGU_SENSOR_VALID, F.HGU_RULE_STATE_ACTIVE, F.HGU_TELEM_PERIOD_MS, F.HGU_MGT_CFG_EN,
   F.HGU_MGT_CFG_VLAN, F.HGU_MGT_STATUS_LINK, F.HGU_MGT_STATUS_SESSIONS, F.HGU_MGT_IP_LO_ADDR]
/-- Fields of the HGU pages. -/
def fieldsHGU1 : List Fld :=
  [F.HGU_MGT_IP_HI_ADDR, F.HGU_RULE_RULE]
/-- All fields of the HGU pages. -/
def fieldsHGU : List Fld := fieldsHGU0 ++ fieldsHGU1

/-- SEC_STATUS, R450 -/
def F.SEC_STATUS_RECOVERY : Fld := ⟨0x51, 0x0100, 0, 1, 0, 1, .ro, some 0⟩
/-- SEC_STATUS, R450 -/
def F.SEC_STATUS_PUF_RETRIES : Fld := ⟨0x51, 0x0100, 0, 1, 1, 2, .ro, some 0⟩
/-- SEC_STATUS, R450 -/
def F.SEC_STATUS_ENTROPY_FAIL : Fld := ⟨0x51, 0x0100, 0, 1, 3, 1, .w1c, some 0⟩
/-- SEC_SERIAL, R450 -/
def F.SEC_SERIAL_SERIAL : Fld := ⟨0x51, 0x0108, 0, 1, 0, 64, .ro, none⟩
/-- SEC_BOOT, R450 -/
def F.SEC_BOOT_SLOT_0 : Fld := ⟨0x51, 0x0110, 0, 1, 0, 1, .ro, some 0⟩
/-- SEC_BOOT, R450 -/
def F.SEC_BOOT_SLOT_1 : Fld := ⟨0x51, 0x0110, 0, 1, 4, 1, .ro, some 0⟩
/-- SEC_BOOT, R450 -/
def F.SEC_BOOT_SLOT_2 : Fld := ⟨0x51, 0x0110, 0, 1, 8, 1, .ro, some 0⟩
/-- SEC_BOOT, R450 -/
def F.SEC_BOOT_SLOT_3 : Fld := ⟨0x51, 0x0110, 0, 1, 12, 1, .ro, some 0⟩
/-- SEC_BOOT, R450 -/
def F.SEC_BOOT_SLOT_4 : Fld := ⟨0x51, 0x0110, 0, 1, 16, 1, .ro, some 0⟩
/-- SEC_BOOT, R450 -/
def F.SEC_BOOT_SLOT_5 : Fld := ⟨0x51, 0x0110, 0, 1, 20, 1, .ro, some 0⟩
/-- SEC_BOOT, R450 -/
def F.SEC_BOOT_SLOT_6 : Fld := ⟨0x51, 0x0110, 0, 1, 24, 1, .ro, some 0⟩
/-- SEC_BOOT, R450 -/
def F.SEC_BOOT_NEW_0 : Fld := ⟨0x51, 0x0110, 0, 1, 1, 1, .ro, some 0⟩
/-- SEC_BOOT, R450 -/
def F.SEC_BOOT_NEW_1 : Fld := ⟨0x51, 0x0110, 0, 1, 5, 1, .ro, some 0⟩
/-- SEC_BOOT, R450 -/
def F.SEC_BOOT_NEW_2 : Fld := ⟨0x51, 0x0110, 0, 1, 9, 1, .ro, some 0⟩
/-- SEC_BOOT, R450 -/
def F.SEC_BOOT_NEW_3 : Fld := ⟨0x51, 0x0110, 0, 1, 13, 1, .ro, some 0⟩
/-- SEC_BOOT, R450 -/
def F.SEC_BOOT_NEW_4 : Fld := ⟨0x51, 0x0110, 0, 1, 17, 1, .ro, some 0⟩
/-- SEC_BOOT, R450 -/
def F.SEC_BOOT_NEW_5 : Fld := ⟨0x51, 0x0110, 0, 1, 21, 1, .ro, some 0⟩
/-- SEC_BOOT, R450 -/
def F.SEC_BOOT_NEW_6 : Fld := ⟨0x51, 0x0110, 0, 1, 25, 1, .ro, some 0⟩
/-- SEC_BOOT, R450 -/
def F.SEC_BOOT_FELL_BACK_0 : Fld := ⟨0x51, 0x0110, 0, 1, 2, 1, .ro, some 0⟩
/-- SEC_BOOT, R450 -/
def F.SEC_BOOT_FELL_BACK_1 : Fld := ⟨0x51, 0x0110, 0, 1, 6, 1, .ro, some 0⟩
/-- SEC_BOOT, R450 -/
def F.SEC_BOOT_FELL_BACK_2 : Fld := ⟨0x51, 0x0110, 0, 1, 10, 1, .ro, some 0⟩
/-- SEC_BOOT, R450 -/
def F.SEC_BOOT_FELL_BACK_3 : Fld := ⟨0x51, 0x0110, 0, 1, 14, 1, .ro, some 0⟩
/-- SEC_BOOT, R450 -/
def F.SEC_BOOT_FELL_BACK_4 : Fld := ⟨0x51, 0x0110, 0, 1, 18, 1, .ro, some 0⟩
/-- SEC_BOOT, R450 -/
def F.SEC_BOOT_FELL_BACK_5 : Fld := ⟨0x51, 0x0110, 0, 1, 22, 1, .ro, some 0⟩
/-- SEC_BOOT, R450 -/
def F.SEC_BOOT_FELL_BACK_6 : Fld := ⟨0x51, 0x0110, 0, 1, 26, 1, .ro, some 0⟩
/-- SEC_BOOT, R450 -/
def F.SEC_BOOT_BOOTS : Fld := ⟨0x51, 0x0110, 0, 1, 32, 32, .ro, none⟩
/-- SEC_FW_CMD, R450 -/
def F.SEC_FW_CMD_OP : Fld := ⟨0x51, 0x0118, 0, 1, 0, 4, .wo, some 0⟩
/-- SEC_FW_CMD, R450 -/
def F.SEC_FW_CMD_COMPONENT : Fld := ⟨0x51, 0x0118, 0, 1, 4, 3, .wo, some 0⟩
/-- SEC_FW_ARG, R450 -/
def F.SEC_FW_ARG_SRC_OFFSET : Fld := ⟨0x51, 0x0120, 0, 1, 0, 22, .rw, some 0⟩
/-- SEC_FW_ARG, R450 -/
def F.SEC_FW_ARG_LENGTH : Fld := ⟨0x51, 0x0120, 0, 1, 22, 23, .rw, some 0⟩
/-- SEC_FW_ARG, R450 -/
def F.SEC_FW_ARG_DST_OFFSET : Fld := ⟨0x51, 0x0120, 0, 1, 45, 14, .rw, some 0⟩
/-- SEC_FW_STATUS, R450 -/
def F.SEC_FW_STATUS_BUSY : Fld := ⟨0x51, 0x0128, 0, 1, 0, 1, .ro, some 0⟩
/-- SEC_FW_STATUS, R450 -/
def F.SEC_FW_STATUS_RESULT : Fld := ⟨0x51, 0x0128, 0, 1, 1, 3, .ro, some 0⟩
/-- SEC_FW_STATUS, R450 -/
def F.SEC_FW_STATUS_OVERRUN : Fld := ⟨0x51, 0x0128, 0, 1, 4, 1, .w1c, some 0⟩
/-- SEC_FW_SLOT_IDX, R450 -/
def F.SEC_FW_SLOT_IDX_COMPONENT : Fld := ⟨0x51, 0x0130, 0, 1, 0, 3, .rw, some 0⟩
/-- SEC_FW_SLOT_IDX, R450 -/
def F.SEC_FW_SLOT_IDX_SLOT : Fld := ⟨0x51, 0x0130, 0, 1, 3, 1, .rw, some 0⟩
/-- SEC_FW_SLOT, R450 -/
def F.SEC_FW_SLOT_STATE : Fld := ⟨0x51, 0x0138, 0, 1, 0, 3, .ro, some 0⟩
/-- SEC_FW_SLOT, R450 -/
def F.SEC_FW_SLOT_REASON : Fld := ⟨0x51, 0x0138, 0, 1, 3, 4, .ro, some 0⟩
/-- SEC_FW_SLOT, R450 -/
def F.SEC_FW_SLOT_LEVEL : Fld := ⟨0x51, 0x0138, 0, 1, 7, 16, .ro, some 0⟩
/-- SEC_FW_SLOT, R450 -/
def F.SEC_FW_SLOT_SVN : Fld := ⟨0x51, 0x0138, 0, 1, 23, 32, .ro, some 0⟩
/-- SEC_COUNTER_IDX, R450 -/
def F.SEC_COUNTER_IDX_COUNTER : Fld := ⟨0x51, 0x0140, 0, 1, 0, 5, .rw, some 0⟩
/-- SEC_COUNTER, R450 -/
def F.SEC_COUNTER_VALUE : Fld := ⟨0x51, 0x0148, 0, 1, 0, 32, .ro, none⟩
/-- SEC_ATTEST_CMD, R450 -/
def F.SEC_ATTEST_CMD_OP : Fld := ⟨0x51, 0x0150, 0, 1, 0, 2, .wo, some 0⟩
/-- SEC_ATTEST_CMD, R450 -/
def F.SEC_ATTEST_CMD_INDEX : Fld := ⟨0x51, 0x0150, 0, 1, 2, 4, .wo, some 0⟩
/-- SEC_ATTEST_STATUS, R450 -/
def F.SEC_ATTEST_STATUS_BUSY : Fld := ⟨0x51, 0x0158, 0, 1, 0, 1, .ro, some 0⟩
/-- SEC_ATTEST_STATUS, R450 -/
def F.SEC_ATTEST_STATUS_RESULT : Fld := ⟨0x51, 0x0158, 0, 1, 1, 2, .ro, some 0⟩
/-- SEC_ATTEST_STATUS, R450 -/
def F.SEC_ATTEST_STATUS_OVERRUN : Fld := ⟨0x51, 0x0158, 0, 1, 3, 1, .w1c, some 0⟩
/-- SEC_NONCE_i, R450 -/
def F.SEC_NONCE_WORD : Fld := ⟨0x51, 0x0180, 8, 8, 0, 64, .rw, some 0⟩

/-- Fields of the SEC pages. -/
def fieldsSEC0 : List Fld :=
  [F.SEC_STATUS_RECOVERY, F.SEC_STATUS_PUF_RETRIES, F.SEC_STATUS_ENTROPY_FAIL, F.SEC_SERIAL_SERIAL,
   F.SEC_BOOT_SLOT_0, F.SEC_BOOT_SLOT_1, F.SEC_BOOT_SLOT_2, F.SEC_BOOT_SLOT_3,
   F.SEC_BOOT_SLOT_4, F.SEC_BOOT_SLOT_5, F.SEC_BOOT_SLOT_6, F.SEC_BOOT_NEW_0,
   F.SEC_BOOT_NEW_1, F.SEC_BOOT_NEW_2, F.SEC_BOOT_NEW_3, F.SEC_BOOT_NEW_4,
   F.SEC_BOOT_NEW_5, F.SEC_BOOT_NEW_6, F.SEC_BOOT_FELL_BACK_0, F.SEC_BOOT_FELL_BACK_1,
   F.SEC_BOOT_FELL_BACK_2, F.SEC_BOOT_FELL_BACK_3, F.SEC_BOOT_FELL_BACK_4, F.SEC_BOOT_FELL_BACK_5]
/-- Fields of the SEC pages. -/
def fieldsSEC1 : List Fld :=
  [F.SEC_BOOT_FELL_BACK_6, F.SEC_BOOT_BOOTS, F.SEC_FW_CMD_OP, F.SEC_FW_CMD_COMPONENT,
   F.SEC_FW_ARG_SRC_OFFSET, F.SEC_FW_ARG_LENGTH, F.SEC_FW_ARG_DST_OFFSET, F.SEC_FW_STATUS_BUSY,
   F.SEC_FW_STATUS_RESULT, F.SEC_FW_STATUS_OVERRUN, F.SEC_FW_SLOT_IDX_COMPONENT, F.SEC_FW_SLOT_IDX_SLOT,
   F.SEC_FW_SLOT_STATE, F.SEC_FW_SLOT_REASON, F.SEC_FW_SLOT_LEVEL, F.SEC_FW_SLOT_SVN,
   F.SEC_COUNTER_IDX_COUNTER, F.SEC_COUNTER_VALUE, F.SEC_ATTEST_CMD_OP, F.SEC_ATTEST_CMD_INDEX,
   F.SEC_ATTEST_STATUS_BUSY, F.SEC_ATTEST_STATUS_RESULT, F.SEC_ATTEST_STATUS_OVERRUN, F.SEC_NONCE_WORD]
/-- All fields of the SEC pages. -/
def fieldsSEC : List Fld := fieldsSEC0 ++ fieldsSEC1

/-- CFG_CMD, R451 -/
def F.CFG_CMD_OP : Fld := ⟨0x52, 0x0100, 0, 1, 0, 3, .wo, some 0⟩
/-- CFG_CMD, R451 -/
def F.CFG_CMD_SLOT : Fld := ⟨0x52, 0x0100, 0, 1, 3, 3, .wo, some 0⟩
/-- CFG_CMD, R451 -/
def F.CFG_CMD_SRC_OFFSET : Fld := ⟨0x52, 0x0100, 0, 1, 6, 22, .wo, some 0⟩
/-- CFG_STATUS, R451 -/
def F.CFG_STATUS_BUSY : Fld := ⟨0x52, 0x0108, 0, 1, 0, 1, .ro, some 0⟩
/-- CFG_STATUS, R451 -/
def F.CFG_STATUS_RESULT : Fld := ⟨0x52, 0x0108, 0, 1, 1, 3, .ro, some 0⟩
/-- CFG_STATUS, R451 -/
def F.CFG_STATUS_OVERRUN : Fld := ⟨0x52, 0x0108, 0, 1, 4, 1, .w1c, some 0⟩
/-- CFG_STATUS, R451 -/
def F.CFG_STATUS_DEFAULTS : Fld := ⟨0x52, 0x0108, 0, 1, 5, 1, .w1c, some 0⟩
/-- CFG_STATUS, R451 -/
def F.CFG_STATUS_TAKEN_BACK : Fld := ⟨0x52, 0x0108, 0, 1, 6, 1, .w1c, some 0⟩
/-- CFG_STATUS, R451 -/
def F.CFG_STATUS_IGNORED : Fld := ⟨0x52, 0x0108, 0, 1, 7, 16, .w1c, some 0⟩
/-- CFG_ACTIVE, R451 -/
def F.CFG_ACTIVE_IN_FORCE : Fld := ⟨0x52, 0x0110, 0, 1, 0, 3, .ro, some 0⟩
/-- CFG_ACTIVE, R451 -/
def F.CFG_ACTIVE_FACTORY : Fld := ⟨0x52, 0x0110, 0, 1, 3, 1, .ro, some 1⟩
/-- CFG_ACTIVE, R451 -/
def F.CFG_ACTIVE_TRIAL : Fld := ⟨0x52, 0x0110, 0, 1, 4, 1, .ro, some 0⟩
/-- CFG_ACTIVE, R451 -/
def F.CFG_ACTIVE_PREVIOUS : Fld := ⟨0x52, 0x0110, 0, 1, 5, 3, .ro, some 0⟩
/-- CFG_ACTIVE, R451 -/
def F.CFG_ACTIVE_PREV_VALID : Fld := ⟨0x52, 0x0110, 0, 1, 8, 1, .ro, some 0⟩
/-- CFG_SETTLE, R451 -/
def F.CFG_SETTLE_SECONDS : Fld := ⟨0x52, 0x0118, 0, 1, 0, 12, .rw, some 300⟩
/-- CFG_SLOT_IDX, R451 -/
def F.CFG_SLOT_IDX_SLOT : Fld := ⟨0x52, 0x0120, 0, 1, 0, 3, .rw, some 0⟩
/-- CFG_SLOT_0, R451 -/
def F.CFG_SLOT_0_STATE : Fld := ⟨0x52, 0x0128, 0, 1, 0, 3, .ro, some 0⟩
/-- CFG_SLOT_1, R451 -/
def F.CFG_SLOT_1_VERSION : Fld := ⟨0x52, 0x0130, 0, 1, 0, 64, .ro, some 0⟩
/-- CFG_SLOT_2, R451 -/
def F.CFG_SLOT_2_CREATOR : Fld := ⟨0x52, 0x0138, 0, 1, 0, 64, .ro, some 0⟩
/-- CFG_SLOT_3, R451 -/
def F.CFG_SLOT_3_TIME : Fld := ⟨0x52, 0x0140, 0, 1, 0, 64, .ro, some 0⟩
/-- CFG_SLOT_4, R451 -/
def F.CFG_SLOT_4_CHECK : Fld := ⟨0x52, 0x0148, 0, 1, 0, 64, .ro, some 0⟩
/-- CFG_DEADLINE, R451 -/
def F.CFG_DEADLINE_TIME : Fld := ⟨0x52, 0x0150, 0, 1, 0, 64, .ro, some 0⟩

/-- Fields of the CFG pages. -/
def fieldsCFG : List Fld :=
  [F.CFG_CMD_OP, F.CFG_CMD_SLOT, F.CFG_CMD_SRC_OFFSET, F.CFG_STATUS_BUSY,
   F.CFG_STATUS_RESULT, F.CFG_STATUS_OVERRUN, F.CFG_STATUS_DEFAULTS, F.CFG_STATUS_TAKEN_BACK,
   F.CFG_STATUS_IGNORED, F.CFG_ACTIVE_IN_FORCE, F.CFG_ACTIVE_FACTORY, F.CFG_ACTIVE_TRIAL,
   F.CFG_ACTIVE_PREVIOUS, F.CFG_ACTIVE_PREV_VALID, F.CFG_SETTLE_SECONDS, F.CFG_SLOT_IDX_SLOT,
   F.CFG_SLOT_0_STATE, F.CFG_SLOT_1_VERSION, F.CFG_SLOT_2_CREATOR, F.CFG_SLOT_3_TIME,
   F.CFG_SLOT_4_CHECK, F.CFG_DEADLINE_TIME]

/-- JNL_POS, R472 -/
def F.JNL_POS_NEXT : Fld := ⟨0x53, 0x0100, 0, 1, 0, 48, .ro, some 0⟩
/-- JNL_STATUS, R472 -/
def F.JNL_STATUS_SEAL_ERR : Fld := ⟨0x53, 0x0108, 0, 1, 0, 1, .w1c, some 0⟩
/-- JNL_STATUS, R472 -/
def F.JNL_STATUS_LOST : Fld := ⟨0x53, 0x0108, 0, 1, 1, 16, .w1c, some 0⟩
/-- JNL_MARK, R472 -/
def F.JNL_MARK_MARK : Fld := ⟨0x53, 0x0110, 0, 1, 0, 48, .rw, some 0⟩
/-- JNL_READ_IDX, R472 -/
def F.JNL_READ_IDX_ENTRY : Fld := ⟨0x53, 0x0118, 0, 1, 0, 16, .rw, some 0⟩
/-- JNL_READ_j, R472 -/
def F.JNL_READ_WORD : Fld := ⟨0x53, 0x0120, 8, 4, 0, 64, .ro, some 0⟩
/-- JNL_HEAD_j, R472 -/
def F.JNL_HEAD_WORD : Fld := ⟨0x53, 0x0140, 8, 8, 0, 64, .ro, some 0⟩
/-- JNL_HEAD_BLOCK, R472 -/
def F.JNL_HEAD_BLOCK_BLOCK : Fld := ⟨0x53, 0x0180, 0, 1, 0, 48, .ro, some 0⟩
/-- JNL_HEAD_BLOCK, R472 -/
def F.JNL_HEAD_BLOCK_VALID : Fld := ⟨0x53, 0x0180, 0, 1, 48, 1, .ro, some 0⟩

/-- Fields of the JNL pages. -/
def fieldsJNL : List Fld :=
  [F.JNL_POS_NEXT, F.JNL_STATUS_SEAL_ERR, F.JNL_STATUS_LOST, F.JNL_MARK_MARK,
   F.JNL_READ_IDX_ENTRY, F.JNL_READ_WORD, F.JNL_HEAD_WORD, F.JNL_HEAD_BLOCK_BLOCK,
   F.JNL_HEAD_BLOCK_VALID]

/-- BNK_CTL, R473 -/
def F.BNK_CTL_ELIGIBLE : Fld := ⟨0x54, 0x0100, 0, 1, 0, 1, .rw, none⟩
/-- BNK_CTL, R473 -/
def F.BNK_CTL_PRIORITY : Fld := ⟨0x54, 0x0100, 0, 1, 1, 8, .rw, none⟩
/-- BNK_CTL, R473 -/
def F.BNK_CTL_AUTO_SPARE : Fld := ⟨0x54, 0x0100, 0, 1, 9, 1, .rw, some 0⟩
/-- BNK_STATUS, R473 -/
def F.BNK_STATUS_ROLE : Fld := ⟨0x54, 0x0108, 0, 1, 0, 3, .ro, some 1⟩
/-- BNK_STATUS, R473 -/
def F.BNK_STATUS_ACTIVE : Fld := ⟨0x54, 0x0108, 0, 1, 3, 20, .ro, some 0⟩
/-- BNK_STATUS, R473 -/
def F.BNK_STATUS_STANDBY : Fld := ⟨0x54, 0x0108, 0, 1, 23, 20, .ro, some 0⟩
/-- BNK_STATUS, R473 -/
def F.BNK_STATUS_STANDBY_VALID : Fld := ⟨0x54, 0x0108, 0, 1, 43, 1, .ro, some 0⟩
/-- BNK_EPOCH, R473 -/
def F.BNK_EPOCH_EPOCH : Fld := ⟨0x54, 0x0110, 0, 1, 0, 32, .ro, some 0⟩
/-- BNK_TIMING, R473 -/
def F.BNK_TIMING_HB_MS : Fld := ⟨0x54, 0x0118, 0, 1, 0, 8, .rw, some 10⟩
/-- BNK_TIMING, R473 -/
def F.BNK_TIMING_MISS : Fld := ⟨0x54, 0x0118, 0, 1, 8, 4, .rw, some 3⟩
/-- BNK_TIMING, R473 -/
def F.BNK_TIMING_ELECT_MS : Fld := ⟨0x54, 0x0118, 0, 1, 12, 16, .rw, some 1000⟩
/-- BNK_READY_LIMIT, R473 -/
def F.BNK_READY_LIMIT_MS : Fld := ⟨0x54, 0x0120, 0, 1, 0, 20, .rw, some 5000⟩
/-- BNK_STRAG, R473 -/
def F.BNK_STRAG_THRESHOLD : Fld := ⟨0x54, 0x0128, 0, 1, 0, 16, .rw, some 320⟩
/-- BNK_JOBS, R473 -/
def F.BNK_JOBS_MAX_ATTEMPTS : Fld := ⟨0x54, 0x0130, 0, 1, 0, 8, .rw, some 4⟩
/-- BNK_MEMBER_IDX, R473 -/
def F.BNK_MEMBER_IDX_INDEX : Fld := ⟨0x54, 0x0138, 0, 1, 0, 12, .rw, some 0⟩
/-- BNK_MEMBER, R473 -/
def F.BNK_MEMBER_ADMIT : Fld := ⟨0x54, 0x0140, 0, 1, 0, 1, .rw, some 0⟩
/-- BNK_MEMBER, R473 -/
def F.BNK_MEMBER_SPARE : Fld := ⟨0x54, 0x0140, 0, 1, 1, 1, .rw, some 0⟩
/-- BNK_MEMBER, R473 -/
def F.BNK_MEMBER_STATE : Fld := ⟨0x54, 0x0140, 0, 1, 2, 3, .ro, some 0⟩
/-- BNK_KEY_i, R473 -/
def F.BNK_KEY_KEY : Fld := ⟨0x54, 0x0148, 8, 4, 0, 64, .wo, none⟩
/-- BNK_TURN_LIMIT, R473 -/
def F.BNK_TURN_LIMIT_MS : Fld := ⟨0x54, 0x0168, 0, 1, 0, 32, .rw, some 600000⟩

/-- Fields of the BNK pages. -/
def fieldsBNK : List Fld :=
  [F.BNK_CTL_ELIGIBLE, F.BNK_CTL_PRIORITY, F.BNK_CTL_AUTO_SPARE, F.BNK_STATUS_ROLE,
   F.BNK_STATUS_ACTIVE, F.BNK_STATUS_STANDBY, F.BNK_STATUS_STANDBY_VALID, F.BNK_EPOCH_EPOCH,
   F.BNK_TIMING_HB_MS, F.BNK_TIMING_MISS, F.BNK_TIMING_ELECT_MS, F.BNK_READY_LIMIT_MS,
   F.BNK_STRAG_THRESHOLD, F.BNK_JOBS_MAX_ATTEMPTS, F.BNK_MEMBER_IDX_INDEX, F.BNK_MEMBER_ADMIT,
   F.BNK_MEMBER_SPARE, F.BNK_MEMBER_STATE, F.BNK_KEY_KEY, F.BNK_TURN_LIMIT_MS]

/-- TIME_NOW, R474 -/
def F.TIME_NOW_NS : Fld := ⟨0x55, 0x0100, 0, 1, 0, 64, .ro, some 0⟩
/-- TIME_STATUS, R474 -/
def F.TIME_STATUS_SOURCE : Fld := ⟨0x55, 0x0108, 0, 1, 0, 2, .ro, some 0⟩
/-- TIME_STATUS, R474 -/
def F.TIME_STATUS_STEPS : Fld := ⟨0x55, 0x0108, 0, 1, 2, 16, .w1c, some 0⟩
/-- TIME_SET, R474 -/
def F.TIME_SET_NS : Fld := ⟨0x55, 0x0110, 0, 1, 0, 64, .wo, some 0⟩

/-- Fields of the TIME pages. -/
def fieldsTIME : List Fld :=
  [F.TIME_NOW_NS, F.TIME_STATUS_SOURCE, F.TIME_STATUS_STEPS, F.TIME_SET_NS]

/-- The fields of the pages of a block code (R478). -/
def blockFields (code : Nat) : List Fld :=
  match code with
  | 0x01 => fieldsCORE
  | 0x02 => fieldsARY
  | 0x03 => fieldsVEC
  | 0x04 => fieldsSPD
  | 0x05 => fieldsACF
  | 0x06 => fieldsMOV
  | 0x10 => fieldsXMAP
  | 0x11 => fieldsSTK
  | 0x12 => fieldsRING
  | 0x20 => fieldsPL
  | 0x21 => fieldsFAB
  | 0x28 => fieldsHOST
  | 0x30 => fieldsPART
  | 0x31 => fieldsSEQ
  | 0x32 => fieldsGEN
  | 0x40 => fieldsPWR
  | 0x41 => fieldsCLK
  | 0x42 => fieldsTHM
  | 0x48 => fieldsFLT
  | 0x50 => fieldsHGU
  | 0x51 => fieldsSEC
  | 0x52 => fieldsCFG
  | 0x53 => fieldsJNL
  | 0x54 => fieldsBNK
  | 0x55 => fieldsTIME
  | _ => []

end Sys2Proof.Machine
end

