-- ==== Sys2Proof/Machine/DeviceTypes.lean ====
section
/-! DEFINITION. The state of the device outside its cores: time and power, memory and extent map,
rings, fabric, host port, faults, security, configuration, management and the banker role. -/

namespace Sys2Proof.Machine

/-- A store that the running command makes to device memory; it is applied when the command ends. -/
inductive Store where
  /-- bytes from an address upward -/
  | bytes (a : Nat) (l : List Byte)
  /-- n bytes of zero from an address upward -/
  | clear (a n : Nat)
deriving DecidableEq, Repr

/-- An entry of the peer table of the host port (R370). -/
structure HostPeer where
  lo : Word := 0
  hi : Word := 0
  mac : Word := 0
deriving DecidableEq, Repr

/-- What a frame that the device sends carries beside its addresses (R350, R371): its VLAN ID, 0 for no tag, with the tag's
priority, and the DSCP. -/
structure FrameTag where
  vlan : Nat := 0
  pcp : Nat := 0
  dscp : Nat := 0
deriving DecidableEq, Repr

/-- What the device has transmitted or driven, newest first (the model's record of its outputs). -/
inductive Sent where
  /-- a DCP packet: where it goes, TYPE, session, SEQ, status word, and its body before encryption (R352) -/
  | dcp (port : NetPort) (dest : NetAddr) (tag : FrameTag) (type : Nat) (session : BitVec 32) (seq : BitVec 64) (status : Nat) (payload : List Byte)
  /-- a Pyrol Link packet handed to a port, or to the device itself (none) -/
  | packet (port : Option PortId) (p : Packet)
  /-- a flit sent on a port -/
  | flit (port : PortId) (f : Flit)
  /-- the words that a port sends in CHECK: device ID, port number, mode and share digest (R290) -/
  | check (port : PortId) (device : Nat) (mode : Nat) (digest : BitVec 64)
  /-- a banker message on the management ports: destination (none: every device), code, job, SEQ, TURN, three fields (R465) -/
  | banker (dst : Option DeviceId) (code : Nat) (job : BitVec 16) (seq : Nat) (turn : Nat) (f0 f1 f2 : Nat)
  /-- a RoCE packet: queue pair ring, remote queue pair and peer, kind, PSN, payload (R364, R365) -/
  | roce (qp : RingId) (remote : Nat) (peer : HostPeer) (tag : FrameTag) (kind : Nat) (psn : Nat) (payload : List Byte)
  /-- the answer to a neighbour request (R350) -/
  | neighbour (k : NeighbourKind) (dest : NetAddr) (tag : FrameTag)
  /-- bytes of an I3C private read (R455) -/
  | i3c (data : List Byte)
  /-- bits driven on TDO (R455) -/
  | tdo (b : Nat)
deriving DecidableEq, Repr

/-- Where the module stands between power-up and power-down (R442, R471, R498, R504). -/
inductive Phase where
  /-- main rails off: the hourglass unit serves alone -/
  | asleep
  /-- booted -/
  | running
  /-- main rails on, the hub control complex in recovery (R442) -/
  | recovery
deriving DecidableEq, Repr

/-- A domain reset that runs (R410, R411). -/
structure ResetRun where
  domain : Nat
  core : Nat
  startAt : Nat
deriving DecidableEq, Repr

/-- The device time base and the power inputs (R314, R372, R474, R498). -/
structure Power where
  /-- device time in ns -/
  raw : Nat := 0
  /-- the largest stamp issued before a step back -/
  last : Nat := 0
  /-- offset still to slew, in ns, and ns since the last slewed one (R314) -/
  slewLeft : Int := 0
  slewPhase : Nat := 0
  auxOn : Bool := true
  phase : Phase := .asleep
  mainMv : Nat := 0
  lowSince : Option Nat := none
  highSince : Option Nat := none
  okSince : Option Nat := none
  /-- stamp from which auxiliary power has been in range -/
  auxSince : Nat := 0
  phyRstN : Bool := false
  hmodResetN : Bool := false
  /-- no main input has been present yet since auxiliary power-up (R460) -/
  firstMain : Bool := true
  mainOn : Bool := false
  cagePresent : Bool := false
  i3cAddr : Option (BitVec 7) := none
  i3cIbi : Bool := false
  /-- instruction in the TAP: 0 BYPASS, 1 IDCODE, 2 boundary scan -/
  jtagIr : Nat := 1
  /-- the resets that run: one of a wide domain, or CORE resets of different cores (R411) -/
  running : List ResetRun := []
  /-- self-test and rated selection have completed in this boot (R480) -/
  selfTested : Bool := false
  /-- resets of each domain since main power-up: key domain, and 256 + core for CORE (R480) -/
  resets : Table Nat := []
deriving DecidableEq, Repr

/-- The clock of a compute die (R375 to R378, R397). -/
structure Clock where
  /-- array cycles since the die's clock started -/
  cycles : Nat := 0
  /-- phase accumulator of the cycle counter -/
  phase : Nat := 0
  /-- stretched cycles not yet counted in STRETCHED -/
  stretched : Nat := 0
  /-- cycle from which the droop flag has been clear; none before the first droop -/
  clearFrom : Option Nat := none
  /-- a change in settling, or settled and held: destination set point and the stamp at which its PLL settles -/
  change : Option (Nat × Nat) := none
  /-- the change is a step up whose switch is held (R376) -/
  held : Bool := false
  /-- a step up that may not start yet has been counted in DEFERRED -/
  deferred : Bool := false
deriving DecidableEq, Repr

/-- The pace notice of this device for a job (R388): unreleased or not, the RATE and stamp of the last one, and
the stamp since which the device has not been throttled for the job. -/
structure PaceOut where
  active : Bool := false
  rate : Nat := 0
  sentAt : Nat := 0
  calmSince : Option Nat := none
deriving DecidableEq, Repr

/-- Pace notices received from a device for a job (R391): the highest SEQ, and the notice in force. -/
structure PaceIn where
  seq : Nat
  rate : Nat
  at_ : Nat
  inForce : Bool
deriving DecidableEq, Repr

/-- An energy estimate charged and not yet reconciled (R393). -/
structure Charge where
  rail : Nat
  account : Account
  amount : Nat
deriving DecidableEq, Repr

/-- The member table of the banker (R473): ADMIT, SPARE, STATE, and the stamp of the last heartbeat. -/
structure Member where
  admitted : Bool := false
  spare : Bool := false
  state : Nat := 0
  heardAt : Nat := 0
  /-- PRIORITY of its last candidate ANNOUNCE in this election -/
  priority : Option Nat := none
deriving DecidableEq, Repr

/-- A decision that the active banker makes of a turn, or that the standby holds (R220, R467): the turn, commit or
failure, CASTLE, and the SEQ of the DECISION while its acknowledgement is awaited. -/
structure Decision where
  turn : Nat
  commit : Bool
  castle : Nat
  awaits : Option Nat := none
deriving DecidableEq, Repr

/-- The active banker's record of a job (R220, R415 to R417, R345): the turn in progress, the devices that have reported
ready with their reports, the stamp of the first and of the turn's start, the last decision, the failure notice
that runs, quiesced devices and attempts of the turn. -/
structure BankJob where
  turn : Nat := 0
  ready : Table (Nat × Nat) := []
  firstAt : Option Nat := none
  since : Nat := 0
  decision : Option Decision := none
  /-- stamp of the failure notice for the turn, while the replay notice is awaited -/
  failedAt : Option Nat := none
  quiesced : List Nat := []
  attempts : Nat := 0
  slow : Table Nat := []
  /-- the next turn fails once the commit that is being recorded has been sent (R415) -/
  failNext : Bool := false
deriving DecidableEq, Repr

/-- The banker role (R465 to R469): the start of the election, stamps of the last ANNOUNCE and HEARTBEAT sent, the stamp
at which the active banker was last heard and that of its loss, the highest EPOCH heard. -/
structure Banker where
  electAt : Nat := 0
  saidAt : Nat := 0
  beatAt : Nat := 0
  heardAt : Nat := 0
  lostAt : Option Nat := none
  epochHeard : Nat := 0
  /-- the role is given up at the next turn boundary, to join a pod that has admitted the device (R28) -/
  joins : Option Nat := none
  members : Table Member := []
  jobs : Table BankJob := []
  /-- decisions recorded as standby, by job -/
  decisions : Table Decision := []
  /-- the highest pair (boot count, SEQ) taken of each sender and code, plus one (R465) -/
  taken : Table Nat := []
  /-- stragglers whose partitions are to move to a spare: key job × 2^20 + device (R345) -/
  moves : Table Nat := []
  /-- partner reports: last known partner, by device × 16 + port (R312) -/
  reports : Table Nat := []
deriving DecidableEq, Repr

/-- A ring: its 256-bit context (R321) and its run-time part. -/
structure Ring where
  ctx : BitVec 256 := 0
  /-- bytes of the message arriving over the fabric (R329) -/
  arrived : Nat := 0
  arrivingLen : Nat := 0
  /-- CONSUMED as last returned, and the stamp of the first advance since (R328) -/
  returned : Nat := 0
  advancedAt : Option Nat := none
  /-- pointer of the arbiter among the cores whose MRECVs wait on it (R191, R325) -/
  recvPtr : Nat := 0
deriving DecidableEq, Repr

/-- A training job on this device (R219, R417, R330, R344), by job tag. -/
structure JobRun where
  /-- a failure of the turn in progress is recorded (R219) -/
  failed : Bool := false
  /-- a failure notice has stopped the contexts; the replay notice is not yet applied (R417) -/
  stopped : Bool := false
  /-- the device has reported quiesced (R417) -/
  quiesced : Bool := false
  /-- stamp of the last ready report for the turn in progress (R219) -/
  readyAt : Option Nat := none
  /-- start of the attempt, and whether a pace notice went out within it (R344) -/
  attemptAt : Nat := 0
  throttled : Bool := false
  /-- mirrors and restored members sent and not acknowledged, oldest first: destination, and the address of the last
  packet (R218, R221) -/
  unacked : List (Nat × Nat) := []
deriving DecidableEq, Repr

/-- One run of a composed step (R272). -/
structure StepRun where
  seq : Nat
  prefill : Bool
  last : Bool
  gen : Nat
  first : Nat
  count : Nat
deriving DecidableEq, Repr

/-- The step composer of a partition (R269, R272): the step in progress, the number of the next one,
and KV pages held, by sequence. -/
structure Serving where
  step : Option (Nat × List StepRun) := none
  next : Nat := 0
  pages : Table (List Nat) := []
  /-- generations that castlings have replaced, with the stamp, and those of them for which OLD_GEN_LIMIT has passed (R277) -/
  castled : Table Nat := []
  oldDue : List Nat := []
deriving DecidableEq, Repr

/-- A partition that this device moves to another (R264): the target, the addresses whose transfers it has not
acknowledged yet, and how far the move has come: 0 its contexts swap out, 1 its extents travel, 2 everything is sent. -/
structure MoveOut where
  target : Nat
  waiting : List Nat := []
  stage : Nat := 0
deriving DecidableEq, Repr

/-- A packet on its way out of a port (R305, R310): its set and channel, the flits not yet sent, the FSEQ
of the last flit sent of it, and the channel on which it arrived at this device. -/
structure OutPacket where
  pkt : Packet
  set : Nat
  vc : Nat
  flits : List Flit
  last : Option Nat := none
  came : Nat := 0
deriving DecidableEq, Repr

/-- The run-time state of a port (R289 to R314). -/
structure Port where
  /-- stamp of entry to its state -/
  since : Nat := 0
  /-- light is lost -/
  dark : Bool := false
  /-- next FSEQ sent and next FSEQ expected (R293, R294) -/
  txSeq : Nat := 0
  rxSeq : Nat := 0
  nak : Bool := false
  /-- flits are discarded until the expected FSEQ arrives (R294) -/
  losing : Bool := false
  /-- discards in succession of the expected FSEQ -/
  discards : Nat := 0
  /-- stamps of uncorrectable codewords within the last 1 ms, newest first (R306) -/
  uncorr : List Nat := []
  /-- flits sent and not acknowledged, oldest first, and those to send again -/
  replay : List Flit := []
  resend : List Flit := []
  out : List OutPacket := []
  /-- credits held, and owed to the partner, by 2 × set + channel (R305) -/
  credits : Table Nat := []
  owed : Table Nat := []
  /-- bytes of the packet that arrives on 2 × set + channel -/
  rx : Table (List Byte) := []
  /-- the share table in force (R308) -/
  share : Table (BitVec 64) := []
  /-- flit slots modulo 8 (R380) -/
  slot : Nat := 0
  /-- deficit round robin: the set served and what is left of its share; flits of the system set in the last 255
  slots, newest first (R307) -/
  served : Nat := 0
  deficit : Nat := 0
  system : List Bool := []
  /-- stamps of the last beacon sent and received, the partner's hop count, and the digest last advertised -/
  sentAt : Nat := 0
  heardAt : Nat := 0
  hops : Nat := 255
  told : BitVec 64 := 0
deriving DecidableEq, Repr

/-- A packet that no port can take (R311): the channel it arrived on, and since when. -/
structure HeldPacket where
  pkt : Packet
  vc : Nat
  since : Nat
deriving DecidableEq, Repr

/-- A packet held ahead of its turn in the reorder store of a die, with the stamp of its arrival (R298, R299). -/
structure EarlyPacket where
  pkt : Packet
  die : Nat
  at_ : Nat
deriving DecidableEq, Repr

/-- A flow at its destination (R298): the next FLOW_SEQ, packets held ahead of it, and whether a packet of the bulk transfer
that arrives has been refused (R297). -/
structure FlowIn where
  next : Nat := 0
  held : List EarlyPacket := []
  refused : Bool := false
deriving DecidableEq, Repr

/-- A shard that a generation loads (R278 to R281): what its manifest entry says, the bytes that have arrived,
the attempts that failed, the stamp of the last byte, whether its LOAD_END has succeeded, whether its
read is under way and how many have begun; the members that reported it to its reader, in seating order, and in a
later attempt the member that gets the bytes next, or that none does. -/
structure Shard where
  num : Nat
  published : Bool
  ext : Nat
  count : Nat
  qp : Nat
  rkey : Nat
  remote : Nat
  digests : Nat
  got : Nat := 0
  failed : Nat := 0
  lastAt : Nat := 0
  done : Bool := false
  reading : Bool := false
  reads : Nat := 0
  reports : List Nat := []
  nextHop : Option (Option Nat) := none
deriving DecidableEq, Repr

/-- The loader of a generation (R278, R279): its group, this member's number, digest mode and shards. -/
structure GenLoad where
  gen : Nat
  group : Nat
  member : Nat
  digest : Bool
  shards : List Shard
deriving DecidableEq, Repr

/-- A request held ahead of its turn (R361): the operation of its row, its packet, and the stamp of its arrival. -/
structure HeldReq where
  code : Nat
  head : ReqHead
  op : Option DcpOp
  at_ : Nat
deriving DecidableEq, Repr

/-- A response in the cache of a session (R361): STATUS, DONE and the data read. -/
structure Reply where
  status : Nat
  done : Nat
  data : List Byte
deriving DecidableEq, Repr

/-- A READ that the device has outstanding on a queue pair (R278, R364): for which partition, entry and shard, the
offset from which it reads, what has come, the stamp of the last request, and retries. -/
structure QpRead where
  part : PartId
  entry : Nat
  shard : Nat
  off : Nat
  got : Nat := 0
  at_ : Nat := 0
  tries : Nat := 0
  /-- times that it was made again after a receiver-not-ready answer (R365) -/
  rnr : Nat := 0
deriving DecidableEq, Repr

/-- A message that has begun and not ended on a queue pair (R364): whether it is a SEND, where a WRITE goes on, under which
key, and the bytes it still brings; the bytes of a SEND so far; and the PSN of its first packet. -/
structure QpMsg where
  send : Bool
  addr : Nat := 0
  rkey : Nat := 0
  left : Nat := 0
  bytes : List Byte := []
  psn : Nat := 0
deriving DecidableEq, Repr

/-- The run-time part of a queue pair (R364 to R366): the stamps of the last congestion notification sent and
received, of the last decay and rate increase, the target rate, the outstanding READ and the message that arrives. -/
structure QpRun where
  cnpSent : Option Nat := none
  cnpAt : Nat := 0
  decayAt : Nat := 0
  raiseAt : Nat := 0
  target : Nat := 0
  read : Option QpRead := none
  msg : Option QpMsg := none
deriving DecidableEq, Repr

/-- A DCP session (R353 to R363): where it is served, its scope and key, its command ring; the source of its last request, to
which replies and notices go; and its two keys (R352, R354). -/
structure Session where
  port : NetPort
  scope : Scope
  key : BitVec 16
  ring : RingId
  peer : NetAddr := {}
  toDevice : List Byte := []
  toHost : List Byte := []
  /-- SEQ of the next request to execute (R361) -/
  next : BitVec 64 := 0
  /-- requests that arrived ahead of it, and the last 64 responses, by SEQ (R361) -/
  held : Table HeldReq := []
  cache : Table Reply := []
  lastAt : Nat := 0
  /-- rings whose counts it hears of, each with the counts that it was last told (R363) -/
  subs : Table Nat := []
  /-- stamps of the last NOTIFY of a ring (R363) -/
  heard : Table Nat := []
  telemetry : Bool := false
  lastTelemetry : Nat := 0
  /-- the hourglass unit serves it (R454) -/
  byHgu : Bool := false
  /-- SEQ of the next packet that the device sends in it (R352) -/
  sentSeq : Nat := 0
deriving DecidableEq, Repr

/-- A fault source's configuration and record (R401, R428). -/
structure FaultSrc where
  cls : Option Nat := none
  valid : Bool := false
  overflow : Bool := false
  wire : Bool := false
  forced : Bool := false
  code : Nat := 0
  time : Nat := 0
  /-- AUTO_CLEAR clears the record when the running reset ends (R401) -/
  awaits : Bool := false
deriving DecidableEq, Repr

/-- The status of a crash-dump slot (R414, R428). -/
structure Dump where
  valid : Bool := false
  part : Bool := false
  skipped : Nat := 0
  time : Nat := 0
deriving DecidableEq, Repr

/-- A valid sensor of the hourglass unit (R457): its latest sample, its filtered value, and the last
samples, newest first. -/
structure Sensor where
  raw : Int
  y : Int
  recent : List Int
deriving DecidableEq, Repr

/-- The state of a rule of the hourglass unit (R459). -/
structure RuleRun where
  active : Bool := false
  dwell : Nat := 0
deriving DecidableEq, Repr

/-- A firmware slot in flash (R436, R440, R441): its state and REASON as SEC_FW_SLOT codes them, whether it
holds the image of the factory, and its bytes. -/
structure FwSlot where
  state : Nat := 0
  reason : Nat := 0
  factory : Bool := false
  data : Bytes := []
deriving DecidableEq, Repr

/-- A position slot in flash (R446), its state as CFG_SLOT_0 codes it, and its bytes. -/
structure Position where
  state : Nat := 0
  data : List Byte := []
deriving DecidableEq, Repr

/-- A DRAM row that lies in a spare (R242): its stack, pseudo-channel, bank and extent (R227), and its number among the
extent's rows there. -/
structure SpareRow where
  stack : Nat
  channel : Nat
  bank : Nat
  extent : Nat
  row : Nat
deriving DecidableEq, Repr

/-- Codewords of the stacks (R238 to R242). -/
structure Ecc where
  /-- wrong symbols of stored codewords, by line: symbol 5k + i is the i-th of DRAM die k -/
  wrong : Table (BitVec 80) := []
  /-- stamps of corrected codewords with an error on a die, newest first: key (32 × stack + channel) × 16 + die -/
  stamps : Table (List Nat) := []
  /-- lines whose codewords were found corrected in the patrol's pass -/
  found : List Nat := []
  /-- lines whose codewords were found uncorrectable, and whose rows have not been spared -/
  lost : List Nat := []
  /-- uncorrectable lines that lay in a row when it was spared or its extent retired -/
  copied : List Nat := []
  /-- lines whose next transfer fails five times (R224) -/
  failing : List Nat := []
  /-- lines at which a die was marked, whose source has not been raised -/
  marked : List Nat := []
  /-- lines that a write of the hub's has met uncorrectable, whose source has not been raised -/
  met : List Nat := []
deriving DecidableEq, Repr

/-- What flash holds (R436): firmware slots by 2c + s, position slots, the anti-rollback counters, the
fence map, the retired extents, the marked die of each pseudo-channel (by 32 × stack + channel) and the spared rows. -/
structure Flash where
  slots : Table FwSlot :=
    (List.range 7).map fun c => (2 * c, { state := 3, reason := 0, factory := true, data := [] })
  positions : Table Position := []
  counters : Table Nat := []
  fence : List Nat := []
  retired : List Nat := []
  marks : Table Nat := []
  spares : List SpareRow := []
deriving DecidableEq, Repr

/-- A path's command that waits for its page (R483): path, page, the command's operands. -/
structure PageCmd where
  path : Path
  page : Nat
  /-- operation code and the operands of the command word -/
  op : Nat
  a : Nat
  b : Nat
  c : Nat
  /-- the path's argument copies at the write -/
  arg0 : Nat
  arg1 : Nat
  arg2 : Nat
  /-- stamp at which it began to run; none: it waits for its turn -/
  began : Option Nat
  /-- a map command has changed its entries and waits for their clearing (R236) -/
  applied : Bool := false
deriving DecidableEq, Repr

end Sys2Proof.Machine
end

