-- ==== Sys2Proof/Machine/State.lean ====
section
/-! DEFINITION. The state of the block, its faults and refusals, and the state after reset. -/

namespace Sys2Proof.Machine

/-- The whole device but its memory. A command's meaning changes this, reads memory, and leaves the
stores it makes in `stores`. -/
structure Dev where
  /-- the register file: words that differ from their reset value, by word address (R475, R476) -/
  regs : Table Word := []
  /-- the copies of R483: key of the path × 2^32 + word address -/
  pathRegs : Table Word := []
  /-- stores of the running command, newest first; empty between commands -/
  stores : List Store := []
  /-- how many free values have been drawn (the model's own field, log 5) -/
  freeCtr : Nat := 0
  sent : List Sent := []
  power : Power := {}
  clocks : Table Clock := []
  cores : Table Core := []
  /-- contexts, by partition × 2^16 + number (R256) -/
  ctxs : Table Ctx := []
  rings : Table Ring := []
  /-- extent map entries (R231) -/
  xmap : Table (BitVec 128) := []
  pageCmds : List PageCmd := []
  /-- commands that a running reset has abandoned, whose paths read RESULT RESET once it has ended (R506) -/
  abandoned : List PageCmd := []
  /-- partitions HELD whose harts and queues stand still (R255) -/
  plainHold : List PartId := []
  /-- partitions whose contexts a failure notice has stopped until the replay notice (R417) -/
  failHold : List PartId := []
  jobs : Table JobRun := []
  /-- SEQ of the next banker message of each code (R465) -/
  bankSeq : Table Nat := []
  /-- sequence table entries (R267) -/
  seqs : Table (BitVec 256) := []
  serving : Table Serving := []
  /-- open sessions, by session number (R353) -/
  sessions : Table Session := []
  faults : Table FaultSrc := []
  flash : Flash := {}
  /-- the error log, by entry, the captures since power-up and the end of the running capture (R404, R405) -/
  log : Table (BitVec 256) := []
  captures : Nat := 0
  captureEnd : Nat := 0
  dumps : Table Dump := []
  /-- valid sensors and rules of the hourglass unit (R456 to R459) -/
  sensors : Table Sensor := []
  rules : Table RuleRun := []
  /-- digest accumulators of extents whose DIGEST is 1 (R245) -/
  digests : Table (BitVec 64) := []
  /-- codewords of device memory that have wrong symbols, and what has been found of them (R238 to R242) -/
  ecc : Ecc := {}
  /-- lines that the patrol of each stack has read since main power-up (R241) -/
  patrol : Table Nat := []
  /-- stamp of each stack's last request (R247) -/
  stackUse : Table Nat := []
  /-- loaders, by partition × 8 + entry, and pending castlings, by partition (R273, R278) -/
  loads : Table GenLoad := []
  castling : Table Nat := []
  /-- the generation that the turn in progress of a partition holds (R274) -/
  turnGen : Table Nat := []
  /-- partitions that this device moves to another, by partition (R264) -/
  moves : Table MoveOut := []
  /-- packets that the device originates and that have not left (R302), oldest first -/
  egress : List Packet := []
  /-- FLOW_SEQ of the next packet of each flow from this device: key destination × 2^16 + job (R298) -/
  flowOut : Table Nat := []
  ports : Table Port := []
  /-- route entries of the device table, and from 4096 of the pod table (R300) -/
  routes : Table (BitVec 64) := []
  /-- packets that no port can take (R311) -/
  held : List HeldPacket := []
  /-- packets assembled from flits, in the receive buffer of their port, with twice their set plus their channel, plus 128
  once the port owes no credit for them (R305); and those for this device -/
  transit : List (PortId × Nat × Packet) := []
  inbox : List (Option PortId × Packet) := []
  /-- flows that end here, by source × 2^16 + job (R298) -/
  flowIn : Table FlowIn := []
  /-- shadow members of turn pairs written in the turn in progress, and of them those whose last write has not
  gone to the buddy; mirrors that have arrived in it (R218, R219) -/
  written : List Nat := []
  unsent : List Nat := []
  arrived : List Nat := []
  qps : Table QpRun := []
  peers : Table HostPeer := []
  /-- a pause is in force on the port's priority (R366) -/
  paused : Bool := false
  /-- junction temperatures, by sensor; stamps since which one is at its limit, and of the last change of a die's THERMAL
  limit (R383 to R386) -/
  temps : Table Nat := []
  hotSince : Table Nat := []
  thermAt : Table Nat := []
  /-- input power over the last 1,000 intervals of 100 µs, newest first; stamp since which a cap is exceeded with every
  class at its floor (R379 to R382) -/
  capSamples : List Nat := []
  floorSince : Option Nat := none
  /-- pace notices sent, by job, and received, by device × 2^16 + job (R388, R391) -/
  pace : Table PaceOut := []
  paceIn : Table PaceIn := []
  /-- charges of the running interval, pip counters of rings, measured energy of rails (R392 to R394) -/
  charges : List Charge := []
  ringPips : Table Nat := []
  railPips : Table Nat := []
  /-- stamps since which a partition is in stalemate (R409) -/
  staleSince : Table Nat := []
  /-- idle time of a core under causes 0, 1, 2, 5 and 6 in the attempt of the turn (R344) -/
  idleSpan : Table Nat := []
  /-- stamp since which no command of a partition executes (R330, R344) -/
  stillSince : Table Nat := []
  /-- the job of each partition as the hub has last seen it (R219, R298) -/
  jobOf : Table Nat := []
  /-- idleSpan of a core when its partition last executed a command (R344) -/
  idleMark : Table Nat := []
  /-- devices of jobs that spares have replaced: key job × 2^20 + device of the job description (R425) -/
  places : Table Nat := []
  bank : Banker := {}
  /-- measurement registers M_0 to M_15, 64 bytes each (R433) -/
  meas : Table (List Byte) := []
  /-- stamp of the last valid Sync (R367) -/
  ptpAt : Nat := 0
deriving DecidableEq, Repr

/-- The machine: the device, its memory (addresses strictly rising, no byte equal to what an
unlisted address reads as), and the commands that wait, first in first out. -/
structure State where
  dev : Dev := {}
  mem : List Host.Cell := []
  pending : List Instr := []
deriving DecidableEq, Repr

/-- Reasons for which a step stops with a fault: the model has none, since every command of the
block has an effect or leaves the state as it is. -/
inductive Fault where
deriving DecidableEq, Repr

/-- Reasons for which a command is refused. -/
inductive Refusal where
  /-- raised by an arm of exec whose command has no meaning yet; safe: nothing can be concluded -/
  | notModelled (mnemonic : String)
deriving DecidableEq, Repr

/-- The state right after auxiliary power-up (R474, R498): the module is asleep, device time is 0,
nothing is listed in memory and no command waits (log 1). -/
def State.reset : State := {}

end Sys2Proof.Machine
end

