-- ==== Sys2Proof/Machine/Ecc.lean ====
section
/-! DEFINITION. Codewords of the Yepen stacks (08_memory_extents R227, R238, R239): pseudo-channels, symbols, the limits
of correction and the dies that are marked. -/

namespace Sys2Proof.Machine

/-- The stack of a line (R226). -/
def stackOf (line : Nat) : Nat := line / 2 ^ 30 % 32

/-- The pseudo-channel of a line: the exclusive-or of address bits [10:6], [15:11] and [20:16] (R227). -/
def pseudoChannel (line : Nat) : Nat := bits line 0 5 ^^^ bits line 5 5 ^^^ bits line 10 5

/-- The number of a line's pseudo-channel among all of the device. -/
def channelKey (line : Nat) : Nat := 32 * stackOf line + pseudoChannel line

/-- The five symbols of a codeword that DRAM die k holds (R238). -/
def dieSymbols (k : Nat) : BitVec 80 := 31 <<< (5 * k)

/-- How many symbols are wrong. -/
def wrongCount (w : BitVec 80) : Nat := ((List.range 80).filter fun i => w.getLsbD i).length

/-- The codeword of a line is corrected: at most 8 symbols are wrong or, where a die is marked, at most 5 beside those of
the die, which are decoded as erasures (R238). -/
def Flash.corrects (f : Flash) (line : Nat) (w : BitVec 80) : Bool :=
  match tFind (channelKey line) f.marks with
  | none => decide (wrongCount w ≤ 8)
  | some k => decide (wrongCount (w &&& ~~~ dieSymbols k) ≤ 5)

/-- The uncorrectable lines of device memory (R238, R240). -/
def Dev.bad (d : Dev) : List Nat :=
  (d.ecc.wrong.filter fun e => !d.flash.corrects e.1 e.2).map fun e => e.1

/-- The row of a line: a DRAM row holds lines of one extent only (R227); which of them, and in which bank, is free. -/
def rowOf (line : Nat) : SpareRow :=
  { stack := stackOf line, channel := pseudoChannel line, bank := (Config.dramBank line).toNat
    extent := line / 65536, row := (Config.dramRow line).toNat }

/-- Takes note of a corrected codeword with an error on a die (R239): the die is marked at the 64th within 10 s, or at
once when all its symbols are wrong; a pseudo-channel has one marked die at most. -/
def Dev.dieError (d : Dev) (now line : Nat) (w : BitVec 80) (k : Nat) : Dev :=
  if w &&& dieSymbols k = 0 then d
  else
    let key := 16 * channelKey line + k
    let l := (now :: tGet [] d.ecc.stamps key).take 64
    let d := { d with ecc := { d.ecc with stamps := tPut key l d.ecc.stamps } }
    let due := decide (w &&& dieSymbols k = dieSymbols k) || (decide (l.length = 64) && decide (now < l.getLastD 0 + 10000000000))
    if due && (tFind (channelKey line) d.flash.marks).isNone then
      { d with
        flash := { d.flash with marks := tPut (channelKey line) k d.flash.marks }
        ecc := { d.ecc with marked := d.ecc.marked ++ [line] } }
    else d

end Sys2Proof.Machine
end

