-- ==== Sys2Proof/Machine/Ops.lean ====
section
/-! DEFINITION. The named operations on memory, time, registers, cores, contexts and rings that the
meanings are written with. -/

namespace Sys2Proof.Machine

/-! ### Device memory -/

/-- Device memory: a byte table; an unlisted byte reads as 0 (log 6). -/
abbrev Mem := List Host.Cell

/-- The byte a store puts at an address. -/
def Store.byteAt (s : Store) (a : Nat) : Option Byte :=
  match s with
  | .bytes b l => if b ≤ a then l[a - b]? else none
  | .clear b n => if b ≤ a ∧ a < b + n then some 0 else none

/-- Applies a store to memory. -/
def Store.apply (s : Store) (m : Mem) : Mem :=
  match s with
  | .bytes a l => bWrite a l m
  | .clear a n => tDelRange a n m

/-- Applies stores, the last of the list first. -/
def applyStores (l : List Store) (m : Mem) : Mem := l.foldr Store.apply m

/-- The byte of the newest store that reaches an address, or else memory's own. -/
def byteUnder (l : List Store) (m : Mem) (a : Nat) : Byte :=
  match l with
  | [] => bGet m a
  | s :: r => match s.byteAt a with
    | some b => b
    | none => byteUnder r m a

/-- Reads one byte of device memory, the stores of the running command included. -/
def memByte (m : Mem) (d : Dev) (a : Nat) : Byte := byteUnder d.stores m a

/-- Reads n bytes of device memory. -/
def memRead (m : Mem) (d : Dev) (a n : Nat) : List Byte :=
  (List.range n).map fun i => memByte m d (a + i)

/-- Little-endian value of n bytes of device memory. -/
def memNat (m : Mem) (d : Dev) (a n : Nat) : Nat := leNat (memRead m d a n)

/-- Stores bytes to device memory. -/
def Dev.store (d : Dev) (a : Nat) (l : List Byte) : Dev :=
  { d with stores := .bytes a l :: d.stores }

/-- Stores a value of n bytes, little-endian. -/
def Dev.storeNat (d : Dev) (a n v : Nat) : Dev := d.store a (leBytes n v)

/-- Stores zero to n bytes. -/
def Dev.clearMem (d : Dev) (a n : Nat) : Dev := { d with stores := .clear a n :: d.stores }

/-- The canonical form of memory: addresses strictly rising, no byte listed that is 0. -/
def memWf (m : Mem) : Bool := tRising none m && m.all fun c => decide (c.2 ≠ 0)

/-- A store replaces a whole line. -/
def Store.covers (s : Store) (line : Nat) : Bool :=
  match s with
  | .bytes b l => decide (b ≤ 64 * line) && decide (64 * line + 64 ≤ b + l.length)
  | .clear b n => decide (b ≤ 64 * line) && decide (64 * line + 64 ≤ b + n)

/-- Codewords that a command's stores replace whole have no wrong symbol (R240). -/
def Dev.heal (d : Dev) : Dev :=
  let whole := fun (x : Nat) => d.stores.any fun s => s.covers x
  { d with
    stores := []
    ecc := { d.ecc with
      wrong := d.ecc.wrong.filter fun e => !whole e.1
      lost := d.ecc.lost.filter fun x => !whole x
      copied := d.ecc.copied.filter fun x => !whole x } }

/-- A line lies, at least in part, among bytes. -/
def lineIn (x a n : Nat) : Bool := decide (64 * x < a + n) && decide (a < 64 * x + 64)

/-- A read of bytes meets an uncorrectable line, or a transfer that fails for good (R224, R240). -/
def Dev.badRead (d : Dev) (a n : Nat) : Bool :=
  d.bad.any (fun x => lineIn x a n) || d.ecc.failing.any fun x => lineIn x a n

/-- A write of bytes covers an uncorrectable line in part, or a transfer of it fails for good (R224, R240). -/
def Dev.badWrite (d : Dev) (a n : Nat) : Bool :=
  d.bad.any (fun x => lineIn x a n && !(decide (a ≤ 64 * x) && decide (64 * x + 64 ≤ a + n))) ||
    d.ecc.failing.any fun x => lineIn x a n

/-- Runs a command's change of the device and then makes its stores. Memory changes in no other way. -/
def State.run (s : State) (f : Mem → Dev → Dev) : State :=
  let d := f s.mem { s.dev with stores := [] }
  { s with dev := d.heal, mem := applyStores d.stores s.mem }

/-! ### Time -/

/-- Device time (R5, R474): after a step back the counter holds until time passes it (R314). -/
def Dev.now (d : Dev) : Nat := max d.power.raw d.power.last

/-- The clock of a die. -/
def Dev.clock (d : Dev) (k : Nat) : Clock := tGet {} d.clocks k

/-- Changes the clock of a die. -/
def Dev.setClock (d : Dev) (k : Nat) (c : Clock) : Dev := { d with clocks := tSet {} k c d.clocks }

/-- The compute die of a core (R17). -/
def dieOf (c : CoreId) : Nat := c.val / 36

/-- The array cycle of a core's die. -/
def Dev.cycle (d : Dev) (c : CoreId) : Nat := (d.clock (dieOf c)).cycles

/-- Draws a free value's number (log 5). -/
def Dev.draw (d : Dev) : Nat × Dev := (d.freeCtr, { d with freeCtr := d.freeCtr + 1 })

/-- Records an output. -/
def Dev.send (d : Dev) (x : Sent) : Dev := { d with sent := x :: d.sent }

/-- Sets what flash holds. -/
def Dev.setFlash (d : Dev) (x : Flash) : Dev := { d with flash := x }

/-- Sets the loaders. -/
def Dev.setLoads (d : Dev) (x : Table GenLoad) : Dev := { d with loads := x }

/-- Sets what castlings are pending. -/
def Dev.setCastling (d : Dev) (x : Table Nat) : Dev := { d with castling := x }

/-- Sets what serving partitions hold. -/
def Dev.setServing (d : Dev) (x : Table Serving) : Dev := { d with serving := x }

/-- Sets which partitions stand still on a hold. -/
def Dev.setPlainHold (d : Dev) (x : List PartId) : Dev := { d with plainHold := x }

/-- Sets the digest accumulators. -/
def Dev.setDigests (d : Dev) (x : Table (BitVec 64)) : Dev := { d with digests := x }

/-- Sets how far the patrols have come. -/
def Dev.setPatrol (d : Dev) (x : Table Nat) : Dev := { d with patrol := x }

/-- Sets the time base and the power inputs. -/
def Dev.setPower (d : Dev) (p : Power) : Dev := { d with power := p }

/-! ### The register file (R8, R9, R475, R476) -/

/-- The index of a field's register at byte offset o of its page. -/
def Fld.indexAt (f : Fld) (o : Nat) : Option Nat :=
  if f.count = 1 then (if o = f.off then some 0 else none)
  else if f.off ≤ o ∧ (o - f.off) % f.stride = 0 ∧ (o - f.off) / f.stride < f.count then
    some ((o - f.off) / f.stride)
  else none

/-- The fields that lie in the word at offset o of a page of a block, with their lowest bit in the
word (R476). -/
def wordFields (code o : Nat) : List (Fld × Nat) :=
  (blockFields code).flatMap fun f =>
    (match f.indexAt o with | some _ => [(f, f.lo)] | none => []) ++
    (match f.indexAt (o + 4) with | some _ => [(f, f.lo + 32)] | none => [])

/-- The factory values of HGU_RULE_0 to HGU_RULE_8 (R460); the others are 0. -/
def factoryRules : List Nat :=
  [0x0130064000111FA4, 0x0130069000110390, 0x0130050000110F94, 0x0A200320018500F6, 0x0A200370000D00F6,
   0x02320FA0001200E4, 0x0000000000130B8A, 0x0000000000130B89, 0x0000000000130B88]

/-- The value of the factory position, or of the factory data, for a flash field of the register at byte
offset o of its page (R9, R447). Fields without a stated factory value are 0, but for EN of a management port: the model
chooses 1, since sessions can be opened 100 ms after auxiliary power-up (R498; log 3). -/
def factoryFld (f : Fld) (o : Nat) : Nat :=
  if f = F.CLK_CTL_MAX then 28
  else if f = F.PWR_CAP_SUSTAINED then 320
  else if f = F.PWR_CAP_PEAK then 380
  else if f = F.THM_CTL_THROTTLE_C then 100
  else if f = F.THM_CTL_RELEASE_C then 97
  else if f = F.HGU_RULE_RULE then factoryRules.getD ((f.indexAt o).getD 64) 0
  else if f = F.HGU_MGT_CFG_EN then 1
  else if f = F.HOST_MAC_MAC then Config.mac.toNat
  else if f = F.SEC_SERIAL_SERIAL then Config.serial.toNat
  else 0

/-- The value of a field right after its block's reset while the factory position is in force (R9). -/
def Fld.resetValue (f : Fld) (o : Nat) : Nat := f.reset.getD (factoryFld f o)

/-- The word at a register address right after its block's reset while the factory position is in force
(R9); another position is written over it when the block is reset (R447). -/
def resetWord (a : Nat) : Word :=
  let o := a % 2 ^ 16
  BitVec.ofNat 64 (((wordFields (a / 2 ^ 24) o).map fun x =>
    x.1.resetValue (if x.2 < 32 then o else if (x.1.indexAt o).isSome then o else o + 4) * 2 ^ x.2).sum)

/-- The word of the register file at an address. -/
def Dev.word (d : Dev) (a : Nat) : Word := (tFind a d.regs).getD (resetWord a)

/-- Sets a word of the register file. -/
def Dev.setWord (d : Dev) (a : Nat) (v : Word) : Dev := { d with regs := tPut a v d.regs }

/-- The byte address of a field's register (R475). -/
def Fld.byteAddr (f : Fld) (inst idx : Nat) : Nat :=
  f.blk * 2 ^ 24 + inst * 2 ^ 16 + f.off + idx * f.stride

/-- The word address of a field's register. -/
def Fld.addr (f : Fld) (inst idx : Nat) : Nat := f.byteAddr inst idx / 8 * 8

/-- The lowest bit of a field in its word. -/
def Fld.pos (f : Fld) (inst idx : Nat) : Nat := f.lo + 8 * (f.byteAddr inst idx % 8)

/-- The value of a field. -/
def Dev.fld (d : Dev) (f : Fld) (inst : Nat := 0) (idx : Nat := 0) : Nat :=
  bits (d.word (f.addr inst idx)).toNat (f.pos inst idx) f.width

/-- A word with a field of it set. -/
def Fld.put (f : Fld) (w : Word) (v inst idx : Nat) : Word :=
  BitVec.ofNat 64 (setBits w.toNat (f.pos inst idx) f.width v)

/-- Sets a field. -/
def Dev.setFld (d : Dev) (f : Fld) (v : Nat) (inst : Nat := 0) (idx : Nat := 0) : Dev :=
  d.setWord (f.addr inst idx) (f.put (d.word (f.addr inst idx)) v inst idx)

/-- A one-bit field as a Bool. -/
def Dev.flag (d : Dev) (f : Fld) (inst : Nat := 0) (idx : Nat := 0) : Bool := d.fld f inst idx == 1

/-- Adds to a counter, which stops at its largest value; for counters of which the spec does not say so, the model chooses it
(log 19). -/
def Dev.count (d : Dev) (f : Fld) (n : Nat) (inst : Nat := 0) (idx : Nat := 0) : Dev :=
  if n = 0 then d else d.setFld f (min (d.fld f inst idx + n) (2 ^ f.width - 1)) inst idx

/-! ### Copies by path (R483) -/

/-- The key of a path's copy of a word. -/
def pathKey (w : Path) (a : Nat) : Nat := w.key * 2 ^ 32 + a

/-- A path's copy of a word; it starts at the register's reset value. -/
def Dev.pword (d : Dev) (w : Path) (a : Nat) : Word :=
  (tFind (pathKey w a) d.pathRegs).getD (resetWord a)

/-- Sets a path's copy of a word. -/
def Dev.setPword (d : Dev) (w : Path) (a : Nat) (v : Word) : Dev :=
  { d with pathRegs := tPut (pathKey w a) v d.pathRegs }

/-- A field of a path's copy. -/
def Dev.pfld (d : Dev) (w : Path) (f : Fld) (inst : Nat := 0) (idx : Nat := 0) : Nat :=
  bits (d.pword w (f.addr inst idx)).toNat (f.pos inst idx) f.width

/-- Sets a field of a path's copy. -/
def Dev.setPfld (d : Dev) (w : Path) (f : Fld) (v : Nat) (inst : Nat := 0) (idx : Nat := 0) : Dev :=
  d.setPword w (f.addr inst idx) (f.put (d.pword w (f.addr inst idx)) v inst idx)

/-- Discards a path's copies: its session closes (R483). -/
def Dev.dropPath (d : Dev) (w : Path) : Dev :=
  { d with pathRegs := tDelRange (w.key * 2 ^ 32) (2 ^ 32) d.pathRegs,
           pageCmds := d.pageCmds.filter fun p => decide (p.path ≠ w) || p.began.isSome }

/-! ### Reset domains -/

/-- The smallest reset domain that contains a block: 1 CORE, 3 MEMORY, 4 FABRIC, 5 DEVICE, none for
what the always-on domain holds (R410, R454, R506; DEDUCED, log 13). -/
def blockDomain (code : Nat) : Nat :=
  if code ≤ 0x06 then 1
  else if code = 0x10 ∨ code = 0x11 ∨ code = 0x12 ∨ code = 0x30 ∨ code = 0x31 ∨ code = 0x32 then 3
  else if code = 0x20 ∨ code = 0x21 then 4
  else if code = 0x50 ∨ code = 0x55 then 6
  else 5

/-- DOMAIN of x_HDR_STATE as far as resets go (R480): 0 while no reset that contains the block runs. -/
def Dev.resetDomain (d : Dev) (code inst : Nat) : Nat :=
  match d.power.running.find? fun r =>
      decide (blockDomain code ≤ r.domain) && (decide (r.domain ≠ 1) || decide (r.core = inst)) with
  | some r => r.domain
  | none => 0

/-! ### Cores and contexts -/

/-- A core. -/
def Dev.core (d : Dev) (c : CoreId) : Core := tGet {} d.cores c.val

/-- Sets a core. -/
def Dev.setCore (d : Dev) (c : CoreId) (x : Core) : Dev := { d with cores := tSet {} c.val x d.cores }

/-- Changes a core. -/
def Dev.modCore (d : Dev) (c : CoreId) (f : Core → Core) : Dev := d.setCore c (f (d.core c))

/-- The key of a context: partition and number. -/
def ctxKey (p : PartId) (n : BitVec 16) : Nat := p.val * 2 ^ 16 + n.toNat

/-- A context. -/
def Dev.ctx? (d : Dev) (key : Nat) : Option Ctx := tFind key d.ctxs

/-- Sets a context. -/
def Dev.setCtx (d : Dev) (key : Nat) (x : Ctx) : Dev := { d with ctxs := tPut key x d.ctxs }

/-- Changes a context that exists. -/
def Dev.modCtx (d : Dev) (key : Nat) (f : Ctx → Ctx) : Dev :=
  match d.ctx? key with
  | some x => d.setCtx key (f x)
  | none => d

/-- The key of the context resident in a slot. -/
def Core.slotKey (x : Core) (k : SlotId) : Option Nat := tFind k.val x.slots

/-- The resident context of a slot. -/
def Dev.slotCtx (d : Dev) (c : CoreId) (k : SlotId) : Option Ctx :=
  (d.core c).slotKey k >>= d.ctx?

/-- Changes the resident context of a slot. -/
def Dev.modSlot (d : Dev) (c : CoreId) (k : SlotId) (f : Ctx → Ctx) : Dev :=
  match (d.core c).slotKey k with
  | some key => d.modCtx key f
  | none => d

/-- A queue of a context. -/
def Ctx.queue (x : Ctx) (q : QueueId) : CmdQueue :=
  match q with
  | 0 => x.mq
  | 1 => x.vq
  | 2 => x.sq

/-- Sets a queue of a context. -/
def Ctx.setQueue (x : Ctx) (q : QueueId) (v : CmdQueue) : Ctx :=
  match q with
  | 0 => { x with mq := v }
  | 1 => { x with vq := v }
  | 2 => { x with sq := v }

/-- A semaphore of a context (R112). -/
def Ctx.sem (x : Ctx) (n : Nat) : BitVec 16 := tGet 0 x.sems n

/-- Adds to a semaphore modulo 2^16 (R113). -/
def Ctx.signal (x : Ctx) (n : Nat) (v : BitVec 16) : Ctx :=
  { x with sems := tSet 0 n (x.sem n + v) x.sems }

/-- A semaphore of value s satisfies a wait for value v (R115). -/
def semOk (s v : BitVec 16) : Bool := decide ((s - v).toNat < 2 ^ 15)

end Sys2Proof.Machine
end

