-- ==== Sys2Proof/Machine/RingOps.lean ====
section
/-! DEFINITION. Ring contexts and messages (11_collectives_mapping R321 to R326) and the event
records that firmware posts on a partition's event ring (09_partitions_serving R257). -/

namespace Sys2Proof.Machine

/-- A bit field of a record: its lowest bit and its width. -/
structure Bf where
  lo : Nat
  width : Nat
deriving DecidableEq, Repr

/-- Reads a field of a record. -/
def Bf.get (f : Bf) (v : Nat) : Nat := bits v f.lo f.width
/-- A record with a field of it set to a value. -/
def Bf.put (f : Bf) (value record : Nat) : Nat := setBits record f.lo f.width value

/-- Fields of a ring context (R321). -/
def RF.kind : Bf := ⟨0, 3⟩
def RF.owner : Bf := ⟨3, 6⟩
def RF.pMover : Bf := ⟨9, 1⟩
def RF.pHost : Bf := ⟨10, 1⟩
def RF.pHub : Bf := ⟨11, 1⟩
def RF.remote : Bf := ⟨12, 1⟩
def RF.consumer : Bf := ⟨13, 2⟩
def RF.turnScoped : Bf := ⟨15, 1⟩
def RF.error : Bf := ⟨16, 1⟩
def RF.slotLog : Bf := ⟨17, 5⟩
def RF.slotsLog : Bf := ⟨22, 5⟩
def RF.job : Bf := ⟨32, 16⟩
def RF.bufLine : Bf := ⟨64, 35⟩
def RF.peerDevice : Bf := ⟨128, 20⟩
def RF.peerRing : Bf := ⟨148, 18⟩
def RF.peerSlotLog : Bf := ⟨166, 5⟩
def RF.peerSlotsLog : Bf := ⟨171, 5⟩
def RF.produced : Bf := ⟨192, 32⟩
def RF.consumed : Bf := ⟨224, 32⟩

/-- Fields of the context of a DCP ring (R357). -/
def RF.session : Bf := ⟨64, 32⟩
def RF.nextSeq : Bf := ⟨96, 64⟩
def RF.cacheLine : Bf := ⟨160, 35⟩
/-- Fields of the context of a queue pair (R365). -/
def RF.remoteQpn : Bf := ⟨64, 24⟩
def RF.sendPsn : Bf := ⟨88, 24⟩
def RF.recvPsn : Bf := ⟨112, 24⟩
def RF.peerEntry : Bf := ⟨136, 12⟩
def RF.pmtu : Bf := ⟨148, 3⟩
def RF.qstate : Bf := ⟨151, 3⟩
def RF.retryCnt : Bf := ⟨154, 3⟩
def RF.rnrRetry : Bf := ⟨157, 3⟩
def RF.ackTimeout : Bf := ⟨160, 5⟩
def RF.recvRing : Bf := ⟨165, 18⟩
def RF.recvEn : Bf := ⟨183, 1⟩
def RF.rate : Bf := ⟨192, 16⟩
def RF.alpha : Bf := ⟨208, 16⟩

/-- A ring (R319). -/
def Dev.ring (d : Dev) (r : Nat) : Ring := tGet {} d.rings r

/-- Sets a ring. -/
def Dev.setRing (d : Dev) (r : Nat) (x : Ring) : Dev := { d with rings := tSet {} r x d.rings }

/-- A field of a ring's context. -/
def Dev.rf (d : Dev) (r : Nat) (f : Bf) : Nat := f.get (d.ring r).ctx.toNat

/-- Sets a field of a ring's context. -/
def Dev.setRf (d : Dev) (r : Nat) (f : Bf) (v : Nat) : Dev :=
  d.setRing r { d.ring r with ctx := BitVec.ofNat 256 (f.put v (d.ring r).ctx.toNat) }

/-- A ring is owned by p (R319). -/
def Dev.ringMine (d : Dev) (p r : Nat) : Bool := decide (d.rf r RF.kind ≠ 0) && decide (d.rf r RF.owner = p)

/-- Messages begun and not consumed, modulo 2^32 (R323). -/
def Dev.ringFill (d : Dev) (r : Nat) : Nat :=
  (d.rf r RF.produced + 2 ^ 32 - d.rf r RF.consumed) % 2 ^ 32

/-- A ring has room (R323). -/
def Dev.ringRoom (d : Dev) (r : Nat) : Bool :=
  decide (d.ringFill r < 2 ^ (if d.rf r RF.kind = 2 then d.rf r RF.peerSlotsLog else d.rf r RF.slotsLog))

/-- The address of the slot of message number n (R322). -/
def Dev.slotAddr (d : Dev) (r n : Nat) : Nat :=
  64 * d.rf r RF.bufLine + (n % 2 ^ d.rf r RF.slotsLog) * 2 ^ d.rf r RF.slotLog

/-- The payload capacity of a slot of a MESSAGE ring (R322). -/
def Dev.slotCapacity (d : Dev) (r : Nat) : Nat := 2 ^ d.rf r RF.slotLog - 64

/-- The 64 bytes of a slot header (R322). -/
def slotHeader (len seq turn src : Nat) (complete fabric : Bool) : List Byte :=
  leBytes 64 (len % 2 ^ 32 + seq % 2 ^ 32 * 2 ^ 32 + turn % 2 ^ 48 * 2 ^ 64 + src % 2 ^ 20 * 2 ^ 128 +
    b2n complete * 2 ^ 192 + b2n fabric * 2 ^ 193)

/-- The device's own ID (R300, R318). -/
def Dev.deviceId (d : Dev) : Nat := d.fld F.FAB_CTL_DEVICE_ID

/-- Advances PRODUCED by one message and answers the message's number (R323). -/
def Dev.claim (d : Dev) (r : Nat) : Nat × Dev :=
  let n := d.rf r RF.produced
  (n, d.setRf r RF.produced (n + 1))

/-- Writes a whole local message into the slot of number n of a MESSAGE ring, header last, COMPLETE
set (R322, R325). -/
def Dev.fillSlot (d : Dev) (r n turn : Nat) (payload : List Byte) : Dev :=
  let a := d.slotAddr r n
  (d.store (a + 64) payload).store a (slotHeader payload.length n turn d.deviceId true false)

/-- Produces one message on a local MESSAGE ring that has room (R322, R323). -/
def Dev.produce (d : Dev) (r turn : Nat) (payload : List Byte) : Dev :=
  let (n, d) := d.claim r
  d.fillSlot r n turn payload

/-- The message numbered CONSUMED is visible (R325): its slot's COMPLETE is set. -/
def ringVisible (m : Mem) (d : Dev) (r : Nat) : Bool :=
  decide (d.ringFill r ≠ 0) && bitAt (memByte m d (d.slotAddr r (d.rf r RF.consumed) + 24)).toNat 0

/-- Payload bytes of the message in the slot of number n. -/
def slotLength (m : Mem) (d : Dev) (r n : Nat) : Nat := memNat m d (d.slotAddr r n) 4

/-- The payload of the message in the slot of number n. -/
def slotPayload (m : Mem) (d : Dev) (r n : Nat) : List Byte :=
  memRead m d (d.slotAddr r n + 64) (slotLength m d r n)

/-- Consumes message n: COMPLETE is cleared and CONSUMED advances (R325). The stamp of the first
advance not yet returned is kept for R328. -/
def Dev.consumeAt (m : Mem) (d : Dev) (r n : Nat) : Dev :=
  let a := d.slotAddr r n + 24
  let b := (memByte m d a).toNat
  let d := (d.store a [BitVec.ofNat 8 (setBits b 0 1 0)]).setRf r RF.consumed (n + 1)
  let x := d.ring r
  d.setRing r { x with advancedAt := some (x.advancedAt.getD d.now) }

/-- Whether a partition may be told by a record on its event ring (R257, R326). -/
def eventRingOk (d : Dev) (p : PartId) : Bool :=
  let r := d.fld F.PART_RINGS_EVENT_RING p.val
  bitAt (d.fld F.PART_RINGS_VALID p.val) 0 && decide (d.rf r RF.kind = 1) &&
    decide (d.rf r RF.owner = p.val) && decide (d.rf r RF.pHub = 1) && decide (d.rf r RF.error = 0) &&
    d.ringRoom r

/-- The 32 bytes of an event record (R257). -/
def eventRecord (code source now detail : Nat) : List Byte :=
  leBytes 32 (code % 256 + source % 2 ^ 16 * 2 ^ 16 + now % 2 ^ 64 * 2 ^ 64 + detail % 2 ^ 128 * 2 ^ 128)

end Sys2Proof.Machine
end

