-- ==== Sys2Proof/Machine/Extents.lean ====
section
/-! DEFINITION. Extent map entries and the accesses they permit (08_memory_extents R226 to R234),
and ring buffers and ring errors that rest on them (11_collectives_mapping R322, R329). -/

namespace Sys2Proof.Machine

/-- Fields of an extent map entry (R231). -/
def XF.kind : Bf := ⟨0, 4⟩
def XF.owner : Bf := ⟨4, 6⟩
def XF.state : Bf := ⟨10, 3⟩
def XF.member : Bf := ⟨13, 1⟩
def XF.digestMode : Bf := ⟨14, 1⟩
def XF.digest : Bf := ⟨15, 2⟩
def XF.retire : Bf := ⟨17, 1⟩
def XF.partner : Bf := ⟨19, 19⟩
def XF.gen : Bf := ⟨38, 24⟩
def XF.value : Bf := ⟨64, 64⟩

/-- Extents of the device (R226). -/
def extentCount : Nat := 524288
/-- Bytes of an extent (R226). -/
def extentSize : Nat := 4194304

/-- An extent is one of the four SYSTEM extents of its stack (R228). -/
def systemExtent (e : Nat) : Bool := decide (16380 ≤ e % 16384)

/-- The entry of an extent at power-up: FREE, or SYSTEM (R228, R230). -/
def xDefault (e : Nat) : BitVec 128 := if systemExtent e then 7 else 0

/-- The entry of an extent. -/
def Dev.xent (d : Dev) (e : Nat) : Nat := ((tFind e d.xmap).getD (xDefault e)).toNat

/-- Sets the entry of an extent. -/
def Dev.setXent (d : Dev) (e v : Nat) : Dev :=
  { d with xmap := if BitVec.ofNat 128 v = xDefault e then tDel e d.xmap else tPut e (BitVec.ofNat 128 v) d.xmap }

/-- A field of an extent's entry. -/
def Dev.xf (d : Dev) (e : Nat) (f : Bf) : Nat := f.get (d.xent e)

/-- Sets a field of an extent's entry. -/
def Dev.setXf (d : Dev) (e : Nat) (f : Bf) (v : Nat) : Dev := d.setXent e (f.put v (d.xent e))

/-- The extent of an address. -/
def extentOf (a : Nat) : Nat := a / extentSize

/-- The extents that n bytes from a touch; none for an empty range. -/
def extentsOf (a n : Nat) : List Nat :=
  if n = 0 then [] else (List.range (extentOf (a + n - 1) - extentOf a + 1)).map fun i => extentOf a + i

/-- The member of a pair is live in its owner's turn (R234). -/
def Dev.isLive (d : Dev) (e : Nat) : Bool :=
  decide (d.xf e XF.member = d.fld F.PART_TURN_TURN (d.xf e XF.owner) % 2)

/-- A read in VALID is allowed in FROZEN too (R233). -/
def Dev.readable (d : Dev) (e : Nat) : Bool := decide (d.xf e XF.state = 3) || decide (d.xf e XF.state = 4)

/-- The owner's mover may read or write the extent (R232, R233). -/
def Dev.moverAccess (d : Dev) (p : PartId) (e : Nat) (write : Bool) : Bool :=
  decide (e < extentCount) && decide (d.xf e XF.owner = p.val) &&
    (match d.xf e XF.kind with
     | 1 => if write then decide (d.xf e XF.state = 3) else d.readable e
     | 2 => !write && d.readable e
     | 3 => if write then decide (d.xf e XF.state = 3) && !d.isLive e else d.readable e
     | 5 => if write then decide (d.xf e XF.state = 3) else d.readable e
     | _ => false)

/-- A RoCE or DCP operation of the owner may read or write the extent (R232, R233). -/
def Dev.hostAccess (d : Dev) (p : PartId) (e : Nat) (write : Bool) : Bool :=
  decide (e < extentCount) && decide (d.xf e XF.owner = p.val) &&
    (match d.xf e XF.kind with
     | 1 => if write then decide (d.xf e XF.state = 3) else d.readable e
     | 2 => if write then decide (d.xf e XF.state = 2) else d.readable e
     | 3 => if write then decide (d.xf e XF.state = 2) else d.readable e
     | 4 => !write && d.readable e
     | _ => false)

/-- Bytes lie in VALID DATA extents of a partition. -/
def Dev.validData (d : Dev) (p a n : Nat) : Bool :=
  (extentsOf a n).all fun e =>
    decide (e < extentCount) && decide (d.xf e XF.kind = 1) && decide (d.xf e XF.owner = p) &&
      decide (d.xf e XF.state = 3)

/-- An extent is a SWAP extent of a partition in VALID. -/
def Dev.swapExtent (d : Dev) (p : PartId) (e : Nat) : Bool :=
  decide (e < extentCount) && decide (d.xf e XF.kind = 6) && decide (d.xf e XF.owner = p.val) && decide (d.xf e XF.state = 3)

/-- The two extents of a context's swap image permit the swap engine's access: SWAP extents of the partition in VALID,
or for a read in FROZEN (R232, R233). -/
def Dev.swapAccess (d : Dev) (p : PartId) (e : Nat) (write : Bool) : Bool :=
  [e, e + 1].all fun e => d.swapExtent p e || (!write && decide (e < extentCount) && decide (d.xf e XF.kind = 6) &&
    decide (d.xf e XF.owner = p.val) && decide (d.xf e XF.state = 4))

/-- A read of bytes ends in an error completion: a line is uncorrectable, or the patrol has found the digest of
an extent wrong (R240, R246). -/
def Dev.readFails (d : Dev) (a n : Nat) : Bool :=
  d.badRead a n || (extentsOf a n).any fun e => decide (d.xf e XF.digest = 3) && decide (d.xf e XF.state ≠ 2)

/-- A write to the shadow member of a turn pair makes it one to be sent to the buddy (R218, R219). -/
def Dev.noteShadow (d : Dev) (e : Nat) : Dev :=
  if d.xf e XF.kind = 3 ∧ d.xf e XF.state = 3 then
    { d with
      written := if d.written.contains e then d.written else d.written ++ [e]
      unsent := if d.unsent.contains e then d.unsent else d.unsent ++ [e] }
  else d

/-- A read finds a codeword with wrong symbols: a corrected one is counted and noted (R239, R240, R242); marking stops
while the stack's firmware does (R243). -/
def Dev.findWrong (d : Dev) (e : Nat × BitVec 80) : Dev :=
  if !d.flash.corrects e.1 e.2 then d
  else
    let s := stackOf e.1
    let d := d.count F.STK_ECC_COUNT_CORRECTED 1 s
    if d.fld F.STK_STATUS_FW_OK s = 0 then d
    else
      let d := (List.range 16).foldl (fun d k => d.dieError d.now e.1 e.2 k) d
      { d with ecc := { d.ecc with found := if d.ecc.found.contains e.1 then d.ecc.found else d.ecc.found ++ [e.1] } }

/-- What a read of bytes finds of wrong codewords. -/
def Dev.findIn (d : Dev) (a n : Nat) : Dev := (d.ecc.wrong.filter fun e => lineIn e.1 a n).foldl Dev.findWrong d

/-- Counts the bytes that an access of [a, a + n) reads or writes in one extent, and the stack's use (R247, R250). -/
def Dev.useStk (write : Bool) (a n : Nat) (d : Dev) (e : Nat) : Dev :=
  let lo := max a (e * extentSize)
  let hi := min (a + n) ((e + 1) * extentSize)
  let s := e / 16384
  let d := { d with stackUse := tPut s d.now d.stackUse }
  let d := if write then d.noteShadow e else d.findIn lo (hi - lo)
  (d.count (if write then F.STK_BYTES_WR_BYTES else F.STK_BYTES_RD_BYTES) (hi - lo) s).setFld F.STK_STATUS_PSTATE 0 s

/-- Counts bytes that a requester reads from or writes to the stacks (R250). The stack serves them in ACTIVE
(R247). -/
def Dev.countStk (d : Dev) (write : Bool) (a n : Nat) : Dev := (extentsOf a n).foldl (Dev.useStk write a n) d

/-- The whole buffer of a MESSAGE ring lies in VALID DATA extents of its owner (R322). -/
def Dev.bufferOk (d : Dev) (r : Nat) : Bool :=
  d.validData (d.rf r RF.owner) (64 * d.rf r RF.bufLine) (2 ^ (d.rf r RF.slotLog + d.rf r RF.slotsLog))

/-- Puts a ring in error and records the first (R329, R348). What an error of a TURN_SCOPED ring does to
the turn follows in Turn.lean. -/
def Dev.setRingError (d : Dev) (r cause src : Nat) : Dev :=
  if d.rf r RF.error = 1 then d
  else
    let d := d.setRf r RF.error 1
    if d.flag F.RING_ERR_VALID then d.setFld F.RING_ERR_OVERFLOW 1
    else (((d.setFld F.RING_ERR_RING r).setFld F.RING_ERR_CAUSE cause).setFld F.RING_ERR_SRC_DEVICE src).setFld
      F.RING_ERR_VALID 1

/-- The first line among bytes whose read fails. -/
def Dev.firstBad (d : Dev) (a n : Nat) : Option Nat := (d.bad ++ d.ecc.failing).find? fun x => lineIn x a n

/-- The first line whose write fails, for a write of bytes. -/
def Dev.firstCut (d : Dev) (a n : Nat) : Option Nat :=
  (d.bad ++ d.ecc.failing).find? fun x => lineIn x a n &&
    (d.ecc.failing.contains x || !(decide (a ≤ 64 * x) && decide (64 * x + 64 ≤ a + n)))

/-- A write of the hub's own meets an uncorrectable line that it covers in part: the line stays as it is, and the stack's
firmware raises its source (R240). -/
def Dev.meetCut (d : Dev) (a n : Nat) : Dev :=
  match d.firstCut a n with
  | some x => { d with ecc := { d.ecc with met := d.ecc.met ++ [x] } }
  | none => d

/-- Posts an event to a partition, or drops and counts it (R257); an event ring whose buffer is gone is in error from
then on (R329, R347). -/
def Dev.postEvent (d : Dev) (p : PartId) (code source detail : Nat) : Dev :=
  let r := d.fld F.PART_RINGS_EVENT_RING p.val
  let lost := fun (d : Dev) => d.count F.PART_EVENTS_LOST_COUNT 1 p.val
  let a := d.slotAddr r (d.rf r RF.produced) + 64
  if !eventRingOk d p then lost d
  else if !d.bufferOk r then lost (d.setRingError r 5 0)
  else if d.badWrite a 32 then lost (d.meetCut a 32)
  else d.produce r (d.fld F.PART_TURN_TURN p.val) (eventRecord code source d.now detail)

/-! ### Packets that the device originates (R296 to R298) -/

/-- Appends a packet of kinds 0 to 2 to its flow. -/
def Dev.emitFlow (d : Dev) (dst job kind ring addr kindData : Nat) (last : Bool) (payload : List Byte) : Dev :=
  let key := dst * 2 ^ 16 + job
  let n := tGet 0 d.flowOut key
  let p : Packet :=
    { dst := BitVec.ofNat 20 dst, src := BitVec.ofNat 20 d.deviceId, job := BitVec.ofNat 16 job,
      pkind := BitVec.ofNat 4 kind, last := last, flowSeq := BitVec.ofNat 32 n, ring := BitVec.ofNat 18 ring,
      addr := BitVec.ofNat 41 addr, kindData := BitVec.ofNat 64 kindData, payload := payload }
  { d with egress := d.egress ++ [p], flowOut := tSet 0 key ((n + 1) % 2 ^ 32) d.flowOut }

/-- Appends a system packet (kinds 3 to 5), which belongs to no flow (R297, R298). -/
def Dev.emitSystem (d : Dev) (dst job kind addr kindData : Nat) (payload : List Byte) : Dev :=
  let p : Packet :=
    { dst := BitVec.ofNat 20 dst, src := BitVec.ofNat 20 d.deviceId, job := BitVec.ofNat 16 job,
      pkind := BitVec.ofNat 4 kind, last := true, flowSeq := 0, ring := 0,
      addr := BitVec.ofNat 41 addr, kindData := BitVec.ofNat 64 kindData, payload := payload }
  { d with egress := d.egress ++ [p] }

/-- Sends an extent whole to an extent of another device, as one transfer of 1,024 packets (R218, R297). -/
def sendExtent (m : Mem) (dst j e to_ : Nat) (d : Dev) : Dev :=
  (List.range 1024).foldl (fun d i =>
    d.emitFlow dst j 1 0 (to_ * extentSize + 4096 * i) 0 (decide (i = 1023)) (memRead m d (e * extentSize + 4096 * i) 4096))
    (d.countStk false (e * extentSize) extentSize)

/-- The address that the acknowledgement of such a transfer names. -/
def lastPacket (to_ : Nat) : Nat := to_ * extentSize + 4096 * 1023

/-- Pieces of at most n bytes. -/
def chunks (n : Nat) : Nat → List Byte → List (List Byte)
  | 0, _ => []
  | f + 1, l => if l.length ≤ n then [l] else l.take n :: chunks n f (l.drop n)

/-- The ring-message packets of one message on a SEND ring (R327). -/
def Dev.emitMessage (d : Dev) (r n : Nat) (payload : List Byte) : Dev :=
  let cs := chunks 4096 (payload.length + 1) payload
  (cs.zipIdx).foldl (fun d c =>
    d.emitFlow (d.rf r RF.peerDevice) (d.rf r RF.job) 0 (d.rf r RF.peerRing) 0
      (n % 2 ^ 32 + payload.length % 2 ^ 20 * 2 ^ 32) (decide (c.2 + 1 = cs.length)) c.1) d

end Sys2Proof.Machine
end

