-- ==== Sys2Proof/Machine/ArrayMath.lean ====
section
/-! DEFINITION. What a matrix pass adds: long chains (03_two_way_array R82 to R88), FP32 chains
(R89), outer-product cells (R90, R91). -/

namespace Sys2Proof.Machine

/-- The bits of element i of a row of bytes (R33). -/
def elemBits (f : Fmt) (row : List Byte) (i : Nat) : Nat :=
  if f.bits = 4 then bits (row.getD (i / 2) 0).toNat (4 * (i % 2)) 4
  else leNat ((row.drop (i * (f.bits / 8))).take (f.bits / 8))

/-- Bytes of a row of n elements (R33). -/
def rowBytes (f : Fmt) (n : Nat) : Nat := (f.bits * n + 7) / 8

/-- Columns of a tile of a format (R60). -/
def tileCols (f : Fmt) : Nat := if f.bits = 16 then 256 else 512

/-- The bits of weight (i, j), as they lie in the tile (R60). -/
def Tile.raw (t : Tile) (i j : Nat) : Nat :=
  let rb := rowBytes t.fmt (tileCols t.fmt)
  if t.fmt.bits = 4 then bits (bGet t.data (i * rb + j / 2)).toNat (4 * (j % 2)) 4
  else bNat t.data (i * rb + j * (t.fmt.bits / 8)) (t.fmt.bits / 8)

/-- The value of an 8-bit element; an INT8 element of a block-scaled operand has 6 fraction bits
(R41). -/
def elemVal (f : Fmt) (mx : Bool) (n : Nat) : Val :=
  if mx && decide (f = .int8) then (decodeVal f n).scale (-6) else decodeVal f n

/-- The value of weight (i, j) after expansion (R44, R45). -/
def Tile.val (t : Tile) (i j : Nat) : Val :=
  match t.fmt with
  | .fp4 => decodeVal .e4m3 (expand4 .fp4 (t.raw i j))
  | .int4 => decodeVal .int8 (expand4 .int4 (t.raw i j))
  | f => elemVal f t.mx (t.raw i j)

/-- The E8M0 scale of weight (i, j); 127 without block scales (R63, R83). -/
def Tile.scale (t : Tile) (i j : Nat) : Nat :=
  if t.mx then (bGet t.scales (512 * (i / 32) + j)).toNat else 127

/-- A chain on its way: V, flags, and the products counted as flushed and as above (R83). -/
structure Chain where
  v : Int := 0
  flags : Nat := 0
  flushed : Nat := 0
  above : Nat := 0
deriving DecidableEq, Repr

/-- Flags that a product sets (R85). -/
def specialFlags (x w : Val) : Nat :=
  match (x.mul w).1 with
  | .nan => lfNan
  | .inf s => if s then lfNeg else lfPos
  | .fin _ _ _ => 0

/-- Adds one product of a pass to a chain at reference exponent E (R83, R85). -/
def Chain.addProduct (c : Chain) (e : Nat) (x w : Val) (sx sw : Nat) : Chain :=
  if sx = 255 ∨ sw = 255 then { c with flags := c.flags ||| lfNan }
  else
    let c := { c with flags := c.flags ||| specialFlags x w }
    let delta : Int := ((e : Int) - 127) - (((sx : Int) - 127) + ((sw : Int) - 127))
    if 32 < delta then { c with flags := c.flags ||| lfFlushed, flushed := c.flushed + 1 }
    else if delta < 0 then { c with flags := c.flags ||| lfAbove, above := c.above + 1 }
    else match (x.mul w).1 with
      | .fin s m p => { c with v := c.v + sigAt s m (p + 64 - delta) 0 }
      | _ => c

/-- The scale of element i of streamed row t; 127 without block scales. -/
def PassRec.inScale (p : PassRec) (t i : Nat) : Nat :=
  if p.inMx then ((p.scales.getD t []).getD (i / 32) 0).toNat else 127

/-- The value of element i of streamed row t. -/
def PassRec.inVal (p : PassRec) (t i : Nat) : Val :=
  elemVal p.inFmt p.inMx (elemBits p.inFmt (p.rows.getD t []) i)

/-- Results per row of a pass (R70). -/
def passWidth (mode : PassMode) (wide : Bool) : Nat :=
  match mode with
  | .transposed => 128
  | _ => if wide then 256 else 512

/-- Elements of a streamed row (R66, R68, R69). -/
def passDepth (mode : PassMode) (wide : Bool) : Nat :=
  match mode with
  | .transposed => if wide then 256 else 512
  | _ => 128

/-- Row and column of the weight that meets reduction index n for result k (R66, R68). -/
def cellOf (mode : PassMode) (k n : Nat) : Nat × Nat :=
  match mode with
  | .transposed => (k, n)
  | _ => (n, k)

/-- The long chain of result k of row t at reference exponent e (R66, R68, R83). -/
def PassRec.longChain (p : PassRec) (t : Tile) (e row k : Nat) : Chain :=
  (List.range (passDepth p.mode p.wide)).foldl (fun c n =>
    let (i, j) := cellOf p.mode k n
    c.addProduct e (p.inVal row n) (t.val i j) (p.inScale row n) (t.scale i j)) {}

/-- The FP32 chain of result k of row t: it starts with its first product (R54, R89). -/
def PassRec.floatChain (p : PassRec) (t : Tile) (row k : Nat) : Val :=
  let prod := fun n => let (i, j) := cellOf p.mode k n; mul32 (p.inVal row n) (t.val i j)
  (List.range (passDepth p.mode p.wide - 1)).foldl (fun a n => add32 a (prod (n + 1))) (prod 0)

/-- What a commit counts: flushed products, products above, RANGE events (R103). -/
structure Counts where
  flushed : Nat := 0
  above : Nat := 0
  range : Nat := 0
deriving DecidableEq, Repr

/-- Adds counts. -/
def Counts.add (a b : Counts) : Counts := ⟨a.flushed + b.flushed, a.above + b.above, a.range + b.range⟩

/-- An entry of a group. -/
def Group.entry (g : Group) (pos : Nat) : Nat := tGet g.fill g.entries pos

/-- Sets an entry of a group. -/
def Group.setEntry (g : Group) (pos v : Nat) : Group := { g with entries := tSet g.fill pos v g.entries }

/-- Adds result k of pass row t into its entry (R78, R84, R89). -/
def PassRec.commitOne (p : PassRec) (t : Tile) (g : Group) (row k : Nat) : Group × Counts :=
  let pos := (p.first + row) * passWidth p.mode p.wide + k
  if g.long then
    let c := p.longChain t g.exp row k
    let (s, n) := (Long.decode (g.entry pos)).add ⟨c.v, g.exp, c.flags⟩
    (g.setEntry pos s.encode, ⟨c.flushed, c.above, n⟩)
  else
    let v := add32 (decodeVal .fp32 (g.entry pos)) (p.floatChain t row k)
    (g.setEntry pos (encodeVal .fp32 .rne false v).bits, {})

/-- Adds every result of a pass into its group, row by row (R78). -/
def PassRec.commit (p : PassRec) (t : Tile) (g : Group) : Group × Counts :=
  (List.range (p.rows.length * passWidth p.mode p.wide)).foldl (fun a n =>
    let w := passWidth p.mode p.wide
    let (g', c) := p.commitOne t a.1 (n / w) (n % w)
    (g', a.2.add c)) (g, {})

/-- Saturation of U to 64 bits (R90): the value, and SAT (bit 3) when it saturated. -/
def sat64 (x : Int) : Int × Nat :=
  if x < -(2 ^ 63 : Int) then (-(2 ^ 63 : Int), 8)
  else if (2 ^ 63 - 1 : Int) < x then (2 ^ 63 - 1, 8)
  else (x, 0)

/-- Adds one product to an outer-product cell (R90); λ is −lam. -/
def Cell.addProduct (c : Cell) (wide : Bool) (cls lam : Nat) (x y : Val) : Cell :=
  if wide then
    { c with u := ((encodeVal .fp32 .rne false (add32 (decodeVal .fp32 c.u.toNat) (mul32 x y))).bits : Nat) }
  else
    match (x.mul y).1 with
    | .fin s m e =>
      let n := if cls = 1 then sigAt s m e 0
        else sigAt s (roundMag .rne s m e (-(lam : Int))).1 0 0
      let (u, b) := sat64 (c.u + n)
      ⟨u, c.bits ||| b⟩
    | .nan => { c with bits := c.bits ||| 1 }
    | .inf s => { c with bits := c.bits ||| (if s then 4 else 2) }

/-- A cell of the outer-product registers. -/
def OpRegs.cell (o : OpRegs) (i j : Nat) : Cell := tGet {} o.cells (512 * i + j)

/-- Adds the product of row t to cell (i, j). -/
def PassRec.outerOne (p : PassRec) (o : OpRegs) (t i j : Nat) : OpRegs :=
  let x := decodeVal p.inFmt (elemBits p.inFmt (p.rows.getD t []) i)
  let y := decodeVal p.wFmt (elemBits p.wFmt (p.south.getD t []) j)
  { o with cells := tSet {} (512 * i + j) ((o.cell i j).addProduct p.wide o.cls o.lambda x y) o.cells }

/-- Absorbs every row of an outer-product pass, in row order (R69, R90). -/
def PassRec.absorb (p : PassRec) (o : OpRegs) : OpRegs :=
  let w := passWidth p.mode p.wide
  (List.range (p.rows.length * (128 * w))).foldl (fun a n =>
    p.outerOne a (n / (128 * w)) (n / w % 128) (n % w)) o

/-- The FP32 value of a cell at drain (R91). -/
def OpRegs.drainVal (o : OpRegs) (i j : Nat) : Val :=
  let c := o.cell i j
  if 2 ≤ o.cls then decodeVal .fp32 c.u.toNat
  else if bitAt c.bits 0 || (bitAt c.bits 1 && bitAt c.bits 2) then .nan
  else if bitAt c.bits 1 then .inf false
  else if bitAt c.bits 2 then .inf true
  else if bitAt c.bits 3 then .inf (decide (c.u < 0))
  else round32 (.fin (decide (c.u < 0)) c.u.natAbs (if o.cls = 1 then 0 else -(o.lambda : Int)))

/-- Drained cells whose SAT bit is set, over 128 rows of w columns (R91). -/
def OpRegs.satCells (o : OpRegs) (w : Nat) : Nat :=
  (o.cells.filter fun e => decide (e.1 % 512 < w) && bitAt e.2.bits 3).length

end Sys2Proof.Machine
end

