-- ==== Sys2Proof/Machine/Transcend.lean ====
section
/-! DEFINITION. The transcendental functions of the vector engine and the epilogue (03_two_way_array R94, R95,
04_core_engines R133, R137, R138). The real values are computed to 512 binary places, far beyond the last place of
FP32; a result that the spec only bounds is a free value within its bound (log 15). -/

namespace Sys2Proof.Machine

/-! ### Fixed point: an integer n stands for n × 2^-512 -/

/-- One. -/
def fxOne : Nat := 2 ^ 512

/-- A finite value in fixed point; every FP32 value is exact in it. -/
def fxOf (s : Bool) (m : Nat) (e : Int) : Int :=
  let n := if 0 ≤ e + 512 then m * 2 ^ (e + 512).toNat else m / 2 ^ (-(e + 512)).toNat
  if s then -(n : Int) else n

/-- Product of magnitudes. -/
def fxMul (a b : Nat) : Nat := a * b / fxOne
/-- Quotient of magnitudes. -/
def fxDiv (a b : Nat) : Nat := a * fxOne / b

/-- The series of e^r by Horner's rule, from term n down. -/
def expSeries (r : Nat) : Nat → Nat → Nat
  | 0, acc => acc
  | n + 1, acc => expSeries r n (fxOne + fxMul r acc / (n + 1))

/-- Squares n times. -/
def fxSquares : Nat → Nat → Nat
  | 0, x => x
  | n + 1, x => fxSquares n (fxMul x x)

/-- e^x; a constant beyond every FP32 result from 512 on, and 0 below -512. -/
def fxExp (x : Int) : Nat :=
  let a := x.natAbs
  if 512 * fxOne ≤ a then (if x < 0 then 0 else 2 ^ 1251)
  else
    let y := fxSquares 16 (expSeries (a / 2 ^ 16) 64 fxOne)
    if x < 0 then fxDiv fxOne y else y

/-- Σ t^(2k) / (2k + 1), from term n down. -/
def oddSeries (t2 : Nat) : Nat → Nat → Nat
  | 0, acc => acc
  | n + 1, acc => oddSeries t2 n (fxOne / (2 * n + 1) + fxMul t2 acc)

/-- ln m for 1 ≤ m ≤ 2, as 2 artanh ((m - 1) / (m + 1)). -/
def lnUnit (m : Nat) : Nat :=
  let t := fxDiv (m - fxOne) (m + fxOne)
  2 * fxMul t (oddSeries (fxMul t t) 176 0)

/-- ln y for y above 0. -/
def fxLn (y : Nat) : Int :=
  let k : Int := (Nat.log2 y : Int) - 512
  let m := if 0 ≤ k then y / 2 ^ k.toNat else y * 2 ^ (-k).toNat
  lnUnit m + k * lnUnit (2 * fxOne)

/-- Σ (-1)^k / ((2k + 1) q^(2k)), from term n down. -/
def atanSeries (q : Nat) : Nat → Int → Int
  | 0, acc => acc
  | n + 1, acc => atanSeries q n ((fxOne / (2 * n + 1) : Nat) - acc / (q * q : Nat))

/-- π, by Machin's formula. -/
def fxPi : Nat := (16 * (atanSeries 5 120 0 / 5) - 4 * (atanSeries 239 40 0 / 239)).toNat

/-- The density of the standard normal distribution. -/
def normalPdf (x : Int) : Nat :=
  let sq := fxMul x.natAbs x.natAbs
  fxMul (isqrt (fxDiv fxOne (2 * fxPi) * fxOne)) (fxExp (-((sq / 2 : Nat) : Int)))

/-- 1 + x²/3 (1 + x²/5 (…)), from term n down. -/
def cdfSeries (sq : Nat) : Nat → Nat → Nat
  | 0, acc => acc
  | n + 1, acc => cdfSeries sq n (fxOne + fxMul sq acc / (2 * n + 3))

/-- Φ, the standard normal distribution function; 0 or 1 beyond 16. -/
def normalCdf (x : Int) : Nat :=
  let a := x.natAbs
  if 16 * fxOne ≤ a then (if x < 0 then 0 else fxOne)
  else
    let half := fxMul (normalPdf x) (fxMul a (cdfSeries (fxMul a a) 520 fxOne))
    if x < 0 then fxOne / 2 - half else fxOne / 2 + half

/-- 1 / (1 + e^-x). -/
def fxSigmoid (x : Int) : Nat := fxDiv fxOne (fxOne + fxExp (-x))

/-- Magnitude of tanh x. -/
def tanhMag (x : Int) : Nat :=
  let y := fxExp (2 * (x.natAbs : Int))
  fxDiv (y - fxOne) (y + fxOne)

/-! ### The functions -/

/-- Magnitude of an activation of R94, codes 4 to 9, at x. -/
def actMag (act : Nat) (x : Int) : Nat :=
  match act with
  | 4 => fxSigmoid x
  | 5 => tanhMag x
  | 6 => if 256 * (fxOne : Int) ≤ x then x.toNat else (fxLn (fxOne + fxExp x)).toNat
  | 7 => fxExp x
  | 8 => fxMul x.natAbs (normalCdf x)
  | _ => fxMul x.natAbs (fxSigmoid x)

/-- The activations that are odd, or negative below 0. -/
def actSign (act : Nat) (s : Bool) : Bool := s && (decide (act = 5) || decide (8 ≤ act))

/-- The derivative of an activation, codes 4 to 9, at x (R138). -/
def derivFx (act : Nat) (x : Int) : Int :=
  match act with
  | 4 => (fxMul (fxSigmoid x) (fxSigmoid (-x)) : Nat)
  | 5 =>
    let y := fxExp (2 * (x.natAbs : Int))
    (fxDiv (4 * y) (fxMul (y + fxOne) (y + fxOne)) : Nat)
  | 6 => (fxSigmoid x : Nat)
  | 7 => (fxExp x : Nat)
  | 8 => if 16 * fxOne ≤ x.natAbs then (if x < 0 then 0 else (fxOne : Int))
    else (normalCdf x : Int) + x * (normalPdf x : Int) / (fxOne : Int)
  | _ => (fxSigmoid x : Int) * ((fxOne : Int) + x * (fxSigmoid (-x) : Int) / (fxOne : Int)) / (fxOne : Int)

/-- The sign of the derivative v at an argument of sign s: that of GELU and SiLU stays negative far below 0. -/
def derivSign (act : Nat) (s : Bool) (v : Int) : Bool :=
  decide (v < 0) || (decide (v = 0) && s && decide (8 ≤ act))

/-! ### Bounds (R95) -/

/-- A value is within k units in the last place of the exact FP32 value v, and no subnormal (R37). -/
def withinUlps (k : Nat) (c : Val) (v : Int) : Bool :=
  let a := v.natAbs
  let p : Nat := max (Nat.log2 a) 386 - 23
  let slack := k * 2 ^ p
  match c with
  | .nan => false
  | .inf s => (s == decide (v < 0)) && decide (2 ^ 640 ≤ a + slack)
  | .fin s m e =>
    let x := fxOf s m e
    if a = 0 then decide (m = 0)
    else decide (2 ^ 386 ≤ x.natAbs) && decide ((x - v).natAbs ≤ slack)

/-- The exact FP32 value of a real number of a sign, rounded once to nearest even. -/
def nearest32 (s : Bool) (v : Nat) : Val := round32 (.fin s v (-512))

/-- A result that the spec bounds by k units in the last place: the free value where it keeps the bound, else the
nearest value. -/
def bounded (k : Nat) (s : Bool) (v : Nat) (free : BitVec 32) : Val :=
  let c := decodeVal .fp32 free.toNat
  if withinUlps k c (if s then -(v : Int) else v) then c else nearest32 s v

end Sys2Proof.Machine
end

