-- ==== Sys2Proof/Machine/Epilogue.lean ====
section
/-! DEFINITION. The fused epilogue (03_two_way_array R92 to R97) and activations (R94, R95). -/

namespace Sys2Proof.Machine

/-- Fields of the epilogue descriptor (R93). -/
def EF.outFmt : Bf := ⟨0, 4⟩
def EF.rnd : Bf := ⟨4, 1⟩
def EF.nosat : Bf := ⟨5, 1⟩
def EF.scaleMode : Bf := ⟨6, 2⟩
def EF.biasMode : Bf := ⟨8, 2⟩
def EF.act : Bf := ⟨10, 4⟩
def EF.preWrite : Bf := ⟨14, 1⟩
def EF.res0 : Bf := ⟨15, 1⟩
def EF.preFmt : Bf := ⟨16, 4⟩
def EF.res1 : Bf := ⟨20, 44⟩
def EF.tensorScale : Bf := ⟨64, 32⟩
def EF.paramA : Bf := ⟨96, 32⟩
def EF.paramB : Bf := ⟨128, 32⟩
def EF.scaleAddr : Bf := ⟨160, 24⟩
def EF.biasAddr : Bf := ⟨184, 24⟩
def EF.outAddr : Bf := ⟨208, 24⟩
def EF.preAddr : Bf := ⟨232, 24⟩
def EF.outStride : Bf := ⟨256, 16⟩
def EF.preStride : Bf := ⟨272, 16⟩
def EF.indexBase : Bf := ⟨288, 48⟩
def EF.indexStride : Bf := ⟨336, 32⟩
def EF.res2 : Bf := ⟨368, 16⟩

/-- A clamp pair that R97 refuses: a NaN bound, or PARAM_A above PARAM_B. -/
def clampBad (a b : Nat) : Bool :=
  let x := decodeVal .fp32 a
  let y := decodeVal .fp32 b
  decide (x = .nan) || decide (y = .nan) || y.lt x

/-- The descriptor is invalid for a group of long or FP32 entries (R97). -/
def epilogueBad (e : Nat) (long : Bool) : Bool :=
  let out := EF.outFmt.get e
  decide (8 < out) || decide (EF.scaleMode.get e = 3) || decide (EF.biasMode.get e = 3) ||
  decide (9 < EF.act.get e) ||
  (decide (EF.preWrite.get e = 1) && decide (EF.preFmt.get e ≠ 5) && decide (EF.preFmt.get e ≠ 7)) ||
  decide (EF.res0.get e ≠ 0) || decide (EF.res1.get e ≠ 0) || decide (EF.res2.get e ≠ 0) ||
  (decide (EF.act.get e = 3) && clampBad (EF.paramA.get e) (EF.paramB.get e)) ||
  (decide (EF.rnd.get e = 1) && decide (7 ≤ out)) ||
  (decide (out = 8) && (decide (EF.scaleMode.get e ≠ 0) || decide (EF.biasMode.get e ≠ 0) ||
    decide (EF.act.get e ≠ 0) || decide (EF.preWrite.get e = 1) || !long)) ||
  decide (EF.outAddr.get e % 64 ≠ 0) ||
  (decide (EF.scaleMode.get e = 2) && decide (EF.scaleAddr.get e % 64 ≠ 0)) ||
  (decide (EF.biasMode.get e ≠ 0) && decide (EF.biasAddr.get e % 64 ≠ 0)) ||
  (decide (EF.preWrite.get e = 1) && decide (EF.preAddr.get e % 64 ≠ 0))

/-- The scratchpad ranges that a descriptor names for rows rows of w results: window offset and
length (R93, R154). -/
def epilogueRanges (e rows w : Nat) : List (Nat × Nat) :=
  let out := (Fmt.ofCode (EF.outFmt.get e)).getD .fp32
  let pre := (Fmt.ofCode (EF.preFmt.get e)).getD .fp32
  ((List.range rows).map fun r => (EF.outAddr.get e + r * EF.outStride.get e * 64, rowBytes out w)) ++
  (if EF.preWrite.get e = 1 then
    (List.range rows).map fun r => (EF.preAddr.get e + r * EF.preStride.get e * 64, rowBytes pre w)
   else []) ++
  (if EF.scaleMode.get e = 2 then [(EF.scaleAddr.get e, 4 * w)] else []) ++
  (if EF.biasMode.get e = 1 then [(EF.biasAddr.get e, 4 * w)] else []) ++
  (if EF.biasMode.get e = 2 then [(EF.biasAddr.get e, 2 * w)] else [])

/-- The bits of an FP32 value. -/
def fp32Bits (v : Val) : BitVec 32 := BitVec.ofNat 32 (encodeVal .fp32 .rne false v).bits

/-- One, zero and the infinities as FP32 values. -/
def valOne (s : Bool) : Val := .fin s 1 0
/-- A zero of sign s. -/
def valZero (s : Bool) : Val := .fin s 0 0

/-- An activation of R94, codes 4 to 9, on an FP32 value; the finite case is a free value within its bound (R95). -/
def transcend (act : Nat) (x : Val) : Val :=
  match x with
  | .nan => .nan
  | .inf false =>
    match act with
    | 4 => valOne false
    | 5 => valOne false
    | _ => .inf false
  | .inf true =>
    match act with
    | 5 => valOne true
    | 8 => valZero true
    | 9 => valZero true
    | _ => valZero false
  | .fin s m e => bounded 2 (actSign act s) (actMag act (fxOf s m e)) (Config.actBits act (fp32Bits (.fin s m e)))

/-- The activations (R94). -/
def activation (act : Nat) (pa pb x : Val) : Val :=
  match act with
  | 0 => x
  | 1 => x.max (valZero false)
  | 2 => if x = .nan then .nan else if (valZero false).lt x then x else mul32 pa x
  | 3 => (x.max pa).min pb
  | _ => transcend act x

/-- What the epilogue makes of one entry: the output element, and the pre-activation element. -/
structure EpiOut where
  out : Enc
  pre : Nat
deriving DecidableEq, Repr

/-- The rounding of a seeded element (R47, R96, R194). -/
def seededRnd (on : Bool) (cmd : Cmd) (index : Nat) : Rnd :=
  if on then .stoch (genRandom cmd.seed cmd.turn (BitVec.ofNat 48 index)) else .rne

/-- Steps 2 to 5 on an FP32 value at result row r, entry k, with the column's scale and bias (R92). -/
def epilogueElem (e : Nat) (cmd : Cmd) (r k : Nat) (x scale bias : Val) : EpiOut :=
  let x := if EF.scaleMode.get e = 0 then x else mul32 x scale
  let x := if EF.biasMode.get e = 0 then x else add32 x bias
  let pre := encodeVal ((Fmt.ofCode (EF.preFmt.get e)).getD .fp32) .rne false x
  let y := activation (EF.act.get e) (decodeVal .fp32 (EF.paramA.get e))
    (decodeVal .fp32 (EF.paramB.get e)) x
  let rnd := seededRnd (EF.rnd.get e == 1) cmd (EF.indexBase.get e + r * EF.indexStride.get e + k)
  ⟨encodeVal ((Fmt.ofCode (EF.outFmt.get e)).getD .fp32) rnd (EF.nosat.get e == 1) y, pre.bits⟩

/-- Packs elements of a format into bytes, low index first (R7, R33). -/
def packElems (f : Fmt) (l : List Nat) : List Byte :=
  if f.bits = 4 then
    leBytes (rowBytes f l.length) (l.foldr (fun x acc => x % 16 + 16 * acc) 0)
  else l.flatMap (leBytes (f.bits / 8))

/-- What a drain reads and writes: the entry values (an FP32 value, or the 128 bits of a long word). -/
structure DrainRows where
  rows : Nat
  width : Nat
  long : Bool
deriving DecidableEq, Repr

/-- The per-column scale of R93. -/
def epiScale (e : Nat) (spd : Bytes) (base k : Nat) : Val :=
  if EF.scaleMode.get e = 2 then decodeVal .fp32 (bNat spd (base + EF.scaleAddr.get e + 4 * k) 4)
  else decodeVal .fp32 (EF.tensorScale.get e)

/-- The per-column bias of R93. -/
def epiBias (e : Nat) (spd : Bytes) (base k : Nat) : Val :=
  if EF.biasMode.get e = 2 then decodeVal .bf16 (bNat spd (base + EF.biasAddr.get e + 2 * k) 2)
  else decodeVal .fp32 (bNat spd (base + EF.biasAddr.get e + 4 * k) 4)

/-- Drains rows through the epilogue in the order in which they enter it: the writes to the scratchpad (physical
addresses) and the number of invalid conversions. val r k is the FP32 value and raw r k the long word of an entry. -/
def epilogueRows (e : Nat) (cmd : Cmd) (spd : Bytes) (base : Nat) (order : List Nat) (w : Nat)
    (val : Nat → Nat → Val) (raw : Nat → Nat → Nat) : List (Nat × List Byte) × Nat :=
  let outF := (Fmt.ofCode (EF.outFmt.get e)).getD .fp32
  let preF := (Fmt.ofCode (EF.preFmt.get e)).getD .fp32
  order.foldl (fun acc r =>
    let outA := base + EF.outAddr.get e + r * EF.outStride.get e * 64
    if outF = .long then
      (acc.1 ++ [(outA, packElems .long ((List.range w).map (raw r)))], acc.2)
    else
      let els := (List.range w).map fun k =>
        epilogueElem e cmd r k (val r k) (epiScale e spd base k) (epiBias e spd base k)
      let out := (outA, packElems outF (els.map fun x => x.out.bits))
      let pre := if EF.preWrite.get e = 1 then
          [(base + EF.preAddr.get e + r * EF.preStride.get e * 64, packElems preF (els.map fun x => x.pre))]
        else []
      (acc.1 ++ pre ++ [out], acc.2 + (els.filter fun x => x.out.invalid).length)) ([], 0)

/-- Makes writes to a byte table, in order. -/
def applyWrites (l : List (Nat × List Byte)) (t : Bytes) : Bytes :=
  l.foldl (fun t x => bWrite x.1 x.2 t) t

end Sys2Proof.Machine
end

