-- ==== Sys2Proof/Machine/Operands.lean ====
section
/-! DEFINITION. Operands of tensor commands: the common header (04_core_engines R114), operand
descriptors (R122), scratchpad windows (05_on_die_storage R154), and how a command at the head of a
queue is found, rejected, issued and completed (R115 to R119). -/

namespace Sys2Proof.Machine

/-- Fields of the common header (R114). -/
def CF.op : Bf := ⟨0, 8⟩
def CF.waitSem : Bf := ⟨8, 5⟩
def CF.waitEn : Bf := ⟨13, 1⟩
def CF.sigSem : Bf := ⟨14, 5⟩
def CF.sigEn : Bf := ⟨19, 1⟩
def CF.sigInc : Bf := ⟨20, 8⟩
def CF.res : Bf := ⟨28, 4⟩
def CF.waitValue : Bf := ⟨32, 16⟩
def CF.tag : Bf := ⟨48, 16⟩

/-- A field of a command. -/
def Cmd.f (c : Cmd) (f : Bf) : Nat := f.get c.word.toNat

/-- Reasons of R119. -/
def rOpcode : Nat := 1
def rFormat : Nat := 2
def rGroup : Nat := 3
def rOwner : Nat := 4
def rDescriptor : Nat := 5
def rWindow : Nat := 6
def rShape : Nat := 7
def rMxLength : Nat := 8
def rRounding : Nat := 9
def rParam : Nat := 10

/-- The queue of an opcode, none for a reserved one; NOP goes to any (R120). -/
def opQueue (op : Nat) : Option QueueId :=
  if op = 0x01 ∨ op = 0x02 then some 0
  else if (0x10 ≤ op ∧ op ≤ 0x1E) ∨ (0x28 ≤ op ∧ op ≤ 0x2B) then some 1
  else if (0x40 ≤ op ∧ op ≤ 0x46) ∨ op = 0x48 ∨ op = 0x49 then some 2
  else none

/-- What a unit does with the command at a queue's head (R116, R119). -/
inductive Verdict where
  /-- it does not take it yet -/
  | wait
  /-- it rejects it with a reason of R119 -/
  | reject (reason : Nat)
  /-- it takes it -/
  | accept
deriving DecidableEq, Repr

/-- The first verdict of a list of checks that is not acceptance. -/
def firstVerdict : List (Bool × Verdict) → Verdict
  | [] => .accept
  | (true, v) :: _ => v
  | (false, _) :: r => firstVerdict r

/-! ### The scratchpad window -/

/-- Physical address of window offset 0 of a slot (R154). -/
def Dev.winBase (d : Dev) (c : CoreId) (k : SlotId) : Nat :=
  d.fld F.CORE_CTX_SPD_BASE c.val k.val * 65536

/-- First window offset of the tile save area: the top 132 KiB of the window (R154). -/
def Dev.winEnd (d : Dev) (c : CoreId) (k : SlotId) : Nat :=
  d.fld F.CORE_CTX_SPD_SIZE c.val k.val * 65536 - 132 * 1024

/-- Every byte of a range lies in the window and below the tile save area (R154). -/
def Dev.inWindow (d : Dev) (c : CoreId) (k : SlotId) (a n : Nat) : Bool :=
  decide (a + n ≤ d.winEnd c k)

/-- Reads bytes at a window offset. -/
def Dev.winRead (d : Dev) (c : CoreId) (k : SlotId) (a n : Nat) : List Byte :=
  bRead (d.core c).spd (d.winBase c k + a) n

/-- Rows at a pitch of 64-byte lines (R122). -/
def rowRanges (a pitch n len : Nat) : List (Nat × Nat) :=
  (List.range n).map fun r => (a + 64 * pitch * r, len)

/-- Every range lies in the window. -/
def Dev.rangesOk (d : Dev) (c : CoreId) (k : SlotId) (l : List (Nat × Nat)) : Bool :=
  l.all fun x => d.inWindow c k x.1 x.2

/-- Reads the ranges. -/
def Dev.readRanges (d : Dev) (c : CoreId) (k : SlotId) (l : List (Nat × Nat)) : List (List Byte) :=
  l.map fun x => d.winRead c k x.1 x.2

/-! ### The head of a queue -/

/-- The partition's hold keeps its harts and queues from going on (R255): it is HELD or moving; HOLD was written
while it was in no training job and not serving; or a failure notice has stopped it (R417). -/
def Dev.queueHold (d : Dev) (p : PartId) : Bool :=
  d.plainHold.contains p || d.failHold.contains p || decide (3 ≤ d.fld F.PART_STATUS_STATE p.val)

/-- The context of a slot may issue: it is not swapping, stopped, being destroyed or held. -/
def Dev.mayIssue (d : Dev) (c : CoreId) (k : SlotId) (x : Ctx) : Bool :=
  !x.sched.stopped && !x.sched.dying && !d.queueHold x.part &&
    (match (d.core c).swap with | some w => decide (w.slot ≠ k) | none => true)

/-- The command at the head of a queue, when it may issue as far as the queue is concerned: the slot
holds a context, the queue is not halted, and the wait is satisfied (R115, R116). -/
def Dev.head (d : Dev) (c : CoreId) (k : SlotId) (q : QueueId) : Option (Ctx × Cmd) :=
  match d.slotCtx c k with
  | none => none
  | some x =>
    match (x.queue q).cmds with
    | [] => none
    | cmd :: _ =>
      if (x.queue q).halted || (x.queue q).failed || !d.mayIssue c k x then none
      else if cmd.f CF.waitEn = 1 && !semOk (x.sem (cmd.f CF.waitSem)) (BitVec.ofNat 16 (cmd.f CF.waitValue))
      then none
      else some (x, cmd)

/-- Takes the head off a queue. -/
def Ctx.popHead (x : Ctx) (q : QueueId) : Ctx :=
  x.setQueue q { x.queue q with cmds := (x.queue q).cmds.drop 1 }

/-- The arbiter's choice among four requesters (R191). -/
def arbPick (ptr : Nat) (req : Nat → Bool) : Option Nat :=
  match (List.range 4).find? fun i => decide (ptr ≤ i) && req i with
  | some i => some i
  | none => (List.range 4).find? req

/-- The pointer after a grant (R191). -/
def arbNext (i : Nat) : Nat := (i + 1) % 4

/-- A slot number as an index. -/
def slotOf (i : Nat) : SlotId := ⟨i % 4, Nat.mod_lt i (by decide)⟩

/-- Rejects the head of a queue (R119): the queue halts, CORE_c_ERR_k latches the first rejection
(R148), and event 1 goes to the partition (R257). -/
def Dev.rejectHead (d : Dev) (c : CoreId) (k : SlotId) (q : QueueId) (reason : Nat) : Dev :=
  match d.slotCtx c k with
  | none => d
  | some x =>
    match (x.queue q).cmds with
    | [] => d
    | cmd :: _ =>
      let d := d.modSlot c k fun y => y.setQueue q { y.queue q with halted := true }
      let d := if d.flag F.CORE_ERR_VALID c.val k.val then d.setFld F.CORE_ERR_OVERFLOW 1 c.val k.val
        else
          ((((((d.setFld F.CORE_ERR_OP (cmd.f CF.op) c.val k.val).setFld F.CORE_ERR_REASON reason c.val k.val).setFld
            F.CORE_ERR_QUEUE q.val c.val k.val).setFld F.CORE_ERR_VALID 1 c.val k.val).setFld
            F.CORE_ERR_OVERFLOW 0 c.val k.val).setFld F.CORE_ERR_SEQ cmd.seq.toNat c.val k.val).setFld
            F.CORE_ERR_TAG (cmd.f CF.tag) c.val k.val
      d.postEvent x.part 1 c.val
        ((d.word (F.CORE_ERR_OP.addr c.val k.val)).toNat + k.val * 2 ^ 64)

/-- Acts on the head of a queue when it has the opcode op; a head whose opcode is reserved or belongs
to another queue is rejected with OPCODE, and one with a non-zero Reserved header field with
DESCRIPTOR (R10, R119, R120). -/
def Dev.takeHead (d : Dev) (c : CoreId) (k : SlotId) (q : QueueId) (op : Nat)
    (f : Ctx → Cmd → Dev) : Dev :=
  match d.head c k q with
  | none => d
  | some (x, cmd) =>
    if cmd.f CF.op ≠ 0 ∧ opQueue (cmd.f CF.op) ≠ some q then d.rejectHead c k q rOpcode
    else if cmd.f CF.op ≠ op then d
    else if cmd.f CF.res ≠ 0 then d.rejectHead c k q rDescriptor
    else f x cmd

/-- A completed command's signal (R114, R117). -/
def Ctx.complete (x : Ctx) (cmd : Cmd) : Ctx :=
  if cmd.f CF.sigEn = 1 then x.signal (cmd.f CF.sigSem) (BitVec.ofNat 16 (cmd.f CF.sigInc)) else x

/-! ### Hourglass timers (R408) -/

/-- The closing commands that have issued and not completed (R117): drains that run first. -/
def Core.closings (x : Core) : List Closing :=
  (x.opDrain.toList.map fun y => y.closing) ++ (x.drains.map fun y => y.closing) ++
    x.op.closing.toList ++ x.groups.filterMap fun g => g.2.closing

/-- The matrix unit holds an issued command. -/
def Core.matrixBusy (x : Core) : Bool :=
  !x.passes.isEmpty || x.tileLoad.isSome || !x.closings.isEmpty

/-- A unit holds an issued command: 0 matrix, 1 vector, 2 mover. -/
def Core.unitBusy (x : Core) (u : Nat) : Bool :=
  match u with
  | 0 => x.matrixBusy
  | 1 => x.vec.isSome
  | _ => !x.mover.isEmpty

/-- Starts a unit's timer at an issue into an empty unit; busy tells whether it held a command
before. -/
def Dev.startTimer (d : Dev) (c : CoreId) (u : Nat) (busy : Bool) : Dev :=
  if busy then d else d.modCore c fun x => { x with hang := tPut u d.now x.hang }

/-- Restarts a unit's timer at a completion, or stops it. -/
def Dev.restartTimer (d : Dev) (c : CoreId) (u : Nat) : Dev :=
  d.modCore c fun x => { x with hang := if x.unitBusy u then tPut u d.now x.hang else tDel u x.hang }

/-- A command of a slot's queue is executing (R139). -/
def Core.executing (x : Core) (k : SlotId) (q : QueueId) : Bool :=
  match q with
  | 0 => (x.passes.any fun p => decide (p.slot = k)) ||
      (match x.tileLoad with | some t => decide (t.slot = k) | none => false) ||
      x.closings.any fun t => decide (t.slot = k)
  | 1 => match x.vec with | some v => decide (v.slot = k) | none => false
  | 2 => x.mover.any fun m => decide (m.slot = k)

/-- Any command of a slot is executing. -/
def Core.executingAny (x : Core) (k : SlotId) : Bool :=
  x.executing k 0 || x.executing k 1 || x.executing k 2

end Sys2Proof.Machine
end

