-- ==== Sys2Proof/Machine/Matrix.lean ====
section
/-! DEFINITION. The matrix unit: tile loads, passes, groups, drains, the outer-product registers and
the matrix holder (03_two_way_array R59 to R106, 04_core_engines R120 to R126). -/

namespace Sys2Proof.Machine

/-- Fields of a matrix pass (R124). -/
def PF.mode : Bf := ⟨64, 2⟩
def PF.inFmt : Bf := ⟨66, 4⟩
def PF.wFmt : Bf := ⟨70, 4⟩
def PF.inMx : Bf := ⟨74, 1⟩
def PF.wMx : Bf := ⟨75, 1⟩
def PF.tile : Bf := ⟨76, 1⟩
def PF.group : Bf := ⟨77, 3⟩
def PF.action : Bf := ⟨80, 2⟩
def PF.segBase : Bf := ⟨82, 4⟩
def PF.segCount : Bf := ⟨86, 5⟩
def PF.refExp : Bf := ⟨91, 8⟩
def PF.negLambda : Bf := ⟨99, 6⟩
def PF.rowsM1 : Bf := ⟨105, 16⟩
def PF.res0 : Bf := ⟨121, 7⟩
def PF.inAddr : Bf := ⟨128, 24⟩
def PF.inStride : Bf := ⟨152, 16⟩
def PF.inScaleAddr : Bf := ⟨168, 24⟩
def PF.inScaleStride : Bf := ⟨192, 16⟩
def PF.southAddr : Bf := ⟨208, 24⟩
def PF.southStride : Bf := ⟨232, 16⟩
def PF.res1 : Bf := ⟨248, 8⟩
def PF.firstRow : Bf := ⟨256, 11⟩
def PF.res2 : Bf := ⟨267, 5⟩
def PF.epiAddr : Bf := ⟨272, 24⟩
def PF.res3 : Bf := ⟨296, 216⟩

/-- Fields of a tile load (R123). -/
def TF.wFmt : Bf := ⟨64, 4⟩
def TF.wMx : Bf := ⟨68, 1⟩
def TF.res0 : Bf := ⟨69, 59⟩
def TF.wAddr : Bf := ⟨128, 24⟩
def TF.wStride : Bf := ⟨152, 16⟩
def TF.wScaleAddr : Bf := ⟨168, 24⟩
def TF.wScaleStride : Bf := ⟨192, 16⟩
def TF.res1 : Bf := ⟨208, 304⟩

/-- The class of a pass (R61): 0 8-bit float, 1 8-bit integer, 2 BF16, 3 FP16; none for a
combination that matches no row. -/
def passClass (mode : PassMode) (i w : Fmt) : Option Nat :=
  let f8 := fun f => decide (f = Fmt.e4m3) || decide (f = Fmt.e5m2)
  if f8 i && (f8 w || (decide (w = .fp4) && decide (mode ≠ .outer))) then some 0
  else if i = .int8 ∧ (w = .int8 ∨ (w = .int4 ∧ mode ≠ .outer)) then some 1
  else if i = .bf16 ∧ w = .bf16 then some 2
  else if i = .fp16 ∧ w = .fp16 then some 3
  else none

/-- The mode of a pass; 3 is reserved (R124). -/
def modeOf (n : Nat) : Option PassMode :=
  match n with
  | 0 => some .forward
  | 1 => some .transposed
  | 2 => some .outer
  | _ => none

/-- The action of a pass (R124). -/
def actionOf (n : Nat) : PassAction :=
  match n with
  | 0 => .opens
  | 1 => .continues
  | 2 => .closes
  | _ => .openClose

/-- OPEN and OPEN_CLOSE open the group (R77). -/
def PassAction.isOpening (a : PassAction) : Bool := decide (a = .opens) || decide (a = .openClose)
/-- CLOSE and OPEN_CLOSE close it (R77). -/
def PassAction.isClosing (a : PassAction) : Bool := decide (a = .closes) || decide (a = .openClose)

/-- A group of a core. -/
def Core.group (x : Core) (g : Nat) : Group := tGet {} x.groups g

/-- Sets a group of a core. -/
def Core.setGroup (x : Core) (g : Nat) (v : Group) : Core := { x with groups := tSet {} g v x.groups }

/-- Result rows that a group of S segments holds (R74). -/
def groupRows (long : Bool) (segs w : Nat) : Nat := (if long then 8 else 32) * segs * 512 / w

/-- Width code of ARY_c_GROUP_g (R106). -/
def widthCode (w : Nat) : Nat := if w = 512 then 0 else if w = 256 then 1 else 2
/-- Results per row of a width code. -/
def widthOf (code : Nat) : Nat := if code = 0 then 512 else if code = 1 then 256 else 128

/-- Two runs of segments share one. -/
def overlaps (a n b m : Nat) : Bool := decide (a < b + m) && decide (b < a + n)

/-- A segment of the run belongs to a group in a state (R75). -/
def Core.segsIn (x : Core) (st : GState) (a n : Nat) : Bool :=
  x.groups.any fun g => decide (g.2.st = st) && overlaps a n g.2.base g.2.count

/-- The rules of R75 for an OPEN or ACFLOAD of group g over segments a to a + n − 1: it waits while g
drains, then it is checked, then it waits for draining segments. -/
def Core.openVerdict (x : Core) (g a n : Nat) : Verdict :=
  firstVerdict
    [(decide ((x.group g).st = .draining), .wait),
     (decide (8 ≤ (x.groups.filter fun e => decide (e.2.st = .isOpen)).length), .reject rGroup),
     (decide ((x.group g).st = .isOpen), .reject rGroup),
     (decide (16 < a + n), .reject rGroup),
     (x.segsIn .isOpen a n, .reject rGroup),
     (x.segsIn .draining a n, .wait)]

/-- What a pass names, once its codes are read. -/
structure PassArgs where
  mode : PassMode
  inF : Fmt
  wF : Fmt
  cls : Nat
  wide : Bool
  action : PassAction
  w : Nat
  rows : Nat
deriving DecidableEq, Repr

/-- Reads the codes of a pass; the reason of R119 when one is reserved or the combination matches no
row of R61 (R62, R124). MXINT4 is no format of the device (R41). -/
def passArgs (cmd : Cmd) : Except Nat PassArgs :=
  if cmd.f PF.res0 ≠ 0 ∨ cmd.f PF.res1 ≠ 0 ∨ cmd.f PF.res2 ≠ 0 ∨ cmd.f PF.res3 ≠ 0 then .error rDescriptor
  else
    match modeOf (cmd.f PF.mode) with
    | none => .error rDescriptor
    | some mode =>
      let ci := cmd.f PF.inFmt
      let cw := cmd.f PF.wFmt
      if (12 ≤ ci ∧ ci ≤ 14) ∨ (12 ≤ cw ∧ cw ≤ 14) then .error rDescriptor
      else
        match Fmt.ofCode ci, Fmt.ofCode cw with
        | some i, some w =>
          match passClass mode i w with
          | none => .error rFormat
          | some cls =>
            if (cmd.f PF.inMx = 1 ∨ cmd.f PF.wMx = 1) ∧ (mode = .outer ∨ 2 ≤ cls) then .error rFormat
            else if cmd.f PF.wMx = 1 ∧ w = .int4 then .error rFormat
            else
              let wide := decide (2 ≤ cls)
              .ok ⟨mode, i, w, cls, wide, actionOf (cmd.f PF.action), passWidth mode wide,
                cmd.f PF.rowsM1 + 1⟩
        | _, _ => .error rFormat

/-- Parameter ranges of R73 and R124. -/
def passParamBad (cmd : Cmd) (a : PassArgs) : Bool :=
  match a.mode with
  | .outer => decide (a.cls = 0) && (decide (cmd.f PF.negLambda < 8) || decide (48 < cmd.f PF.negLambda))
  | _ => decide (512 < a.rows) ||
      (a.action.isOpening && (decide (cmd.f PF.segCount = 0) || decide (16 < cmd.f PF.segCount) ||
        (!a.wide && decide (cmd.f PF.refExp = 255))))

/-- The scratchpad ranges of a pass's streamed rows and scales. -/
def passInRanges (cmd : Cmd) (a : PassArgs) : List (Nat × Nat) :=
  rowRanges (cmd.f PF.inAddr) (cmd.f PF.inStride) a.rows (rowBytes a.inF (passDepth a.mode a.wide))

/-- The ranges of the streamed operand's block scales, one byte per block of 32 (R41). -/
def passScaleRanges (cmd : Cmd) (a : PassArgs) : List (Nat × Nat) :=
  if cmd.f PF.inMx = 1 then
    rowRanges (cmd.f PF.inScaleAddr) (cmd.f PF.inScaleStride) a.rows (passDepth a.mode a.wide / 32)
  else []

/-- The ranges of the south operand (R69). -/
def passSouthRanges (cmd : Cmd) (a : PassArgs) : List (Nat × Nat) :=
  if a.mode = PassMode.outer then
    rowRanges (cmd.f PF.southAddr) (cmd.f PF.southStride) a.rows (rowBytes a.wF a.w)
  else []

/-- The epilogue descriptor at a window offset. -/
def Dev.epiAt (d : Dev) (c : CoreId) (k : SlotId) (a : Nat) : Nat := leNat (d.winRead c k a 48)

/-- The group's part of a pass in forward or transposed mode (R75, R76, R79). -/
def groupVerdict (x : Core) (k : SlotId) (cmd : Cmd) (a : PassArgs) : Verdict :=
  let g := cmd.f PF.group
  let gr := x.group g
  let last := cmd.f PF.firstRow + a.rows
  if a.action.isOpening then
    match x.openVerdict g (cmd.f PF.segBase) (cmd.f PF.segCount) with
    | .accept =>
      if groupRows (!a.wide) (cmd.f PF.segCount) a.w < last then .reject rGroup else .accept
    | v => v
  else
    firstVerdict
      [(decide (gr.st ≠ .isOpen), .reject rGroup),
       (decide (gr.owner ≠ k), .reject rOwner),
       (decide (gr.long = a.wide) || decide (widthOf gr.width ≠ a.w), .reject rGroup),
       (decide (groupRows gr.long gr.count a.w < last), .reject rGroup)]

/-- The outer-product registers' part of a pass (R81). -/
def outerVerdict (x : Core) (k : SlotId) (cmd : Cmd) (a : PassArgs) : Verdict :=
  let lam := if a.cls = 0 then cmd.f PF.negLambda else 0
  firstVerdict
    [(x.op.isOpen && decide (x.op.owner ≠ k), .wait),
     (!a.action.isOpening && !x.op.isOpen, .reject rGroup),
     (!a.action.isOpening && (decide (x.op.cls ≠ a.cls) || decide (x.op.lambda ≠ lam)), .reject rGroup)]

/-- The tile's part of a pass (R64, R124, R125). -/
def tileVerdict (x : Core) (key : Nat) (cmd : Cmd) (a : PassArgs) : Verdict :=
  if a.mode = PassMode.outer then .accept
  else
    let reg := if cmd.f PF.tile = 1 then x.shadow else x.active
    if cmd.f PF.tile = 1 ∧ x.tileLoad.isSome then .wait
    else
      match reg with
      | none => .reject rOwner
      | some t =>
        if t.owner ≠ key then .reject rOwner
        else if t.fmt ≠ a.wF ∨ t.mx ≠ (cmd.f PF.wMx == 1) then .reject rFormat
        else .accept

/-- The epilogue descriptor's part of a closing pass (R93, R97, R154): its rows are the group's result
rows, or the 128 cell rows. OUT_FMT long is refused for cells too, which hold no long entries (log 16). -/
def epiVerdict (d : Dev) (c : CoreId) (k : SlotId) (cmd : Cmd) (a : PassArgs) : Verdict :=
  if !a.action.isClosing then .accept
  else
    let ea := cmd.f PF.epiAddr
    let gr := (d.core c).group (cmd.f PF.group)
    let segs := if a.action.isOpening then cmd.f PF.segCount else gr.count
    let rows := if a.mode = PassMode.outer then 128 else groupRows (!a.wide) segs a.w
    firstVerdict
      [(decide (ea % 64 ≠ 0), .reject rDescriptor),
       (!d.inWindow c k ea 48, .reject rWindow),
       (epilogueBad (d.epiAt c k ea) (!a.wide && decide (a.mode ≠ .outer)), .reject rDescriptor),
       (!d.rangesOk c k (epilogueRanges (d.epiAt c k ea) rows a.w), .reject rWindow)]

/-- The first cycle in which a pass may issue, as far as the pass before it is concerned (R70, R71). -/
def Core.passFrom (x : Core) (mode : PassMode) (wide : Bool) : Nat :=
  let e := max x.edgeFree x.cellsFreeFrom
  match x.lastPass with
  | none => e
  | some l =>
    if l.mode = mode ∧ l.wide = wide then e
    else max e (l.lastIssue + (if l.wide then 383 else 639))

/-- The matrix unit serves the slot: it is the holder, and no change runs (R126). -/
def Core.serves (x : Core) (k : SlotId) : Bool := decide (x.holder = some k) && x.change.isNone

/-- A pass waits at the array edge, which takes no other (R164). -/
def Core.edgeHeld (x : Core) : Bool := x.passes.any fun p => p.edge

/-- The array could take the first row of a pass in a cycle: its edge is free, what the pass before it asks for has
passed, and no outer-product accumulation waits for its drain (R70, R71). -/
def Core.takesPass (x : Core) (mode : PassMode) (wide : Bool) (t : Nat) : Bool :=
  !x.edgeHeld && x.op.closing.isNone && decide (x.passFrom mode wide ≤ t)

/-- The verdict on a pass whose codes are sound, in the order of its checks (R62, R79, R81, R97, R125; log 16). -/
def passVerdict (d : Dev) (c : CoreId) (k : SlotId) (key : Nat) (cmd : Cmd) (a : PassArgs) : Verdict :=
  let x := d.core c
  firstVerdict
    [(passParamBad cmd a, .reject rParam),
     (decide (tileVerdict x key cmd a ≠ .accept), tileVerdict x key cmd a),
     (!d.rangesOk c k (passInRanges cmd a ++ passScaleRanges cmd a ++ passSouthRanges cmd a), .reject rWindow),
     (decide (a.mode ≠ .outer) && decide (groupVerdict x k cmd a ≠ .accept), groupVerdict x k cmd a),
     (decide (a.mode = .outer) && decide (outerVerdict x k cmd a ≠ .accept), outerVerdict x k cmd a),
     (decide (epiVerdict d c k cmd a ≠ .accept), epiVerdict d c k cmd a)]

/-- A group as OPEN leaves it (R75). -/
def openedGroup (k : SlotId) (cmd : Cmd) (a : PassArgs) : Group :=
  { base := cmd.f PF.segBase, count := cmd.f PF.segCount, long := !a.wide, width := widthCode a.w,
    exp := if a.wide then 0 else cmd.f PF.refExp, st := .isOpen, owner := k,
    fill := if a.wide then 0 else Long.encode ⟨0, cmd.f PF.refExp, 0⟩ }

/-- A counter of 32 bits that stops at its largest value. -/
def satAdd32 (a b : Nat) : Nat := min (a + b) (2 ^ 32 - 1)

/-- The group of a pass once it has issued: PASSES counts it from its issue (R75, R77, R79; log 17). -/
def issuedGroup (k : SlotId) (cmd : Cmd) (a : PassArgs) (epi : Nat) (g : Group) : Group :=
  let g := if a.action.isOpening then openedGroup k cmd a else g
  let g := { g with passes := satAdd32 g.passes 1 }
  if a.action.isClosing then { g with st := .draining, closing := some ⟨k, cmd, epi, false, 0⟩ } else g

/-- The outer-product registers once a pass has issued (R81): a closing pass ends the accumulation at its issue, as
R79 says of groups (log 17). -/
def issuedOp (k : SlotId) (cmd : Cmd) (a : PassArgs) (epi : Nat) (o : OpRegs) : OpRegs :=
  let o := if a.action.isOpening then
      { isOpen := true, cls := a.cls, lambda := if a.cls = 0 then cmd.f PF.negLambda else 0, owner := k }
    else o
  if a.action.isClosing then { o with isOpen := false, closing := some ⟨k, cmd, epi, false, 0⟩ } else o

/-- Cycles from a row's issue until it is visible or absorbed (R70). -/
def passLatency (mode : PassMode) (wide : Bool) : Nat :=
  match mode with
  | .outer => if wide then 389 else 645
  | _ => if wide then 394 else 650

/-- The cycle from which the last row of a pass that enters the array in a cycle is visible or absorbed (R70). -/
def passDue (mode : PassMode) (wide : Bool) (rows at_ : Nat) : Nat := at_ + rows - 1 + passLatency mode wide

/-- The rows of a pass enter the array from a cycle on (R70, R71); its cells are active from the first row's first
to the last row's last (R67 to R69, R104). -/
def Core.enter (x : Core) (mode : PassMode) (wide : Bool) (rows at_ : Nat) : Core :=
  { x with
    edgeFree := at_ + rows
    firstIssue := at_
    lastPass := some ⟨mode, wide, at_ + rows - 1⟩
    cellSpans := x.cellSpans ++ [(at_ + 6, at_ + rows + (if wide then 388 else 644))] }

/-- The ACFLOAD of a group has completed: the pass that waits at the edge for it enters in the next cycle (R164). -/
def Core.letIn (x : Core) (g : GroupId) (now : Nat) : Core :=
  match x.passes.find? fun p => p.edge && decide (p.group = g) with
  | none => x
  | some p =>
    { x.enter p.mode p.wide p.rows.length (now + 1) with
      passes := x.passes.map fun q =>
        if q.edge then { q with edge := false, due := passDue q.mode q.wide q.rows.length (now + 1) } else q }

/-- The tiles change places (R64). -/
def Core.exchange (x : Core) : Core := { x with active := x.shadow, shadow := x.active, shadowFresh := false }

/-- Issues a pass (R64, R73 to R81): it leaves its queue with the operands it reads, the tiles change
places when it names the shadow tile, and its group or the outer-product registers take its action. It waits at the
edge while its group loads (R164). -/
def Dev.issuePass (d : Dev) (c : CoreId) (k : SlotId) (cmd : Cmd) (a : PassArgs) : Dev :=
  let x := d.core c
  let now := d.cycle c
  let epi := d.epiAt c k (cmd.f PF.epiAddr)
  let outer := decide (a.mode = .outer)
  let x := if !outer && decide (cmd.f PF.tile = 1) then x.exchange else x
  let edge := !outer && !a.action.isOpening && (x.group (cmd.f PF.group)).loading
  let rec_ : PassRec :=
    { slot := k, cmd := cmd, mode := a.mode, wide := a.wide, action := a.action,
      group := ⟨cmd.f PF.group % 8, Nat.mod_lt _ (by decide)⟩, first := cmd.f PF.firstRow,
      inFmt := a.inF, wFmt := a.wF, inMx := cmd.f PF.inMx == 1, wMx := cmd.f PF.wMx == 1,
      rows := d.readRanges c k (passInRanges cmd a), scales := d.readRanges c k (passScaleRanges cmd a),
      south := d.readRanges c k (passSouthRanges cmd a),
      tile := if outer then none else x.active
      edge := edge
      due := if edge then 0 else passDue a.mode a.wide a.rows now }
  let x := { x with passes := x.passes ++ [rec_] }
  let x := if edge then x else x.enter a.mode a.wide a.rows now
  let x := if outer then { x with op := issuedOp k cmd a epi x.op }
    else x.setGroup (cmd.f PF.group) (issuedGroup k cmd a epi (x.group (cmd.f PF.group)))
  let d := (d.startTimer c 0 (d.core c).matrixBusy).modSlot c k fun y => y.popHead 0
  d.setCore c { x with hang := (d.core c).hang }

/-- MATRIX_PASS. The pass at the head of the slot's matrix queue is rejected, waits, or issues (R116,
R119, R124). Codes that no pass may have are refused at the head; every other check is made in a cycle in which the
array could take the pass, and not while HOLD is 1 (R62, R79, R101; log 16). -/
def matrixPass (c : CoreId) (k : SlotId) (d : Dev) : Dev :=
  let x := d.core c
  if !x.serves k then d
  else d.takeHead c k 0 0x01 fun _ cmd =>
    match passArgs cmd with
    | .error r => d.rejectHead c k 0 r
    | .ok a =>
      if d.flag F.ARY_CTL_HOLD c.val || !x.takesPass a.mode a.wide (d.cycle c) then d
      else
        match passVerdict d c k ((x.slotKey k).getD 0) cmd a with
        | .reject r => d.rejectHead c k 0 r
        | .wait => d
        | .accept => d.issuePass c k cmd a

/-- A pass waits in a cycle under R71 alone: the edge is free, and it would issue but for the pass or the drain
before it (R104). -/
def Dev.switchWaits (d : Dev) (c : CoreId) (t : Nat) : Bool :=
  let x := d.core c
  match x.holder with
  | none => false
  | some k =>
    match d.head c k 0 with
    | none => false
    | some (_, cmd) =>
      x.serves k && decide (cmd.f CF.op = 1) && decide (cmd.f CF.res = 0) && !d.flag F.ARY_CTL_HOLD c.val &&
        !x.edgeHeld && decide (x.edgeFree ≤ t) &&
        (match passArgs cmd with
         | .ok a => !x.takesPass a.mode a.wide t &&
             decide (passVerdict d c k ((x.slotKey k).getD 0) cmd a ≠ .wait)
         | .error _ => false)

/-! ### Tile loads -/

/-- A format that a tile may have, and whether it may have block scales (R41, R61, R123). -/
def tileFmtBad (f : Nat) (mx : Bool) : Bool :=
  decide (6 < f) || (mx && decide (f ≠ 0 ∧ f ≠ 1 ∧ f ≠ 2 ∧ f ≠ 3))

/-- The ranges of a tile's 128 weight rows. -/
def tileRanges (cmd : Cmd) (f : Fmt) : List (Nat × Nat) :=
  rowRanges (cmd.f TF.wAddr) (cmd.f TF.wStride) 128 (rowBytes f (tileCols f))

/-- The ranges of a tile's scales: one row of 512 for each block of 32 weight rows (R63). -/
def tileScaleRanges (cmd : Cmd) : List (Nat × Nat) :=
  if cmd.f TF.wMx = 1 then rowRanges (cmd.f TF.wScaleAddr) (cmd.f TF.wScaleStride) 4 512 else []

/-- Array cycles of a tile load (R63). -/
def tileLoadCycles (f : Fmt) (mx : Bool) : Nat := if mx && decide (f.bits = 8) then 33 else 32

/-- The tile that a load reads. -/
def Dev.readTile (d : Dev) (c : CoreId) (k : SlotId) (key : Nat) (cmd : Cmd) (f : Fmt) : Tile :=
  { fmt := f, mx := cmd.f TF.wMx == 1, owner := key,
    data := bWrite 0 (d.readRanges c k (tileRanges cmd f)).flatten [],
    scales := bWrite 0 (d.readRanges c k (tileScaleRanges cmd)).flatten [] }

/-- Issues a tile load (R123): the shadow register holds no tile until it completes. -/
def Dev.issueTileLoad (d : Dev) (c : CoreId) (k : SlotId) (key : Nat) (cmd : Cmd) (f : Fmt) : Dev :=
  let t := d.readTile c k key cmd f
  let d := (d.startTimer c 0 (d.core c).matrixBusy).modSlot c k fun y =>
    { y.popHead 0 with loadedTile := true }
  d.modCore c fun x => { x with
    tileLoad := some ⟨k, cmd, t, d.cycle c + tileLoadCycles f t.mx⟩, shadow := none, shadowFresh := false }

/-- TILE_LOAD. The tile load at the head of the slot's matrix queue is rejected, waits, or issues
(R123, R156). -/
def tileLoad (c : CoreId) (k : SlotId) (d : Dev) : Dev :=
  let x := d.core c
  if !x.serves k then d
  else d.takeHead c k 0 0x02 fun _ cmd =>
    let code := cmd.f TF.wFmt
    if cmd.f TF.res0 ≠ 0 ∨ cmd.f TF.res1 ≠ 0 ∨ (12 ≤ code ∧ code ≤ 14) then d.rejectHead c k 0 rDescriptor
    else if tileFmtBad code (cmd.f TF.wMx == 1) then d.rejectHead c k 0 rFormat
    else
      match Fmt.ofCode code with
      | none => d.rejectHead c k 0 rFormat
      | some f =>
        if !d.rangesOk c k (tileRanges cmd f ++ tileScaleRanges cmd) then d.rejectHead c k 0 rWindow
        else if x.tileLoad.isSome || x.edgeHeld || (x.lastPass.isSome && decide (d.cycle c ≤ x.firstIssue)) then d
        else d.issueTileLoad c k ((x.slotKey k).getD 0) cmd f

/-- TILE_LOAD_DONE. The shadow tile is loaded; the load completes and signals (R63, R117). -/
def tileLoadDone (c : CoreId) (d : Dev) : Dev :=
  match (d.core c).tileLoad with
  | none => d
  | some t =>
    if d.cycle c < t.due then d
    else
      let d := d.modCore c fun x => { x with tileLoad := none, shadow := some t.tile, shadowFresh := true }
      (d.modSlot c t.slot fun y => y.complete t.cmd).restartTimer c 0

/-! ### Completion of passes and drains -/

/-- Adds what a commit counted to the array's counters (R103). -/
def Dev.countArray (d : Dev) (c : CoreId) (n : Counts) : Dev :=
  ((d.count F.ARY_FLUSH_COUNT_COUNT n.flushed c.val).count F.ARY_ABOVE_COUNT_COUNT n.above c.val).count
    F.ARY_RANGE_COUNT_COUNT n.range c.val

/-- A closing whose pass's last row is visible or absorbed: its drain may start from cycle n. -/
def Closing.arm (x : Closing) (n : Nat) : Closing := { x with ready := true, startAt := n }

/-- The outer-product registers as a pass finds them when its rows are absorbed: an OPEN clears what passes before it
have added (R81). -/
def OpRegs.found (o : OpRegs) (a : PassAction) : OpRegs := if a.isOpening then { o with cells := [], rows := 0 } else o

/-- The oldest pass becomes visible or absorbed (R67 to R69, R78): its results are added in row order;
an OPEN or CONTINUE completes and signals, a closing pass arms its drain. -/
def Dev.finishPass (d : Dev) (c : CoreId) (p : PassRec) (rest : List PassRec) : Dev :=
  let x := { d.core c with passes := rest }
  let d := match p.mode with
    | .outer =>
      let o := p.absorb (x.op.found p.action)
      let o := { o with
        rows := satAdd32 o.rows p.rows.length
        closing := if p.action.isClosing then o.closing.map fun (y : Closing) => y.arm p.due else o.closing }
      d.setCore c { x with op := o }
    | _ =>
      match p.tile with
      | none => d.setCore c x
      | some t =>
        let (g, n) := p.commit t (x.group p.group)
        let g := if p.action.isClosing then { g with closing := g.closing.map fun (y : Closing) => y.arm p.due } else g
        (d.setCore c (x.setGroup p.group g)).countArray c n
  let d := if p.action.isClosing then d else d.modSlot c p.slot fun y => y.complete p.cmd
  d.restartTimer c 0

/-- PASS_COMPLETE (R117). -/
def passComplete (c : CoreId) (d : Dev) : Dev :=
  match (d.core c).passes with
  | [] => d
  | p :: rest => if p.edge || decide (d.cycle c < p.due) then d else d.finishPass c p rest

/-- Array cycles that the epilogue takes for one group or cell row of w-wide results, n results rows
in it: rows wider than 1,024 B hold it longer (R158). -/
def epiRowCycles (e perRow w : Nat) : Nat :=
  let out := (Fmt.ofCode (EF.outFmt.get e)).getD .fp32
  let pre := (Fmt.ofCode (EF.preFmt.get e)).getD .fp32
  let b := perRow * (rowBytes out w + (if EF.preWrite.get e = 1 then rowBytes pre w else 0))
  max 1 ((b + 1023) / 1024)

/-- GROUP_DRAIN_START. The drain of a closing group starts once its last row is visible: the group is free from the
cycle after its last row has entered the epilogue, and written 12 cycles after that (R80, R92, R158). -/
def groupDrainStart (c : CoreId) (g : GroupId) (d : Dev) : Dev :=
  let x := d.core c
  let gr := x.group g
  match gr.closing with
  | none => d
  | some cl =>
    if !cl.ready || decide (d.cycle c < cl.startAt) then d
    else
      let rows := (if gr.long then 8 else 32) * gr.count
      let w := widthOf gr.width
      let n := rows * epiRowCycles cl.epi (512 / w) w
      d.setCore c { x.setGroup g { gr with closing := none, freeAt := some (d.cycle c + n) } with
        drains := x.drains ++ [⟨g, gr, cl, d.cycle c + n - 1 + 12⟩] }

/-- A group drained through the epilogue, its rows in ascending order (R80, R92). -/
def Dev.drainGroup (d : Dev) (c : CoreId) (y : GroupDrain) : Dev :=
  let x := d.core c
  let gr := y.record
  let w := widthOf gr.width
  let val := fun r k =>
    let n := gr.entry (r * w + k)
    if gr.long then round32 (Long.decode n).value else decodeVal .fp32 n
  let (ws, inv) := epilogueRows y.closing.epi y.closing.cmd x.spd (d.winBase c y.closing.slot)
    (List.range (groupRows gr.long gr.count w)) w val (fun r k => gr.entry (r * w + k))
  let d := d.setCore c { x with spd := applyWrites ws x.spd, drains := x.drains.erase y }
  let d := d.count F.VEC_INVCVT_COUNT_COUNT inv c.val
  (d.modSlot c y.closing.slot fun z => z.complete y.closing.cmd).restartTimer c 0

/-- The oldest drain of a group that runs. -/
def Core.drainOf (x : Core) (g : GroupId) : Option GroupDrain := x.drains.find? fun y => decide (y.g = g)

/-- GROUP_DRAIN_END. The last row is written and the closing pass completes (R80, R117). -/
def groupDrainEnd (c : CoreId) (g : GroupId) (d : Dev) : Dev :=
  match (d.core c).drainOf g with
  | none => d
  | some y => if d.cycle c < y.endAt then d else d.drainGroup c y

/-- Columns of the outer-product registers for a class (R59). -/
def opWidth (cls : Nat) : Nat := if 2 ≤ cls then 256 else 512

/-- OUTER_PRODUCT_DRAIN_START. The drain starts in the cycle after the closing pass's last row is
absorbed, and holds the cells until its last row has left them (R72, R158). -/
def outerProductDrainStart (c : CoreId) (d : Dev) : Dev :=
  let x := d.core c
  match x.op.closing with
  | none => d
  | some cl =>
    if !cl.ready || x.opDrain.isSome || decide (d.cycle c ≤ cl.startAt) then d
    else
      let now := d.cycle c
      let n := 128 * epiRowCycles cl.epi 1 (opWidth x.op.cls)
      d.setCore c { x with
        op := {}
        opDrain := some ⟨x.op, cl, now + n - 1 + 15⟩
        cellsFreeFrom := now + n
        cellSpans := x.cellSpans ++ [(now, now + n)] }

/-- The outer-product registers drained: converted under R91, through the epilogue, row 127 first and row 0 last, to
the scratchpad (R72). -/
def Dev.drainOuter (d : Dev) (c : CoreId) (y : OpDrain) : Dev :=
  let x := d.core c
  let o := y.regs
  let w := opWidth o.cls
  let (ws, inv) := epilogueRows y.closing.epi y.closing.cmd x.spd (d.winBase c y.closing.slot)
    (List.range 128).reverse w o.drainVal (fun _ _ => 0)
  let d := d.setCore c { x with spd := applyWrites ws x.spd, opDrain := none }
  let d := (d.count F.VEC_INVCVT_COUNT_COUNT inv c.val).count F.ARY_RANGE_COUNT_COUNT (o.satCells w) c.val
  (d.modSlot c y.closing.slot fun z => z.complete y.closing.cmd).restartTimer c 0

/-- OUTER_PRODUCT_DRAIN_END (R72, R117). -/
def outerProductDrainEnd (c : CoreId) (d : Dev) : Dev :=
  match (d.core c).opDrain with
  | none => d
  | some y => if d.cycle c < y.endAt then d else d.drainOuter c y

/-! ### The matrix holder -/

/-- The head of the slot's matrix queue waits under R81: it is an outer-product pass and another
context owns the registers. -/
def Dev.waitsOuter (d : Dev) (c : CoreId) (k : SlotId) (cmd : Cmd) : Bool :=
  decide (cmd.f CF.op = 1) && decide (cmd.f PF.mode = 2) && (d.core c).op.isOpen &&
    decide ((d.core c).op.owner ≠ k)

/-- A slot has a matrix command ready (R116, R126). -/
def Dev.matrixReady (d : Dev) (c : CoreId) (k : SlotId) : Bool :=
  match d.head c k 0 with
  | none => false
  | some (_, cmd) => !d.waitsOuter c k cmd

/-- The holder gives way (R126): its queue is empty, its head waits, or its queue is halted; or there
is no holder. -/
def Dev.holderGives (d : Dev) (c : CoreId) : Bool :=
  match (d.core c).holder with
  | none => true
  | some h => !d.matrixReady c h

/-- HOLDER_CHANGE. The unit begins to change its holder to the context that R116 chooses (R126). The
first of the three steps ends when the last pass has left the cells and no tile load is in flight. -/
def holderChange (c : CoreId) (d : Dev) : Dev :=
  let x := d.core c
  if x.change.isSome || x.edgeHeld || !d.holderGives c then d
  else
    match arbPick x.arb.matrix fun i => d.matrixReady c (slotOf i) && decide (x.holder ≠ some (slotOf i)) with
    | none => d
    | some i =>
      let now := d.cycle c
      let left := match x.lastPass with
        | none => now
        | some l => l.lastIssue + (if l.wide then 383 else 639)
      let load := match x.tileLoad with | some t => t.due | none => now
      let saved := match d.slotCtx c (slotOf i) with | some y => y.loadedTile | none => false
      let stop := max now (max left (max load x.cellsFreeFrom)) +
        (if x.holder.isSome then 132 else 0) + (if saved then 66 else 0)
      d.setCore c { x with
        change := some ⟨slotOf i, now, stop⟩, arb := { x.arb with matrix := arbNext i } }

/-- The outgoing holder's tiles saved in its context (R126). -/
def Dev.tilesOut (d : Dev) (c : CoreId) : Dev :=
  let x := d.core c
  match x.holder with
  | none => d
  | some h => d.modSlot c h fun y => { y with tiles := (x.active, x.shadow), tilesFresh := x.shadowFresh }

/-- HOLDER_CHANGE_DONE. The outgoing holder's tiles are saved and the incoming one's are loaded; the
incoming holder's commands may issue (R126, R149). -/
def holderChangeDone (c : CoreId) (d : Dev) : Dev :=
  let x := d.core c
  match x.change with
  | none => d
  | some ch =>
    if d.cycle c < ch.endAt || x.tileLoad.isSome then d
    else
      let d := d.tilesOut c
      let (a, b, f) := match d.slotCtx c ch.next with
        | some y => (y.tiles.1, y.tiles.2, y.tilesFresh)
        | none => (none, none, false)
      let d := d.setCore c { x with
        holder := some ch.next, change := none, active := a, shadow := b, shadowFresh := f, lastPass := none }
      d.count F.CORE_HOLDER_CYCLES_CYCLES (ch.endAt - ch.startAt) c.val

end Sys2Proof.Machine
end

