-- ==== Sys2Proof/Machine/Sched.lean ====
section
/-! DEFINITION. When a context is blocked or runnable (04_core_engines R139, 09_partitions_serving
R258), the scheduling decision and the ko hold (R259, R260), and how a swap begins (R140, R141). -/

namespace Sys2Proof.Machine

/-- Contents of a full queue (R112). -/
def queueDepth : Nat := 64

/-- What a hart waits in has come about, with the queues' executing commands as told (R113, R115). -/
def Ctx.waitOver (x : Ctx) (exec : QueueId → Bool) : Bool :=
  match x.wait with
  | none => true
  | some (.sem n v) => semOk (x.sem n.toNat) v
  | some (.fence sel) =>
    [(0 : QueueId), 1, 2].all fun q =>
      !(sel.getLsbD q.val) || ((x.queue q).cmds.isEmpty && !exec q)
  | some (.push q _ _) => decide ((x.queue q).cmds.length < queueDepth)
  | some .collective =>
    match x.schedule with
    | [] => true
    | (q, _) :: _ => decide ((x.queue q).cmds.length < queueDepth)

/-- A resident context is blocked (R139, R257). -/
def Core.blocked (x : Core) (k : SlotId) (y : Ctx) : Bool :=
  !x.executingAny k && (y.sched.stopped || y.sched.dying || !y.waitOver fun q => x.executing k q)

/-- A ring can serve an MRECV (opcode 0x46): its next message is visible; or an MSEND: it has room; a
ring in error takes either, which then ends with RING (R258, R324). -/
def ringServes (m : Mem) (d : Dev) (op r : Nat) : Bool :=
  decide (d.rf r RF.error = 1) || (if op = 0x46 then ringVisible m d r else d.ringRoom r)

/-- The ring field of a mover command (R167). -/
def MF.ring : Bf := ⟨352, 18⟩

/-- A swapped-out context's hart waits only on its mover queue, whose head is an MRECV or MSEND that
its ring can now serve (R258). -/
def ringWakes (m : Mem) (d : Dev) (x : Ctx) : Bool :=
  let only := match x.wait with
    | some (.push q _ _) => decide (q = 2)
    | some (.fence sel) =>
      (!(sel.getLsbD 0) || x.mq.cmds.isEmpty) && (!(sel.getLsbD 1) || x.vq.cmds.isEmpty)
    | some .collective => match x.schedule with | (q, _) :: _ => decide (q = 2) | [] => false
    | _ => false
  match x.sq.cmds with
  | [] => false
  | cmd :: _ =>
    only && !x.sq.halted && !x.sq.failed && (decide (cmd.f CF.op = 0x45) || decide (cmd.f CF.op = 0x46)) &&
      ringServes m d (cmd.f CF.op) (cmd.f MF.ring)

/-- A swapped-out context is runnable (R141, R257, R258); woken is a WAKE since its swap-out. -/
def ctxRunnable (m : Mem) (d : Dev) (x : Ctx) : Bool :=
  !x.sched.stopped && !x.sched.dying && !x.sched.refused &&
    (x.sched.runnable || (x.waitOver fun _ => false) || ringWakes m d x)

/-- Updates a context's stamps of becoming blocked or runnable (R258), and tells whether it became
so now. -/
def stampCtx (m : Mem) (d : Dev) (x : Ctx) : Ctx × Bool :=
  match x.place with
  | .resident c k =>
    if (d.core c).blocked k x then
      match x.sched.blockedSince with
      | some _ => (x, false)
      | none => ({ x with sched := { x.sched with blockedSince := some d.now } }, true)
    else ({ x with sched := { x.sched with blockedSince := none } }, false)
  | .out =>
    if ctxRunnable m d x then
      match x.sched.runnableSince with
      | some _ => (x, false)
      | none => ({ x with sched := { x.sched with runnableSince := some d.now } }, true)
    else ({ x with sched := { x.sched with runnableSince := none } }, false)

/-- Segments of the accumulator file that no group holds (R79). -/
def Core.runFree (x : Core) (a n : Nat) : Bool :=
  decide (a + n ≤ 16) && !(x.groups.any fun e => decide (e.2.st ≠ .free) && overlaps e.2.base e.2.count a n)

/-- Places the saved groups in ascending number (R141 step 2); none when one must wait. -/
def placeGroups (k : SlotId) : List SavedGroup → Core → Option Core
  | [], x => some x
  | s :: r, x =>
    if (x.group s.g.val).st ≠ .free then none
    else
      let n := s.record.count
      match (if x.runFree s.record.base n then some s.record.base
             else (List.range 16).find? fun a => x.runFree a n) with
      | none => none
      | some a => placeGroups k r (x.setGroup s.g.val { s.record with base := a, owner := k })

/-- The core a context would have after its groups and outer-product registers came back (R141 steps 2
and 3); none while it must wait. -/
def placeCtx (x : Core) (k : SlotId) (y : Ctx) : Option Core :=
  match y.savedOp with
  | none => placeGroups k y.savedGroups x
  | some o => if x.op.isOpen then none else placeGroups k y.savedGroups { x with op := { o with owner := k } }

/-- The contexts homed on a core, with their keys. -/
def Dev.homedOn (d : Dev) (c : CoreId) : List (Nat × Ctx) := d.ctxs.filter fun e => decide (e.2.home = c)

/-- The entry with the smallest (stamp, tie) pair. -/
def earliest (l : List (Nat × Nat × Nat)) : Option Nat :=
  (l.foldl (fun b e =>
    match b with
    | none => some e
    | some x => if e.2.1 < x.2.1 ∨ (e.2.1 = x.2.1 ∧ e.2.2 < x.2.2) then some e else some x) none).map fun x => x.1

/-- Windows of two slots overlap. -/
def Dev.windowsClash (d : Dev) (c : CoreId) (a b : SlotId) : Bool :=
  overlaps (d.fld F.CORE_CTX_SPD_BASE c.val a.val) (d.fld F.CORE_CTX_SPD_SIZE c.val a.val)
    (d.fld F.CORE_CTX_SPD_BASE c.val b.val) (d.fld F.CORE_CTX_SPD_SIZE c.val b.val)

/-- The window check of R141 step 1 for a context's swap-in to a slot. -/
def Dev.windowFits (d : Dev) (c : CoreId) (k : SlotId) (x : Ctx) : Bool :=
  decide (x.winSize ≤ d.fld F.CORE_CTX_SPD_SIZE c.val k.val) &&
    ((d.core c).slots.all fun e => decide (e.1 = k.val) || !d.windowsClash c k (slotOf e.1))

/-- Starts a swap-in (R141): a failed window check sets SWAP_ERR, posts event 14 and takes the context
out of the candidates. -/
def Dev.beginSwapIn (d : Dev) (c : CoreId) (k : SlotId) (key : Nat) : Dev :=
  match d.ctx? key with
  | none => d
  | some x =>
    if d.windowFits c k x then
      d.modCore c fun y => { y with swap := some ⟨k, true, x.ext, key⟩ }
    else
      let d := (d.setFld F.CORE_STATUS_SWAP_ERR 1 c.val).modCtx key fun y =>
        { y with sched := { y.sched with refused := true } }
      d.postEvent x.part 14 x.num.toNat
        (x.winSize % 256 + d.fld F.CORE_CTX_SPD_SIZE c.val k.val % 256 * 2 ^ 8 + k.val * 2 ^ 16)

/-- Starts a swap-out (R140): the hart stops fetching, issued commands run to completion. -/
def Dev.beginSwapOut (d : Dev) (c : CoreId) (k : SlotId) : Dev :=
  match (d.core c).slotKey k with
  | none => d
  | some key =>
    match d.ctx? key with
    | none => d
    | some x => d.modCore c fun y => { y with swap := some ⟨k, false, x.ext, key⟩ }

/-- A slot is swapping, or a request for it waits. -/
def Core.swapping (x : Core) (k : SlotId) : Bool :=
  (match x.swap with | some w => decide (w.slot = k) | none => false) || x.waiting.any fun w => decide (w.slot = k)

/-- Swaps can begin on the core: it is owned, serviceable, not clearing, not in reset, no swap runs, no command takes
it, and its partition is neither HELD nor moving (R160, R255, R259). -/
def Dev.schedulable (d : Dev) (c : CoreId) : Option PartId :=
  let x := d.core c
  if x.swap.isSome || x.fenced || x.clearing.isSome || x.plan.isSome || decide (d.resetDomain 0x01 c.val ≠ 0) then none
  else
    match x.owner with
    | none => none
    | some p => if 3 ≤ d.fld F.PART_STATUS_STATE p.val then none else some p

/-- A swapped-out context may be brought in to a core now (R141, R257, R258). -/
def Dev.mayEnter (d : Dev) (c : CoreId) (key : Nat) : Bool :=
  match d.ctx? key with
  | none => false
  | some y => decide (y.place = .out) && decide (y.home = c) && !y.sched.stopped && !y.sched.dying &&
      decide (d.schedulable c = some y.part)

/-- A swap asked for through CORE_c_SWAP may begin now; a ko hold defers it (R260; log 23). -/
def Dev.swapMay (d : Dev) (c : CoreId) (w : Swap) : Bool :=
  match d.ctx? w.ctx with
  | none => false
  | some y =>
    if w.dirIn then d.mayEnter c w.ctx && decide (y.sched.koIn ≤ d.now)
    else (d.schedulable c).isSome && decide (y.sched.koOut ≤ d.now)

/-- Begins the first swap asked for through CORE_c_SWAP that may begin now (R146). -/
def Dev.startWaiting (d : Dev) (c : CoreId) : Dev :=
  match (d.core c).waiting.find? (d.swapMay c) with
  | none => d
  | some w =>
    let d := d.modCore c fun x => { x with waiting := x.waiting.filter fun v => decide (v ≠ w) }
    if w.dirIn then d.beginSwapIn c w.slot w.ctx else d.modCore c fun x => { x with swap := some w }

/-- The scheduling decision of R259 on a core; a request through CORE_c_SWAP goes first, and keeps its slot and its
context (log 23). -/
def Dev.scheduleDecision (d : Dev) (c : CoreId) : Dev :=
  let d := d.startWaiting c
  match d.schedulable c with
  | none => d
  | some p =>
    let x := d.core c
    let asked := fun (key : Nat) => x.waiting.any fun w => decide (w.ctx = key)
    let slots := (List.range (min 4 (d.fld F.PART_CONFIG_SLOTS p.val))).map slotOf
    let cands := (d.homedOn c).filter fun e =>
      decide (e.2.part = p) && decide (e.2.place = .out) && e.2.sched.runnableSince.isSome && !asked e.1
    let ok := cands.filter fun e => decide (e.2.sched.koIn ≤ d.now)
    let free := slots.filter fun k => (x.slotKey k).isNone && !x.swapping k
    let pick := earliest (ok.map fun e => (e.1, e.2.sched.runnableSince.getD 0, e.2.num.toNat))
    match free with
    | k :: _ =>
      match pick with
      | some key => d.beginSwapIn c k key
      | none => if cands.isEmpty then d else d.count F.PART_SCHED_KO_STALLS 1 p.val
    | [] =>
      let res := slots.filterMap fun k => (d.slotCtx c k).map fun y => (k, y)
      if cands.isEmpty || !(res.all fun e => x.blocked e.1 e.2) then d
      else
        let ev := res.filter fun e => decide (e.2.sched.koOut ≤ d.now) && !x.swapping e.1
        match earliest (ev.map fun e => (e.1.val, e.2.sched.blockedSince.getD d.now, e.1.val)), pick with
        | some k, some key =>
          (d.beginSwapOut c (slotOf k)).modCore c fun y => { y with nextIn := some key }
        | _, _ => d.count F.PART_SCHED_KO_STALLS 1 p.val

/-- Stamps one context, by its key; the flag tells whether one became blocked or runnable. -/
def stampKey (m : Mem) (a : Dev × Bool) (key : Nat) : Dev × Bool :=
  match a.1.ctx? key with
  | none => a
  | some y =>
    let r := stampCtx m a.1 y
    (if r.1 = y then a.1 else a.1.setCtx key r.1, a.2 || r.2)

/-- Bookkeeping after an event on a core: stamps (R258), and the decision when a context became
blocked or runnable, or force tells that a swap completed or a ko hold ended (R259). -/
def settle (m : Mem) (c : CoreId) (force : Bool) (d : Dev) : Dev :=
  let r := ((d.homedOn c).map fun e => e.1).foldl (stampKey m) (d, force)
  if r.2 then r.1.scheduleDecision c else r.1

/-- Bookkeeping on every core that homes a context of a partition. -/
def settlePart (m : Mem) (p : PartId) (d : Dev) : Dev :=
  ((d.ctxs.filter fun e => decide (e.2.part = p)).map fun e => e.2.home).dedup.foldl
    (fun a c => settle m c false a) d

/-- Bookkeeping on every core. -/
def settleAll (m : Mem) (d : Dev) : Dev :=
  (d.ctxs.map fun e => e.2.home).dedup.foldl (fun a c => settle m c false a) d

end Sys2Proof.Machine
end

