-- ==== Sys2Proof/Machine/View.lean ====
section
/-! DEFINITION. What a register reads as (17_register_pages R476 to R485): the register file, the
copies held for each path (R483), and the status fields that mirror the state of the units. -/

namespace Sys2Proof.Machine

/-- The job of a partition: the tag at the head of its pace table (R390), 0 for none (log 12). -/
def partJob (m : Mem) (d : Dev) (p : PartId) : Nat :=
  memNat m d ((16381 * extentSize) + 65536 * p.val) 2

/-- The partitions. -/
def allParts : List PartId := (List.range 64).map fun i => ⟨i % 64, Nat.mod_lt i (by decide)⟩
/-- The cores. -/
def allCores : List CoreId := (List.range 144).map fun i => ⟨i % 144, Nat.mod_lt i (by decide)⟩

/-- Registers of which every path has its own copy (R483): their first fields. -/
def pathRegisters : List Fld :=
  [F.XMAP_READ_IDX_INDEX, F.XMAP_READ_LO_ENTRY_LO, F.XMAP_READ_HI_ENTRY_HI, F.SEQ_READ_IDX_INDEX,
   F.SEQ_READ_ENTRY, F.RING_READ_IDX_RING, F.RING_READ_WORD, F.FAB_RT_IDX_INDEX, F.FAB_RT_READ_ENTRY,
   F.HOST_PEER_IDX_INDEX, F.HOST_PEER_LO_ADDR, F.HOST_PEER_HI_ADDR, F.HOST_PEER_MAC_MAC,
   F.PWR_RAIL_IDX_RAIL, F.PWR_RAIL_ENERGY_PIPS, F.PWR_RING_IDX_RING, F.PWR_RING_PIP_PIPS,
   F.THM_IDX_SENSOR, F.THM_DATA_TEMP, F.FLT_SRC_IDX_SOURCE, F.FLT_LOG_IDX_ENTRY, F.FLT_LOG_DATA_WORD,
   F.FLT_DUMP_IDX_CORE, F.FLT_DUMP_VALID, F.SEC_FW_SLOT_IDX_COMPONENT, F.SEC_FW_SLOT_STATE,
   F.SEC_COUNTER_IDX_COUNTER, F.SEC_COUNTER_VALUE, F.CFG_SLOT_IDX_SLOT, F.CFG_SLOT_0_STATE,
   F.CFG_SLOT_1_VERSION, F.CFG_SLOT_2_CREATOR, F.CFG_SLOT_3_TIME, F.CFG_SLOT_4_CHECK,
   F.HGU_SENSOR_IDX_SENSOR, F.HGU_SENSOR_FILTERED, F.JNL_READ_IDX_ENTRY, F.JNL_READ_WORD,
   F.BNK_MEMBER_IDX_INDEX, F.BNK_MEMBER_ADMIT,
   F.XMAP_ARG0_ENTRY, F.XMAP_ARG1_EXPECTED, F.RING_ARG_WORD, F.PART_CTX_ARG_ADDR, F.GEN_ARG_MANIFEST,
   F.SEC_FW_ARG_SRC_OFFSET, F.SEC_NONCE_WORD]

/-- Command status fields of which every path has its own copy (R483). -/
def pathStatus : List Fld :=
  [F.XMAP_STATUS_BUSY, F.XMAP_STATUS_RESULT, F.XMAP_STATUS_OVERRUN, F.XMAP_STATUS_FAIL_INDEX,
   F.RING_STATUS_BUSY, F.RING_STATUS_RESULT, F.RING_STATUS_OVERRUN,
   F.PART_STATUS_BUSY, F.PART_STATUS_RESULT, F.PART_STATUS_OVERRUN, F.PART_STATUS_CTX_OVERRUN,
   F.GEN_STATUS_BUSY, F.GEN_STATUS_RESULT, F.GEN_STATUS_OVERRUN,
   F.SEC_FW_STATUS_BUSY, F.SEC_FW_STATUS_RESULT, F.SEC_FW_STATUS_OVERRUN,
   F.SEC_ATTEST_STATUS_BUSY, F.SEC_ATTEST_STATUS_RESULT, F.SEC_ATTEST_STATUS_OVERRUN,
   F.CFG_STATUS_BUSY, F.CFG_STATUS_RESULT, F.CFG_STATUS_OVERRUN,
   F.PART_CTX_CMD_RESULT, F.PART_CTX_CMD_BUSY, F.FLT_FENCE_CMD_RESULT, F.FLT_FENCE_CMD_BUSY]

/-- The word at offset o of a page is held for each path. -/
def isPathWord (code o : Nat) : Bool :=
  pathRegisters.any fun f => decide (f.blk = code) && (f.indexAt o).isSome

/-- Overlays a field on a word of its register: the field, its index and its value. -/
def overlay (inst : Nat) (w : Nat) (x : Fld × Nat × Nat) : Nat :=
  setBits w (x.1.pos inst x.2.1) x.1.width x.2.2

/-- A mask of n bits of what holds. -/
def maskOf (n : Nat) (f : Nat → Bool) : Nat := ((List.range n).map fun i => b2n (f i) * 2 ^ i).sum

/-- State code of CORE_c_CTX_k (R147). -/
def Dev.ctxState (d : Dev) (c : CoreId) (k : SlotId) : Nat :=
  let x := d.core c
  match x.swap with
  | some w =>
    if w.slot = k then
      if !w.dirIn then 3
      else match d.ctx? w.ctx with
        | some y => if (placeCtx x k y).isNone then 5 else 4
        | none => 4
    else match d.slotCtx c k with
      | none => 0
      | some y => if y.sched.stopped then 6 else if x.blocked k y then 2 else 1
  | none =>
    match d.slotCtx c k with
    | none => 0
    | some y => if y.sched.stopped then 6 else if x.blocked k y then 2 else 1

/-- The context that CORE_c_CTX_k names: the one that swaps in or out of the slot, else the resident one (R147). -/
def Dev.namedCtx (d : Dev) (c : CoreId) (k : SlotId) : Option Ctx :=
  match (d.core c).swap with
  | some w => if w.slot = k then d.ctx? w.ctx else d.slotCtx c k
  | none => d.slotCtx c k

/-- The value of ARY_c_GROUP_g (R106). -/
def groupWord (g : Group) : Nat :=
  let st := match g.st with | .free => 0 | .isOpen => 1 | .draining => 2
  if st = 0 then 0
  else [(F.ARY_GROUP_BASE, 0, g.base), (F.ARY_GROUP_COUNT, 0, g.count), (F.ARY_GROUP_LONG, 0, b2n g.long),
    (F.ARY_GROUP_WIDTH, 0, g.width), (F.ARY_GROUP_EXP, 0, g.exp), (F.ARY_GROUP_STATE, 0, st),
    (F.ARY_GROUP_OWNER, 0, g.owner.val), (F.ARY_GROUP_PASSES, 0, g.passes)].foldl (overlay 0) 0

/-- The value of ARY_c_OP_STATE (R105). -/
def opWord (o : OpRegs) : Nat :=
  [(F.ARY_OP_STATE_CLASS, 0, o.cls), (F.ARY_OP_STATE_LAMBDA, 0, o.lambda), (F.ARY_OP_STATE_OWNER, 0, o.owner.val),
    (F.ARY_OP_STATE_ROWS, 0, o.rows)].foldl (overlay 0) 0

/-- The outer-product registers as ARY_c_OP_STATE shows them (R105): those that drain until a pass opens them
again or the drain has ended (log 17). -/
def Core.opView (x : Core) : OpRegs :=
  match x.opDrain with
  | some y => if x.op.isOpen || x.op.closing.isSome then x.op else y.regs
  | none => x.op

/-- MODE and WIDE of ARY_c_STATUS (R102): those of the newest pass that is neither visible nor absorbed, else of the
outer-product accumulation that waits for its drain or drains (log 17). -/
def Core.arrayMode (x : Core) : Nat × Bool :=
  match x.passes.getLast? with
  | some p => (match p.mode with | .forward => 1 | .transposed => 2 | .outer => 3, p.wide)
  | none =>
    if x.op.closing.isSome then (3, decide (2 ≤ x.op.cls))
    else if x.opDrain.isSome then (4, false)
    else (0, false)

/-- Mask of segments of the groups that a test admits. -/
def Core.segMask (x : Core) (f : Group → Bool) : Nat :=
  maskOf 16 fun s => x.groups.any fun e => f e.2 && decide (e.2.base ≤ s) && decide (s < e.2.base + e.2.count)

/-- Status of the pages of a core. -/
def Dev.coreStatus (d : Dev) (code : Nat) (c : CoreId) : List (Fld × Nat × Nat) :=
  let x := d.core c
  let at_ := fun i => d.slotCtx c (slotOf i)
  match code with
  | 0x01 =>
    [(F.CORE_STATUS_RESIDENT, 0, maskOf 4 fun i => (at_ i).isSome),
     (F.CORE_STATUS_BLOCKED, 0, maskOf 4 fun i => match at_ i with | some y => x.blocked (slotOf i) y | none => false),
     (F.CORE_STATUS_HALTED, 0, maskOf 4 fun i => match at_ i with
       | some y => y.mq.halted || y.vq.halted || y.sq.halted | none => false),
     (F.CORE_STATUS_HOLDER, 0, match x.holder with | some h => h.val | none => 0),
     (F.CORE_STATUS_HOLDER_VALID, 0, b2n x.holder.isSome),
     (F.CORE_STATUS_SWAP_BUSY, 0, b2n x.swap.isSome)] ++
    (List.range 4).flatMap fun i =>
      [(F.CORE_CTX_CONTEXT, i, match d.namedCtx c (slotOf i) with | some y => y.num.toNat | none => 0),
       (F.CORE_CTX_PARTITION, i, match d.namedCtx c (slotOf i) with | some y => y.part.val | none => 0),
       (F.CORE_CTX_STATE, i, d.ctxState c (slotOf i))]
  | 0x02 =>
    [(F.ARY_STATUS_MODE, 0, x.arrayMode.1), (F.ARY_STATUS_WIDE, 0, b2n x.arrayMode.2),
     (F.ARY_STATUS_SHADOW_READY, 0, b2n x.shadowFresh), (F.ARY_STATUS_OP_OPEN, 0, b2n x.op.isOpen),
     (F.ARY_STATUS_GROUP_OPEN, 0, maskOf 8 fun g => decide ((x.group g).st = .isOpen)),
     (F.ARY_STATUS_GROUP_DRAINING, 0, maskOf 8 fun g => decide ((x.group g).st = .draining)),
     (F.ARY_OP_STATE_CLASS, 0, x.opView.cls), (F.ARY_OP_STATE_LAMBDA, 0, x.opView.lambda),
     (F.ARY_OP_STATE_OWNER, 0, x.opView.owner.val), (F.ARY_OP_STATE_ROWS, 0, x.opView.rows)] ++
    (List.range 8).flatMap fun g =>
      [(⟨0x02, 0x0140, 8, 8, 0, 64, .ro, some 0⟩, g, groupWord (x.group g))]
  | 0x03 =>
    [(F.VEC_STATUS_BUSY, 0, b2n x.vec.isSome),
     (F.VEC_STATUS_SLOT, 0, match x.vec with | some v => v.slot.val | none => 0),
     (F.VEC_STATUS_OP, 0, match x.vec with | some v => v.cmd.f CF.op | none => 0)]
  | 0x05 =>
    [(F.ACF_STATUS_SEG_USED, 0, x.segMask fun g => decide (g.st ≠ .free)),
     (F.ACF_STATUS_SEG_DRAINING, 0, x.segMask fun g => decide (g.st = .draining))]
  | 0x06 =>
    [(F.MOV_STATUS_INFLIGHT, 0, x.mover.length),
     (F.MOV_STATUS_HALTED, 0, maskOf 4 fun i => match at_ i with | some y => y.sq.failed | none => false)]
  | _ => []

/-- Listed entries of the extent map that a die holds. -/
def Dev.dieEntries (d : Dev) (k : Nat) : List (Nat × BitVec 128) :=
  d.xmap.filter fun e => decide (e.1 / 131072 = k)

/-- A FREE of the extent runs: its pages have left the pool (R270). -/
def Dev.freeing (d : Dev) (e : Nat) : Bool :=
  d.pageCmds.any fun c => decide (c.page = 0x10 * 256 + e / 131072) && c.began.isSome && decide (c.op = 2) &&
    decide (c.a ≤ e % 131072) && decide (e % 131072 ≤ c.a + c.b)

/-- KV pages of a partition's VALID KV extents, in order (R270). -/
def Dev.kvPages (d : Dev) (p : Nat) : List Nat :=
  (d.xmap.filter fun e => decide (XF.kind.get e.2.toNat = 5) && decide (XF.owner.get e.2.toNat = p) &&
    decide (XF.state.get e.2.toNat = 3) && !d.freeing e.1).flatMap fun e => (List.range 16).map fun i => 16 * e.1 + i

/-- The step composer of a partition. -/
def Dev.serve (d : Dev) (p : Nat) : Serving := tGet {} d.serving p

/-- Pages that sequences of a partition hold. -/
def Dev.heldPages (d : Dev) (p : Nat) : List Nat := (d.serve p).pages.flatMap fun e => e.2

/-- Free KV pages of a partition, lowest first (R270). -/
def Dev.freePages (d : Dev) (p : Nat) : List Nat :=
  let held := d.heldPages p
  (d.kvPages p).filter fun q => !held.contains q

/-- State of a sequence table entry (R267). -/
def QF.state : Bf := ⟨0, 3⟩
def QF.part : Bf := ⟨3, 6⟩

/-- Entries of a partition's sequence range in a state that a test admits. -/
def Dev.countSeqs (d : Dev) (p : Nat) (f : Nat → Bool) : Nat :=
  (d.seqs.filter fun e => decide (QF.part.get e.2.toNat = p) && f (QF.state.get e.2.toNat)).length

/-- References to a generation (R274): the sequences admitted with it, and the turn that holds it. -/
def Dev.genRefs (d : Dev) (p g : Nat) : Nat :=
  if g = 0 then 0
  else (d.seqs.filter fun e => decide (QF.part.get e.2.toNat = p) && decide (QF.state.get e.2.toNat ≠ 0) &&
    decide (bits e.2.toNat 16 24 = g)).length + b2n (decide (tGet 0 d.turnGen p = g))

/-- Ports that are UP (R317: STATE 3). -/
def Dev.portUp (d : Dev) (n : Nat) : Bool := decide (d.fld F.PL_STATUS_STATE n = 3)

/-! ### Rules of the hourglass unit (R458, R459) -/

/-- Fields of a rule. -/
def RU.sensor : Bf := ⟨0, 8⟩
def RU.source : Bf := ⟨0, 12⟩
def RU.span : Bf := ⟨8, 8⟩
def RU.test : Bf := ⟨16, 2⟩
def RU.action : Bf := ⟨18, 3⟩
def RU.arg : Bf := ⟨21, 5⟩
def RU.threshold : Bf := ⟨32, 16⟩
def RU.hyst : Bf := ⟨48, 8⟩
def RU.dwell : Bf := ⟨56, 8⟩

/-- A field of HGU_RULE_i. -/
def Dev.ruf (d : Dev) (i : Nat) (f : Bf) : Nat := f.get (d.fld F.HGU_RULE_RULE 0 i)
/-- A rule is active. -/
def Dev.ruleActive (d : Dev) (i : Nat) : Bool := (tGet {} d.rules i).active

/-- The HGU limit: the least ARG among active throttle rules, or 28 (R459). -/
def Dev.hguThrottle (d : Dev) : Nat :=
  (List.range 64).foldl (fun n i => if d.ruleActive i && decide (d.ruf i RU.action = 1) then min n (d.ruf i RU.arg) else n) 28

/-! ### Set points (R374, R377) -/

/-- The limits of a die's set point, by number: MAX, CAP, THERMAL, HGU and PACE (R372, R377). -/
def Dev.limits (d : Dev) (k : Nat) : List Nat :=
  [d.fld F.CLK_CTL_MAX k, d.fld F.CLK_LIMITS_CAP k, d.fld F.CLK_LIMITS_THERMAL k,
   if d.flag F.PWR_STATUS_INPUT_LOW then 0 else d.hguThrottle, d.fld F.CLK_LIMITS_PACE k]

/-- The target set point of a die, and the number of the limit that sets it (R377). -/
def Dev.target (d : Dev) (k : Nat) : Nat × Nat :=
  ((d.limits k).zipIdx).foldl (fun b x => if x.1 < b.1 then x else b) (29, 0)

/-- Millivolts of a die at a set point: from 600 to 900, rising with the set point (R374). -/
def voltage (k f : Nat) : Nat :=
  (List.range (f + 1)).foldl (fun v i => max v (600 + (Config.voltage k i).toNat % 301)) 600

/-- The voltage in use: a step up raises it as it starts to settle (R375). -/
def Dev.voltageOf (d : Dev) (k : Nat) : Nat :=
  let c := d.fld F.CLK_STATUS_CURRENT k
  voltage k (match (d.clock k).change with | some x => max c x.1 | none => c)

/-- DIE_i and VALID_i of STK_s_ERASE_q (R250). -/
def eraseFields : List (Fld × Fld) :=
  [(F.STK_ERASE_DIE_0, F.STK_ERASE_VALID_0), (F.STK_ERASE_DIE_1, F.STK_ERASE_VALID_1),
   (F.STK_ERASE_DIE_2, F.STK_ERASE_VALID_2), (F.STK_ERASE_DIE_3, F.STK_ERASE_VALID_3),
   (F.STK_ERASE_DIE_4, F.STK_ERASE_VALID_4), (F.STK_ERASE_DIE_5, F.STK_ERASE_VALID_5),
   (F.STK_ERASE_DIE_6, F.STK_ERASE_VALID_6), (F.STK_ERASE_DIE_7, F.STK_ERASE_VALID_7)]

/-- STK_s_SPARE and STK_s_ERASE_q, which tell what flash holds of a stack (R239, R242, R250). -/
def Dev.stackStatus (d : Dev) (s : Nat) : List (Fld × Nat × Nat) :=
  let n := (d.flash.spares.filter fun r => decide (r.stack = s)).length
  let marks := (List.range 4).flatMap fun q => eraseFields.zipIdx.flatMap fun e =>
    match tFind (32 * s + 8 * q + e.2) d.flash.marks with
    | some k => [(e.1.1, q, k), (e.1.2, q, 1)]
    | none => []
  (F.STK_SPARE_RECORDS, 0, min n 4096) :: (F.STK_SPARE_FULL, 0, b2n (decide (4096 ≤ n))) :: marks

/-- Status of the other pages. -/
def Dev.pageStatus (d : Dev) (code inst : Nat) : List (Fld × Nat × Nat) :=
  match code with
  | 0x10 => [(F.XMAP_FREE_COUNT, 0, 131072 - 32 - ((d.dieEntries inst).filter fun e =>
      !systemExtent e.1 && decide (XF.kind.get e.2.toNat ≠ 0)).length)]
  | 0x11 => d.stackStatus inst
  | 0x12 =>
    [(F.RING_COUNTS_FREE, 0, 262144 - (d.rings.filter fun e => decide (RF.kind.get e.2.ctx.toNat ≠ 0)).length),
     (F.RING_COUNTS_QP, 0, (d.rings.filter fun e => decide (RF.kind.get e.2.ctx.toNat = 3)).length)]
  | 0x21 => [(F.FAB_STATUS_PORTS_UP, 0, maskOf 16 d.portUp)]
  | 0x28 => [(F.HOST_STATUS_DEV_SESSIONS, 0, (d.sessions.filter fun e =>
      decide (e.2.port = .host) && decide (e.2.scope = .device)).length)]
  | 0x30 =>
    (List.range 3).flatMap fun i =>
      [(F.PART_CORES_OWNED, i, maskOf 64 fun b => allCores.any fun c =>
          decide (c.val = 64 * i + b) && decide ((d.core c).owner.map (fun p => p.val) = some inst)),
       (F.PART_HOME_HOMED, i, maskOf 64 fun b => allCores.any fun c =>
          decide (c.val = 64 * i + b) && decide ((d.core c).home.map (fun p => p.val) = some inst))]
  | 0x31 =>
    [(F.SEQ_STATUS_LIVE, 0, d.countSeqs inst fun s => decide (s ≠ 0)),
     (F.SEQ_STATUS_QUEUED, 0, d.countSeqs inst fun s => decide (s = 1) || decide (s = 5)),
     (F.SEQ_PAGES_FREE, 0, (d.freePages inst).length), (F.SEQ_PAGES_TOTAL, 0, (d.kvPages inst).length)]
  | 0x32 => (F.GEN_STATUS_PENDING, 0, b2n (tFind inst d.castling).isSome) ::
      (List.range 8).map fun i => (F.GEN_ENTRY_REFS, i, min (d.genRefs inst (d.fld F.GEN_ENTRY_GEN inst i)) 0xFFFFFF)
  | 0x41 => [(F.CLK_STATUS_TARGET, 0, (d.target inst).1), (F.CLK_STATUS_LIMITER, 0, (d.target inst).2),
      (F.CLK_STATUS_CHANGING, 0, b2n (d.clock inst).change.isSome), (F.CLK_STATUS_VOLTAGE_MV, 0, d.voltageOf inst),
      (F.CLK_LIMITS_HGU, 0, (d.limits inst).getD 3 28)]
  | 0x48 => [(F.FLT_STATUS_CAPTURE, 0, b2n (decide (d.now < d.captureEnd))),
      (F.FLT_STATUS_RESET_BUSY, 0, b2n !d.power.running.isEmpty)] ++
      (List.range 3).map fun i => (F.FLT_FENCE_MAP_FENCED, i, maskOf 64 fun b => d.flash.fence.contains (64 * i + b))
  | 0x50 =>
    [(F.HGU_STATUS_ASLEEP, 0, b2n (decide (d.power.phase = .asleep))), (F.HGU_STATUS_THROTTLE, 0, d.hguThrottle),
     (F.HGU_RULE_STATE_ACTIVE, 0, maskOf 64 d.ruleActive)] ++
    (List.range 2).map fun n => (F.HGU_MGT_STATUS_SESSIONS, n, (d.sessions.filter fun e =>
      match e.2.port with | .mgt q => decide (q.val = n) | .host => false).length)
  | 0x55 => [(F.TIME_NOW_NS, 0, d.now)]
  | _ => []

/-- A rated, or serviceable, core counts (R480). -/
def Dev.coreCount (d : Dev) (f : Core → Bool) : Nat := (allCores.filter fun c => f (d.core c)).length

/-- Key of the reset count of the smallest domain that contains a block. -/
def resetKey (code inst : Nat) : Nat := if blockDomain code = 1 then 256 + inst else blockDomain code

/-- The header words (R479, R480). -/
def Dev.headerWord (d : Dev) (code inst o : Nat) : Nat :=
  match o with
  | 0x00 =>
    let last := ((pageDirectory.find? fun b => decide (b.code = code)).map fun b => b.last).getD 0
    code + inst * 2 ^ 8 + 2 ^ 16 + last * 2 ^ 24
  | 0x08 =>
    let rated := if d.power.selfTested then d.coreCount (fun x => x.rated) else 0
    let reserve := if d.power.selfTested then d.coreCount (fun x => x.selfTestOk && !x.fenced && !x.rated) else 0
    let serv := if d.power.selfTested then d.coreCount (fun x => x.selfTestOk && !x.fenced) else 0
    1 + 2 ^ 4 + rated * 2 ^ 12 + b2n (d.power.selfTested && decide (rated < 128)) * 2 ^ 20 + reserve * 2 ^ 21 +
      serv * 2 ^ 29 + d.deviceId * 2 ^ 40
  | 0x10 =>
    let dom := d.resetDomain code inst
    if h : code ≤ 0x06 ∧ inst < 144 then
      let x := d.core ⟨inst, h.2⟩
      (if dom ≠ 0 then dom else if x.fenced then 6 else 0) +
        (match x.owner with | some p => p.val * 2 ^ 3 + 2 ^ 9 | none => 0) +
        (match x.home with | some p => p.val * 2 ^ 10 + 2 ^ 16 | none => 0)
    else if 0x30 ≤ code ∧ code ≤ 0x32 then dom + inst * 2 ^ 3 + 2 ^ 9
    else dom
  | 0x18 => min (tGet 0 d.power.resets (resetKey code inst)) 65535
  | _ => 0

/-- The class of a fault source: its configuration, or the default of R399. -/
def defaultClass (s : Nat) : Nat :=
  if s < 2304 then
    let i := s % 16
    if i ≤ 7 then 2 else if i = 8 then 3 else if i = 9 then 1 else 0
  else if s < 2560 then (if (s - 2304) % 8 = 0 ∨ (s - 2304) % 8 = 4 then 1 else 0)
  else if s < 2816 then 0
  else if s < 2880 then
    let i := (s - 2816) % 16
    if i = 0 then 5 else if i = 1 ∨ i = 5 then 1 else if i = 6 then 4 else 0
  else if s < 2944 then 1
  else if s < 2948 then 7
  else if s = 2950 ∨ s = 2953 then 7
  else 0

/-- A level source (R399). -/
def levelSource (s : Nat) : Bool :=
  (decide (2304 ≤ s) && decide (s < 2560) && decide ((s - 2304) % 8 = 5)) ||
  (decide (2560 ≤ s) && decide (s < 2816) && decide ((s - 2560) % 16 = 3)) ||
  (decide (2816 ≤ s) && decide (s < 2880) && decide ((s - 2816) % 16 = 6)) ||
  decide (s = 2952) || decide (s = 2953) || decide (s = 2954)

/-- The record of a fault source. -/
def Dev.src (d : Dev) (s : Nat) : FaultSrc := tGet {} d.faults s

/-- Its class. -/
def Dev.srcClass (d : Dev) (s : Nat) : Nat := (d.src s).cls.getD (defaultClass s)

/-- FLT_SRC_CFG and FLT_SRC_STATE of the source a path has selected (R427, R428). -/
def Dev.sourceStatus (d : Dev) (w : Path) : List (Fld × Nat × Nat) :=
  let s := d.pfld w F.FLT_SRC_IDX_SOURCE
  let x := d.src s
  [(F.FLT_SRC_CFG_CLASS, 0, d.srcClass s), (F.FLT_SRC_CFG_LEVEL, 0, b2n (levelSource s)),
   (F.FLT_SRC_STATE_VALID, 0, b2n x.valid), (F.FLT_SRC_STATE_OVERFLOW, 0, b2n x.overflow),
   (F.FLT_SRC_STATE_WIRE, 0, b2n x.wire), (F.FLT_SRC_STATE_FORCED, 0, b2n x.forced),
   (F.FLT_SRC_STATE_CODE, 0, x.code), (F.FLT_SRC_STATE_TIME, 0, x.time % 2 ^ 48)]

/-- The status fields that mirror other state, for a page as a path sees it. -/
def Dev.status (d : Dev) (w : Path) (code inst : Nat) : List (Fld × Nat × Nat) :=
  if h : code ≤ 0x06 ∧ inst < 144 then d.coreStatus code ⟨inst, h.2⟩
  else if code = 0x48 then d.sourceStatus w ++ d.pageStatus code inst
  else d.pageStatus code inst

/-- The word at a register address as a path reads it. -/
def Dev.readWord (d : Dev) (w : Path) (a : Nat) : Nat :=
  let code := a / 2 ^ 24
  let inst := a / 2 ^ 16 % 256
  let o := a % 2 ^ 16
  if o < 0x100 then d.headerWord code inst o
  else
    let base := if isPathWord code o then (d.pword w a).toNat else (d.word a).toNat
    let base := (wordFields code o).foldl (fun x f => if f.1.acc = .wo then setBits x f.2 f.1.width 0 else x) base
    let own := pathStatus.filter fun f => decide (f.blk = code) && decide (f.addr inst 0 = a)
    let base := own.foldl (fun x f => overlay inst x (f, 0, d.pfld w f inst)) base
    ((d.status w code inst).filter fun x => decide (x.1.addr inst x.2.1 = a)).foldl (overlay inst) base

end Sys2Proof.Machine
end

