-- ==== Sys2Proof/Machine/Access.lean ====
section
/-! DEFINITION. Writes of registers: which path may write what (17_register_pages R475 to R485), the
change journal (16_management_banker R462 to R464), the effect of a write on fields by their access
codes (00_scope R8), and the commands of a page, which run one at a time (R483). -/

namespace Sys2Proof.Machine

/-- Answers to a register access (R475 to R485, 12_host_port R360). -/
inductive Ans where
  | ok
  | address
  | denied
  | reset
deriving DecidableEq, Repr

/-- The scope of a path that is a session; none for a session that is not open (R481). -/
def Dev.sessionScope (d : Dev) (w : Path) : Option Scope :=
  match w with
  | .session n => (tFind n.toNat d.sessions).bind fun s => if s.port = .host then some s.scope else none
  | .mgmt n => (tFind n.toNat d.sessions).bind fun s => if s.port = .host then none else some s.scope
  | _ => none

/-- A path exists: a session is open, or it is the banker or firmware. -/
def Dev.pathOpen (d : Dev) (w : Path) : Bool :=
  match w with
  | .session _ => (d.sessionScope w).isSome
  | .mgmt _ => (d.sessionScope w).isSome
  | _ => true

/-- The hourglass unit serves alone (R454): main power is off, or a DEVICE reset runs. -/
def Dev.hguAlone (d : Dev) : Bool :=
  decide (d.power.phase = .asleep) || d.power.running.any fun r => decide (r.domain = 5)

/-- The hub control complex runs (R442, R454). -/
def Dev.hubOn (d : Dev) : Bool := decide (d.power.phase = .running) && !d.hguAlone

/-- The address names a word of a page of the directory (R475 to R477). -/
def addressOk (a : Nat) : Bool :=
  decide (a < 2 ^ 32) && decide (a % 8 = 0) && pageDirectory.any fun b =>
    decide (b.code = a / 2 ^ 24) && decide (a / 2 ^ 16 % 256 < b.insts) && decide (a % 2 ^ 16 ≤ b.last)

/-- The pages that the hourglass unit serves alone (R454). -/
def hguServes (code o : Nat) : Bool :=
  decide (code = 0x50) || decide (code = 0x55) ||
    (decide (code = 0x48) && (decide (o = 0x130) || decide (o = 0x138) || (decide (0x140 ≤ o) && decide (o < 0x160))))

/-- The entry lies in a die and is owned by p, or FREE where that is enough (R482). -/
def Dev.entryMine (d : Dev) (p e : Nat) (free : Bool) : Bool :=
  (decide (d.xf e XF.owner = p) && decide (1 ≤ d.xf e XF.kind) && decide (d.xf e XF.kind ≤ 6)) ||
    (free && decide (d.xf e XF.kind = 0))

/-- A partition's map command names only entries within its limits (R482). -/
def Dev.xmapCmdMine (d : Dev) (w : Path) (p k v : Nat) : Bool :=
  let op := bits v 0 4
  let arg := d.pfld w F.XMAP_ARG0_ENTRY k
  let alloc := decide (op = 1)
  let free := alloc && decide (XF.owner.get arg = p)
  let ok := fun first => (List.range (bits v 21 12 + 1)).all fun i =>
    decide (131072 ≤ first + i) || d.entryMine p (131072 * k + first + i) free
  decide (op ≠ 8) && ok (bits v 4 17) &&
    (!(alloc && (decide (XF.kind.get arg = 3) || decide (XF.kind.get arg = 4))) ||
      (List.range (bits v 21 12 + 1)).all fun i =>
        decide (XF.partner.get arg + i ≥ extentCount) || d.entryMine p (XF.partner.get arg + i) free)

/-- A partition-scope session of p may write the word (R482). -/
def Dev.partWrites (d : Dev) (w : Path) (p code inst o v : Nat) : Bool :=
  if h : code ≤ 0x06 ∧ inst < 144 then
    decide ((d.core ⟨inst, h.2⟩).owner.map (fun q => q.val) = some p) &&
      (if code = 0x04 then decide (0x200 ≤ o) else decide (code ≠ 0x05) && decide (o = 0x100))
  else
    match code with
    | 0x10 => match o with
      | 0x100 => d.xmapCmdMine w p inst v
      | 0x108 => true
      | 0x110 => true
      | 0x120 => d.entryMine p (131072 * inst + v % 131072) true
      | _ => false
    | 0x12 =>
      if o = 0x100 then (decide (v % 8 = 3) || decide (v % 8 = 4)) && d.ringMine p (bits v 3 18)
      else if o = 0x130 then d.ringMine p (v % 2 ^ 18)
      else decide (0x110 ≤ o) && decide (o ≤ 0x128)
    | 0x28 => decide (F.HOST_RKEY_KEY.addr 0 p % 2 ^ 16 = o)
    | 0x30 => decide (inst = p) && (match o with
      | 0x100 => decide (5 ≤ v % 16) && decide (v % 16 ≤ 8)
      | 0x110 => true
      | 0x118 => true
      | 0x120 => true
      | 0x160 => true
      | 0x168 => true
      | _ => false)
    | 0x31 => decide (inst = p)
    | 0x32 => decide (inst = p)
    | _ => false

/-- A partition-scope session of p may read the word (R482). -/
def Dev.partReads (d : Dev) (p code inst o : Nat) : Bool :=
  if o < 0x100 then true
  else if h : code ≤ 0x06 ∧ inst < 144 then
    let x := d.core ⟨inst, h.2⟩
    decide (x.owner.map (fun q => q.val) = some p) || decide (x.home.map (fun q => q.val) = some p)
  else
    match code with
    | 0x10 => true
    | 0x11 => true
    | 0x20 => true
    | 0x21 => true
    | 0x41 => true
    | 0x42 => true
    | 0x12 => true
    | 0x28 =>
      (List.range 64).all (fun q => decide (q = p) || decide (F.HOST_RKEY_KEY.addr 0 q % 2 ^ 16 ≠ o)) &&
        decide (F.HOST_RKEY_SYS_KEY.addr 0 0 % 2 ^ 16 ≠ o)
    | 0x30 => decide (inst = p)
    | 0x31 => decide (inst = p)
    | 0x32 => decide (inst = p)
    | 0x40 => decide (F.PWR_PIP_PIPS.addr 0 p % 2 ^ 16 = o) || decide (F.PWR_MEAS_FAST_W.addr 0 0 % 2 ^ 16 = o) ||
        decide (F.PWR_STATUS_OVER.addr 0 0 % 2 ^ 16 = o)
    | 0x55 => decide (o = F.TIME_NOW_NS.off) || decide (o = F.TIME_STATUS_SOURCE.off)
    | _ => false

/-- The answer to an access, before the scope is looked at (R475 to R477, R485). -/
def Dev.servedAns (d : Dev) (a : Nat) : Ans :=
  let code := a / 2 ^ 24
  let inst := a / 2 ^ 16 % 256
  let o := a % 2 ^ 16
  if !addressOk a then .address
  else if d.hguAlone then (if hguServes code o then .ok else .reset)
  else if 0x100 ≤ o ∧ d.resetDomain code inst ≠ 0 then .reset
  else .ok

/-- The write is a RETIRE, which only internal firmware issues (R235, R482). -/
def retireWrite (a v : Nat) : Bool := decide (a / 2 ^ 24 = 0x10) && decide (a % 2 ^ 16 = 0x100) && decide (v % 16 = 8)

/-- The answer to a write of v (R403, R481, R482, R485). -/
def Dev.writeAns (d : Dev) (w : Path) (a v : Nat) : Ans :=
  match d.servedAns a with
  | .ok =>
    match w with
    | .firmware _ => .ok
    | .banker => 
      if a = F.FLT_CTL_DICE_EN.addr 0 0 ∨ a = F.FLT_SRC_CFG_CLASS.addr 0 0 ∨ retireWrite a v then .denied else .ok
    | _ =>
      match d.sessionScope w with
      | none => .denied
      | some .device =>
        if a % 2 ^ 16 < 0x20 ∨ retireWrite a v then .denied else .ok
      | some (.partition p) =>
        if d.partWrites w p.val (a / 2 ^ 24) (a / 2 ^ 16 % 256) (a % 2 ^ 16) v then .ok else .denied
  | r => r

/-- The answer to a read (R481, R482, R485). -/
def Dev.readAns (d : Dev) (w : Path) (a : Nat) : Ans :=
  match d.servedAns a with
  | .ok =>
    match w with
    | .firmware _ => .ok
    | .banker => .ok
    | _ =>
      match d.sessionScope w with
      | none => .denied
      | some .device => .ok
      | some (.partition p) =>
        if d.partReads p.val (a / 2 ^ 24) (a / 2 ^ 16 % 256) (a % 2 ^ 16) then .ok else .denied
  | r => r

/-- What a path reads at an address it may read: a partition-scope session sees RING_ERR only for its
own rings (R482). -/
def Dev.readFor (d : Dev) (w : Path) (a : Nat) : Nat :=
  let v := d.readWord w a
  match d.sessionScope w with
  | some (.partition p) =>
    if a = F.RING_ERR_RING.addr 0 0 ∧ !d.ringMine p.val (bits v 0 18) then 0 else v
  | _ => v

/-! ### The change journal -/

/-- WHO of a journal entry (R462). -/
def Dev.who (d : Dev) (w : Path) : Nat :=
  match w with
  | .session n => n.toNat % 2 ^ 28
  | .mgmt n =>
    match tFind n.toNat d.sessions with
    | some s => (match s.port with | .mgt q => q.val | .host => 0)
    | none => 0
  | .banker => d.fld F.BNK_STATUS_ACTIVE
  | .firmware _ => 0

/-- Address of the journal's extent (R229, R463). -/
def journalBase : Nat := (2 * 16384 + 16383) * extentSize

/-- The latest seal, 64 bytes (R463). -/
def Dev.seal (d : Dev) : List Byte := (List.range 8).flatMap fun j => leBytes 8 (d.fld F.JNL_HEAD_WORD 0 j)

/-- Seals block j once its last entry is written (R463). -/
def sealBlock (m : Mem) (j : Nat) (d : Dev) : Dev :=
  let blk := memRead m d (journalBase + 32 * (256 * j % 65536)) 8192
  let s := sha3 (d.seal ++ blk ++ leBytes 8 j)
  let d := d.store (journalBase + 2 * 1048576 + 64 * (j % 256)) s
  let d := (List.range 8).foldl (fun d i => d.setFld F.JNL_HEAD_WORD (leNat ((s.drop (8 * i)).take 8)) 0 i) d
  (d.setFld F.JNL_HEAD_BLOCK_BLOCK j).setFld F.JNL_HEAD_BLOCK_VALID 1

/-- Appends an entry (R462 to R464). -/
def journal (m : Mem) (w : Path) (page off old new : Nat) (d : Dev) : Dev :=
  let e := d.fld F.JNL_POS_NEXT
  let d := if 65536 ≤ e ∧ d.fld F.JNL_MARK_MARK ≤ e - 65536 then d.count F.JNL_STATUS_LOST 1 else d
  let d := d.store (journalBase + 32 * (e % 65536))
    (leBytes 8 d.now ++ leBytes 8 old ++ leBytes 8 new ++
      leBytes 8 (w.origin + page % 2 ^ 16 * 2 ^ 4 + off % 2 ^ 16 * 2 ^ 20 + d.who w % 2 ^ 28 * 2 ^ 36))
  let d := d.setFld F.JNL_POS_NEXT (e + 1)
  if (e + 1) % 256 = 0 then sealBlock m (e / 256) d else d

/-- Registers of a word: byte offset, lowest bit and width; a pair of 32-bit registers is two (R476). -/
def wordRegisters (code o : Nat) : List (Nat × Nat × Nat) :=
  let fs := blockFields code
  let lo := fs.any fun f => (f.indexAt o).isSome
  let hi := fs.any fun f => (f.indexAt (o + 4)).isSome
  (if lo then [(o, 0, if hi then 32 else 64)] else []) ++ (if hi then [(o + 4, 32, 32)] else [])

/-- A register has a field that is written (R462). -/
def writable (code o : Nat) : Bool :=
  (blockFields code).any fun f => (f.indexAt o).isSome && decide (f.acc ≠ .ro)

/-- A word with the WO fields of v in it (R476: NEW of a WO field is the value written). -/
def withWritten (code o x v : Nat) : Nat :=
  (wordFields code o).foldl (fun x f =>
    if f.1.acc = .wo then setBits x f.2 f.1.width (bits v f.2 f.1.width) else x) x

/-- The keys whose writes are journalled with OLD and NEW zero (R462). -/
def secretWord (a : Nat) : Bool :=
  decide (a = F.HOST_RKEY_SYS_KEY.addr 0 0) || (List.range 4).any fun i => decide (a = F.BNK_KEY_KEY.addr 0 i)

/-- Journals a write of v to the word at a, which read old before and new after. -/
def journalWrite (m : Mem) (w : Path) (a v old new : Nat) (d : Dev) : Dev :=
  if d.hguAlone then d
  else
    let code := a / 2 ^ 24
    let o := a % 2 ^ 16
    let new := withWritten code o new v
    (wordRegisters code o).foldl (fun d r =>
      if writable code r.1 then
        journal m w (a / 2 ^ 16) r.1 (if secretWord a then 0 else bits old r.2.1 r.2.2)
          (if secretWord a then 0 else bits new r.2.1 r.2.2) d
      else d) d

/-! ### Writes -/

/-- A word after a write of v to it, field by field (R8): WO, RO and reserved bits keep what they hold. -/
def writtenWord (code o old v : Nat) : Nat :=
  (wordFields code o).foldl (fun x f =>
    let n := bits v f.2 f.1.width
    let b := bits x f.2 f.1.width
    match f.1.acc with
    | .rw => setBits x f.2 f.1.width n
    | .w1c => setBits x f.2 f.1.width (b &&& (n ^^^ (2 ^ f.1.width - 1)))
    | .w1s => setBits x f.2 f.1.width (b ||| n)
    | _ => x) old

/-- Sets the stored word and the path's copies as a write of v does (R8, R483). -/
def Dev.writeFields (d : Dev) (w : Path) (a v : Nat) : Dev :=
  let code := a / 2 ^ 24
  let o := a % 2 ^ 16
  if isPathWord code o then d.setPword w a (BitVec.ofNat 64 (writtenWord code o (d.pword w a).toNat v))
  else
    let own := pathStatus.filter fun f => decide (f.blk = code) && decide (f.addr (a / 2 ^ 16 % 256) 0 = a)
    let d := d.setWord a (BitVec.ofNat 64 (writtenWord code o (d.word a).toNat v))
    if own.isEmpty then d
    else d.setPword w a (BitVec.ofNat 64 (writtenWord code o (d.pword w a).toNat v))

/-- A write of v to the word at a by a path, with effect f: refused, or done and journalled. -/
def regWrite (m : Mem) (w : Path) (a v : Nat) (f : Dev → Dev) (d : Dev) : Dev :=
  if d.writeAns w a v = .ok then
    let old := d.readWord w a
    let d := f d
    journalWrite m w a v old (d.readWord w a) d
  else d

/-! ### Commands of a page (R483) -/

/-- The status fields of a command register: BUSY, RESULT and OVERRUN. -/
structure CmdStatus where
  busy : Fld
  result : Fld
  overrun : Option Fld
deriving DecidableEq, Repr

/-- A command that runs or waits on a page. -/
def Dev.pageBusy (d : Dev) (page : Nat) : Bool := d.pageCmds.any fun c => decide (c.page = page)

/-- The path's own previous command to the same register is BUSY. -/
def Dev.pathBusy (d : Dev) (w : Path) (page reg : Nat) : Bool :=
  d.pageCmds.any fun c => decide (c.page = page) && decide (c.path = w) && decide (c.op / 256 = reg)

/-- Enters a command: with the path's previous one BUSY it is ignored and OVERRUN set; else it waits
behind what runs on its page, with BUSY 1. `op` holds the register's number × 256 and the operation. -/
def Dev.enterCmd (d : Dev) (st : CmdStatus) (inst : Nat) (c : PageCmd) : Dev :=
  if d.pathBusy c.path c.page (c.op / 256) then
    match st.overrun with
    | some f => d.setPfld c.path f 1 inst
    | none => d
  else { (d.setPfld c.path st.busy 1 inst) with pageCmds := d.pageCmds ++ [c] }

/-- The command at the head of a page: it runs, or may begin. -/
def Dev.pageHead (d : Dev) (page : Nat) : Option PageCmd := d.pageCmds.find? fun c => decide (c.page = page)

/-- Marks the head of a page as begun now. -/
def Dev.beginHead (d : Dev) (page : Nat) : Dev :=
  match d.pageHead page with
  | none => d
  | some h => { d with pageCmds := d.pageCmds.map fun c => if c = h then { c with began := some d.now } else c }

/-- Ends the command at the head of a page: its path reads BUSY 0 and RESULT. -/
def Dev.endHead (d : Dev) (st : CmdStatus) (inst page result : Nat) : Dev :=
  match d.pageHead page with
  | none => d
  | some h =>
    let d := { d with pageCmds := d.pageCmds.erase h }
    if d.pathOpen h.path then (d.setPfld h.path st.busy 0 inst).setPfld h.path st.result result inst else d

end Sys2Proof.Machine
end

