-- ==== Sys2Proof/Machine/Crc.lean ====
section
/-! DEFINITION. The two cyclic redundancy codes: CRC-32C of a flit (10_pyrol_link_fabric R292) and the CRC-64
digest of an extent (08_memory_extents R244, R245). Both are reflected, start from all ones and end with
an exclusive-or of all ones. -/

namespace Sys2Proof.Machine

/-- One bit of a reflected code of polynomial p (reflected): the register is divided by x. -/
def crcBit (p r : Nat) : Nat := if r % 2 = 1 then (r / 2) ^^^ p else r / 2

/-- n bits. -/
def crcBits (p : Nat) : Nat → Nat → Nat
  | 0, r => r
  | n + 1, r => crcBits p n (crcBit p r)

/-- The register after bytes. -/
def crcBytes (p : Nat) (l : List Byte) (r : Nat) : Nat := l.foldl (fun r b => crcBits p 8 (r ^^^ b.toNat)) r

/-- CRC-32C (R292). -/
def crc32c (l : List Byte) : Nat := crcBytes 0x82F63B78 l 0xFFFFFFFF ^^^ 0xFFFFFFFF

/-- The polynomial of R244, reflected. -/
def poly64 : Nat := 0xC96C5795D7870F42

/-- The digest of bytes (R244). -/
def crc64 (l : List Byte) : Nat := crcBytes poly64 l (2 ^ 64 - 1) ^^^ (2 ^ 64 - 1)

/-- The product of two reflected residues of 64 bits modulo the polynomial; bit 63 is x^0. -/
def crcMul (a b : Nat) : Nat :=
  ((List.range 64).foldl (fun (s : Nat × Nat) i =>
    (if a / 2 ^ (63 - i) % 2 = 1 then s.1 ^^^ s.2 else s.1, crcBit poly64 s.2)) (0, b)).1

/-- x to the power n, by squaring, within f steps. -/
def crcPow : Nat → Nat → Nat
  | 0, _ => 2 ^ 63
  | f + 1, n =>
    let h := crcPow f (n / 2)
    let h := crcMul h h
    if n % 2 = 1 then crcMul h (2 ^ 62) else h

/-- The contribution of a line's 64 bytes at its position among the 65,536 lines of an extent (R245). -/
def lineDigest (line : Nat) (l : List Byte) : Nat :=
  crcMul (crcBytes poly64 l 0) (crcPow 32 (512 * (65535 - line % 65536)))

/-- The digest of an extent of zeros. -/
def zeroDigest : Nat := crcMul (2 ^ 64 - 1) (crcPow 32 (512 * 65536)) ^^^ (2 ^ 64 - 1)

end Sys2Proof.Machine
end

