-- ==== Sys2Proof/Machine/Image.lean ====
section
/-! DEFINITION. Swap images (04_core_engines R142), group images (05_on_die_storage R162), the bytes of
the spec's records that the spec leaves open (free values), and the clearing of a core (R160). -/

namespace Sys2Proof.Machine

/-- Bytes that the spec leaves open: free values (log 5). -/
def freeBytes (n len : Nat) : List Byte := (List.range len).map fun i => Config.freeByte (n * 2 ^ 32 + i)

/-- Bytes of one entry of a group (R161). -/
def Group.entryBytes (g : Group) : Nat := if g.long then 16 else 4

/-- The bytes of a group's segments in order (R161). -/
def Group.segmentBytes (g : Group) : List Byte :=
  (List.range (65536 * g.count / g.entryBytes)).flatMap fun i => leBytes g.entryBytes (g.entry i)

/-- The entries of a group, read from the bytes of its segments. -/
def Group.withSegments (g : Group) (l : List Byte) : Group :=
  let n := g.entryBytes
  { g with entries := (List.range (65536 * g.count / n)).filterMap fun i =>
      let v := leNat ((l.drop (n * i)).take n)
      if v = g.fill then none else some (i, v) }

/-- The group record of an image: ARY_c_GROUP_g, with g in bits [127:124] (R142, R162). -/
def groupRecord (g : Nat) (x : Group) : List Byte := leBytes 16 (groupWord x + g * 2 ^ 124)

/-- The outer-product section of an image (R142). -/
def OpRegs.section (o : OpRegs) : List Byte :=
  ((List.range 65536).flatMap fun i => leBytes 8 (toBits (o.cell (i / 512) (i % 512)).u 64)) ++
  ((List.range 32768).map fun i =>
    let b := fun j => (o.cell ((2 * i + j) / 512) ((2 * i + j) % 512)).bits
    BitVec.ofNat 8 (b 0 + 16 * b 1)) ++ leBytes 16 (opWord o)

/-- The queue record of an image (R142 gives its contents; their places are the model's, log 22). -/
def queueRecord (q : CmdQueue) (err : Word) : List Byte :=
  leBytes 4 q.cmds.length ++ leBytes 4 q.next.toNat ++ leBytes 8 (b2n q.halted + 2 * b2n q.failed) ++
    leBytes 8 err.toNat ++ List.replicate 40 0

/-- The 64 command places of a queue. -/
def queueBytes (q : CmdQueue) : List Byte :=
  (q.cmds.flatMap fun c => leBytes 64 c.word.toNat) ++ List.replicate (64 * (64 - q.cmds.length)) 0

/-- A section's place in an image: its bytes and its offset. -/
def sections (l : List (List Byte)) : List (Nat × List Byte) :=
  (l.foldl (fun a x => (a.1 ++ [(a.2, x)], a.2 + x.length)) ([], 0x20000)).1

/-- The image of a context (R142): n numbers the free bytes of its runtime state and tile save area. -/
def Ctx.imageParts (x : Ctx) (n : Nat) : List (Nat × List Byte) :=
  let spdLen := 65536 * x.winSize
  let spd := bRead x.savedSpd 0 (spdLen - 132 * 1024) ++ freeBytes n (min spdLen (132 * 1024))
  let acf := x.savedGroups.flatMap fun g => groupRecord g.g.val g.record ++ g.record.segmentBytes
  let opr := match x.savedOp with | some o => o.section | none => []
  let ss := sections [if x.winSize = 0 then [] else spd, acf, opr]
  let dirEntry := fun i => match ss[i]? with
    | some (o, l) => leBytes 4 (if l.isEmpty then 0 else o) ++ leBytes 4 l.length
    | none => List.replicate 8 0
  let header := leBytes 8 (0x4B435831 + 2 ^ 32) ++ leBytes 8 (x.num.toNat + x.part.val * 2 ^ 16) ++
    dirEntry 0 ++ dirEntry 1 ++ dirEntry 2 ++ List.replicate 216 0
  let regs := ((List.range 31).flatMap fun i => leBytes 8 (tGet 0 x.hart.xs (i + 1)).toNat) ++
    leBytes 8 x.hart.pc.toNat ++ leBytes 8 x.hart.kfpflags.toNat ++ leBytes 8 x.hart.kseed.toNat ++
    leBytes 8 x.hart.kturn.toNat ++ freeBytes (n + 1) 232
  let sems := (List.range 32).flatMap fun i => leBytes 2 (x.sem i).toNat
  let qs := queueRecord x.mq x.err ++ queueRecord x.vq x.err ++ queueRecord x.sq x.err
  [(0, header), (0x100, regs), (0x300, sems), (0x340, qs),
   (0x400, queueBytes x.mq ++ queueBytes x.vq ++ queueBytes x.sq),
   (0x3400, bRead x.imem 0 49152), (0xF400, bRead x.dmem 0 49152)] ++ ss.filter fun p => !p.2.isEmpty

/-- Writes an image from the first byte of an extent. -/
def Dev.storeImage (d : Dev) (ext : Nat) (x : Ctx) : Dev :=
  let n := d.freeCtr
  (x.imageParts n).foldl (fun d p =>
    let a := ext * extentSize + p.1
    (d.store a p.2).countStk true a p.2.length) { d with freeCtr := n + 2 }

/-- A byte table from bytes. -/
def tableOf (l : List Byte) : Bytes :=
  l.zipIdx.filterMap fun p => if p.1 = 0 then none else some (p.2, p.1)

/-- A queue as an image holds it: its record and its commands. -/
def readQueue (seed : Nat) (turn : Nat) (rec0 cmds : List Byte) : CmdQueue :=
  let n := leNat (rec0.take 4)
  let next := leNat ((rec0.drop 4).take 4)
  { cmds := (List.range (min n 64)).map fun i =>
      { word := BitVec.ofNat 512 (leNat ((cmds.drop (64 * i)).take 64)),
        seq := BitVec.ofNat 32 (next + 2 ^ 32 - min n 64 + i), seed := BitVec.ofNat 64 seed,
        turn := BitVec.ofNat 48 turn },
    next := BitVec.ofNat 32 next, halted := bitAt (leNat ((rec0.drop 8).take 8)) 0,
    failed := bitAt (leNat ((rec0.drop 8).take 8)) 1 }

/-- A queue of a context that is created: its sequence numbers start at 0 (R113). -/
def CmdQueue.created (q : CmdQueue) : CmdQueue :=
  { q with
    cmds := q.cmds.zipIdx.map fun e => { e.1 with seq := BitVec.ofNat 32 e.2 }
    next := BitVec.ofNat 32 q.cmds.length }

/-- A context at its creation: its semaphores are zero and its sequence numbers start at 0, whatever its image holds
(R112, R113; log 22). -/
def Ctx.created (x : Ctx) : Ctx :=
  { x with sems := [], coll30 := 0, coll31 := 0, mq := x.mq.created, vq := x.vq.created, sq := x.sq.created }

/-- Length of the part of an image that a creation image gives (R256). -/
def creationBytes : Nat := 0x1B400

/-- A context's header is sound for a creation (R256): MAGIC, VERSION, and every section length 0. -/
def imageOk (l : List Byte) : Bool :=
  let h := leNat (l.take 64)
  decide (bits h 0 32 = 0x4B435831) && decide (bits h 32 16 = 1) && decide (bits h 160 32 = 0) &&
    decide (bits h 224 32 = 0) && decide (bits h 288 32 = 0)

/-- A context restored from bytes 0 to 0x1B3FF of an image (R256, R418): its sections are empty. -/
def Ctx.restore (x : Ctx) (l : List Byte) (seed : Nat) (turn : Nat) : Ctx :=
  let at_ := fun o n => (l.drop o).take n
  let w := fun o => leNat (at_ o 8)
  { x with
    hart := { xs := (List.range 31).filterMap fun i =>
                let v := w (0x100 + 8 * i)
                if v = 0 then none else some (i + 1, BitVec.ofNat 64 v)
              pc := BitVec.ofNat 64 (w 0x1F8), kfpflags := BitVec.ofNat 5 (w 0x200),
              kseed := BitVec.ofNat 64 seed, kturn := BitVec.ofNat 48 turn }
    sems := (List.range 32).filterMap fun i =>
      let v := leNat (at_ (0x300 + 2 * i) 2)
      if v = 0 then none else some (i, BitVec.ofNat 16 v)
    mq := readQueue seed turn (at_ 0x340 64) (at_ 0x400 4096)
    vq := readQueue seed turn (at_ 0x380 64) (at_ 0x1400 4096)
    sq := readQueue seed turn (at_ 0x3C0 64) (at_ 0x2400 4096)
    imem := tableOf (at_ 0x3400 49152)
    dmem := tableOf (at_ 0xF400 49152)
    coll30 := leNat (at_ 0x33C 2), coll31 := leNat (at_ 0x33E 2)
    wait := none, schedule := [], collOp := 0, barriers := [], collCmds := [], err := 0, movErr := 0, savedSpd := [], savedGroups := []
    savedOp := none
    winBase := 0, winSize := 0
    tiles := (none, none), tilesFresh := false, loadedTile := false, place := .out
    sched := {} }

/-- Offset of the entry image in a context's swap extents (R418). -/
def entryOffset : Nat := 0x7E4000

/-- The turn and the seed of a partition. -/
def Dev.turnOf (d : Dev) (p : PartId) : Nat := d.fld F.PART_TURN_TURN p.val
/-- The job seed of a partition (R283). -/
def Dev.seedOf (d : Dev) (p : PartId) : Nat := d.fld F.PART_SEED_SEED p.val

/-! ### Clearing a core -/

/-- Starts the zeroing of a core's scratchpad and accumulator file (R160, R253): 6,144 array cycles. -/
def Dev.clearCore (d : Dev) (c : CoreId) : Dev :=
  let x := d.core c
  let d := d.setCore c { x with
    clearing := some (d.cycle c + 6144), spd := [], groups := [], op := {}, active := none, shadow := none
    shadowFresh := false, tileLoad := none, passes := [], lastPass := none, holder := none, change := none
    vec := none, mover := [], cellSpans := [], drains := [], opDrain := none, slots := [], swap := none, waiting := [], nextIn := none, hang := []
    edgeFree := d.cycle c, cellsFreeFrom := d.cycle c }
  let d := d.setFld F.SPD_STATUS_INIT_BUSY 1 c.val
  (List.range 4).foldl (fun d k =>
    (d.setWord (F.CORE_ERR_OP.addr c.val k) 0).setWord (F.MOV_ERR_OP.addr c.val k) 0) d

/-- Windows of the slots of a core that a partition owns (R258). -/
def Dev.setWindows (d : Dev) (c : CoreId) (p : Option PartId) : Dev :=
  (List.range 4).foldl (fun d k =>
    match p with
    | some q =>
      let w := d.fld F.PART_CONFIG_WINDOW q.val
      if k < d.fld F.PART_CONFIG_SLOTS q.val then
        (d.setFld F.CORE_CTX_SPD_BASE (k * w) c.val k).setFld F.CORE_CTX_SPD_SIZE w c.val k
      else (d.setFld F.CORE_CTX_SPD_BASE 0 c.val k).setFld F.CORE_CTX_SPD_SIZE 0 c.val k
    | none => (d.setFld F.CORE_CTX_SPD_BASE 0 c.val k).setFld F.CORE_CTX_SPD_SIZE 0 c.val k) d

/-- Every resident context of a core leaves it without a swap-out: its state is lost (R410, R418). -/
def Dev.dropResidents (d : Dev) (c : CoreId) : Dev :=
  (d.ctxs.filter fun e => match e.2.place with | .resident b _ => decide (b = c) | .out => false).foldl
    (fun d e => d.modCtx e.1 fun x => { x with place := .out }) d

end Sys2Proof.Machine
end

