-- ==== Sys2Proof/Machine/Turn.lean ====
section
/-! DEFINITION. What a failure does to the turn or the step of a partition (14_faults_recovery R415 to
R420), ring errors with their effect on the turn (11_collectives_mapping R329), and mover and context
faults (R174, R257). -/

namespace Sys2Proof.Machine

/-- The payload of a banker message (R389, R465). -/
def Dev.bankerBody (d : Dev) (job seq turn f0 f1 f2 : Nat) : List Byte :=
  leBytes 64 (d.deviceId + job % 2 ^ 16 * 2 ^ 20 + seq % 2 ^ 32 * 2 ^ 64 + turn % 2 ^ 48 * 2 ^ 96 + d.fld F.BNK_EPOCH_EPOCH * 2 ^ 144 +
    d.now % 2 ^ 64 * 2 ^ 192 + f0 % 2 ^ 64 * 2 ^ 256 + f1 % 2 ^ 64 * 2 ^ 320 + f2 % 2 ^ 64 * 2 ^ 384)

/-- The other devices of the pod that the device table has a route to (R300, R301): a message to every device goes to
these (log 39). -/
def Dev.podRoutes (d : Dev) : List Nat :=
  (d.routes.filter fun e => decide (e.1 < 4096) && decide (e.1 ≠ d.deviceId % 4096) && bitAt e.2.toNat 34).map
    fun e => d.deviceId / 4096 * 4096 + e.1

/-- Sends a banker message of a code, with the sender's SEQ for that code (R465): as a control packet on the fabric, and at
the same time on the management ports, which the record of an output stands for. -/
def Dev.sendBanker (d : Dev) (dst : Option DeviceId) (code : Nat) (job turn f0 f1 f2 : Nat) : Dev :=
  let n := tGet 0 d.bankSeq code
  let body := d.bankerBody job n turn f0 f1 f2
  let d := (match dst with | some x => [x.toNat] | none => d.podRoutes).foldl (fun (d : Dev) x => d.emitSystem x job 4 0 code body)
    ({ d with bankSeq := tSet 0 code (n + 1) d.bankSeq } : Dev)
  d.send (.banker dst code (BitVec.ofNat 16 job) n turn f0 f1 f2)

/-- The active banker, as the device knows it (R473). -/
def Dev.activeBanker (d : Dev) : DeviceId := BitVec.ofNat 20 (d.fld F.BNK_STATUS_ACTIVE)

/-- A job's run on this device. -/
def Dev.job (d : Dev) (j : Nat) : JobRun := tGet {} d.jobs j

/-- Changes a job's run. -/
def Dev.modJob (d : Dev) (j : Nat) (f : JobRun → JobRun) : Dev := { d with jobs := tMod {} j f d.jobs }

/-- The partitions of a job on this device (R390). -/
def jobParts (m : Mem) (d : Dev) (j : Nat) : List PartId :=
  allParts.filter fun p => decide (d.fld F.PART_STATUS_STATE p.val ≠ 0) && decide (partJob m d p = j)

/-- The turn in progress of a job: that of its lowest partition. -/
def jobTurn (m : Mem) (d : Dev) (j : Nat) : Nat :=
  match jobParts m d j with
  | p :: _ => d.turnOf p
  | [] => 0

/-- The step in progress is abandoned: it commits nothing (R272, R420). -/
def Dev.abandonStep (d : Dev) (p : PartId) : Dev :=
  match (d.serve p.val).step with
  | none => d
  | some (n, _) =>
    let d := { d with serving := tMod {} p.val (fun x => { x with step := none }) d.serving }
    d.postEvent p 11 0 n

/-- Every context of a partition starts again from its entry image, swapped out and runnable, with kturn
n, on cleared cores (R418, R420). -/
def restartPart (m : Mem) (p : PartId) (n : Nat) (d : Dev) : Dev :=
  let d := (allCores.filter fun c => decide ((d.core c).owner = some p)).foldl (fun d c => d.clearCore c) d
  (d.ctxs.filter fun e => decide (e.2.part = p)).foldl (fun d e =>
    let l := memRead m d (e.2.entryExt * extentSize + entryOffset) creationBytes
    d.modCtx e.1 fun x =>
      let y := x.restore l (d.seedOf p) n
      { y with hart := { y.hart with pc := 0 }, sched := { runnableSince := some d.now } }) d

/-- Contexts of a partition, or those of it that are homed on a core, stop: they fetch nothing and are not
scheduled again (R257, R420). -/
def Dev.stopPart (d : Dev) (p : PartId) (core : Option CoreId) : Dev :=
  (d.ctxs.filter fun e => decide (e.2.part = p) &&
      (match core with | some c => decide (e.2.home = c) | none => true)).foldl
    (fun d e => d.modCtx e.1 fun x => { x with sched := { x.sched with stopped := true } }) d

/-- The turn of a partition's training job fails for a cause of R415 that is no action of the fault collector: its
device reports to the banker with the cause. A partition without a job has no turn to fail. -/
def failJobTurn (m : Mem) (p : PartId) (cause : Nat) (d : Dev) : Dev :=
  let j := partJob m d p
  if j ≠ 0 then
    (d.modJob j fun x => { x with failed := true }).sendBanker (some d.activeBanker) 0x14 j (d.turnOf p) cause 0 0
  else d

/-- A TURN or wider action affects a partition (R406, R415, R420): a training job's device reports to the banker with
the cause; a serving partition abandons its step and restarts its contexts; any other partition's affected contexts,
those of the core at fault where there is one, stop, with event 4. -/
def failTurn (m : Mem) (p : PartId) (cause : Nat) (d : Dev) (core : Option CoreId := none) : Dev :=
  if partJob m d p ≠ 0 then failJobTurn m p cause d
  else if d.flag F.PART_CONFIG_SERVING p.val then restartPart m p (d.turnOf p) (d.abandonStep p)
  else (d.stopPart p core).postEvent p 4 0 (d.turnOf p)

/-- A ring enters error (R329): the first is recorded, and an error of a TURN_SCOPED ring fails the turn
of its owner's job. -/
def ringError (m : Mem) (r cause src : Nat) (d : Dev) : Dev :=
  if d.rf r RF.error = 1 then d
  else
    let d := d.setRingError r cause src
    if d.rf r RF.turnScoped = 1 then failJobTurn m ⟨d.rf r RF.owner % 64, Nat.mod_lt _ (by decide)⟩ 8 d else d

/-- A context fault (R257): the hart stops, the context is not scheduled again, and event 12 is posted. -/
def Dev.contextFault (d : Dev) (key cause tval : Nat) : Dev :=
  match d.ctx? key with
  | none => d
  | some x =>
    let d := d.modCtx key fun y => { y with sched := { y.sched with stopped := true } }
    d.postEvent x.part 12 x.num.toNat (cause % 2 ^ 64 + tval % 2 ^ 64 * 2 ^ 64)

end Sys2Proof.Machine
end

