-- ==== Sys2Proof/Machine/Rails.lean ====
section
/-! DEFINITION. The main rails going off (18_physical_startup R501 to R504), packets to sessions
(12_host_port R352), and what an active rule of the hourglass unit does (16_management_banker R459 to
R461). -/

namespace Sys2Proof.Machine

/-- A register word that the always-on domain keeps without the main rails: the HGU and TIME pages, the
position in the error log, and the journal's position with the last seal (R454, R463). -/
def keptAsleep (a : Nat) : Bool :=
  decide (a / 2 ^ 24 = 0x50) || decide (a / 2 ^ 24 = 0x55) || decide (a = F.FLT_LOG_POS_NEXT.addr 0 0) ||
    (decide (a / 2 ^ 24 = 0x53) && (decide (a = F.JNL_POS_NEXT.addr 0 0) || decide (0x140 ≤ a % 2 ^ 16)))

/-- The key of a session's path. -/
def sessionPath (n : Nat) (s : Session) : Path :=
  match s.port with
  | .host => .session (BitVec.ofNat 32 n)
  | .mgt _ => .mgmt (BitVec.ofNat 32 n)

/-- Copies of the paths of some sessions. -/
def keptCopies (l : Table Session) (t : Table Word) : Table Word :=
  t.filter fun e => l.any fun s => decide ((sessionPath s.1 s.2).key = e.1 / 2 ^ 32)

/-- TRIPPED stays until auxiliary power is lost (R386): it is carried from an older device to a newer one. -/
def keepTrip (old d : Dev) : Dev := if old.flag F.THM_STATUS_TRIPPED then d.setFld F.THM_STATUS_TRIPPED 1 else d

/-- Every main rail goes off: the module is asleep, and what main power held is lost (R410, R501, R503). Sessions
that the hourglass unit serves stay. Fault records are lost, so rules over fault sources release (R459). -/
def Dev.mainOff (d : Dev) : Dev :=
  let ss := d.sessions.filter fun e => e.2.byHgu
  keepTrip d
  { regs := d.regs.filter fun e => keptAsleep e.1
    pathRegs := keptCopies ss d.pathRegs
    stores := [.clear 0 (2 ^ 41)]
    freeCtr := d.freeCtr, sent := d.sent, flash := d.flash
    log := d.log, captures := d.captures
    sensors := d.sensors.filter fun e =>
      decide (e.1 = 228) || decide (e.1 = 229) || decide (e.1 = 230) || decide (e.1 = 231) || decide (e.1 = 246) ||
        decide (e.1 = 247)
    rules := d.rules.filter fun e => decide (d.ruf e.1 RU.test ≠ 3), sessions := ss
    power := { d.power with
      phase := .asleep, mainOn := false, hmodResetN := false, running := [], selfTested := false, resets := [] } }

/-- A session closes (R356): its path's copies go, and its DCP ring is bound to none. -/
def Dev.closeSession (d : Dev) (n : Nat) : Dev :=
  match tFind n d.sessions with
  | none => d
  | some s =>
    let d := { d.dropPath (sessionPath n s) with sessions := tDel n d.sessions }
    if d.rf s.ring.toNat RF.kind = 4 ∧ d.rf s.ring.toNat RF.session = n then d.setRf s.ring.toNat RF.session 0 else d

/-- Counts a frame of the host port that carries n bytes of data (R371): its length beyond them is free, within the
largest frame of R350. -/
def Dev.countFrame (d : Dev) (tx : Bool) (n : Nat) : Dev :=
  let (k, d) := d.draw
  d.count (if tx then F.HOST_BYTES_TX_BYTES else F.HOST_BYTES_RX_BYTES) (n + (Config.fresh k).toNat % (9217 - min n 9216))

/-- What a frame sent on a port carries beside its addresses (R350, R471): HOST_NET on the host port, the VLAN ID of
HGU_MGT_n_CFG on a management port. -/
def Dev.frameTag (d : Dev) (p : NetPort) : FrameTag :=
  match p with
  | .host => ⟨d.fld F.HOST_NET_VLAN, d.fld F.HOST_NET_PCP, d.fld F.HOST_NET_DSCP⟩
  | .mgt n => { vlan := d.fld F.HGU_MGT_CFG_VLAN 0 n.val }

/-- A frame is taken on a port (R350): one that carries another VLAN ID than the port's is dropped. -/
def Dev.frameTaken (d : Dev) (p : NetPort) (a : NetAddr) : Bool :=
  decide (a.vlan = 0) || decide (a.vlan.toNat = (d.frameTag p).vlan)

/-- Sets a session. -/
def Dev.setSession (d : Dev) (n : Nat) (s : Session) : Dev := { d with sessions := tPut n s d.sessions }

/-- Sends a packet of a type in a session. -/
def Dev.sendIn (d : Dev) (n : Nat) (type status : Nat) (body : List Byte) : Dev :=
  match tFind n d.sessions with
  | none => d
  | some s =>
    let d := d.setSession n { s with sentSeq := s.sentSeq + 1 }
    let d := if s.port = .host then d.countFrame true body.length else d
    d.send (.dcp s.port s.peer (d.frameTag s.port) type (BitVec.ofNat 32 n) (BitVec.ofNat 64 s.sentSeq) status body)

/-- Sends a NOTIFY in a session (R352). -/
def Dev.notify (d : Dev) (n : Nat) (body : List Byte) : Dev := d.sendIn n 5 0 body

/-- The management sessions. -/
def Dev.mgmtSessions (d : Dev) : List Nat :=
  (d.sessions.filter fun e => match e.2.port with | .mgt _ => true | .host => false).map fun e => e.1

/-- An alarm goes to every management session, with the I3C interrupt when the rule activates (R455, R459, R461). -/
def Dev.alarm (d : Dev) (i : Nat) (on : Bool) (v : Nat) : Dev :=
  let body := leBytes 4 0xFFFFFFFE ++ leBytes 1 i ++ leBytes 1 (b2n on) ++ leBytes 2 v
  let d := d.mgmtSessions.foldl (fun d n => d.notify n body) d
  if on then d.setPower { d.power with i3cIbi := true } else d

/-- Every main rail goes off by a rule, which HGU_STATUS records (R459). -/
def Dev.shutdownBy (d : Dev) (i : Nat) : Dev :=
  (d.mainOff.setFld F.HGU_STATUS_SHUT_RULE i).setFld F.HGU_STATUS_SHUT_VALID 1

/-- Sets whether a rule is active. -/
def Dev.setRule (d : Dev) (i : Nat) (r : RuleRun) : Dev := { d with rules := tSet {} i r d.rules }

/-- A rule activates; a wake is its caller's (R459). -/
def Dev.activateRule (d : Dev) (i v : Nat) : Dev :=
  let d := d.setRule i ⟨true, 0⟩
  if d.ruf i RU.action = 3 then d.shutdownBy i
  else if d.ruf i RU.action = 4 then d.alarm i true v
  else d

/-- A rule releases. -/
def Dev.releaseRule (d : Dev) (i v : Nat) : Dev :=
  let d := d.setRule i {}
  if d.ruf i RU.action = 4 then d.alarm i false v else d

/-- The rules of TEST 3 over a fault source follow its capture and the clearing of its VALID (R459). The
value that an alarm names then is a free value. -/
def Dev.sourceRules (d : Dev) (src : Nat) (on : Bool) : Dev :=
  (List.range 64).foldl (fun d i =>
    if d.ruf i RU.test = 3 ∧ d.ruf i RU.source = src ∧ d.ruleActive i ≠ on then
      let (n, d) := d.draw
      let v := (Config.fresh n).toNat % 65536
      if on then d.activateRule i v else d.releaseRule i v
    else d) d

end Sys2Proof.Machine
end

