-- ==== Sys2Proof/Machine/Swap.lean ====
section
/-! DEFINITION. Swapping contexts (04_core_engines R139 to R146, 09_partitions_serving R258 to R260,
R507), taking a core's contexts out, and the end of a core's clearing (R160, R253). -/

namespace Sys2Proof.Machine

/-- ns of the two ko holds (R260). -/
def koOutSpan : Nat := 50000
/-- See koOutSpan. -/
def koInSpan : Nat := 200000

/-! ### Swap-out -/

/-- The groups that a slot's context holds, in ascending number. -/
def Core.groupsOf (x : Core) (k : SlotId) : List SavedGroup :=
  (List.range 8).filterMap fun g =>
    let r := x.group g
    if r.st = .isOpen ∧ r.owner = k then some ⟨⟨g % 8, Nat.mod_lt g (by decide)⟩, r⟩ else none

/-- A context as its swap-out saves it (R140, R142). -/
def savedCtx (d : Dev) (c : CoreId) (k : SlotId) (y : Ctx) : Ctx :=
  let x := d.core c
  let size := d.fld F.CORE_CTX_SPD_SIZE c.val k.val
  { y with
    place := .out
    hart := { y.hart with reservation := none }
    err := d.word (F.CORE_ERR_OP.addr c.val k.val)
    movErr := d.word (F.MOV_ERR_OP.addr c.val k.val)
    winBase := d.fld F.CORE_CTX_SPD_BASE c.val k.val
    winSize := size
    savedSpd := tableOf (bRead x.spd (d.winBase c k) (size * 65536))
    savedGroups := x.groupsOf k
    savedOp := if x.op.isOpen && decide (x.op.owner = k) then some x.op else none
    tiles := if x.holder = some k then (x.active, x.shadow) else y.tiles
    tilesFresh := if x.holder = some k then x.shadowFresh else y.tilesFresh
    sched := { y.sched with
      runnable := false, refused := false, runnableSince := none, blockedSince := none
      koIn := d.now + koInSpan } }

/-- Frees what the context of a slot holds on a core (R140 step 4). -/
def Core.release (x : Core) (k : SlotId) : Core :=
  { x with
    groups := x.groups.filter fun e => !(decide (e.2.st = .isOpen) && decide (e.2.owner = k))
    op := if x.op.isOpen && decide (x.op.owner = k) then {} else x.op
    holder := if x.holder = some k then none else x.holder
    active := if x.holder = some k then none else x.active
    shadow := if x.holder = some k then none else x.shadow
    shadowFresh := if x.holder = some k then false else x.shadowFresh
    slots := tDel k.val x.slots
    swap := none }

/-- Clears the error records of a slot, which now holds no context. -/
def Dev.clearErr (d : Dev) (c : CoreId) (k : SlotId) : Dev :=
  (d.setWord (F.CORE_ERR_OP.addr c.val k.val) 0).setWord (F.MOV_ERR_OP.addr c.val k.val) 0

/-- The next swap on a core whose swap has ended: that which R259 chose with the swap-out, or one asked for through
CORE_c_SWAP. -/
def Dev.nextSwap (d : Dev) (c : CoreId) (k : SlotId) : Dev :=
  let x := d.core c
  let d := d.modCore c fun y => { y with nextIn := none }
  match x.nextIn with
  | some key => if d.mayEnter c key then d.beginSwapIn c k key else d.startWaiting c
  | none => d.startWaiting c

/-- The unit changes to or from the slot. -/
def Core.changing (x : Core) (k : SlotId) : Bool :=
  match x.change with
  | none => false
  | some h => decide (h.next = k) || decide (x.holder = some k)

/-! ### Taking a core's contexts out -/

/-- Goes on with what a command has in mind for a core (R254, R261, R262): the resident contexts swap out one after the
other, and then the core is cleared (R253). -/
def Dev.advancePlan (d : Dev) (c : CoreId) : Dev :=
  let x := d.core c
  if x.plan.isNone || x.swap.isSome || x.clearing.isSome then d
  else
    match x.slots with
    | (k, _) :: _ => d.beginSwapOut c (slotOf k)
    | [] => if x.plan = some .empty then d.modCore c fun x => { x with plan := none } else d.clearCore c

/-- A swap-in cannot restore yet: no place for the context's groups or registers, or an image that its extents do not
let the core read (R141 steps 2 and 3, R233). -/
def Dev.inWaits (d : Dev) (c : CoreId) (w : Swap) : Bool :=
  w.dirIn && (match d.ctx? w.ctx with
    | some y => !d.swapAccess y.part y.ext false || (placeCtx (d.core c) w.slot y).isNone
    | none => false)

/-- A swap of a core waits under steps 2 and 3 of R141. -/
def Dev.swapWaits (d : Dev) (c : CoreId) : Bool :=
  match (d.core c).swap with | some w => d.inWaits c w | none => false

/-- A swap-in that waits on a core is abandoned and changes no state (R507). -/
def Dev.abandonWait (d : Dev) (c : CoreId) : Dev :=
  if d.swapWaits c then d.modCore c fun x => { x with swap := none } else d

/-- Begins such a plan; a swap-in that waits on the core is abandoned, and one that restores ends first (R507). -/
def Dev.beginPlan (d : Dev) (c : CoreId) (p : CorePlan) : Dev :=
  ((d.modCore c fun x => { x with plan := some p, nextIn := none, waiting := [] }).abandonWait c).advancePlan c

/-- The end of a swap: what a command has in mind for the core goes on, or the next swap begins. -/
def Dev.swapEnded (d : Dev) (c : CoreId) (k : SlotId) : Dev :=
  if (d.core c).plan.isSome then d.advancePlan c else d.nextSwap c k

/-- The device with a context swapped out: saved, its image written, and what it held on the core freed (R140). The stream
mover carries the image (R142, R179). -/
def Dev.swappedOut (d : Dev) (c : CoreId) (w : Swap) (y : Ctx) : Dev :=
  let y := { savedCtx d c w.slot y with ext := w.ext }
  let n := ((y.imageParts d.freeCtr).map fun p => p.2.length).sum
  ((((d.setCtx w.ctx y).modCore c fun x => x.release w.slot).clearErr c w.slot).storeImage w.ext y).count
    F.MOV_BYTES_WR_BYTES n c.val

/-- SWAP_OUT_DONE. Once the commands issued have completed, the image is written and the context's groups,
registers and window are freed (R140). Extents that do not take the image keep the swap-out waiting (R233; log 23). -/
def swapOutDone (c : CoreId) (d : Dev) : Dev :=
  let x := d.core c
  match x.swap with
  | none => d
  | some w =>
    if w.dirIn || x.executingAny w.slot || x.changing w.slot then d
    else
      match d.slotCtx c w.slot with
      | none => d
      | some y => if d.swapAccess y.part w.ext true then (d.swappedOut c w y).swapEnded c w.slot else d

/-! ### Swap-in -/

/-- A context as its swap-in restores it (R141, R199, R260). -/
def restoredCtx (d : Dev) (c : CoreId) (k : SlotId) (y : Ctx) : Ctx :=
  { y with
    place := .resident c k
    hart := { y.hart with kseed := BitVec.ofNat 64 (d.seedOf y.part), kturn := BitVec.ofNat 48 (d.turnOf y.part) }
    savedSpd := [], savedGroups := [], savedOp := none
    sched := { y.sched with
      runnable := false, runnableSince := none, blockedSince := none, koOut := d.now + koOutSpan } }

/-- The device with a context swapped in to a core that holds its groups already (R141, R179). -/
def Dev.swappedIn (d : Dev) (c : CoreId) (w : Swap) (y : Ctx) (x : Core) : Dev :=
  let spd := applyWrites [(d.winBase c w.slot, bRead y.savedSpd 0 (y.winSize * 65536))] x.spd
  let z := restoredCtx d c w.slot y
  let parts := y.imageParts 0
  let d := parts.foldl (fun d p => d.countStk false (y.ext * extentSize + p.1) p.2.length) d
  let d := d.setCore c { x with spd := spd, slots := tPut w.slot.val w.ctx x.slots, swap := none }
  let d := (d.setWord (F.CORE_ERR_OP.addr c.val w.slot.val) y.err).setWord
    (F.MOV_ERR_OP.addr c.val w.slot.val) y.movErr
  ((d.setCtx w.ctx z).count F.PART_SCHED_SWAPS 1 y.part.val).count F.MOV_BYTES_RD_BYTES
    (parts.map fun p => p.2.length).sum c.val

/-- SWAP_IN_DONE. The image is restored and the context becomes runnable (R141, R199, R260). A swap-in that waits while
a command takes the core is abandoned (R507). -/
def swapInDone (c : CoreId) (d : Dev) : Dev :=
  match (d.core c).swap with
  | none => d
  | some w =>
    if !w.dirIn then d
    else
      match d.ctx? w.ctx with
      | none => (d.modCore c fun x => { x with swap := none }).swapEnded c w.slot
      | some y =>
        match placeCtx (d.core c) w.slot y with
        | none => if (d.core c).plan.isSome then (d.abandonWait c).advancePlan c else d
        | some x =>
          if d.swapAccess y.part y.ext false then (d.swappedIn c w y x).swapEnded c w.slot
          else if (d.core c).plan.isSome then (d.abandonWait c).advancePlan c
          else d

/-- KO_HOLD_END. A ko hold of a context homed on the core has ended (R259, R260); answers whether one has. -/
def koHoldEnd (c : CoreId) (d : Dev) : Dev × Bool :=
  let ended := fun (y : Ctx) => (decide (0 < y.sched.koIn) && decide (y.sched.koIn ≤ d.now)) ||
    (decide (0 < y.sched.koOut) && decide (y.sched.koOut ≤ d.now))
  match (d.homedOn c).find? fun e => ended e.2 with
  | none => (d, false)
  | some e =>
    (d.setCtx e.1 { e.2 with sched := { e.2.sched with
      koIn := if e.2.sched.koIn ≤ d.now then 0 else e.2.sched.koIn
      koOut := if e.2.sched.koOut ≤ d.now then 0 else e.2.sched.koOut } }, true)

/-! ### Requests through registers -/

/-- The swapped-out context of a core whose image an extent holds, when its partition owns the core (R258). -/
def Dev.imageAt (d : Dev) (c : CoreId) (e : Nat) : Option Nat :=
  ((d.homedOn c).find? fun x => decide (x.2.place = .out) && decide (x.2.ext = e) &&
    decide ((d.core c).owner = some x.2.part)).map fun x => x.1

/-- A write of CORE_c_SWAP (R146): refused with SWAP_ERR, or the swap starts as soon as it may. A swap-in names the
image of a context homed on the core, a swap-out two extents that take its image (R142, R232; log 23). -/
def coreSwap (c : CoreId) (v : Nat) (d : Dev) : Dev :=
  let k := slotOf (bits v 0 2)
  let dirIn := bitAt v 2
  let e := bits v 3 19
  let x := d.core c
  let bad := d.setFld F.CORE_STATUS_SWAP_ERR 1 c.val
  let go := fun (w : Swap) => (d.modCore c fun x => { x with waiting := x.waiting ++ [w] }).startWaiting c
  if x.swapping k then bad
  else
    match x.slotKey k with
    | some key =>
      match d.ctx? key with
      | none => bad
      | some y => if dirIn || !d.swapAccess y.part e true then bad else go ⟨k, false, e, key⟩
    | none =>
      if !dirIn then bad
      else match d.imageAt c e with
        | none => bad
        | some key => go ⟨k, true, e, key⟩

/-- Discards the rejected heads of a slot's halted queues and resumes them (R119, R144). -/
def Ctx.resume (y : Ctx) : Ctx :=
  [(0 : QueueId), 1, 2].foldl (fun y q =>
    if (y.queue q).halted then (y.popHead q).setQueue q { (y.popHead q).queue q with halted := false } else y) y

/-- A write of CORE_c_CTL (R144). -/
def coreCtl (c : CoreId) (v : Nat) (d : Dev) : Dev :=
  let d := d.setFld F.CORE_CTL_HALT (bits v 4 4) c.val
  (List.range 4).foldl (fun d i =>
    if bitAt v i then (d.modSlot c (slotOf i) Ctx.resume).setWord (F.CORE_ERR_OP.addr c.val i) 0 else d) d

/-- A write of ARY_c_CTL (R101). -/
def aryCtl (c : CoreId) (v : Nat) (d : Dev) : Dev :=
  let d := d.setFld F.ARY_CTL_HOLD (bits v 0 1) c.val
  if bitAt v 1 then
    ((((d.setFld F.ARY_RANGE_COUNT_COUNT 0 c.val).setFld F.ARY_FLUSH_COUNT_COUNT 0 c.val).setFld
      F.ARY_ABOVE_COUNT_COUNT 0 c.val).setFld F.ARY_BUSY_CYCLES_CYCLES 0 c.val).setFld F.ARY_SWITCH_CYCLES_CYCLES 0 c.val
  else d

/-- A write of VEC_c_CTL (R151). -/
def vecCtl (c : CoreId) (v : Nat) (d : Dev) : Dev :=
  if bitAt v 0 then (d.setFld F.VEC_INVCVT_COUNT_COUNT 0 c.val).setFld F.VEC_RANGE_COUNT_COUNT 0 c.val else d

/-- A write of MOV_c_CTL (R179). -/
def movCtl (c : CoreId) (v : Nat) (d : Dev) : Dev :=
  (List.range 4).foldl (fun d i =>
    if bitAt v i then
      (d.modSlot c (slotOf i) fun y => y.setQueue 2 { y.queue 2 with failed := false }).setWord
        (F.MOV_ERR_OP.addr c.val i) 0
    else d) d

/-! ### The end of a clearing -/

/-- Who owns a core, and whose it is, when what was planned for it has come about (R253, R254, R261, R262). -/
def CorePlan.owners (pl : CorePlan) (x : Core) : Option PartId × Option PartId :=
  match pl with
  | .add p => (some p, some p)
  | .idle => (none, none)
  | .lend t => (some t, x.home)
  | .giveBack => (x.home, x.home)
  | .empty => (x.owner, x.home)

/-- The partition whose command ends with what was planned for a core. -/
def CorePlan.page (pl : CorePlan) (x : Core) : Option PartId :=
  match pl with
  | .add p => some p
  | .empty => none
  | _ => x.home

/-- What was planned for a core comes about. -/
def Dev.planDone (d : Dev) (c : CoreId) (pl : CorePlan) : Dev :=
  (d.modCore c fun x => { x with plan := none, owner := (pl.owners x).1, home := (pl.owners x).2 }).setWindows c
    (pl.owners (d.core c)).1

/-- SCRATCHPAD_INIT_DONE. The zeroing of a core ends, and what was planned for it comes about (R160, R253); answers
the partition whose command then ends. -/
def scratchpadInitDone (c : CoreId) (d : Dev) : Dev × Option PartId :=
  let x := d.core c
  match x.clearing with
  | none => (d, none)
  | some n =>
    if d.cycle c < n then (d, none)
    else
      let d := (d.modCore c fun x => { x with clearing := none }).setFld F.SPD_STATUS_INIT_BUSY 0 c.val
      match x.plan with
      | none => (d, none)
      | some pl => (d.planDone c pl, pl.page x)

end Sys2Proof.Machine
end

