-- ==== Sys2Proof/Machine/Faults.lean ====
section
/-! DEFINITION. The fault collector (14_faults_recovery R399 to R407), crash dumps (R412 to R414), the start
of a reset (R410, R411, R506) and fencing (R422, R423). -/

namespace Sys2Proof.Machine

/-! ### Sources -/

/-- A source that may raise (R399). -/
def assigned (s : Nat) : Bool :=
  if s < 2304 then decide (s % 16 ≤ 9)
  else if s < 2560 then decide ((s - 2304) % 8 ≤ 5)
  else if s < 2816 then decide ((s - 2560) % 16 ≤ 3)
  else if s < 2880 then decide ((s - 2816) % 16 ≤ 6)
  else decide (s ≤ 2955)

/-- The core that a source names. -/
def sourceCore (s : Nat) : Option CoreId :=
  if h : s / 16 < 144 then some ⟨s / 16, h⟩ else none

/-- The partitions that are not FREE. -/
def Dev.liveParts (d : Dev) : List PartId :=
  allParts.filter fun p => decide (d.fld F.PART_STATUS_STATE p.val ≠ 0)

/-- The affected partitions of a source (R399), in ascending number; req is the requester's partition, or the
owner of the extent or the ring. -/
def Dev.affected (d : Dev) (s : Nat) (req : Option PartId) : List PartId :=
  if s < 2304 then
    if s % 16 = 9 then d.liveParts
    else match sourceCore s with
      | none => []
      | some c => allParts.filter fun p => decide ((d.core c).owner = some p) || decide ((d.core c).home = some p)
  else if s < 2560 then req.toList
  else if s < 2816 then []
  else if s < 2880 then
    let i := (s - 2816) % 16
    if i = 0 ∨ i = 5 ∨ i = 6 then d.liveParts else if i = 1 then req.toList else []
  else if s < 2944 then allParts.filter fun p => decide (p.val = s - 2880)
  else if s < 2948 then d.liveParts
  else []

/-- Sets the record of a source. -/
def Dev.setSrc (d : Dev) (s : Nat) (x : FaultSrc) : Dev := { d with faults := tSet {} s x d.faults }

/-- Clears VALID and OVERFLOW of a source (R401, R428); its rules release (R459). -/
def Dev.clearSrc (d : Dev) (s : Nat) : Dev :=
  (d.setSrc s { d.src s with valid := false, overflow := false, awaits := false }).sourceRules s false

/-! ### Crash dumps -/

/-- Address of the dump slot of a core (R412). -/
def dumpBase (c : CoreId) : Nat :=
  let i := c.val % 36
  ((8 * (c.val / 36) + i / 8) * 16384 + 16382) * extentSize + 524288 * (i % 8)

/-- The firmware component that reads registers for a dump. -/
def fwPath : Path := .firmware 6

/-- The word of a register of a core as a dump records it. -/
def Dev.dumpWord (d : Dev) (f : Fld) (c : CoreId) (i : Nat) : List Byte :=
  leBytes 8 (d.readWord fwPath (f.addr c.val i))

/-- Bytes padded with zero to a length. -/
def padTo (n : Nat) (l : List Byte) : List Byte := l ++ List.replicate (n - l.length) 0

/-- The slot part of a state record (R413); the place of the heads' sequence numbers and TAGs is the model's. -/
def Dev.dumpSlot (d : Dev) (c : CoreId) (k : SlotId) : List Byte :=
  let x := d.slotCtx c k
  let head := fun (q : QueueId) => match x with
    | none => leBytes 8 0
    | some y => match (y.queue q).cmds with
      | [] => leBytes 8 0
      | cmd :: _ => leBytes 4 cmd.seq.toNat ++ leBytes 4 (cmd.f CF.tag)
  let regs := match x with
    | none => List.replicate 264 0
    | some y => leBytes 8 y.hart.pc.toNat ++ ((List.range 31).flatMap fun i => leBytes 8 (tGet 0 y.hart.xs (i + 1)).toNat) ++
        leBytes 8 y.hart.kturn.toNat
  padTo 1024 (d.dumpWord F.CORE_CTX_CONTEXT c k.val ++ d.dumpWord F.CORE_ERR_OP c k.val ++ d.dumpWord F.MOV_ERR_OP c k.val ++
    ((List.range 8).flatMap fun g => d.dumpWord F.ARY_GROUP_BASE c g) ++ regs ++ head 0 ++ head 1 ++ head 2)

/-- The enabled windows of a core that are dumped: number and physical address (R175). -/
def Dev.dumpWindows (d : Dev) (c : CoreId) : List (Nat × Nat) :=
  (List.range 64).filterMap fun n =>
    if d.fld F.SPD_DUMP_WIN_EN c.val n = 0 then none
    else
      let a := 4096 * d.fld F.SPD_DUMP_WIN_INDEX c.val n
      if d.fld F.SPD_DUMP_WIN_SLOT_REL c.val n = 0 then some (n, a)
      else
        let k := slotOf (d.fld F.SPD_DUMP_WIN_SLOT c.val n)
        if (d.slotCtx c k).isNone || decide (d.fld F.CORE_CTX_SPD_SIZE c.val k.val * 65536 < a + 4096) then none
        else some (n, d.winBase c k + a)

/-- Takes the dump of a core, or skips and counts it (R412 to R414); entry is the error log entry that caused
it. -/
def Dev.dumpCore (d : Dev) (c : CoreId) (entry : Nat) : Dev :=
  let s := tGet {} d.dumps c.val
  if s.valid && !d.flag F.FLT_CTL_DUMP_OVERWRITE then
    { d with dumps := tSet {} c.val { s with skipped := min (s.skipped + 1) 255 } d.dumps }
  else
    let ws := d.dumpWindows c
    let rec0 := leBytes 8 (0x444D5031 + c.val * 2 ^ 32 + 2 ^ 40) ++ leBytes 8 d.now ++ leBytes 32 entry ++
      leBytes 16 (maskOf 64 fun n => ws.any fun x => decide (x.1 = n)) ++
      padTo 192 (d.dumpWord F.CORE_STATUS_RESIDENT c 0 ++ d.dumpWord F.ARY_STATUS_MODE c 0 ++
        d.dumpWord F.SPD_STATUS_INIT_BUSY c 0 ++ d.dumpWord F.ACF_STATUS_SEG_USED c 0 ++
        d.dumpWord F.MOV_STATUS_INFLIGHT c 0 ++ d.dumpWord F.VEC_STATUS_BUSY c 0)
    let body := padTo 8192 (rec0 ++ ([0, 1, 2, 3].flatMap fun i => d.dumpSlot c (slotOf i))) ++
      ws.flatMap fun x => bRead (d.core c).spd x.2 4096
    let d := d.store (dumpBase c) body
    { d with dumps := tSet {} c.val { s with valid := true, part := false, time := d.now } d.dumps }

/-! ### Resets -/

/-- A page of a block is reset together with a domain. -/
def inDomain (domain core code inst : Nat) : Bool :=
  if domain = 1 then decide (code ≤ 0x06) && decide (inst = core) else decide (blockDomain code ≤ domain)

/-- A word that holds a path's command status. -/
def statusWord (a : Nat) : Bool :=
  pathStatus.any fun f => decide (f.blk = a / 2 ^ 24) && decide (f.addr (a / 2 ^ 16 % 256) 0 = a)

/-- The register words and the copies by path of the blocks in a domain take their reset values; the journal's
position and seal, the position in the error log, and the paths' command status stay (R9, R463, R506). -/
def Dev.resetRegs (d : Dev) (domain core : Nat) : Dev :=
  let gone := fun (a : Nat) => inDomain domain core (a / 2 ^ 24) (a / 2 ^ 16 % 256) && !keptAsleep a
  { d with regs := d.regs.filter fun e => !gone e.1,
           pathRegs := d.pathRegs.filter fun e => statusWord (e.1 % 2 ^ 32) || !gone (e.1 % 2 ^ 32) }

/-- A core loses what it holds (R410); its contexts are out, without their state. -/
def Dev.loseCore (d : Dev) (c : CoreId) : Dev :=
  let res := d.ctxs.filter fun e => match e.2.place with | .resident b _ => decide (b = c) | .out => false
  let d := res.foldl (fun d e => d.modCtx e.1 fun x => { x with
    place := .out, sched := { x.sched with stopped := true } }) d
  let x := d.core c
  d.setCore c { owner := x.owner, home := x.home, selfTestOk := x.selfTestOk, fenced := x.fenced, rated := x.rated
                lastReset := x.lastReset, plan := x.plan, edgeFree := d.cycle c, cellsFreeFrom := d.cycle c }

/-- What a MEMORY or wider reset loses beyond the cores (R410, R506): every partition, extent map entry and
ring context; the map and the rings are as at power-up. -/
def Dev.loseMemory (d : Dev) : Dev :=
  let wrote := d.pageCmds.filter fun c => decide (c.page / 256 = 0x10) || decide (c.page / 256 = 0x12) ||
    decide (c.page / 256 = 0x30) || decide (c.page / 256 = 0x32)
  let shut := d.sessions.filter fun e => match e.2.scope with | .partition _ => true | .device => false
  let d := shut.foldl (fun d e => d.dropPath (sessionPath e.1 e.2)) d
  { d with
    ctxs := [], rings := [], seqs := [], serving := [], jobs := [], plainHold := [], failHold := [], digests := [], loads := []
    castling := [], turnGen := [], written := [], unsent := [], arrived := [], qps := [], patrol := [], stackUse := []
    staleSince := [], idleSpan := [], stillSince := [], idleMark := [], jobOf := [], ringPips := [], moves := []
    ecc := { wrong := d.ecc.wrong }
    xmap := d.flash.retired.map fun e => (e, 8)
    abandoned := d.abandoned ++ wrote
    pageCmds := d.pageCmds.filter fun c => !wrote.contains c
    cores := d.cores.map fun e => (e.1, { e.2 with owner := none, home := none, plan := none })
    sessions := d.sessions.filter fun e => match e.2.scope with | .partition _ => false | .device => true }

/-- What a DEVICE reset loses beyond the fabric: sessions, commands, the role of banker, what the power controller has
measured, and the measurement registers (R410, R433, R465). -/
def Dev.loseHub (d : Dev) : Dev :=
  let d := d.faults.foldl (fun d e => if e.2.valid then d.clearSrc e.1 else d) d
  { d with
    faults := []
    sessions := [], pageCmds := [], pathRegs := [], abandoned := [], bank := {}, places := [], bankSeq := [], meas := [], qps := [], peers := []
    temps := [], hotSince := [], thermAt := [], capSamples := [], floorSince := none, pace := [], paceIn := [], charges := []
    paused := false, captureEnd := 0
    clocks := d.clocks.map fun e => (e.1, { cycles := e.2.cycles, phase := e.2.phase }) }

/-- Counts a reset of a domain, and of those within it (R480). -/
def Dev.countReset (d : Dev) (domain core : Nat) : Dev :=
  let keys := if domain = 1 then [256 + core] else
    ([2, 3, 4, 5].filter fun k => decide (k ≤ domain)) ++ (List.range 144).map fun c => 256 + c
  d.setPower { d.power with resets := keys.foldl (fun t k => tSet 0 k (tGet 0 t k + 1) t) d.power.resets }

/-- Starts a reset of a domain, after the crash dumps it calls for (R411): a request that a running reset of
the same or a wider domain covers is absorbed, and a wider one ends the narrower ones. -/
def Dev.startReset (d : Dev) (domain : Nat) (core : CoreId) (dump : Bool) (entry : Nat) : Dev :=
  let covered := d.power.running.any fun r =>
    decide (domain < r.domain) || (decide (domain = r.domain) && (decide (domain ≠ 1) || decide (r.core = core.val)))
  if domain = 0 ∨ 5 < domain ∨ covered then d
  else
    let cs := if domain = 1 then [core] else allCores
    let d := if dump then cs.foldl (fun d c => d.dumpCore c entry) d else d
    let keep := if domain = 1 then d.power.running else []
    let d := d.setPower { d.power with running := keep ++ [({ domain := domain, core := core.val, startAt := d.now } : ResetRun)] }
    let d := (d.countReset domain core.val)
    let d := cs.foldl (fun d c => d.loseCore c) d
    let d := if 3 ≤ domain then d.loseMemory else d
    let d := if 4 ≤ domain then
        { d with egress := [], flowOut := [], ports := [], routes := [], held := [], transit := [], inbox := [], flowIn := [] }
      else d
    let d := if domain = 5 then d.loseHub else d
    let d := keepTrip d (d.resetRegs domain core.val)
    let d := if domain = 1 then d.count F.FLT_COUNTS_CORE_RESETS 1 else d
    d.setFld F.FLT_STATUS_LAST_RESET domain

/-! ### Fencing -/

/-- A core is idle and serviceable (R253). -/
def Dev.idleCore (d : Dev) (c : CoreId) : Bool :=
  let x := d.core c
  x.owner.isNone && x.home.isNone && x.selfTestOk && !x.fenced && x.plan.isNone

/-- The reserve that takes a fenced core's place (R422 step 2). -/
def Dev.reserveFor (d : Dev) (c : CoreId) : Option CoreId :=
  let idle := allCores.filter fun r => d.idleCore r && !(d.core r).rated && decide (r ≠ c)
  match idle.find? fun r => decide (dieOf r = dieOf c) with
  | some r => some r
  | none => idle.head?

/-- The lowest-numbered core that a partition owns. -/
def Dev.lowestCore (d : Dev) (p : PartId) : Option CoreId :=
  allCores.find? fun c => decide ((d.core c).owner = some p)

/-- Homes contexts of a partition on another core. -/
def Dev.rehomeAll (d : Dev) (p : PartId) (a b : CoreId) : Dev :=
  (d.ctxs.filter fun e => decide (e.2.part = p) && decide (e.2.home = a)).foldl
    (fun d e => d.modCtx e.1 fun x => { x with home := b }) d

/-- A resident context of a core that is fenced is placed swapped out, restored from its entry image (R418,
R422). -/
def restartResident (m : Mem) (c : CoreId) (d : Dev) : Dev :=
  (d.ctxs.filter fun e => match e.2.place with | .resident b _ => decide (b = c) | .out => false).foldl (fun d e =>
    let l := memRead m d (e.2.entryExt * extentSize + entryOffset) creationBytes
    d.modCtx e.1 fun x =>
      if x.sched.stopped then { x with place := .out }
      else
        let y := x.restore l (d.seedOf x.part) (d.turnOf x.part)
        { y with hart := { y.hart with pc := 0 }, sched := { runnableSince := some d.now } }) d

/-- The core is fenced: it holds and belongs to nothing, and the fence map in flash names it (R422, R423). -/
def Dev.fenceOff (d : Dev) (c : CoreId) : Dev :=
  let d := (d.loseCore c).modCore c fun y => { y with fenced := true, owner := none, home := none, plan := none }
  d.setFlash { d.flash with fence := (d.flash.fence ++ [c.val]).dedup }

/-- What takes the place of a fenced core in its home partition p: a reserve, the partition's lowest core, or for a
training job nothing, which the banker hears (R422). -/
def Dev.replaceCore (m : Mem) (c : CoreId) (p : PartId) (d : Dev) : Dev :=
  match d.reserveFor c with
  | some r => (d.rehomeAll p c r).beginPlan r (.add p)
  | none => match d.lowestCore p with
    | some r => d.rehomeAll p c r
    | none =>
      let j := partJob m d p
      if j = 0 then d else d.sendBanker (some d.activeBanker) 0x14 j (d.turnOf p) 5 0 0

/-- A borrower of a fenced core goes on with its other cores, or its turn fails (R422). -/
def leaveCore (m : Mem) (c : CoreId) (q : PartId) (d : Dev) : Dev :=
  match d.lowestCore q with
  | some r => d.rehomeAll q c r
  | none => failTurn m q 3 d

/-- Fences a core (R422). -/
def fenceCore (m : Mem) (c : CoreId) (d : Dev) : Dev :=
  let x := d.core c
  let d := ((restartResident m c d).fenceOff c).setWindows c none
  let d := d.count F.FLT_COUNTS_FENCE_COUNT 1
  let d := match x.home with
    | none => d
    | some p => d.replaceCore m c p
  match x.owner with
  | none => d
  | some q => if x.home = some q then d else leaveCore m c q d

/-! ### Captures -/

/-- The turn of every partition of a list fails, once for each job (R406). -/
def failParts (m : Mem) (cause : Nat) (core : Option CoreId) : List PartId → List Nat → Dev → Dev
  | [], _, d => d
  | p :: r, js, d =>
    let j := partJob m d p
    if j ≠ 0 ∧ js.contains j then failParts m cause core r js d
    else failParts m cause core r (j :: js) (failTurn m p cause d core)

/-- Every job of the device is told that the device has failed (R406, R421). -/
def failDevice (m : Mem) (cls : Nat) (d : Dev) : Dev :=
  ((d.liveParts.map fun p => partJob m d p).dedup.filter fun j => decide (j ≠ 0)).foldl
    (fun d j => d.sendBanker (some d.activeBanker) 0x14 j (jobTurn m d j) cls 0 0) d

/-- The action of a class (R406). -/
def classAction (m : Mem) (cls : Nat) (core : Option CoreId) (parts : List PartId) (entry : Nat) (d : Dev) : Dev :=
  match cls, core with
  | 0, _ => d
  | 1, _ => failParts m 1 core parts [] d
  | 2, some c =>
    let d := failParts m 2 core parts [] d
    (d.modCore c fun x => { x with lastReset := some d.now }).startReset 1 c true entry
  | 3, some c => fenceCore m c ((failParts m 3 core parts [] d).dumpCore c entry)
  | 4, _ => (failParts m 4 none d.liveParts [] d).startReset 2 0 true entry
  | n, _ => if 5 ≤ n ∧ n ≤ 7 then (failDevice m n d).startReset (n - 2) 0 true entry else d

/-- The class that a capture takes: a core-level class without a core acts as TURN (R406), and a second
CORE_RESET of a core within the window is taken as FENCE (R407). -/
def Dev.classTaken (d : Dev) (s : Nat) : Nat :=
  let cls := d.srcClass s
  match sourceCore s with
  | none => if cls = 2 ∨ cls = 3 then 1 else cls
  | some c =>
    if cls = 2 then
      match (d.core c).lastReset with
      | some t => if d.now < t + d.fld F.FLT_CTL_FENCE_WINDOW * 1000000000 then 3 else 2
      | none => 2
    else cls

/-- The error log entry of a capture (R405). -/
def Dev.logEntry (d : Dev) (s code detail cls : Nat) (forced wire : Bool) (parts : List PartId) : Nat :=
  s + b2n forced * 2 ^ 12 + b2n wire * 2 ^ 13 + cls * 2 ^ 16 + code % 256 * 2 ^ 20 +
    (d.captures + 1) % 2 ^ 32 * 2 ^ 32 + d.now % 2 ^ 64 * 2 ^ 64 +
    (match parts with | [] => 0 | p :: _ => d.turnOf p * 2 ^ 128 + p.val * 2 ^ 176 + 2 ^ 182) + detail % 2 ^ 64 * 2 ^ 192

/-- Writes a log entry (R405). -/
def Dev.addLog (d : Dev) (entry : Nat) : Dev :=
  let n := d.fld F.FLT_LOG_POS_NEXT
  let d := { d with log := tPut n (BitVec.ofNat 256 entry) d.log, captures := (d.captures + 1) % 2 ^ 32 }
  (d.setFld F.FLT_LOG_POS_NEXT (n + 1)).count F.FLT_LOG_POS_WRAPS (if n = 4095 then 1 else 0)

/-- FLT_FIRST holds the first capture since it was cleared (R428). -/
def Dev.noteFirst (d : Dev) (s : Nat) : Dev :=
  if d.flag F.FLT_FIRST_VALID then d
  else ((d.setFld F.FLT_FIRST_SOURCE s).setFld F.FLT_FIRST_TIME d.now).setFld F.FLT_FIRST_VALID 1

/-- What a capture does after the class action (R401, R402): AUTO_CLEAR clears the record when the action has
completed. -/
def Dev.autoClear (d : Dev) (s cls : Nat) (wire : Bool) : Dev :=
  if wire || !d.flag F.FLT_CTL_AUTO_CLEAR then d
  else if (decide (cls = 2) || decide (4 ≤ cls)) && !d.power.running.isEmpty then
    d.setSrc s { d.src s with awaits := true }
  else d.clearSrc s

/-- A capture begins, and lasts a free number of ns, from 1 to 2,000 (R404): an error that is raised in the hub cycle of
the first, and taken after it, is lost. -/
def Dev.openCapture (d : Dev) : Dev :=
  let (k, d) := d.draw
  { d with captureEnd := d.now + 1 + (Config.fresh k).toNat % 2000 }

/-- The capture of a source (R404): its record, the log, FLT_FIRST, the hourglass unit and the class action. -/
def capture (m : Mem) (s code detail : Nat) (forced wire : Bool) (req : Option PartId) (d : Dev) : Dev :=
  let cls := d.classTaken s
  let parts := d.affected s req
  let entry := d.logEntry s code detail cls forced wire parts
  let d := ((d.openCapture.addLog entry).noteFirst s).count F.FLT_COUNTS_WIRE_FAULTS (b2n wire)
  let d := (d.setSrc s ({ cls := (d.src s).cls, valid := true, wire := wire, forced := forced, code := code % 256,
                          time := d.now } : FaultSrc)).sourceRules s true
  if d.power.phase = .asleep then d
  else (classAction m cls (sourceCore s) parts entry d).autoClear s cls wire

/-- An error, or a wire fault, reaches the collector (R400 to R402, R404): lost during a capture, or while the
collector is off; only OVERFLOW while the record is VALID. -/
def raiseFault (m : Mem) (s code detail : Nat) (forced wire : Bool) (req : Option PartId) (d : Dev) : Dev :=
  if !assigned s || decide (d.now < d.captureEnd) || decide (d.power.phase = .asleep) ||
      (d.power.running.any fun r => decide (r.domain = 5)) then d
  else if (d.src s).valid then
    let x := d.src s
    (d.setSrc s { x with overflow := true, wire := x.wire || wire }).count F.FLT_COUNTS_WIRE_FAULTS (b2n wire)
  else capture m s code detail forced wire req d

/-- An error that the device itself finds reaches the collector: the code, and a detail that the spec does not state,
are free values (log 5). -/
def raiseOwn (m : Mem) (s : Nat) (detail : Option Nat) (req : Option PartId) (d : Dev) : Dev :=
  let (a, d) := d.draw
  let (b, d) := d.draw
  raiseFault m s ((Config.fresh a).toNat % 256) (detail.getD (Config.fresh b).toNat) false false req d

end Sys2Proof.Machine
end

