-- ==== Sys2Proof/Machine/Vector.lean ====
section
/-! DEFINITION. The vector engine (04_core_engines R127 to R138): operand descriptors, every vector
command, its rejections, and its completion. -/

namespace Sys2Proof.Machine

/-- Fields of word 1 of a vector command (R128). -/
def VF.rnd : Bf := ⟨64, 3⟩
def VF.nosat : Bf := ⟨67, 1⟩
def VF.subop : Bf := ⟨68, 4⟩
def VF.indexBase : Bf := ⟨72, 48⟩
def VF.offset : Bf := ⟨72, 24⟩
def VF.indexHigh : Bf := ⟨96, 24⟩
def VF.imm8 : Bf := ⟨120, 8⟩

/-- An operand descriptor (R122). -/
structure Desc where
  addr : Nat
  code : Nat
  cols : Nat
  rows : Nat
  bcast : Nat
  res : Nat
  stride : Nat
  idxStride : Nat
deriving DecidableEq, Repr

/-- Reads the descriptor at bit lo of a command. -/
def Cmd.desc (c : Cmd) (lo : Nat) : Desc :=
  let f := fun a w => bits c.word.toNat (lo + a) w
  ⟨f 0 24, f 24 4, f 28 16 + 1, f 44 16 + 1, f 60 2, f 62 2 + f 80 16, f 64 16, f 96 32⟩

/-- Descriptors D, A and B of a vector command (R128). -/
def Cmd.d (c : Cmd) : Desc := c.desc 128
def Cmd.a (c : Cmd) : Desc := c.desc 256
def Cmd.b (c : Cmd) : Desc := c.desc 384

/-- A descriptor is in use unless its FMT is 15 (R122). -/
def Desc.used (x : Desc) : Bool := decide (x.code ≠ 15)

/-- A descriptor in use that R10 or R122 rejects with DESCRIPTOR. -/
def Desc.bad (x : Desc) : Bool :=
  x.used && ((decide (12 ≤ x.code) && decide (x.code ≤ 14)) || decide (x.bcast = 3) ||
    decide (x.addr % 64 ≠ 0) || decide (x.res ≠ 0))

/-- The format of a descriptor. -/
def Desc.fmt (x : Desc) : Option Fmt := Fmt.ofCode x.code

/-- The vector commands (R132). -/
inductive VOp where
  | add
  | sub
  | mul
  | fma
  | max
  | min
  | cmp
  | sel
  | cvt
  | div
  | sqrt
  | func
  | red
  | dact
  | dpre
  | ladd
  | lred
  | lcvt
  | split
deriving DecidableEq, Repr

/-- Opcodes of the vector commands (R132). -/
def VOp.code : VOp → Nat
  | .add => 0x10
  | .sub => 0x11
  | .mul => 0x12
  | .fma => 0x13
  | .max => 0x14
  | .min => 0x15
  | .cmp => 0x16
  | .sel => 0x17
  | .cvt => 0x18
  | .div => 0x19
  | .sqrt => 0x1A
  | .func => 0x1B
  | .red => 0x1C
  | .dact => 0x1D
  | .dpre => 0x1E
  | .ladd => 0x28
  | .lred => 0x29
  | .lcvt => 0x2A
  | .split => 0x2B

/-- The number of SUBOP values that a command lists; 0 for a command without variants, whose SUBOP
must be 0 (R132). -/
def VOp.subops : VOp → Nat
  | .cmp => 6
  | .func => 8
  | .red => 4
  | .dact => 10
  | .dpre => 10
  | .lcvt => 2
  | .split => 2
  | _ => 1

/-- The command reads two sources. -/
def VOp.two : VOp → Bool
  | .cvt => false
  | .sqrt => false
  | .func => false
  | .red => false
  | .lred => false
  | .lcvt => false
  | .split => false
  | _ => true

/-- Formats of arithmetic operands (R130). -/
def arithFmt (f : Option Fmt) : Bool :=
  match f with
  | none => false
  | some .long => false
  | some .e8m0 => false
  | some .int32 => false
  | some _ => true

/-- VCVT's B holds block scales: it is E8M0 (R132). A B of another format takes no part (R130; log 16). -/
def Cmd.scaled (cmd : Cmd) : Bool := decide (cmd.b.fmt = some .e8m0)

/-- The compute format (R129), or none for a FORMAT rejection (R130, R132, R134 to R136). -/
def computeFmt (op : VOp) (fd fa fb : Option Fmt) : Option Fmt :=
  match op with
  | .ladd => if fd = some .long ∧ fa = some .long ∧ fb = some .long then some .long else none
  | .lred => if fd = some .long ∧ fa = some .long then some .long else none
  | .lcvt =>
    if (fd = some .fp32 ∨ fd = some .fp64) ∧ fa = some .long ∧ (fb = some .long ∨ fb = none) then fd else none
  | .split => if fd = some .int8 ∧ fa = some .fp64 ∧ fb = some .int32 then some .fp64 else none
  | _ =>
    if !(arithFmt fd) || !(arithFmt fa) || (op.two && !(arithFmt fb)) then none
    else if (op = .func ∨ op = .dact ∨ op = .dpre) ∧
        (fd = some .fp64 ∨ fa = some .fp64 ∨ (op ≠ .func ∧ fb = some .fp64)) then none
    else if op = .cmp ∧ fd ≠ some .int8 then none
    else if op = .sel ∧ fa ≠ some .int8 then none
    else
      let l := if op = .sel then [fb, fd] else if op.two then [fa, fb, fd] else [fa, fd]
      let narrow := decide (op.code ≤ 0x15) || decide (op.code = 0x17)
      if l.contains (some .fp64) then some .fp64
      else if narrow && l.all (fun f => decide (f = some .bf16)) then some .bf16
      else if narrow && l.all (fun f => decide (f = some .fp16)) then some .fp16
      else some .fp32

/-- Destinations that accept seeded stochastic rounding (R48). -/
def stochFmt (f : Option Fmt) : Bool :=
  match f with
  | some .fp32 => false
  | some .fp64 => false
  | some .long => false
  | some .e8m0 => false
  | some .int32 => false
  | none => false
  | some _ => true

/-- RND is not allowed (R131). -/
def rndBad (rnd : Nat) (cf fd : Option Fmt) : Bool :=
  (decide (rnd = 1) && !(stochFmt fd)) ||
    (decide (2 ≤ rnd) && !(decide (cf = some .fp64) && decide (fd = some .fp64)))

/-- The scratchpad ranges of an operand whose command has rows × cols elements (R122). -/
def Desc.ranges (x : Desc) (rows cols : Nat) : List (Nat × Nat) :=
  let f := x.fmt.getD .fp32
  match x.bcast with
  | 0 => rowRanges x.addr x.stride rows (rowBytes f cols)
  | 1 => rowRanges x.addr x.stride 1 (rowBytes f cols)
  | _ => [(x.addr, rowBytes f 1)]

/-- The bits of element (r, k) of an operand, by its broadcast (R122). -/
def Dev.elemAt (d : Dev) (c : CoreId) (k : SlotId) (x : Desc) (r j : Nat) : Nat :=
  let f := x.fmt.getD .fp32
  let (r, j) := match x.bcast with
    | 0 => (r, j)
    | 1 => (0, j)
    | _ => (0, 0)
  let a := d.winBase c k + x.addr + 64 * x.stride * r
  if f.bits = 4 then bits (bGet (d.core c).spd (a + j / 2)).toNat (4 * (j % 2)) 4
  else bNat (d.core c).spd (a + j * (f.bits / 8)) (f.bits / 8)

/-- A source has the shape rows × cols or broadcasts to it (R122). -/
def Desc.shapeOk (x : Desc) (rows cols : Nat) : Bool :=
  match x.bcast with
  | 0 => decide (x.rows = rows) && decide (x.cols = cols)
  | 1 => decide (x.cols = cols)
  | _ => true

/-- Shapes of the sources: columns of A and of B for a destination of rows × cols (R122, R132, R136). -/
def VOp.shapeBad (op : VOp) (cmd : Cmd) : Bool :=
  let d := cmd.d
  let a := cmd.a
  let b := cmd.b
  match op with
  | .red => decide (d.cols ≠ 1) || !(a.shapeOk d.rows a.cols)
  | .lred => decide (d.cols ≠ 1) || !(a.shapeOk d.rows a.cols)
  | .cvt => !(a.shapeOk d.rows d.cols) || (cmd.scaled && !(b.shapeOk d.rows (d.cols / 32)))
  | .lcvt => !(a.shapeOk d.rows d.cols) || (b.used && !(b.shapeOk d.rows d.cols))
  | .split =>
    !(a.shapeOk d.rows d.cols) || decide (b.rows ≠ 1) || decide (b.bcast ≠ 0) ||
      decide (b.cols ≠ if cmd.f VF.subop = 0 then d.rows else d.cols)
  | _ => !(a.shapeOk d.rows d.cols) || (op.two && !(b.shapeOk d.rows d.cols))

/-- The extra scratchpad range that word 1 names: the table of LCVT (R135) or the parameter pair of
VDACT and VDPRE (R137, R138). -/
def VOp.extra (op : VOp) (cmd : Cmd) : List (Nat × Nat) :=
  match op with
  | .lcvt => if cmd.f VF.subop = 1 then [(cmd.f VF.offset, 4 * (cmd.d.rows + cmd.d.cols))] else []
  | .dact => if cmd.f VF.subop = 2 ∨ cmd.f VF.subop = 3 then [(cmd.f VF.offset, 8)] else []
  | .dpre => if cmd.f VF.subop = 2 ∨ cmd.f VF.subop = 3 then [(cmd.f VF.offset, 8)] else []
  | _ => []

/-- Every scratchpad range a command names. -/
def VOp.allRanges (op : VOp) (cmd : Cmd) : List (Nat × Nat) :=
  let d := cmd.d
  let acols := match op with
    | .red => cmd.a.cols
    | .lred => cmd.a.cols
    | _ => d.cols
  let dr := match op with
    | .split => (List.range 8).flatMap fun s =>
        rowRanges (d.addr + s * (d.rows * d.stride * 64)) d.stride d.rows d.cols
    | _ => d.ranges d.rows d.cols
  let br := if !cmd.b.used then []
    else match op with
      | .cvt => if cmd.scaled then cmd.b.ranges d.rows (d.cols / 32) else []
      | .split => cmd.b.ranges 1 cmd.b.cols
      | .lcvt => cmd.b.ranges d.rows d.cols
      | _ => if op.two then cmd.b.ranges d.rows d.cols else []
  dr ++ cmd.a.ranges d.rows acols ++ br ++ op.extra cmd

/-- The parameter pair of VDACT and VDPRE. -/
def Dev.paramPair (d : Dev) (c : CoreId) (k : SlotId) (cmd : Cmd) : Nat × Nat :=
  let a := d.winBase c k + cmd.f VF.offset
  (bNat (d.core c).spd a 4, bNat (d.core c).spd (a + 4) 4)

/-- Parameter rejections of VDACT and VDPRE (R137, R138). -/
def paramBad (d : Dev) (c : CoreId) (k : SlotId) (op : VOp) (cmd : Cmd) : Bool :=
  let s := cmd.f VF.subop
  let p := d.paramPair c k cmd
  match op with
  | .dact =>
    decide (s = 0) || decide (8 ≤ s) || (decide (s = 3) && clampBad p.1 p.2) ||
      (decide (s = 2) && (decodeVal .fp32 p.1).lt (valZero false))
  | .dpre => decide (s = 0) || (decide (s = 3) && clampBad p.1 p.2)
  | _ => false

/-- The verdict on a vector command (R119, R122, R130 to R138, R154). -/
def vecVerdict (d : Dev) (c : CoreId) (k : SlotId) (op : VOp) (cmd : Cmd) : Verdict :=
  let cf := computeFmt op cmd.d.fmt cmd.a.fmt cmd.b.fmt
  firstVerdict
    [(cmd.d.bad || cmd.a.bad || cmd.b.bad || decide (5 ≤ cmd.f VF.rnd) ||
        decide (op.subops ≤ cmd.f VF.subop), .reject rDescriptor),
     (cmd.d.used && decide (cmd.d.bcast ≠ 0), .reject rShape),
     (cf.isNone, .reject rFormat),
     (rndBad (cmd.f VF.rnd) cf cmd.d.fmt, .reject rRounding),
     (decide (op = .cvt) && cmd.scaled && decide (cmd.d.cols % 32 ≠ 0), .reject rMxLength),
     (op.shapeBad cmd, .reject rShape),
     (!d.rangesOk c k (op.allRanges cmd), .reject rWindow),
     (paramBad d c k op cmd, .reject rParam)]

/-! ### Computation -/

/-- The rounding of a command's operation in its compute format: directed modes apply to FP64
arithmetic (R129, R131). -/
def opRnd (rnd : Nat) : Rnd :=
  match rnd with
  | 2 => .rtz
  | 3 => .rtp
  | 4 => .rtn
  | _ => .rne

/-- One result: its bits, FP64 flags, and invalid conversions. -/
structure ElemOut where
  bits : Nat
  flags : Nat := 0
  invalid : Nat := 0
deriving DecidableEq, Repr

/-- Rounds an exact result to the compute format (R129): the value, and the flags when it is FP64. -/
def roundTo (cf : Fmt) (rnd : Rnd) (v : Val) : Val × Nat :=
  let e := encodeVal cf rnd false v
  (decodeVal cf e.bits, if cf = .fp64 then e.flags else 0)

/-- The logical index of element (r, k) of D (R128). -/
def elemIndex (op : VOp) (cmd : Cmd) (r k : Nat) : Nat :=
  let base := match op with
    | .dact => cmd.f VF.indexHigh * 2 ^ 24
    | .dpre => cmd.f VF.indexHigh * 2 ^ 24
    | .lcvt => 0
    | _ => cmd.f VF.indexBase
  (base + r * cmd.d.idxStride + k) % 2 ^ 48

/-- Converts a compute result to D (R48 to R51, R129); flags of FP64 are those of the operation. -/
def toD (op : VOp) (cmd : Cmd) (r k : Nat) (v : Val) (flags : Nat) : ElemOut :=
  let fd := cmd.d.fmt.getD .fp32
  let rnd := if cmd.f VF.rnd = 1 then seededRnd true cmd (elemIndex op cmd r k) else .rne
  let e := encodeVal fd rnd (cmd.f VF.nosat == 1) v
  ⟨e.bits, flags, b2n e.invalid⟩

/-- The invalid flag of a signalling FP64 operand (R39). -/
def snan (f : Option Fmt) (n : Nat) : Nat := if f = some .fp64 ∧ isSNaN64 n then flagNV else 0

/-- A comparison (R56): the outcome and its flag in FP64. -/
def compare (sub : Nat) (x y : Val) : Bool × Nat :=
  let un := decide (x = .nan) || decide (y = .nan)
  let fl := if un && decide (2 ≤ sub) then flagNV else 0
  (match sub with
   | 0 => x.eqv y
   | 1 => !(x.eqv y)
   | 2 => x.lt y
   | 3 => !un && !(y.lt x)
   | 4 => y.lt x
   | _ => !un && !(x.lt y), fl)

/-- ACT code of a VFUNC code (R133). -/
def funcAct (sub : Nat) : Nat :=
  match sub with
  | 0 => 7
  | 2 => 4
  | 3 => 5
  | 4 => 6
  | 5 => 8
  | _ => 9

/-- VFUNC (R40, R133). -/
def vfunc (sub : Nat) (x : Val) : Val :=
  match sub with
  | 1 =>
    match x with
    | .nan => .nan
    | .inf s => if s then .nan else .inf false
    | .fin s m e =>
      if m = 0 then .inf true else if s then .nan
      else
        let v := fxLn (fxOf false m e).toNat
        bounded 2 (decide (v < 0)) v.natAbs (Config.lnBits (fp32Bits x))
  | 7 =>
    match x with
    | .nan => .nan
    | .inf s => if s then .nan else valZero false
    | .fin s m e =>
      if m = 0 then .inf s else if s then .nan
      else bounded 2 false (isqrt (2 ^ 1536 / (fxOf false m e).toNat)) (Config.rsqrtBits (fp32Bits x))
  | _ => transcend (funcAct sub) x

/-- e^x as VDACT uses it, rounded once to nearest even (R137). -/
def expVal (x : Val) : Val :=
  match x with
  | .nan => .nan
  | .inf s => if s then valZero false else .inf false
  | .fin s m e => nearest32 false (fxExp (fxOf s m e))

/-- VDACT: dY × f′ from the activation's output (R137). -/
def vdact (sub : Nat) (pa pb dy y : Val) : Val :=
  if dy = .nan ∨ y = .nan then .nan
  else
    match sub with
    | 1 => if (valZero false).lt y then dy else valZero false
    | 2 => if (valZero false).lt y then dy else mul32 pa dy
    | 3 => if pa.lt y && y.lt pb then dy else valZero false
    | 4 => mul32 dy (fma32 y.neg y y)
    | 5 => mul32 dy (fma32 y.neg y (valOne false))
    | 6 => mul32 dy (add32 (valOne false) (expVal y.neg).neg)
    | _ => mul32 dy y

/-- The derivative of an activation, codes 4 to 9, at a pre-activation (R138). -/
def derivative (act : Nat) (x : Val) : Val :=
  match x with
  | .nan => .nan
  | .inf s =>
    match act with
    | 4 => valZero false
    | 5 => valZero false
    | 7 => if s then valZero false else .inf false
    | _ => if s then valZero false else valOne false
  | .fin s m e =>
    let v := derivFx act (fxOf s m e)
    bounded 4 (derivSign act s v) v.natAbs (Config.derivBits act (fp32Bits (.fin s m e)))

/-- VDPRE: dY × f′ from the pre-activation (R138). -/
def vdpre (sub : Nat) (pa pb dy x : Val) : Val :=
  if dy = .nan ∨ x = .nan then .nan
  else
    match sub with
    | 1 => if (valZero false).lt x then dy else valZero false
    | 2 => if (valZero false).lt x then dy else mul32 pa dy
    | 3 => if pa.lt x && x.lt pb then dy else valZero false
    | _ => mul32 dy (derivative sub x)

/-- The exponent k such that VCVT multiplies A by 2^k for a scale byte (R41, R132): an INT8 element
takes the MXINT8 meaning. -/
def cvtScale (s : Nat) (fa fd : Option Fmt) : Int :=
  let b : Int := (s : Int) - 127
  if fa = some .int8 ∨ fd = some .int8 then
    (if fa = some .int8 then b - 6 else 0) - (if fd = some .int8 then b - 6 else 0)
  else if fd = some .fp32 ∨ fd = some .fp64 then b else -b

/-- One element of an element-wise command (R129, R132): dOld, a and b are the bits of D's old element
and of the sources. -/
def vecElem (op : VOp) (cmd : Cmd) (cf : Fmt) (pa pb : Val) (r k dOld a b : Nat) : ElemOut :=
  let fd := cmd.d.fmt
  let fa := cmd.a.fmt
  let fb := cmd.b.fmt
  let x := decodeVal (fa.getD .fp32) a
  let y := decodeVal (fb.getD .fp32) b
  let rnd := opRnd (cmd.f VF.rnd)
  let sub := cmd.f VF.subop
  let sn := snan fa a ||| (if op.two then snan fb b else 0)
  let arith := fun (v : Val × Nat) =>
    let (w, fl) := roundTo cf rnd v.1
    toD op cmd r k w (if cf = .fp64 then v.2 ||| fl ||| sn else 0)
  match op with
  | .add => arith (x.add rnd y)
  | .sub => arith (x.add rnd y.neg)
  | .mul => arith (x.mul y)
  | .fma =>
    let z := decodeVal (fd.getD .fp32) dOld
    let (v, fl) := Val.fma rnd x y z
    arith (v, fl ||| snan fd dOld)
  | .max => arith (x.max y, 0)
  | .min => arith (x.min y, 0)
  | .cmp =>
    let (t, fl) := compare sub x y
    ⟨b2n t, if cf = .fp64 then fl ||| sn else 0, 0⟩
  | .sel =>
    if a % 256 = 0 then ⟨dOld, 0, 0⟩ else toD op cmd r k y (snan fb b)
  | .cvt =>
    let v := if cmd.scaled then (if b = 255 then .nan else x.scale (cvtScale b fa fd)) else x
    if fd = some .fp64 then
      let (w, fl) := roundTo .fp64 rnd v
      toD op cmd r k w (fl ||| snan fa a)
    else toD op cmd r k v (snan fa a)
  | .div => arith (x.div y)
  | .sqrt => arith x.sqrt
  | .func => arith (vfunc sub x, 0)
  | .dact => arith (vdact sub pa pb x y, 0)
  | .dpre => arith (vdpre sub pa pb x y, 0)
  | _ => ⟨0, 0, 0⟩

/-- What a vector command will do when it completes. -/
structure VecOut where
  writes : List (Nat × List Byte) := []
  flags : Nat := 0
  invalids : Nat := 0
  ranges : Nat := 0
deriving DecidableEq, Repr

/-- The write of a row of D. -/
def rowWrite (base : Nat) (d : Desc) (r : Nat) (l : List Nat) : Nat × List Byte :=
  (base + d.addr + 64 * d.stride * r, packElems (d.fmt.getD .fp32) l)

/-- Gathers rows of results. -/
def gatherRows (base : Nat) (d : Desc) (rows : List (List ElemOut)) : VecOut :=
  rows.foldl (fun o l =>
    { o with
      writes := o.writes ++ [rowWrite base d o.writes.length (l.map fun e => e.bits)]
      flags := l.foldl (fun f e => f ||| e.flags) o.flags
      invalids := l.foldl (fun n e => n + e.invalid) o.invalids }) {}

/-- An element-wise command. -/
def vecElementwise (d : Dev) (c : CoreId) (k : SlotId) (op : VOp) (cmd : Cmd) (cf : Fmt) : VecOut :=
  let p := d.paramPair c k cmd
  let dd := cmd.d
  gatherRows (d.winBase c k) dd ((List.range dd.rows).map fun r => (List.range dd.cols).map fun j =>
    vecElem op cmd cf (decodeVal .fp32 p.1) (decodeVal .fp32 p.2) r j (d.elemAt c k dd r j)
      (d.elemAt c k cmd.a r j) (d.elemAt c k cmd.b r (if op = .cvt then j / 32 else j)))

/-- One combination of VRED (R133), with its flags. -/
def redCombine (sub : Nat) (cf : Fmt) (rnd : Rnd) (x y : Val × Nat) : Val × Nat :=
  let (v, fl) := match sub with
    | 0 => x.1.add rnd y.1
    | 2 => (x.1.min y.1, 0)
    | _ => (x.1.max y.1, 0)
  let (w, gl) := roundTo cf rnd v
  (w, x.2 ||| y.2 ||| fl ||| gl)

/-- One level of the tree (R133): elements 2i and 2i + 1 combine. Where the row ends, the second is padding, the
identity of the operation, and leaves the first unchanged. -/
def redLevel (f : Val × Nat → Val × Nat → Val × Nat) : List (Val × Nat) → List (Val × Nat)
  | x :: y :: r => f x y :: redLevel f r
  | l => l

/-- The tree over a row, level by level (R133). -/
def redTree (f : Val × Nat → Val × Nat → Val × Nat) : Nat → List (Val × Nat) → List (Val × Nat)
  | 0, l => l
  | n + 1, l => redTree f n (redLevel f l)

/-- Levels of the tree over n elements. -/
def redLevels (n : Nat) : Nat := if n ≤ 1 then 0 else Nat.log2 (n - 1) + 1

/-- Reduces one row (R133); for the largest magnitude, of the elements' magnitudes. -/
def redRow (sub : Nat) (cf : Fmt) (rnd : Rnd) (l : List (Val × Nat)) : Val × Nat :=
  let l := if sub = 3 then l.map fun x => (x.1.abs, x.2) else l
  ((redTree (redCombine sub cf rnd) (redLevels l.length) l).head?).getD (.nan, 0)

/-- VRED. -/
def vecReduce (d : Dev) (c : CoreId) (k : SlotId) (cmd : Cmd) (cf : Fmt) : VecOut :=
  let fa := cmd.a.fmt
  gatherRows (d.winBase c k) cmd.d ((List.range cmd.d.rows).map fun r =>
    let l := (List.range cmd.a.cols).map fun j =>
      let n := d.elemAt c k cmd.a r j
      (decodeVal (fa.getD .fp32) n, snan fa n)
    let (v, fl) := redRow (cmd.f VF.subop) cf (opRnd (cmd.f VF.rnd)) l
    [toD .red cmd r 0 v (if cf = .fp64 then fl else 0)])

/-- The sum of long words (R134), in index order, as the model chooses where R134 leaves the order open (log 19): those whose EXP is 0xFF are NaN contributions and take no part beyond NAN and their
flags; without any other the result is 0 at E 127. -/
def longSum (ls : List Long) : Long × Nat :=
  let fl := ls.foldl (fun a l => a ||| l.flags) (if ls.any fun l => decide (l.e = 255) then lfNan else 0)
  match ls.filter fun l => decide (l.e ≠ 255) with
  | [] => (⟨0, 127, fl⟩, 0)
  | l :: rest =>
    let (s, n) := rest.foldl (fun (a : Long × Nat) x => let (s, n) := a.1.add x; (s, a.2 + n)) (l, 0)
    ({ s with flags := s.flags ||| fl }, n)

/-- LADD and LRED: exact sums of long partials, with the RANGE events they count (R134). -/
def vecLong (d : Dev) (c : CoreId) (k : SlotId) (op : VOp) (cmd : Cmd) : VecOut :=
  let rows := (List.range cmd.d.rows).map fun r =>
    if op = .ladd then
      (List.range cmd.d.cols).map fun j =>
        (Long.decode (d.elemAt c k cmd.a r j)).add (Long.decode (d.elemAt c k cmd.b r j))
    else [longSum ((List.range cmd.a.cols).map fun j => Long.decode (d.elemAt c k cmd.a r j))]
  let o := gatherRows (d.winBase c k) cmd.d (rows.map fun l => l.map fun x => ⟨x.1.encode, 0, 0⟩)
  { o with ranges := (rows.map fun l => (l.map fun x => x.2).sum).sum }

/-- An operand of LCVT as R135 reads it: a RANGE flag counts as an infinity of the sign of V. -/
def lcvtOperand (l : Long) : Long :=
  if l.e = 255 then { l with flags := l.flags ||| lfNan }
  else if l.has lfRange then
    { l with flags := (l.flags - lfRange) ||| (if l.v < 0 then lfNeg else lfPos) }
  else l

/-- The exact sum of LCVT's operands, without a range limit, times 2^a (R135). -/
def lcvtValue (a b : Long) (adj : Int) : Val :=
  let fl := a.flags ||| b.flags
  let s : Long := ⟨1, 127, fl⟩
  if s.has lfNan || s.has lfAbove || (s.has lfPos && s.has lfNeg) then .nan
  else if s.has lfPos then .inf false
  else if s.has lfNeg then .inf true
  else
    let e := min a.e b.e
    let v := a.v * (2 ^ (a.e - e) : Nat) + b.v * (2 ^ (b.e - e) : Nat)
    if v = 0 then .fin false 0 0
    else .fin (decide (v < 0)) v.natAbs ((e : Int) - 191 + adj)

/-- LCVT (R135). -/
def vecLcvt (d : Dev) (c : CoreId) (k : SlotId) (cmd : Cmd) : VecOut :=
  let dd := cmd.d
  let tab := d.winBase c k + cmd.f VF.offset
  let rnd := opRnd (cmd.f VF.rnd)
  let entry := fun i => bNat (d.core c).spd (tab + 4 * i) 4
  gatherRows (d.winBase c k) dd ((List.range dd.rows).map fun r => (List.range dd.cols).map fun j =>
    let a := lcvtOperand (Long.decode (d.elemAt c k cmd.a r j))
    let b := if cmd.b.used then lcvtOperand (Long.decode (d.elemAt c k cmd.b r j)) else ⟨0, a.e, 0⟩
    let er := if cmd.f VF.subop = 1 then entry r else 0
    let ec := if cmd.f VF.subop = 1 then entry (dd.rows + j) else 0
    let v := if er = 0x80000000 ∨ ec = 0x80000000 then .nan
      else lcvtValue a b (sext (cmd.f VF.imm8) 8 + sext er 32 + sext ec 32)
    let e := encodeVal (dd.fmt.getD .fp32) rnd false v
    ⟨e.bits, e.flags, 0⟩)

/-- The base-128 digits of an integer, least significant slice last: slice s at index s (R98). -/
def sliceDigits : Nat → Int → List Int
  | 0, _ => []
  | n + 1, v =>
    let dgt := (v + 64) % 128 - 64
    sliceDigits n ((v - dgt) / 128) ++ [dgt]

/-- The exponent of a line of FP64 values (R98, R136): none for a line with a NaN or an infinity. -/
def lineExp (l : List Val) : Option Int :=
  if l.any fun v => match v with | .fin _ _ _ => false | _ => true then none
  else
    let es := l.filterMap fun v => match v with
      | .fin _ m e => if m = 0 then none else some ((Nat.log2 m : Int) + e)
      | _ => none
    match es with
    | [] => some 0
    | x :: r => some (r.foldl (fun a b => max a b) x)

/-- The eight slices of a value at a line's exponent (R98, R136). -/
def valSlices (v : Val) (e : Int) : List Int :=
  match v with
  | .fin s m p =>
    let n := (roundMag .rne s m (p + 53 - e) 0).1
    sliceDigits 8 (if s then -(n : Int) else n)
  | _ => List.replicate 8 0

/-- VSPLIT (R136). -/
def vecSplit (d : Dev) (c : CoreId) (k : SlotId) (cmd : Cmd) : VecOut :=
  let dd := cmd.d
  let base := d.winBase c k
  let byRow := decide (cmd.f VF.subop = 0)
  let val := fun r j => decodeVal .fp64 (d.elemAt c k cmd.a r j)
  let lineOf := fun i => if byRow then (List.range dd.cols).map (val i) else (List.range dd.rows).map fun r => val r i
  let exps := (List.range (if byRow then dd.rows else dd.cols)).map fun i => lineExp (lineOf i)
  let expAt := fun r j => (exps.getD (if byRow then r else j) none)
  let slice := fun s r j => match expAt r j with
    | some e => toBits ((valSlices (val r j) e).getD s 0) 8
    | none => 0
  let ws := (List.range 8).flatMap fun s => (List.range dd.rows).map fun r =>
    (base + dd.addr + s * (dd.rows * dd.stride * 64) + 64 * dd.stride * r,
      packElems .int8 ((List.range dd.cols).map fun j => slice s r j))
  let es := exps.map fun e => match e with | some x => toBits x 32 | none => 0x80000000
  let fl := (List.range (dd.rows * dd.cols)).foldl (fun f n =>
    f ||| snan (some .fp64) (d.elemAt c k cmd.a (n / dd.cols) (n % dd.cols))) 0
  { writes := ws ++ [(base + cmd.b.addr, packElems .int32 es)], flags := fl }

/-- What a command will do when it completes. -/
def vecCompute (d : Dev) (c : CoreId) (k : SlotId) (op : VOp) (cmd : Cmd) : VecOut :=
  let cf := (computeFmt op cmd.d.fmt cmd.a.fmt cmd.b.fmt).getD .fp32
  match op with
  | .red => vecReduce d c k cmd cf
  | .ladd => vecLong d c k op cmd
  | .lred => vecLong d c k op cmd
  | .lcvt => vecLcvt d c k cmd
  | .split => vecSplit d c k cmd
  | _ => vecElementwise d c k op cmd cf

/-- Elements per array cycle (R127). -/
def vecRate (op : VOp) (cf : Fmt) (wide : Bool) : Nat :=
  match op with
  | .cvt => if wide then 256 else 1024
  | .div => if cf = .fp64 then 16 else 128
  | .sqrt => if cf = .fp64 then 16 else 128
  | .func => 128
  | .dact => 128
  | .dpre => 128
  | .ladd => 64
  | .lred => 64
  | .lcvt => 64
  | .split => 32
  | _ => match cf with
    | .fp64 => 256
    | .bf16 => 2048
    | .fp16 => 2048
    | _ => 1024

/-- Array cycles of a vector command: its elements at the rate of R127 and 20 of latency. -/
def vecCycles (op : VOp) (cmd : Cmd) : Nat :=
  let cf := (computeFmt op cmd.d.fmt cmd.a.fmt cmd.b.fmt).getD .fp32
  let n := match op with
    | .red => cmd.d.rows * cmd.a.cols
    | .lred => cmd.d.rows * cmd.a.cols
    | _ => cmd.d.rows * cmd.d.cols
  let rate := vecRate op cf (decide (cmd.d.fmt = some .fp64) || decide (cmd.a.fmt = some .fp64))
  (n + rate - 1) / rate + 20

/-- The slot has a vector command ready (R116). -/
def Dev.vectorReady (d : Dev) (c : CoreId) (k : SlotId) : Bool := (d.head c k 1).isSome

/-- The vector engine takes the slot's command now: it executes none, and the arbiter chooses the slot
(R116, R118, R191). -/
def Dev.vectorTurn (d : Dev) (c : CoreId) (k : SlotId) : Bool :=
  (d.core c).vec.isNone &&
    decide (arbPick (d.core c).arb.vector (fun i => d.vectorReady c (slotOf i)) = some k.val)

/-- Issues a vector command: it leaves its queue and executes (R127). -/
def Dev.issueVector (d : Dev) (c : CoreId) (k : SlotId) (op : VOp) (cmd : Cmd) : Dev :=
  let o := vecCompute d c k op cmd
  let d := (d.startTimer c 1 false).modSlot c k fun y => y.popHead 1
  d.modCore c fun x => { x with
    vec := some ⟨k, cmd, o.writes, o.flags, o.invalids, o.ranges, d.cycle c + vecCycles op cmd⟩
    arb := { x.arb with vector := arbNext k.val } }

/-- The vector command at the head of the slot's vector queue, when it is op, is rejected, waits or
issues (R116, R119). -/
def vectorIssue (op : VOp) (c : CoreId) (k : SlotId) (d : Dev) : Dev :=
  if !d.vectorTurn c k then d
  else d.takeHead c k 1 op.code fun _ cmd =>
    match vecVerdict d c k op cmd with
    | .reject r => d.rejectHead c k 1 r
    | .wait => d
    | .accept => d.issueVector c k op cmd

/-- VECTOR_COMPLETE. The last result is written, the FP64 flags are ORed in, the counters advance and
the command signals (R111, R117, R152). -/
def vectorComplete (c : CoreId) (d : Dev) : Dev :=
  match (d.core c).vec with
  | none => d
  | some v =>
    if d.cycle c < v.due then d
    else
      let d := d.modCore c fun x => { x with vec := none, spd := applyWrites v.writes x.spd }
      let d := (d.count F.VEC_INVCVT_COUNT_COUNT v.invalids c.val).count F.VEC_RANGE_COUNT_COUNT v.ranges c.val
      (d.modSlot c v.slot fun y =>
        { y.complete v.cmd with hart := { y.hart with kfpflags := orFlags y.hart.kfpflags v.flags } }).restartTimer c 1

end Sys2Proof.Machine
end

