-- ==== Sys2Proof/Machine/Mover.lean ====
section
/-! DEFINITION. The stream mover: its commands' checks, issue, completion and errors
(05_on_die_storage R161 to R174, 11_collectives_mapping R323 to R327). A command's bytes are read and
written when it completes, and the commands of one queue complete in issue order (R172; log 8). -/

namespace Sys2Proof.Machine

/-- Fields of a mover command (R167). -/
def MF.spdAddr : Bf := ⟨64, 24⟩
def MF.spdStride : Bf := ⟨88, 16⟩
def MF.spdPlane : Bf := ⟨104, 16⟩
def MF.res0 : Bf := ⟨120, 8⟩
def MF.memLine : Bf := ⟨128, 35⟩
def MF.res1 : Bf := ⟨163, 29⟩
def MF.memStride : Bf := ⟨192, 32⟩
def MF.memPlane : Bf := ⟨224, 32⟩
def MF.rowBytesM1 : Bf := ⟨256, 16⟩
def MF.rowsM1 : Bf := ⟨272, 16⟩
def MF.planesM1 : Bf := ⟨288, 16⟩
def MF.auxAddr : Bf := ⟨304, 24⟩
def MF.auxStride : Bf := ⟨328, 16⟩
def MF.group : Bf := ⟨344, 3⟩
def MF.res2 : Bf := ⟨347, 1⟩
def MF.segBase : Bf := ⟨348, 4⟩
def MF.res3 : Bf := ⟨370, 142⟩

/-- The mover commands (R168). -/
inductive MOp where
  | copy
  | load
  | store
  | gather
  | scatter
  | send
  | recv
  | acfsave
  | acfload
deriving DecidableEq, Repr

/-- Their opcodes (R168). -/
def MOp.code : MOp → Nat
  | .copy => 0x40
  | .load => 0x41
  | .store => 0x42
  | .gather => 0x43
  | .scatter => 0x44
  | .send => 0x45
  | .recv => 0x46
  | .acfsave => 0x48
  | .acfload => 0x49

/-- The command of an opcode. -/
def MOp.ofCode (n : Nat) : Option MOp :=
  [MOp.copy, .load, .store, .gather, .scatter, .send, .recv, .acfsave, .acfload].find? fun o => decide (o.code = n)

/-- The fields that a command uses (R167 to R169); PLANES_M1 of the one-plane commands is checked on its
own (R168). -/
def MOp.uses : MOp → List Bf
  | .copy => [MF.spdAddr, MF.spdStride, MF.rowBytesM1, MF.rowsM1, MF.planesM1, MF.auxAddr, MF.auxStride]
  | .load => [MF.spdAddr, MF.spdStride, MF.spdPlane, MF.memLine, MF.memStride, MF.memPlane, MF.rowBytesM1,
      MF.rowsM1, MF.planesM1]
  | .store => [MF.spdAddr, MF.spdStride, MF.spdPlane, MF.memLine, MF.memStride, MF.memPlane, MF.rowBytesM1,
      MF.rowsM1, MF.planesM1]
  | .gather => [MF.spdAddr, MF.spdStride, MF.memLine, MF.memStride, MF.rowBytesM1, MF.rowsM1, MF.planesM1, MF.auxAddr]
  | .scatter => [MF.spdAddr, MF.spdStride, MF.memLine, MF.memStride, MF.rowBytesM1, MF.rowsM1, MF.planesM1, MF.auxAddr]
  | .send => [MF.spdAddr, MF.spdStride, MF.rowBytesM1, MF.rowsM1, MF.planesM1, MF.ring]
  | .recv => [MF.spdAddr, MF.spdStride, MF.rowBytesM1, MF.rowsM1, MF.planesM1, MF.ring]
  | .acfsave => [MF.auxAddr, MF.group]
  | .acfload => [MF.auxAddr, MF.group, MF.segBase]

/-- Every field of a mover command after the header. -/
def moverFields : List Bf :=
  [MF.spdAddr, MF.spdStride, MF.spdPlane, MF.res0, MF.memLine, MF.res1, MF.memStride, MF.memPlane, MF.rowBytesM1,
   MF.rowsM1, MF.planesM1, MF.auxAddr, MF.auxStride, MF.group, MF.res2, MF.segBase, MF.ring, MF.res3]

/-- An unused field is not zero, or a used scratchpad address is not aligned (R167). -/
def MOp.badFields (o : MOp) (cmd : Cmd) : Bool :=
  (moverFields.any fun f => !o.uses.contains f && decide (cmd.f f ≠ 0)) ||
    (o.uses.contains MF.spdAddr && decide (cmd.f MF.spdAddr % 64 ≠ 0)) ||
    (o.uses.contains MF.auxAddr && decide (cmd.f MF.auxAddr % 64 ≠ 0))

/-- The command has one plane only (R168). -/
def MOp.onePlane : MOp → Bool
  | .copy => true
  | .gather => true
  | .scatter => true
  | .send => true
  | .recv => true
  | _ => false

/-- Bytes per row, rows per plane, planes. -/
def Cmd.rowBytes (c : Cmd) : Nat := c.f MF.rowBytesM1 + 1
def Cmd.mrows (c : Cmd) : Nat := c.f MF.rowsM1 + 1
def Cmd.mplanes (c : Cmd) : Nat := c.f MF.planesM1 + 1

/-- Rows of the scratchpad side, plane by plane (R169). -/
def Cmd.spdRows (c : Cmd) : List (Nat × Nat) :=
  (List.range c.mplanes).flatMap fun p => (List.range c.mrows).map fun r =>
    (c.f MF.spdAddr + 64 * (p * c.f MF.spdPlane + r * c.f MF.spdStride), c.rowBytes)

/-- Rows of MCOPY's source (R168). -/
def Cmd.auxRows (c : Cmd) : List (Nat × Nat) := rowRanges (c.f MF.auxAddr) (c.f MF.auxStride) c.mrows c.rowBytes

/-- Rows of the memory side, plane by plane (R169). -/
def Cmd.memRows (c : Cmd) : List (Nat × Nat) :=
  (List.range c.mplanes).flatMap fun p => (List.range c.mrows).map fun r =>
    (64 * (c.f MF.memLine + p * c.f MF.memPlane + r * c.f MF.memStride), c.rowBytes)

/-- The scratchpad ranges that a command touches; for group images, of count segments. -/
def MOp.spdRanges (o : MOp) (cmd : Cmd) (count : Nat) : List (Nat × Nat) :=
  match o with
  | .copy => cmd.spdRows ++ cmd.auxRows
  | .gather => cmd.spdRows ++ [(cmd.f MF.auxAddr, 4 * cmd.mrows)]
  | .scatter => cmd.spdRows ++ [(cmd.f MF.auxAddr, 4 * cmd.mrows)]
  | .acfsave => [(cmd.f MF.auxAddr, 64 + 65536 * count)]
  | .acfload => [(cmd.f MF.auxAddr, 64 + 65536 * count)]
  | _ => cmd.spdRows

/-- Every extent of the memory rows permits the access (R170). -/
def Dev.rowsAllowed (d : Dev) (p : PartId) (l : List (Nat × Nat)) (write : Bool) : Bool :=
  l.all fun x => (extentsOf x.1 x.2).all fun e => d.moverAccess p e write

/-- The numbers that commands in flight on any core have claimed of a ring, with an opcode. -/
def Dev.claimed (d : Dev) (op r : Nat) : List Nat :=
  d.cores.flatMap fun e => (e.2.mover.filter fun x =>
    decide (x.cmd.f CF.op = op) && decide (x.cmd.f MF.ring = r) && !x.doomed).map fun x => x.slotNo

/-- The message of number n is visible (R325). -/
def visibleAt (m : Mem) (d : Dev) (r n : Nat) : Bool :=
  decide ((n + 2 ^ 32 - d.rf r RF.consumed) % 2 ^ 32 < d.ringFill r) &&
    bitAt (memByte m d (d.slotAddr r n + 24)).toNat 0

/-- The number that the next MRECV on a ring claims: the first from CONSUMED on that no other in flight holds
(R325). -/
def Dev.nextRecv (d : Dev) (r : Nat) : Nat :=
  let held := d.claimed 0x46 r
  let at_ := fun i => (d.rf r RF.consumed + i) % 2 ^ 32
  (((List.range (held.length + 1)).find? fun i => !held.contains (at_ i)).map at_).getD 0

/-- The head of a slot's mover queue is an MRECV that waits on a ring of its partition (R325). -/
def Dev.recvWaits (d : Dev) (r : Nat) (c : CoreId) (k : SlotId) : Bool :=
  match d.head c k 2 with
  | none => false
  | some (y, cmd) => decide (cmd.f CF.op = 0x46) && decide (cmd.f MF.ring = r) && d.ringMine y.part.val r

/-- The arbiter of a ring, whose requesters are the cores, lets a core's MRECV claim the next message (R191, R325). -/
def Dev.recvGranted (d : Dev) (r : Nat) (c : CoreId) : Bool :=
  let asks := fun (b : CoreId) => decide ((d.core b).mover.length < 8) &&
    [0, 1, 2, 3].any fun i => d.recvWaits r b (slotOf i)
  decide (((allCores.find? fun b => decide ((d.ring r).recvPtr ≤ b.val) && asks b).orElse fun _ => allCores.find? asks) = some c)

/-- The record of a group image at a window offset (R162). -/
def Dev.groupImage (d : Dev) (c : CoreId) (k : SlotId) (a : Nat) : Nat := leNat (d.winRead c k a 16)

/-- A group image's parameters are ones no pass could open (R164). -/
def imageBad (v : Nat) : Bool :=
  let count := bits v 4 5
  let long := bitAt v 9
  let width := bits v 10 2
  decide (count = 0) || decide (16 < count) || decide (width = 3) || decide (bits v 12 8 = 255) ||
    (long && decide (width = 1)) || (!long && decide (width = 0))

/-- The group that ACFLOAD opens (R164). -/
def loadedGroup (k : SlotId) (cmd : Cmd) (v : Nat) : Group :=
  let long := bitAt v 9
  { base := cmd.f MF.segBase, count := bits v 4 5, long := long, width := bits v 10 2, exp := bits v 12 8,
    st := .isOpen, owner := k, passes := bits v 32 32, loading := true,
    fill := if long then Long.encode ⟨0, bits v 12 8, 0⟩ else 0 }

/-- An earlier command of the queue that is in flight writes scratchpad bytes of a range (R172). -/
def Dev.writesInFlight (d : Dev) (c : CoreId) (k : SlotId) (a n : Nat) : Bool :=
  (d.core c).mover.any fun x => decide (x.slot = k) &&
    (match MOp.ofCode (x.cmd.f CF.op) with
     | some .acfsave =>
       overlaps (x.cmd.f MF.auxAddr) (64 + 65536 * ((d.core c).group (x.cmd.f MF.group)).count) a n
     | some .store => false
     | some .scatter => false
     | some .send => false
     | some .acfload => false
     | _ => x.cmd.spdRows.any fun r => overlaps r.1 r.2 a n)

/-- The part of the verdict that concerns rings (R170, R323 to R325). -/
def ringVerdict (m : Mem) (d : Dev) (c : CoreId) (p : PartId) (o : MOp) (cmd : Cmd) : Verdict :=
  let r := cmd.f MF.ring
  let kind := d.rf r RF.kind
  let len := cmd.mrows * cmd.rowBytes
  let cap := 2 ^ (if kind = 2 then d.rf r RF.peerSlotLog else d.rf r RF.slotLog) - 64
  match o with
  | .send => firstVerdict
    [(!d.ringMine p.val r, .reject rParam),
     (decide (kind ≠ 2) && !(decide (kind = 1) && decide (d.rf r RF.pMover = 1)), .reject rParam),
     (decide (cap < len), .reject rParam),
     (decide (d.rf r RF.error = 1), .accept),
     (!d.ringRoom r, .wait)]
  | .recv => firstVerdict
    [(!d.ringMine p.val r, .reject rParam),
     (decide (kind ≠ 1) || decide (d.rf r RF.consumer ≠ 0), .reject rParam),
     (decide (d.rf r RF.error = 1), .accept),
     (!visibleAt m d r (d.nextRecv r) || !d.recvGranted r c, .wait)]
  | _ => .accept

/-- The part of the verdict that concerns groups (R163, R164). -/
def acfVerdict (d : Dev) (c : CoreId) (k : SlotId) (o : MOp) (cmd : Cmd) : Verdict :=
  let x := d.core c
  let g := cmd.f MF.group
  let gr := x.group g
  let a := cmd.f MF.auxAddr
  match o with
  | .acfsave => firstVerdict
    [(decide (gr.st ≠ .isOpen), .reject rGroup),
     (decide (gr.owner ≠ k), .reject rOwner),
     (!d.rangesOk c k (o.spdRanges cmd gr.count), .reject rWindow),
     (x.passes.any fun p => decide (p.mode ≠ .outer) && decide (p.group.val = g), .wait)]
  | .acfload =>
    let v := d.groupImage c k a
    firstVerdict
    [(!d.inWindow c k a 64, .reject rWindow),
     (d.writesInFlight c k a 64, .wait),
     (imageBad v, .reject rDescriptor),
     (!d.rangesOk c k (o.spdRanges cmd (bits v 4 5)), .reject rWindow),
     (decide (x.openVerdict g (cmd.f MF.segBase) (bits v 4 5) ≠ .accept), x.openVerdict g (cmd.f MF.segBase) (bits v 4 5))]
  | _ => .accept

/-- The mover's verdict on a command (R163 to R170, R323 to R325). -/
def moverVerdict (m : Mem) (d : Dev) (c : CoreId) (k : SlotId) (p : PartId) (o : MOp) (cmd : Cmd) : Verdict :=
  firstVerdict
    [(o.badFields cmd, .reject rDescriptor),
     (o.onePlane && decide (cmd.f MF.planesM1 ≠ 0), .reject rParam),
     (decide (o ≠ .acfsave) && decide (o ≠ .acfload) && !d.rangesOk c k (o.spdRanges cmd 0), .reject rWindow),
     (decide (o = .load) && !d.rowsAllowed p cmd.memRows false, .reject rParam),
     (decide (o = .store) && !d.rowsAllowed p cmd.memRows true, .reject rParam),
     (decide (ringVerdict m d c p o cmd ≠ .accept), ringVerdict m d c p o cmd),
     (decide (acfVerdict d c k o cmd ≠ .accept), acfVerdict d c k o cmd)]

/-- The slot's head is a command that the mover would take or reject now (R116). -/
def moverReady (m : Mem) (d : Dev) (c : CoreId) (k : SlotId) : Bool :=
  match d.head c k 2 with
  | none => false
  | some (x, cmd) =>
    if cmd.f CF.op = 0 then !(d.core c).executing k 2
    else
      match MOp.ofCode (cmd.f CF.op) with
      | none => true
      | some o => decide (cmd.f CF.res ≠ 0) || decide (moverVerdict m d c k x.part o cmd ≠ .wait)

/-- The arbiter of the mover chooses the slot (R116, R191). -/
def moverPick (m : Mem) (d : Dev) (c : CoreId) (k : SlotId) : Bool :=
  decide (arbPick (d.core c).arb.mover (fun i => moverReady m d c (slotOf i)) = some k.val)

/-- The mover takes the slot's command now: it holds fewer than eight, and the arbiter chooses the slot
(R166, R191). -/
def moverTurn (m : Mem) (d : Dev) (c : CoreId) (k : SlotId) : Bool :=
  decide ((d.core c).mover.length < 8) && moverPick m d c k

/-- Least array cycles of a command: group images as R165 says, 512 B per cycle on the mesh (R166), and
1,024 B per cycle of scratchpad writes (R153). -/
def MOp.cycles (o : MOp) (cmd : Cmd) (count : Nat) : Nat :=
  let n := cmd.mplanes * cmd.mrows * cmd.rowBytes
  match o with
  | .acfsave => 8 + (64 + 65536 * count + 1023) / 1024
  | .acfload => 8 + (64 + 65536 * count + 1023) / 1024
  | .copy => (n + 1023) / 1024
  | _ => (n + 511) / 512

/-- Issues a mover command: it leaves its queue; an MSEND claims its message number, an MRECV the number
of the message it takes, and the ring's arbiter moves on; ACFSAVE's group drains and ACFLOAD's group opens (R163, R164, R323, R325). A
MESSAGE ring whose buffer is not VALID DATA of the owner enters error at this access (R347). -/
def issueMover (m : Mem) (c : CoreId) (k : SlotId) (p : PartId) (o : MOp) (cmd : Cmd) (d : Dev) : Dev :=
  let r := cmd.f MF.ring
  let onRing := decide (o = .send) || decide (o = .recv)
  let d := if onRing && decide (d.rf r RF.kind = 1) && !d.bufferOk r then ringError m r 5 0 d else d
  let doomed := onRing && decide (d.rf r RF.error = 1)
  let n := if doomed then 0 else if o = .send then d.rf r RF.produced else if o = .recv then d.nextRecv r else 0
  let d := if o = .send ∧ !doomed then d.setRf r RF.produced (n + 1)
    else if o = .recv ∧ !doomed then d.setRing r { d.ring r with recvPtr := (c.val + 1) % 144 } else d
  let x := d.core c
  let g := cmd.f MF.group
  let v := d.groupImage c k (cmd.f MF.auxAddr)
  let count := if o = .acfsave then (x.group g).count else if o = .acfload then bits v 4 5 else 0
  let ex : MovExec := { slot := k, cmd := cmd, slotNo := n, turn := d.turnOf p, doomed := doomed,
                        due := d.cycle c + o.cycles cmd count }
  let d := (d.startTimer c 2 (!x.mover.isEmpty)).modSlot c k fun y => y.popHead 2
  d.modCore c fun x =>
    let x := { x with mover := x.mover ++ [ex], arb := { x.arb with mover := arbNext k.val } }
    match o with
    | .acfsave => x.setGroup g { x.group g with st := .draining }
    | .acfload => x.setGroup g (loadedGroup k cmd v)
    | _ => x

/-- The command at the head of the slot's mover queue, when it is o, is rejected, waits or issues (R116,
R119). -/
def moverIssue (o : MOp) (m : Mem) (c : CoreId) (k : SlotId) (d : Dev) : Dev :=
  if !moverTurn m d c k then d
  else d.takeHead c k 2 o.code fun x cmd =>
    match moverVerdict m d c k x.part o cmd with
    | .reject r => d.rejectHead c k 2 r
    | .wait => d
    | .accept => issueMover m c k x.part o cmd d

/-! ### What a command moves -/

/-- Writes bytes at a window offset. -/
def Dev.winWrite (d : Dev) (c : CoreId) (k : SlotId) (a : Nat) (l : List Byte) : Dev :=
  let b := d.winBase c k
  d.modCore c fun x => { x with spd := bWrite (b + a) l x.spd }

/-- Index i of an index list (R168). -/
def Dev.index (d : Dev) (c : CoreId) (k : SlotId) (cmd : Cmd) (i : Nat) : Int :=
  sext (leNat (d.winRead c k (cmd.f MF.auxAddr + 4 * i) 4)) 32

/-- The memory row of an index; none when the index is negative or reaches an extent that fails R170. -/
def Dev.indexedRow (d : Dev) (c : CoreId) (k : SlotId) (p : PartId) (cmd : Cmd) (write : Bool) (i : Nat) :
    Option Nat :=
  let v := d.index c k cmd i
  let a := 64 * (cmd.f MF.memLine + v.toNat * cmd.f MF.memStride)
  if 0 ≤ v ∧ (extentsOf a cmd.rowBytes).all fun e => d.moverAccess p e write then some a else none

/-- A transfer of one row between memory and scratchpad. -/
def loadRow (m : Mem) (c : CoreId) (k : SlotId) (spd a n : Nat) (d : Dev) : Dev :=
  (((d.winWrite c k spd (memRead m d a n)).countStk false a n).count F.MOV_BYTES_RD_BYTES n c.val)

/-- A transfer of one row from scratchpad to memory. -/
def storeRow (c : CoreId) (k : SlotId) (spd a n : Nat) (d : Dev) : Dev :=
  (((d.store a (d.winRead c k spd n)).countStk true a n).count F.MOV_BYTES_WR_BYTES n c.val)

/-- The first `rows` rows of an indexed command; rows past a bad index are not moved. -/
def indexedRows (m : Mem) (c : CoreId) (k : SlotId) (p : PartId) (cmd : Cmd) (write : Bool) (rows : Nat) (d : Dev) : Dev :=
  (List.range rows).foldl (fun d i =>
    match d.indexedRow c k p cmd write i with
    | none => d
    | some a =>
      let s := cmd.f MF.spdAddr + 64 * (i * cmd.f MF.spdStride)
      if write then storeRow c k s a cmd.rowBytes d else loadRow m c k s a cmd.rowBytes d) d

/-- The rows of MLOAD or MSTORE, the first `rows` of them. -/
def plainRows (m : Mem) (c : CoreId) (k : SlotId) (cmd : Cmd) (write : Bool) (rows : Nat) (d : Dev) : Dev :=
  ((cmd.spdRows.zip cmd.memRows).take rows).foldl (fun d x =>
    if write then storeRow c k x.1.1 x.2.1 cmd.rowBytes d else loadRow m c k x.1.1 x.2.1 cmd.rowBytes d) d

/-- A message's payload into rows, in order (R325). -/
def putRows (c : CoreId) (k : SlotId) (cmd : Cmd) : Nat → Nat → List Byte → Dev → Dev
  | 0, _, _, d => d
  | n + 1, i, l, d =>
    if l.isEmpty then d
    else putRows c k cmd n (i + 1) (l.drop cmd.rowBytes)
      (d.winWrite c k (cmd.f MF.spdAddr + 64 * (i * cmd.f MF.spdStride)) (l.take cmd.rowBytes))

/-- The bytes of an MSEND, its rows in order. -/
def Dev.sendBytes (d : Dev) (c : CoreId) (k : SlotId) (cmd : Cmd) : List Byte :=
  (d.readRanges c k cmd.spdRows).flatten

/-- Accepts a message whose number is claimed: into its slot, or as packets (R325, R327). -/
def acceptMessage (r n turn : Nat) (l : List Byte) (d : Dev) : Dev :=
  if d.rf r RF.kind = 2 then d.emitMessage r n l
  else (d.fillSlot r n turn l).countStk true (d.slotAddr r n) (64 + l.length)

/-- The group that a group image's command names. -/
def Cmd.mgroup (c : Cmd) : GroupId := ⟨c.f MF.group % 8, Nat.mod_lt _ (by decide)⟩

/-- What a completing command moves (R163, R164, R168, R169, R171). ACFSAVE's group is free from the next cycle; the
pass that waits at the edge for ACFLOAD's group enters the array. -/
def moverEffect (m : Mem) (c : CoreId) (p : PartId) (x : MovExec) (o : MOp) (d : Dev) : Dev :=
  let k := x.slot
  let cmd := x.cmd
  let r := cmd.f MF.ring
  let g := cmd.f MF.group
  match o with
  | .copy =>
    let rows := d.readRanges c k cmd.auxRows
    (cmd.spdRows.zip rows).foldl (fun d y => d.winWrite c k y.1.1 y.2) d
  | .load => plainRows m c k cmd false (cmd.mplanes * cmd.mrows) d
  | .store => plainRows m c k cmd true (cmd.mplanes * cmd.mrows) d
  | .gather => indexedRows m c k p cmd false cmd.mrows d
  | .scatter => indexedRows m c k p cmd true cmd.mrows d
  | .send =>
    let l := d.sendBytes c k cmd
    (acceptMessage r x.slotNo x.turn l d).count F.MOV_BYTES_WR_BYTES l.length c.val
  | .recv =>
    let l := slotPayload m d r x.slotNo
    let d := putRows c k cmd cmd.mrows 0 l d
    let d := (d.countStk false (d.slotAddr r x.slotNo) (64 + l.length)).count F.MOV_BYTES_RD_BYTES l.length c.val
    Dev.consumeAt m d r x.slotNo
  | .acfsave =>
    let gr := (d.core c).group g
    let d := d.winWrite c k (cmd.f MF.auxAddr) (groupRecord g gr ++ List.replicate 48 0 ++ gr.segmentBytes)
    d.modCore c fun y => y.setGroup g { gr with freeAt := some (d.cycle c + 1) }
  | .acfload =>
    let gr := (d.core c).group g
    let l := d.winRead c k (cmd.f MF.auxAddr + 64) (65536 * gr.count)
    d.modCore c fun y => (y.setGroup g { gr.withSegments l with loading := false }).letIn x.cmd.mgroup (d.cycle c)

/-- The first index of an indexed command that fails (R174). -/
def Dev.badIndex (d : Dev) (c : CoreId) (p : PartId) (x : MovExec) (o : MOp) : Option Nat :=
  match o with
  | .gather => (List.range x.cmd.mrows).find? fun i => (d.indexedRow c x.slot p x.cmd false i).isNone
  | .scatter => (List.range x.cmd.mrows).find? fun i => (d.indexedRow c x.slot p x.cmd true i).isNone
  | _ => none

/-- An MRECV's message is longer than its rows (R174). -/
def tooLong (m : Mem) (d : Dev) (x : MovExec) (o : MOp) : Bool :=
  decide (o = .recv) && decide (x.cmd.mrows * x.cmd.rowBytes < slotLength m d (x.cmd.f MF.ring) x.slotNo)

/-- The command's ring is in error, or was when it issued (R324). -/
def Dev.ringFails (d : Dev) (x : MovExec) (o : MOp) : Bool :=
  (decide (o = .send) || decide (o = .recv)) && (x.doomed || decide (d.rf (x.cmd.f MF.ring) RF.error = 1))

/-- The oldest command of a slot in flight. -/
def Core.oldestMove (x : Core) (k : SlotId) : Option MovExec := x.mover.find? fun e => decide (e.slot = k)

/-- Device memory that a command reads or writes, apart from ring slots. -/
def Dev.moveRanges (d : Dev) (c : CoreId) (p : PartId) (x : MovExec) (o : MOp) : List (Nat × Nat) :=
  match o with
  | .load => x.cmd.memRows
  | .store => x.cmd.memRows
  | .gather => (List.range x.cmd.mrows).filterMap fun i => (d.indexedRow c x.slot p x.cmd false i).map fun a => (a, x.cmd.rowBytes)
  | .scatter => (List.range x.cmd.mrows).filterMap fun i => (d.indexedRow c x.slot p x.cmd true i).map fun a => (a, x.cmd.rowBytes)
  | _ => []

/-- The command meets an error completion of a stack (R174, R240). -/
def Dev.moveFails (d : Dev) (c : CoreId) (p : PartId) (x : MovExec) (o : MOp) : Bool :=
  (d.moveRanges c p x o).any (fun r =>
    if o = .load ∨ o = .gather then d.readFails r.1 r.2 else d.badWrite r.1 r.2) ||
  (decide (o = .recv) && d.badRead (d.slotAddr (x.cmd.f MF.ring) x.slotNo) (2 ^ d.rf (x.cmd.f MF.ring) RF.slotLog)) ||
  (decide (o = .send) && decide (d.rf (x.cmd.f MF.ring) RF.kind = 1) &&
    d.badWrite (d.slotAddr (x.cmd.f MF.ring) x.slotNo) (64 + x.cmd.mrows * x.cmd.rowBytes))

/-- No command in flight holds an earlier number of the same SEND ring: its messages leave in the order of their
numbers (R326, R329). -/
def Dev.sendsNext (d : Dev) (x : MovExec) : Bool :=
  let r := x.cmd.f MF.ring
  let age := fun n => (d.rf r RF.produced + 2 ^ 32 - n) % 2 ^ 32
  decide (d.rf r RF.kind ≠ 2) || (d.claimed 0x45 r).all fun n => decide (age n ≤ age x.slotNo)

/-- A slot's oldest command in flight may complete now: its time has passed, no error of R174 ends it,
an MRECV's message is the next to be consumed, and an MSEND's the next to leave. -/
def canComplete (m : Mem) (d : Dev) (c : CoreId) (p : PartId) (x : MovExec) (o : MOp) : Bool :=
  decide (x.due ≤ d.cycle c) && (d.badIndex c p x o).isNone && !d.ringFails x o && !tooLong m d x o &&
    !d.moveFails c p x o &&
    (decide (o ≠ .recv) || decide (x.slotNo = d.rf (x.cmd.f MF.ring) RF.consumed)) &&
    (decide (o ≠ .send) || d.sendsNext x)

/-- MOVER_COMPLETE. The slot's oldest command in flight moves its bytes, completes and signals (R171,
R172). -/
def moverComplete (m : Mem) (c : CoreId) (k : SlotId) (d : Dev) : Dev :=
  match (d.core c).oldestMove k, d.slotCtx c k with
  | some x, some y =>
    match MOp.ofCode (x.cmd.f CF.op) with
    | none => d
    | some o =>
      if canComplete m d c y.part x o then
        let d := moverEffect m c y.part x o d
        let d := d.modCore c fun z => { z with mover := z.mover.erase x }
        (d.modSlot c k fun z => z.complete x.cmd).restartTimer c 2
      else d
  | _, _ => d

/-- The error can befall the command: codes 2 and 5 come from the stores, the others from the command's
own condition (R174). -/
def errorHolds (m : Mem) (d : Dev) (c : CoreId) (p : PartId) (x : MovExec) (o : MOp) (code row : Nat) : Bool :=
  match code with
  | 1 => decide (d.badIndex c p x o = some row)
  | 2 => decide (o = .load ∨ o = .store ∨ o = .gather ∨ o = .scatter ∨ o = .recv) ||
      (decide (o = .send) && decide (d.rf (x.cmd.f MF.ring) RF.kind = 1))
  | 3 => tooLong m d x o && !d.ringFails x o
  | 4 => d.ringFails x o
  | 5 => true
  | _ => false

/-- The rows that a failing command had written before it stopped (R174): rows before the failing one. -/
def partialRows (m : Mem) (c : CoreId) (p : PartId) (x : MovExec) (o : MOp) (code row : Nat) (d : Dev) : Dev :=
  if code = 3 ∨ code = 4 then d
  else
    match o with
    | .load => plainRows m c x.slot x.cmd false row d
    | .store => plainRows m c x.slot x.cmd true row d
    | .gather => indexedRows m c x.slot p x.cmd false (min row x.cmd.mrows) d
    | .scatter => indexedRows m c x.slot p x.cmd true (min row x.cmd.mrows) d
    | _ => d

/-- MOVER_ERROR. An issued command stops without a signal, its queue halts, the first error of the slot is
recorded and event 2 posted; codes MEMORY and SRAM, and any error of a
collective, fail the turn (R174, R257, R339, R415). -/
def moverError (m : Mem) (c : CoreId) (k : SlotId) (code : BitVec 4) (row : Nat) (d : Dev) : Dev :=
  match (d.core c).oldestMove k, d.slotCtx c k with
  | some x, some y =>
    match MOp.ofCode (x.cmd.f CF.op) with
    | none => d
    | some o =>
      if errorHolds m d c y.part x o code.toNat row then
        let d := partialRows m c y.part x o code.toNat row d
        let d := d.modCore c fun z => { z with mover := z.mover.erase x }
        let d := (d.modSlot c k fun z => z.setQueue 2 { z.queue 2 with failed := true }).restartTimer c 2
        let d := if d.flag F.MOV_ERR_VALID c.val k.val then d
          else ((((d.setFld F.MOV_ERR_OP (x.cmd.f CF.op) c.val k.val).setFld F.MOV_ERR_CODE code.toNat c.val k.val).setFld
            F.MOV_ERR_VALID 1 c.val k.val).setFld F.MOV_ERR_SEQ x.cmd.seq.toNat c.val k.val).setFld F.MOV_ERR_TAG
            (x.cmd.f CF.tag) c.val k.val
        let d := d.postEvent y.part 2 c.val ((d.word (F.MOV_ERR_OP.addr c.val k.val)).toNat + k.val * 2 ^ 64)
        if code = 2 ∨ code = 5 ∨ x.cmd.seq ∈ y.collCmds then failJobTurn m y.part 8 d else d
      else d
  | _, _ => d

/-! ### NOP -/

/-- The unit of a queue takes a NOP at the head of the slot's queue: the matrix unit serves the slot, or the arbiter of
the vector engine or the mover chooses it (R116). -/
def nopTurn (m : Mem) (d : Dev) (c : CoreId) (k : SlotId) (q : QueueId) : Bool :=
  match q with
  | 0 => (d.core c).serves k
  | 1 => d.vectorTurn c k
  | 2 => moverPick m d c k

/-- The pointer of a queue's arbiter after a grant to a slot (R191). -/
def Arbiters.granted (a : Arbiters) (q : QueueId) (k : SlotId) : Arbiters :=
  match q with
  | 0 => a
  | 1 => { a with vector := arbNext k.val }
  | 2 => { a with mover := arbNext k.val }

/-- NOP. A NOP at the head of a queue issues after its wait and signals at issue (R117, R120). The vector
engine and the mover take it once no earlier command of the queue executes, since the signals of one
queue come in order (R118, R172). -/
def nop (m : Mem) (c : CoreId) (k : SlotId) (q : QueueId) (d : Dev) : Dev :=
  if !nopTurn m d c k q then d
  else d.takeHead c k q 0x00 fun _ cmd =>
    (d.modCore c fun x => { x with arb := x.arb.granted q k }).modSlot c k fun y => (y.popHead q).complete cmd

end Sys2Proof.Machine
end

