-- ==== Sys2Proof/Machine/Xmap.lean ====
section
/-! DEFINITION. The commands of the extent map (08_memory_extents R235 to R237), clearing (R233) and the
digest of an extent while it loads (R245). -/

namespace Sys2Proof.Machine

/-- Results of XMAP_k_STATUS (R251). -/
def xState : Nat := 1
/-- See xState. -/
def xKind : Nat := 2
/-- See xState. -/
def xTimeout : Nat := 3
/-- See xState. -/
def xRange : Nat := 4
/-- See xState. -/
def xDigest : Nat := 5

/-- The die of an XMAP page. -/
def PageCmd.die (h : PageCmd) : Nat := h.page % 256
/-- OP of a command. -/
def PageCmd.code (h : PageCmd) : Nat := h.op % 256
/-- The first entry that an XMAP command names. -/
def PageCmd.first (h : PageCmd) : Nat := 131072 * h.die + h.a
/-- COUNT of an XMAP command. -/
def PageCmd.entries (h : PageCmd) : Nat := h.b + 1

/-- The command is an ALLOCATE of pairs (R235). -/
def PageCmd.pairs (h : PageCmd) : Bool :=
  decide (h.code = 1) && (decide (XF.kind.get h.arg0 = 3) || decide (XF.kind.get h.arg0 = 4))

/-- The extents at a position of a command's run: the entry, and its partner for pairs. -/
def PageCmd.at (h : PageCmd) (i : Nat) : List Nat :=
  if h.pairs then [h.first + i, XF.partner.get h.arg0 + i] else [h.first + i]

/-- The extents that a command names, partner run last. -/
def PageCmd.named (h : PageCmd) : List Nat :=
  (List.range h.entries).map (fun i => h.first + i) ++
    if h.pairs then (List.range h.entries).map fun i => XF.partner.get h.arg0 + i else []

/-- Fields that are wrong for the whole command (R235, R251, R280): a reserved OP; for ALLOCATE a KIND that is not owned,
DIGEST_MODE with a kind other than WEIGHT, and MEMBER of pairs; for LOAD_END of several extents a list of digests
that is not aligned or not in VALID DATA of the owner. -/
def xmapBad (d : Dev) (h : PageCmd) : Bool :=
  let a := h.arg0
  let k := XF.kind.get a
  if h.code = 0 ∨ 8 < h.code then true
  else if h.code = 1 then
    decide (k = 0) || decide (6 < k) || (decide (XF.digestMode.get a = 1) && decide (k ≠ 2)) ||
      (h.pairs && decide (XF.member.get a ≠ 0))
  else if h.code = 4 ∧ 1 < h.entries then
    decide (h.arg1 % 8 ≠ 0) || decide (2 ^ 41 ≤ h.arg1) || !d.validData (d.xf h.first XF.owner) h.arg1 (8 * h.entries)
  else false

/-- KIND, and then STATE, of an entry refuse the command (R235). -/
def entryRefuses (d : Dev) (op e : Nat) : Bool × Bool :=
  let k := d.xf e XF.kind
  let s := d.xf e XF.state
  match op with
  | 1 => (decide (k ≠ 0), decide (d.xf e XF.retire = 1))
  | 2 => (decide (k = 0) || decide (6 < k), decide (s = 1))
  | 3 => (decide (k < 2) || decide (4 < k), decide (s ≠ 2) && decide (s ≠ 3))
  | 4 => (false, decide (s ≠ 2))
  | 5 => (false, decide (s ≠ 3))
  | 6 => (false, decide (s ≠ 4))
  | 7 => (decide (k ≠ 2), false)
  | _ => (false, false)

/-- The result of the checks at a position (R235). -/
def xmapPos (d : Dev) (h : PageCmd) (bad : Bool) (i : Nat) : Nat :=
  let q := XF.partner.get h.arg0 + i
  if 131072 ≤ h.a + i ∨ (h.at i).any systemExtent then xRange
  else if h.pairs ∧ (q / 131072 ≠ h.die ∨ (h.first ≤ q ∧ q < h.first + h.entries)) then xRange
  else if bad ∨ (h.at i).any (fun e => (entryRefuses d h.code e).1) then xKind
  else if (h.at i).any (fun e => (entryRefuses d h.code e).2) then xState
  else 0

/-- The first position at which a check fails, with its result (R235). -/
def xmapCheck (d : Dev) (h : PageCmd) : Option (Nat × Nat) :=
  let bad := xmapBad d h
  ((List.range h.entries).map fun i => (i, xmapPos d h bad i)).find? fun x => decide (x.2 ≠ 0)

/-! ### Accesses in flight -/

/-- A mover command in flight was checked against an extent (R236, R237). -/
def moverTouches (d : Dev) (x : MovExec) (e : Nat) : Bool :=
  match MOp.ofCode (x.cmd.f CF.op) with
  | some .load => x.cmd.memRows.any fun r => (extentsOf r.1 r.2).contains e
  | some .store => x.cmd.memRows.any fun r => (extentsOf r.1 r.2).contains e
  | some .send => onRing (x.cmd.f MF.ring) x.slotNo
  | some .recv => onRing (x.cmd.f MF.ring) x.slotNo
  | _ => false
where
  onRing (r n : Nat) : Bool :=
    decide (d.rf r RF.kind = 1) && (extentsOf (d.slotAddr r n) (2 ^ d.rf r RF.slotLog)).contains e

/-- The swap of a core that reads or writes an extent. -/
def Core.swapTouches (x : Core) (e : Nat) : Bool :=
  match x.swap with
  | some w => decide (w.ext = e) || decide (w.ext + 1 = e)
  | none => false

/-- An access that was checked against an extent's entry has not completed (R236): a mover command, a swap, or a
shard's read from storage; for a KV extent, a page that a sequence holds (R270). -/
def Dev.extentBusy (d : Dev) (e : Nat) : Bool :=
  (d.cores.any fun c => c.2.swapTouches e || c.2.mover.any fun x => moverTouches d x e) ||
  (d.loads.any fun l => l.2.shards.any fun s => s.reading && decide (s.ext ≤ e) && decide (e < s.ext + s.count)) ||
  (decide (d.xf e XF.kind = 5) && (d.heldPages (d.xf e XF.owner)).any fun q => decide (q / 16 = e))

/-- Such accesses exist for the extents of a command. -/
def xmapWaits (d : Dev) (h : PageCmd) : Bool :=
  (decide (2 ≤ h.code) && decide (h.code ≤ 5)) && h.named.any fun e => d.extentBusy e

/-! ### Effects -/

/-- Starts the clearing of an extent (R233); its digest accumulator is as of zeros (R245). -/
def Dev.beginClear (d : Dev) (e digest : Nat) : Dev :=
  (((d.setXf e XF.state 1).setXf e XF.digest digest).setXf e XF.value 0).setDigests (tDel e d.digests)

/-- ALLOCATE of one extent: member m, with its partner (R235). -/
def Dev.allocExtent (d : Dev) (arg e m : Nat) (partner : Nat) : Dev :=
  let v := [(XF.kind, XF.kind.get arg), (XF.owner, XF.owner.get arg), (XF.member, m),
    (XF.digestMode, XF.digestMode.get arg), (XF.partner, partner), (XF.gen, XF.gen.get arg)].foldl
    (fun w f => f.1.put f.2 w) 0
  (d.setXent e v).beginClear e (XF.digestMode.get arg)

/-- An extent goes back to FREE, or to RETIRED, which flash records (R235, R242). -/
def Dev.freeExtent (d : Dev) (e : Nat) : Dev :=
  let d := d.setDigests (tDel e d.digests)
  if d.xf e XF.retire = 1 then (d.setXent e 8).setFlash { d.flash with retired := d.flash.retired ++ [e] }
  else d.setXent e 0

/-- The finished digest of an extent (R245). -/
def Dev.finished (d : Dev) (e : Nat) : Nat := match tFind e d.digests with | some v => v.toNat | none => zeroDigest

/-- Adds what a write of bytes contributes to the digests of extents whose DIGEST is 1, line by line, after the
write (R245). -/
def accumulate (m : Mem) (a n : Nat) (d : Dev) : Dev :=
  if n = 0 then d
  else
    (List.range ((a + n - 1) / 64 - a / 64 + 1)).foldl (fun d i =>
      let line := a / 64 + i
      let e := line / 65536
      if d.xf e XF.digest = 1 then
        d.setDigests (tPut e (BitVec.ofNat 64 (d.finished e ^^^ lineDigest line (memRead m d (64 * line) 64))) d.digests)
      else d) d

/-- LOAD_END of an extent, with the digest expected: answers whether its digest differs (R245). After one that failed, the
digest that it found is compared again (log 24). -/
def loadEndExtent (m : Mem) (e want : Nat) (d : Dev) : Dev × Bool :=
  if d.xf e XF.digest ≠ 1 ∧ d.xf e XF.digest ≠ 3 then (d.setXf e XF.state 3, false)
  else
    let got := if d.xf e XF.digest = 3 then d.xf e XF.value else d.finished e
    let d := (d.setXf e XF.value got).setDigests (tDel e d.digests)
    if got = want then ((d.setXf e XF.digest 2).setXf e XF.state 3, false)
    else
      let d := (d.setXf e XF.digest 3).count F.XMAP_DIGEST_FAILS_COUNT 1 (e / 131072)
      let p : PartId := ⟨d.xf e XF.owner % 64, Nat.mod_lt _ (by decide)⟩
      (raiseOwn m (2304 + 8 * (e / 16384) + 3) none (some p) d, true)

/-- The digest that LOAD_END expects of the extent at a position (R251, R280). -/
def PageCmd.expected (h : PageCmd) (m : Mem) (d : Dev) (i : Nat) : Nat :=
  if h.entries = 1 then h.arg1 else memNat m d (h.arg1 + 8 * i) 8

/-- LOAD_END: the positions whose digests fail (R245). -/
def loadEnd (m : Mem) (h : PageCmd) (d : Dev) : Dev × List Nat :=
  (List.range h.entries).foldl (fun s i =>
    let (d, bad) := loadEndExtent m (h.first + i) (h.expected m s.1 i) s.1
    (d, if bad then s.2 ++ [i] else s.2)) (d, [])

/-- Sets FAIL_INDEX in the copy of a command's path. -/
def PageCmd.fail (h : PageCmd) (i : Nat) (d : Dev) : Dev :=
  if d.pathOpen h.path then d.setPfld h.path F.XMAP_STATUS_FAIL_INDEX (h.a + i) h.die else d

/-- RETIRE (R235, R242): at once when FREE, else as soon as the extent is freed; its owner is told. -/
def Dev.retire (d : Dev) (e : Nat) : Dev :=
  let k := d.xf e XF.kind
  if k = 0 then (d.setXent e 8).setFlash { d.flash with retired := d.flash.retired ++ [e] }
  else
    let d := d.setXf e XF.retire 1
    if k ≤ 6 then d.postEvent ⟨d.xf e XF.owner % 64, Nat.mod_lt _ (by decide)⟩ 3 0 e else d

/-- The command that runs on a page has changed its entries, and waits for their clearing (R236). -/
def Dev.markApplied (d : Dev) (page : Nat) : Dev :=
  { d with pageCmds := d.pageCmds.map fun c => if c.page = page ∧ c.began.isSome then { c with applied := true } else c }

/-- What a map command does once its checks have passed and its waits have ended; answers its result, or none
while extents clear (R235, R236). -/
def xmapApply (m : Mem) (h : PageCmd) (d : Dev) : Dev × Option Nat :=
  match h.code with
  | 1 =>
    ((List.range h.entries).foldl (fun d i =>
      let e := h.first + i
      let q := XF.partner.get h.arg0 + i
      if h.pairs then (d.allocExtent h.arg0 e 0 q).allocExtent h.arg0 q 1 e
      else d.allocExtent h.arg0 e (XF.member.get h.arg0) (XF.partner.get h.arg0)) (d.markApplied h.page), none)
  | 2 => (h.named.foldl Dev.freeExtent d, some 0)
  | 3 => (h.named.foldl (fun d e => d.beginClear e (d.xf e XF.digestMode)) (d.markApplied h.page), none)
  | 4 =>
    let (d, bad) := loadEnd m h d
    match bad with
    | [] => (d, some 0)
    | i :: _ => (h.fail i d, some xDigest)
  | 5 => (h.named.foldl (fun d e => d.setXf e XF.state 4) d, some 0)
  | 6 => (h.named.foldl (fun d e => d.setXf e XF.state 3) d, some 0)
  | 7 => (h.named.foldl (fun d e => d.setXf e XF.gen (XF.gen.get h.arg0)) d, some 0)
  | _ => (h.named.foldl Dev.retire d, some 0)

/-- A map command starts: it fails a check, waits, or takes effect (R235, R236). -/
def xmapStart (m : Mem) (h : PageCmd) (d : Dev) : Dev × Option Nat :=
  match xmapCheck d h with
  | some (i, r) => (h.fail i d, some r)
  | none => if xmapWaits d h then (d, none) else xmapApply m h d

/-- The map command at the head of a die's page waits under R236. -/
def PageCmd.waiting (h : PageCmd) : Bool :=
  h.began.isSome && decide (2 ≤ h.code) && decide (h.code ≤ 5) && !h.applied

/-- XMAP_WAIT_END: the wait is over when every access has completed; the command takes effect (R236). -/
def xmapWaitEnd (m : Mem) (h : PageCmd) (d : Dev) : Dev × Option Nat :=
  if h.waiting && !xmapWaits d h then xmapApply m h d else (d, none)

/-- XMAP_BUSY_TIMEOUT: a wait has passed 10 ms, and no entry changes (R236); FAIL_INDEX names the first entry that
is still in use. -/
def xmapTimeout (h : PageCmd) (d : Dev) : Dev × Option Nat :=
  match h.began with
  | none => (d, none)
  | some t =>
    if h.waiting && xmapWaits d h && decide (t + 10000000 < d.now) then
      let i := ((List.range h.entries).find? fun i => d.extentBusy (h.first + i)).getD 0
      (h.fail i d, some xTimeout)
    else (d, none)

/-- The clearing of an extent ends (R233): its lines are zero, and it is LOADING or VALID. -/
def Dev.endClear (d : Dev) (e : Nat) : Dev :=
  if d.xf e XF.state ≠ 1 then d
  else
    let k := d.xf e XF.kind
    (d.clearMem (e * extentSize) extentSize).setXf e XF.state (if k = 2 ∨ k = 3 ∨ k = 4 then 2 else 3)

/-- An ALLOCATE or LOAD_BEGIN completes when the last of its extents has left CLEARING (R236). -/
def xmapCleared (d : Dev) (h : PageCmd) : Bool :=
  h.applied && h.named.all fun e => decide (d.xf e XF.state ≠ 1)

/-- A snapshot of the entry that a path selects (R251). -/
def Dev.xmapSnapshot (d : Dev) (w : Path) (k index : Nat) : Dev :=
  let e := d.xent (131072 * k + index % 131072)
  (d.setPfld w F.XMAP_READ_LO_ENTRY_LO (e % 2 ^ 64) k).setPfld w F.XMAP_READ_HI_ENTRY_HI (e / 2 ^ 64) k

end Sys2Proof.Machine
end

