-- ==== Sys2Proof/Machine/Stack.lean ====
section
/-! DEFINITION. The Yepen stacks: patrol and digest recheck, power states, temperature and the stack firmware
(08_memory_extents R240 to R248). -/

namespace Sys2Proof.Machine

/-- Counts and records an uncorrectable line (R240); its row is to be spared (R242). -/
def Dev.noteBad (d : Dev) (line : Nat) : Dev :=
  let s := stackOf line
  let d := ((d.count F.STK_ECC_COUNT_UNCORRECTED 1 s).setFld F.STK_ECC_LAST_LINE line s).setFld F.STK_ECC_LAST_VALID 1 s
  { d with ecc := { d.ecc with
      lost := if d.ecc.lost.contains line || d.ecc.copied.contains line || !d.bad.contains line then d.ecc.lost else d.ecc.lost ++ [line]
      failing := d.ecc.failing.filter fun x => decide (x ≠ line) } }

/-- The detail of an uncorrectable read: STK_s_ECC_LAST (R405). -/
def badDetail (line : Nat) : Nat := line + 2 ^ 35

/-- The owner of an extent, as a partition. -/
def Dev.extentOwner (d : Dev) (e : Nat) : Option PartId :=
  if 1 ≤ d.xf e XF.kind ∧ d.xf e XF.kind ≤ 6 then some ⟨d.xf e XF.owner % 64, Nat.mod_lt _ (by decide)⟩ else none

/-- The recheck of an extent's digest (R246). -/
def recheck (m : Mem) (e : Nat) (d : Dev) : Dev :=
  if d.xf e XF.digest ≠ 2 ∨ d.badRead (e * extentSize) extentSize then d
  else if crc64 (memRead m d (e * extentSize) extentSize) = d.xf e XF.value then d
  else
    let d := (d.setXf e XF.digest 3).count F.XMAP_DIGEST_FAILS_COUNT 1 (e / 131072)
    raiseOwn m (2304 + 8 * (e / 16384) + 3) none (d.extentOwner e) d

/-- The stack serves: the main rails are on, no reset holds it (R247, R410). -/
def Dev.stackOn (d : Dev) (s : Nat) : Bool :=
  decide (d.power.phase ≠ .asleep) && decide (d.resetDomain 0x11 s = 0)

/-- The row of a line goes to a spare of its bank: what is corrected in it is written right, and what is uncorrectable
stays so. Without a spare row or a record left, the extent that owns the row is retired (R227, R242, R243). -/
def spareRow (m : Mem) (line : Nat) (d : Dev) : Dev :=
  let r := rowOf line
  let e := r.extent
  let mine := fun (x : Nat) => decide (rowOf x = r)
  let own := d.flash.spares.filter fun q => decide (q.stack = r.stack)
  let used := own.filter fun q => decide (q.channel = r.channel) && decide (q.bank = r.bank)
  let d := { d with ecc := { d.ecc with
    found := d.ecc.found.filter fun x => !mine x
    lost := d.ecc.lost.filter fun x => !mine x
    copied := (d.ecc.copied ++ d.bad.filter mine).dedup } }
  if used.length < 4 ∧ own.length < 4096 then
    { d with
      flash := { d.flash with spares := d.flash.spares ++ [r] }
      ecc := { d.ecc with wrong := d.ecc.wrong.filter fun x => !(mine x.1 && d.flash.corrects x.1 x.2) } }
  else if 7 ≤ d.xf e XF.kind ∨ d.xf e XF.retire = 1 then d
  else raiseOwn m (2304 + 8 * r.stack + 2) none (d.extentOwner e) (d.retire e)

/-- A row is due for sparing (R242): a codeword of it was found uncorrectable, or codewords at four or more of its lines
were found corrected in the patrol's pass. -/
def Dev.spareDue (d : Dev) (line : Nat) : Bool :=
  decide (d.fld F.STK_STATUS_FW_OK (stackOf line) = 1) && (d.ecc.lost.contains line ||
    (d.ecc.found.contains line && decide (4 ≤ (d.ecc.found.filter fun x => decide (rowOf x = rowOf line)).length)))

/-- What the stacks' microcontrollers do about codewords that were found wrong (R239, R242, R243). -/
def stackFirmware (m : Mem) (d : Dev) : Dev :=
  let news := d.ecc.marked
  let d := news.foldl (fun d x => raiseOwn m (2304 + 8 * stackOf x + 1) none (d.extentOwner (x / 65536)) d)
    { d with ecc := { d.ecc with marked := [] } }
  let met := d.ecc.met
  let d := met.foldl (fun d x => raiseOwn m (2304 + 8 * stackOf x) (some (badDetail x)) (d.extentOwner (x / 65536)) (d.noteBad x))
    { d with ecc := { d.ecc with met := [] } }
  (d.ecc.lost ++ d.ecc.found).foldl (fun d x => if d.spareDue x then spareRow m x d else d) d

/-- The patrol reads a codeword (R241): a corrected one is written back, and an uncorrectable one is counted and raised
for the extent's owner. -/
def patrolLine (m : Mem) (line : Nat) (d : Dev) : Dev :=
  match tFind line d.ecc.wrong with
  | none => d
  | some w =>
    if d.flash.corrects line w then
      let d := d.findWrong (line, w)
      { d with ecc := { d.ecc with wrong := tDel line d.ecc.wrong } }
    else raiseOwn m (2304 + 8 * stackOf line) (some (badDetail line)) (d.extentOwner (line / 65536)) (d.noteBad line)

/-- PATROL_READ. The patrol of a stack reads its next codeword (R241, R246); after an extent's last line its digest is
rechecked on every RECHECK-th pass. -/
def patrolRead (m : Mem) (s : StackId) (d : Dev) : Dev :=
  if d.fld F.STK_PATROL_PERIOD s.val = 0 ∨ d.fld F.STK_STATUS_PSTATE s.val = 2 ∨ d.fld F.STK_STATUS_FW_OK s.val = 0 ∨
      !d.stackOn s.val then d
  else
    let n := tGet 0 d.patrol s.val
    let line := s.val * 2 ^ 30 + n % 2 ^ 30
    let d := stackFirmware m (patrolLine m line d)
    let every := d.fld F.STK_PATROL_RECHECK s.val
    let d := if line % 65536 = 65535 ∧ every ≠ 0 ∧ (n / 2 ^ 30 + 1) % every = 0 then recheck m (line / 65536) d else d
    let d := if (n + 1) % 2 ^ 30 = 0 then
        { d with ecc := { d.ecc with found := d.ecc.found.filter fun x => decide (stackOf x ≠ s.val) } }
      else d
    let d := d.setPatrol (tSet 0 s.val (n + 1) d.patrol)
    (d.setFld F.STK_PATROL_POS_EXTENT ((n + 1) % 2 ^ 30 / 65536) s.val).setFld F.STK_PATROL_POS_PASSES
      (min ((n + 1) / 2 ^ 30) 65535) s.val

/-- The extents that a mover command in flight reads or writes. -/
def Dev.moveExtents (d : Dev) (c : CoreId) (x : MovExec) : List Nat :=
  match d.slotCtx c x.slot, MOp.ofCode (x.cmd.f CF.op) with
  | some y, some o =>
    let r := x.cmd.f MF.ring
    let ring := (decide (o = .send) || decide (o = .recv)) && decide (d.rf r RF.kind = 1)
    ((d.moveRanges c y.part x o).flatMap fun g => extentsOf g.1 g.2) ++
      if ring then extentsOf (d.slotAddr r x.slotNo) (2 ^ d.rf r RF.slotLog) else []
  | _, _ => []

/-- Requests to a stack are in flight (R247): of mover commands, swaps, clearings or shards that load. -/
def Dev.stackBusy (d : Dev) (s : Nat) : Bool :=
  let on := fun (e : Nat) => decide (e / 16384 = s)
  (allCores.any fun c =>
    ((d.core c).mover.any fun x => (d.moveExtents c x).any on) ||
    (match (d.core c).swap with | some w => !d.inWaits c w && (on w.ext || on (w.ext + 1)) | none => false)) ||
  (d.xmap.any fun e => on e.1 && decide (XF.state.get e.2.toNat = 1)) ||
  d.loads.any fun l => l.2.shards.any fun x => x.reading && (on x.ext || on (x.ext + x.count - 1))

/-- STACK_AUTO_IDLE. A stack enters IDLE: AUTO_IDLE is set and it has had no request for 1 µs, or TARGET asks for it
(R247). -/
def stackAutoIdle (s : StackId) (d : Dev) : Dev :=
  let t := d.fld F.STK_CTL_TARGET s.val
  let quiet := decide (tGet 0 d.stackUse s.val + 1000 ≤ d.now) && !d.stackBusy s.val
  if d.stackOn s.val && decide (d.fld F.STK_STATUS_PSTATE s.val = 0) && !d.stackBusy s.val &&
      ((decide (t = 0) && d.flag F.STK_CTL_AUTO_IDLE s.val && quiet) || decide (t = 1)) then
    d.setFld F.STK_STATUS_PSTATE 1 s.val
  else d

/-- SELF_REFRESH_ENTRY. A stack enters SELF_REFRESH once its requests in flight have completed; its TARGET or the
power controller asks for it (R247). -/
def selfRefreshEntry (s : StackId) (d : Dev) : Dev :=
  if d.stackOn s.val && !d.stackBusy s.val then d.setFld F.STK_STATUS_PSTATE 2 s.val else d

/-- STACK_POWER_EXIT. A request brings a stack back to ACTIVE (R247). -/
def stackPowerExit (s : StackId) (d : Dev) : Dev :=
  if d.stackOn s.val then (d.setFld F.STK_STATUS_PSTATE 0 s.val) else d

/-- A threshold with a lower end (R248): set at or above hi, cleared below lo. -/
def hysteresis (hi lo t : Nat) (old : Bool) : Bool := if hi ≤ t then true else if t < lo then false else old

/-- STACK_TEMP_SAMPLE. The logic die samples its sensors; the alarm of 100 °C is the hourglass unit's rule (R248,
R460). -/
def stackTempSample (s : StackId) (temps : List (BitVec 8)) (logic : BitVec 8) (d : Dev) : Dev :=
  if !d.stackOn s.val || decide (d.fld F.STK_STATUS_FW_OK s.val = 0) then d
  else
    let ts := (temps.take 16).map fun x => x.toNat
    let hot := ts.foldl max 0
    let die := ts.findIdx fun x => decide (x = hot)
    let d := ((d.setFld F.STK_TEMP_DRAM_MAX hot s.val).setFld F.STK_TEMP_LOGIC logic.toNat s.val).setFld F.STK_TEMP_HOT_DIE die s.val
    (d.setFld F.STK_STATUS_REFRESH_2X (b2n (hysteresis 85 82 hot (d.flag F.STK_STATUS_REFRESH_2X s.val))) s.val).setFld
      F.STK_STATUS_THROTTLE (b2n (hysteresis 95 92 hot (d.flag F.STK_STATUS_THROTTLE s.val))) s.val

/-- STACK_FW_WATCHDOG. The stack's microcontroller has stopped (R243). -/
def stackFwWatchdog (m : Mem) (s : StackId) (d : Dev) : Dev :=
  if !d.stackOn s.val then d
  else raiseOwn m (2304 + 8 * s.val + 5) none none (d.setFld F.STK_STATUS_FW_OK 0 s.val)

end Sys2Proof.Machine
end

