-- ==== Sys2Proof/Machine/Parts.lean ====
section
/-! DEFINITION. Partition commands and context commands (09_partitions_serving R252 to R262, R507). -/

namespace Sys2Proof.Machine

/-- The page of a partition's PART registers. -/
def partPage (p : PartId) : Nat := 0x3000 + p.val
/-- A core by its number. -/
def coreOf (n : Nat) : Option CoreId := if h : n < 144 then some ⟨n, h⟩ else none
/-- A partition by its number modulo 64. -/
def partOf (n : Nat) : PartId := ⟨n % 64, Nat.mod_lt n (by decide)⟩
/-- STATE of a partition (R283). -/
def Dev.pstate (d : Dev) (p : PartId) : Nat := d.fld F.PART_STATUS_STATE p.val
/-- The partition serves. -/
def Dev.isServing (d : Dev) (p : PartId) : Bool := d.flag F.PART_CONFIG_SERVING p.val
/-- The partition has neither turns nor steps (R255). -/
def isPlain (m : Mem) (d : Dev) (p : PartId) : Bool := decide (partJob m d p = 0) && !d.isServing p
/-- Cores that a partition owns. -/
def Dev.ownedCores (d : Dev) (p : PartId) : List CoreId := allCores.filter fun c => decide ((d.core c).owner = some p)
/-- Extents that a partition owns. -/
def Dev.ownedExtents (d : Dev) (p : PartId) : List Nat :=
  (d.xmap.filter fun e => decide (1 ≤ XF.kind.get e.2.toNat) && decide (XF.kind.get e.2.toNat ≤ 6) &&
    decide (XF.owner.get e.2.toNat = p.val)).map fun e => e.1
/-- Rings that a partition owns. -/
def Dev.ownedRings (d : Dev) (p : PartId) : List Nat :=
  (d.rings.filter fun r => d.ringMine p.val r.1).map fun r => r.1
/-- A ring's context is cleared (R347). -/
def Dev.dropRing (d : Dev) (r : Nat) : Dev := { d.setRing r {} with qps := tDel r d.qps }
/-- A ring is freed: the session of a DCP ring closes (R347, R356). -/
def Dev.freeRing (d : Dev) (r : Nat) : Dev :=
  (if d.rf r RF.kind = 4 then d.closeSession (d.rf r RF.session) else d).dropRing r
/-- The partition owns and homes no core and owns no extent and no ring (R254). -/
def Dev.partEmpty (d : Dev) (p : PartId) : Bool :=
  (allCores.all fun c => decide ((d.core c).owner ≠ some p) && decide ((d.core c).home ≠ some p)) &&
    (d.ownedExtents p).isEmpty && (d.ownedRings p).isEmpty

/-- A command of the partition executes on a core. -/
def Dev.partExecutes (d : Dev) (p : PartId) : Bool :=
  (d.ownedCores p).any fun c => [0, 1, 2, 3].any fun i =>
    match d.slotCtx c (slotOf i) with
    | some x => decide (x.part = p) && (d.core c).executingAny (slotOf i)
    | none => false

/-! ### Lends and recalls -/

/-- The command that runs on a partition's page. -/
def Dev.runningOn (d : Dev) (page : Nat) : Option PageCmd :=
  match d.pageHead page with
  | some h => if h.began.isSome then some h else none
  | none => none

/-- The core, borrower and end of the limit of the RECALL that runs on a home partition's page and whose return
has not begun (R262). -/
def Dev.recallOf (d : Dev) (p : PartId) : Option (CoreId × PartId × Nat) :=
  match d.runningOn (partPage p) with
  | some h =>
    match decide (h.op = 6), coreOf h.a with
    | true, some c =>
      if (d.core c).plan.isSome then none
      else (d.core c).owner.map fun q => (c, q, h.began.getD 0 + 1000000 * d.fld F.PART_CONFIG_RECALL_LIMIT p.val)
    | _, _ => none
  | none => none

/-- Returns that take effect at a borrower's boundary, inside their half-open limits (R262). -/
def recallsAtBoundary (q : PartId) (d : Dev) : Dev :=
  allParts.foldl (fun d p =>
    match d.recallOf p with
    | some (c, b, limit) => if b = q ∧ d.now < limit then d.beginPlan c .giveBack else d
    | none => d) d

/-! ### Holds -/

/-- HOLD_REACHED. A partition without turns and steps for which HOLD was written is HELD once no command of it
executes (R255). -/
def holdReached (p : PartId) (d : Dev) : Dev :=
  if d.pstate p = 2 ∧ d.plainHold.contains p ∧ !d.partExecutes p then d.setFld F.PART_STATUS_STATE 3 p.val else d

/-- HOLD of an ACTIVE partition (R254, R255). One without turns and steps is at its boundary at once (R262). -/
def partHold (m : Mem) (p : PartId) (d : Dev) : Dev :=
  let d := d.setFld F.PART_STATUS_STATE 2 p.val
  if isPlain m d p then recallsAtBoundary p (holdReached p (d.setPlainHold (d.plainHold ++ [p]))) else d

/-- The turn that begins holds the live generation; a HELD partition begins none (R255, R274). -/
def Dev.holdGen (m : Mem) (p : PartId) (d : Dev) : Dev :=
  let g := if partJob m d p = 0 ∨ d.pstate p = 3 then 0 else d.fld F.GEN_LIVE_GEN p.val
  { d with turnGen := tSet 0 p.val g d.turnGen }

/-- RELEASE of a HELD partition (R254, R255): it goes on where it stopped, and a turn that it has not begun begins. -/
def partRelease (m : Mem) (p : PartId) (d : Dev) : Dev :=
  let d := (d.setFld F.PART_STATUS_STATE 1 p.val).setPlainHold (d.plainHold.filter fun q => decide (q ≠ p))
  (d.ownedCores p).foldl (fun d c => settle m c true d) (Dev.holdGen m p d)

/-- DELETE of an empty partition (R254, R356). -/
def partDelete (p : PartId) (d : Dev) : Dev :=
  let ss := d.sessions.filter fun e => decide (e.2.scope = .partition p)
  let d := ss.foldl (fun d e => d.closeSession e.1) d
  { d.setFld F.PART_STATUS_STATE 0 p.val with
    ctxs := d.ctxs.filter fun e => decide (e.2.part ≠ p)
    plainHold := d.plainHold.filter fun q => decide (q ≠ p)
    failHold := d.failHold.filter fun q => decide (q ≠ p)
    serving := tDel p.val d.serving }

/-- A partition command starts: its result, or none while it runs (R254, R261, R262). -/
def partStart (m : Mem) (h : PageCmd) (d : Dev) : Dev × Option Nat :=
  let p := partOf h.page
  let st := d.pstate p
  match h.op, coreOf h.a with
  | 1, _ => if st ≠ 0 then (d, some 2)
    else (((d.setFld F.PART_STATUS_STATE 1 p.val).setFld F.PART_TURN_TURN 0 p.val).setServing (tDel p.val d.serving), some 0)
  | 2, _ => if st ≠ 1 ∧ st ≠ 3 then (d, some 2) else if d.partEmpty p then (partDelete p d, some 0) else (d, some 5)
  | 3, c => if st ≠ 1 ∧ st ≠ 3 then (d, some 2)
    else match c with
      | some c => if d.idleCore c then (d.beginPlan c (.add p), none) else (d, some 3)
      | none => (d, some 3)
  | 4, some c =>
    if (d.core c).owner = some p ∧ (d.core c).home = some p then (d.beginPlan c .idle, none) else (d, some 3)
  | 5, c => if st ≠ 3 ∧ !d.isServing p then (d, some 2)
    else match c with
      | none => (d, some 3)
      | some c =>
        let t := partOf h.b
        if (d.core c).owner ≠ some p ∨ (d.core c).home ≠ some p then (d, some 3)
        else if d.pstate t ≠ 1 ∨ t = p then (d, some 4)
        else if st = 3 then (d.beginPlan c (.lend t), none) else (d, none)
  | 6, some c =>
    if (d.core c).home = some p ∧ (d.core c).owner ≠ some p ∧ (d.core c).owner ≠ none then (d, none) else (d, some 3)
  | 7, _ => if st ≠ 1 then (d, some 2) else (partHold m p d, some 0)
  | 8, _ => if st ≠ 3 then (d, some 2) else (partRelease m p d, some 0)
  | n, _ => (d, some (if n = 4 ∨ n = 6 then 3 else 1))

/-- A core's fencing ends a command that had it in mind (R262, R422). -/
def partContinue (h : PageCmd) (d : Dev) : Option Nat :=
  match coreOf h.a with
  | some c => if 3 ≤ h.op ∧ h.op ≤ 6 ∧ (d.core c).fenced then some 3 else none
  | none => none

/-! ### Lends and recalls at a boundary -/

/-- A serving lender's LEND takes effect at its step end (R261). -/
def lendAtBoundary (p : PartId) (d : Dev) : Dev :=
  match d.runningOn (partPage p) with
  | some h =>
    match decide (h.op = 5), coreOf h.a with
    | true, some c => if (d.core c).plan.isNone ∧ (d.core c).owner = some p then d.beginPlan c (.lend (partOf h.b)) else d
    | _, _ => d
  | none => d

/-- RECALL_FORCED. The limit has passed: the borrower's step is abandoned or its turn fails, both partitions are
told, and the core returns (R262). -/
def recallForced (m : Mem) (p : PartId) (c : CoreId) (d : Dev) : Dev :=
  match d.recallOf p with
  | some (b, q, limit) =>
    if b ≠ c ∨ d.now < limit then d
    else
      let d := if d.isServing q then d.abandonStep q else failJobTurn m q 8 d
      let d := (d.postEvent p 13 c.val q.val).postEvent q 13 c.val q.val
      d.beginPlan c .giveBack
  | none => d

/-- What the boundary of a partition does to its hold, its lends and its borrowed cores (R255, R261, R262). -/
def holdAtBoundary (p : PartId) (d : Dev) : Dev :=
  let d := if d.pstate p = 2 then d.setFld F.PART_STATUS_STATE 3 p.val else d
  recallsAtBoundary p (lendAtBoundary p d)

/-! ### Context commands -/

/-- A line has failed: its codeword is uncorrectable from then on, unless it was its transfer that failed (R224, R240). -/
def Dev.failLine (d : Dev) (line : Nat) : Dev :=
  if d.bad.contains line || d.ecc.failing.contains line then d
  else { d with ecc := { d.ecc with wrong := tPut line (BitVec.allOnes 80) d.ecc.wrong } }

/-- An uncorrectable read by a requester: counted, recorded and raised (R240). -/
def raiseLine (m : Mem) (line : Option Nat) (req : Option PartId) (d : Dev) : Dev :=
  match line with
  | none => d
  | some x => raiseOwn m (2304 + 8 * stackOf x) (some (badDetail x)) req (d.noteBad x)

/-- A read of bytes meets an uncorrectable line (R240). -/
def raiseBad (m : Mem) (a n : Nat) (req : Option PartId) (d : Dev) : Dev := raiseLine m (d.firstBad a n) req d

/-- A write of bytes meets an uncorrectable line that it covers in part (R240). -/
def raiseCut (m : Mem) (a n : Nat) (req : Option PartId) (d : Dev) : Dev := raiseLine m (d.firstCut a n) req d

/-- The creation image with CONTEXT and PARTITION set (R142, R256). -/
def namedImage (l : List Byte) (p : PartId) (n : Nat) : List Byte :=
  l.take 8 ++ leBytes 2 n ++ leBytes 1 (leNat ((l.drop 10).take 1) / 64 * 64 + p.val) ++ l.drop 11

/-- CREATE (R256, R418): the image goes to the swap extents and is the entry image. -/
def ctxCreate (m : Mem) (h : PageCmd) (p : PartId) (d : Dev) : Dev × Nat :=
  let num := BitVec.ofNat 16 h.a
  match coreOf h.b with
  | none => (d, if (d.ctx? (ctxKey p num)).isSome then 2 else 3)
  | some c =>
    if (d.ctx? (ctxKey p num)).isSome then (d, 2)
    else if (d.core c).owner ≠ some p then (d, 3)
    else if !d.swapAccess p h.c true then (d, 4)
    else if 2 ^ 41 < h.arg0 + creationBytes ∨ !d.validData p.val h.arg0 creationBytes then (d, 5)
    else if d.badRead h.arg0 creationBytes then (raiseBad m h.arg0 creationBytes (some p) d, 5)
    else
      let l := memRead m d h.arg0 creationBytes
      if !imageOk l then (d, 5)
      else
        let l := namedImage l p h.a
        let d := ((d.countStk false h.arg0 l.length).store (h.c * extentSize) l).store (h.c * extentSize + entryOffset) l
        let d := (d.countStk true (h.c * extentSize) l.length).countStk true (h.c * extentSize + entryOffset) l.length
        let x : Ctx := 
          (({ num := num, part := p, home := c, ext := h.c, entryExt := h.c } : Ctx).restore l (d.seedOf p) (d.turnOf p)).created
        (settle m c false (d.setCtx (ctxKey p num) x), 0)

/-- The context swaps, in or out. -/
def Dev.swapOf (d : Dev) (key : Nat) : Option (CoreId × Swap) :=
  (allCores.filterMap fun c => match (d.core c).swap with
    | some w => if w.ctx = key then some (c, w) else none
    | none => none).head?

/-- No core has a swap of the context in mind. -/
def Dev.unplanSwap (d : Dev) (key : Nat) : Dev :=
  { d with cores := d.cores.map fun e => (e.1, { e.2 with
             nextIn := if e.2.nextIn = some key then none else e.2.nextIn
             waiting := e.2.waiting.filter fun w => decide (w.ctx ≠ key) }) }

/-- A context ceases to exist. -/
def Dev.dropCtx (d : Dev) (key : Nat) : Dev := { d.unplanSwap key with ctxs := tDel key d.ctxs }

/-- DESTROY goes on (R256, R507): a swap that waits is abandoned, one that restores or writes ends first, and a
resident context's issued commands complete; then the context ceases to exist. -/
def destroyStep (m : Mem) (key : Nat) (d : Dev) : Dev × Option Nat :=
  match d.ctx? key with
  | none => (d, some 0)
  | some x =>
    match d.swapOf key with
    | some (c, w) =>
      if d.inWaits c w then
        (settle m c true ((d.modCore c fun y => { y with swap := none }).dropCtx key), some 0)
      else (d, none)
    | none =>
      match x.place with
      | .out => (d.dropCtx key, some 0)
      | .resident c k =>
        if (d.core c).executingAny k || (d.core c).changing k then (d, none)
        else
          let d := ((d.modCore c fun y => y.release k).clearErr c k).dropCtx key
          (settle m c true d, some 0)

/-- A context command starts (R256). -/
def ctxStart (m : Mem) (h : PageCmd) (d : Dev) : Dev × Option Nat :=
  let p := partOf h.page
  let key := ctxKey p (BitVec.ofNat 16 h.a)
  if h.code = 1 then
    let (d, r) := ctxCreate m h p d
    (d, some r)
  else if h.code = 0 ∨ 4 < h.code then (d, some 1)
  else
    match d.ctx? key with
    | none => (d, some 2)
    | some x =>
      match h.code with
      | 2 => destroyStep m key (d.setCtx key { x with sched := { x.sched with dying := true } })
      | 3 =>
        if x.place ≠ .out ∨ (d.swapOf key).isSome then (d, some 2)
        else match coreOf h.b with
          | none => (d, some 3)
          | some c =>
            if (d.core c).owner ≠ some p then (d, some 3)
            else
              let d := (d.unplanSwap key).setCtx key { x with home := c, sched := { x.sched with refused := false } }
              (settle m c true (settle m x.home false d), some 0)
      | _ =>
        if x.place ≠ .out ∨ (d.swapOf key).isSome then (d, some 0)
        else (settle m x.home false (d.setCtx key { x with sched := { x.sched with runnable := true, refused := false } }), some 0)

/-- A context command that runs goes on. -/
def ctxContinue (m : Mem) (h : PageCmd) (d : Dev) : Dev × Option Nat :=
  if h.code = 2 then destroyStep m (ctxKey (partOf h.page) (BitVec.ofNat 16 h.a)) d else (d, none)

/-- The parts of a write of PART_p_CONFIG that are ignored keep their old values (R283). -/
def Dev.partConfig (d : Dev) (p : PartId) (v : Nat) : Nat :=
  let old := (d.word (F.PART_CONFIG_SLOTS.addr p.val 0)).toNat
  let slots := bits v 0 3
  let win := bits v 3 7
  let keep := !(d.ownedCores p).isEmpty || decide (slots = 0) || decide (4 < slots) || decide (win < 3) || decide (96 / slots < win)
  let v := if keep then setBits (setBits v 0 3 (bits old 0 3)) 3 7 (bits old 3 7) else v
  let lim := bits v 11 10
  if lim = 0 ∨ 1000 < lim then setBits v 11 10 (bits old 11 10) else v

end Sys2Proof.Machine
end

