-- ==== Sys2Proof/Machine/Gens.lean ====
section
/-! DEFINITION. Weight generations: their commands, castling, references and the loader (09_partitions_serving
R273 to R281). -/

namespace Sys2Proof.Machine

/-- Fields of a manifest's header and entries (R279). -/
def NF.magic : Bf := ⟨0, 32⟩
def NF.gen : Bf := ⟨32, 24⟩
def NF.shards : Bf := ⟨64, 32⟩
def NF.group : Bf := ⟨96, 16⟩
def NF.member : Bf := ⟨112, 16⟩
def NF.digest : Bf := ⟨128, 1⟩
def NE.shard : Bf := ⟨0, 32⟩
def NE.source : Bf := ⟨32, 1⟩
def NE.extent : Bf := ⟨64, 19⟩
def NE.extents : Bf := ⟨96, 16⟩
def NE.qp : Bf := ⟨128, 18⟩
def NE.rkey : Bf := ⟨160, 32⟩
def NE.remote : Bf := ⟨192, 64⟩
def NE.digests : Bf := ⟨256, 41⟩

/-- Reserved bits of a header, and of an entry (R279). -/
def headReserved : List Bf := [⟨56, 8⟩, ⟨129, 383⟩]
/-- See headReserved. -/
def entryReserved : List Bf := [⟨33, 31⟩, ⟨83, 13⟩, ⟨112, 16⟩, ⟨146, 14⟩, ⟨297, 215⟩]

/-- The manifest at an address, when it is sound (R273, R279). -/
def manifest (m : Mem) (d : Dev) (p : PartId) (a g : Nat) : Option GenLoad :=
  let h := memNat m d a 64
  let n := NF.shards.get h
  let es := (List.range n).map fun i => memNat m d (a + 64 + 64 * i) 64
  if !d.validData p.val a 64 || decide (2 ^ 41 < a + 64) || d.badRead a 64 then none
  else if NF.magic.get h ≠ 0x4B4C4D31 ∨ NF.gen.get h ≠ g ∨ headReserved.any (fun f => decide (f.get h ≠ 0)) ∨
      NF.group.get h = 0 ∨ 4096 < NF.group.get h ∨ NF.group.get h ≤ NF.member.get h then none
  else if !d.validData p.val a (64 + 64 * n) || decide (2 ^ 41 < a + 64 + 64 * n) || d.badRead a (64 + 64 * n) ||
      es.any (fun e => entryReserved.any fun f => decide (f.get e ≠ 0)) then none
  else some ⟨g, NF.group.get h, NF.member.get h, decide (NF.digest.get h = 1), es.map fun e =>
    ({ num := NE.shard.get e
       published := decide (NE.source.get e = 1)
       ext := NE.extent.get e
       count := NE.extents.get e
       qp := NE.qp.get e
       rkey := NE.rkey.get e
       remote := NE.remote.get e
       digests := NE.digests.get e
       lastAt := d.now } : Shard)⟩

/-! ### Entries -/

/-- Key of a partition's loader by entry. -/
def loadKey (p : PartId) (i : Nat) : Nat := 8 * p.val + i
/-- The entry that tracks a generation (R273). -/
def Dev.genEntry (d : Dev) (p : PartId) (g : Nat) : Option Nat :=
  (List.range 8).find? fun i => decide (d.fld F.GEN_ENTRY_GEN p.val i = g) && decide (d.fld F.GEN_ENTRY_STATE p.val i ≠ 0)
/-- Sets the state of an entry. -/
def Dev.setGenState (d : Dev) (p : PartId) (i st : Nat) : Dev := d.setFld F.GEN_ENTRY_STATE st p.val i
/-- The extents of a generation (R273). -/
def Dev.genExtents (d : Dev) (p : PartId) (g : Nat) : List Nat :=
  (d.xmap.filter fun e => decide (XF.kind.get e.2.toNat = 2) && decide (XF.owner.get e.2.toNat = p.val) &&
    decide (XF.gen.get e.2.toNat = g)).map fun e => e.1

/-- Frees the extents of an entry's generation unless an access or a clearing keeps one; the entry is then
EMPTY (R273, R274). -/
def Dev.freeGen (d : Dev) (p : PartId) (i : Nat) : Dev × Bool :=
  let es := d.genExtents p (d.fld F.GEN_ENTRY_GEN p.val i)
  if es.any fun e => d.extentBusy e || decide (d.xf e XF.state = 1) then (d, false)
  else
    let d := es.foldl Dev.freeExtent (d.setLoads (tDel (loadKey p i) d.loads))
    (((d.setGenState p i 0).setFld F.GEN_ENTRY_GEN 0 p.val i).setFld F.GEN_ENTRY_SHARDS_LEFT 0 p.val i, true)

/-- Frees every DRAINING generation without references (R274). -/
def Dev.drainGens (d : Dev) (p : PartId) : Dev :=
  (List.range 8).foldl (fun d i =>
    if d.fld F.GEN_ENTRY_STATE p.val i = 4 ∧ d.genRefs p.val (d.fld F.GEN_ENTRY_GEN p.val i) = 0 then (d.freeGen p i).1 else d) d

/-- A turn begins: it holds the live generation, no shadow member is written in it yet, and no mirror has arrived
(R219, R274). -/
def beginTurn (m : Mem) (p : PartId) (d : Dev) : Dev :=
  let keep := fun (e : Nat) => decide (d.xf e XF.owner ≠ p.val)
  { Dev.holdGen m p d with
    written := d.written.filter keep, unsent := d.unsent.filter keep, arrived := d.arrived.filter keep }

/-! ### Castling -/

/-- The first shard that a test admits, or 0. -/
def GenLoad.firstShard (l : Option GenLoad) (f : Shard → Bool) : Nat :=
  match l with
  | none => 0
  | some l => ((l.shards.find? f).map fun s => s.num).getD 0

/-- The check at a castling boundary: the reason and the first failing shard of a refusal (R275, R285). -/
def Dev.castleRefusal (d : Dev) (p : PartId) (g : Nat) : Option (Nat × Nat) :=
  match d.genEntry p g with
  | none => some (3, 0)
  | some i =>
    let l := tFind (loadKey p i) d.loads
    let st := d.fld F.GEN_ENTRY_STATE p.val i
    let on := fun (e : Nat) => GenLoad.firstShard l fun s => decide (s.ext ≤ e) && decide (e < s.ext + s.count)
    if st = 5 then some (4, GenLoad.firstShard l fun s => !s.done)
    else if st ≠ 2 then some (3, GenLoad.firstShard l fun s => !s.done)
    else match (d.genExtents p g).find? fun e => decide (d.xf e XF.state ≠ 3) with
      | some e => some (1, on e)
      | none => match (d.genExtents p g).find? fun e => decide (d.xf e XF.digest = 3) with
        | some e => some (2, on e)
        | none => none

/-- The turn of a partition ends without a commit: it holds no generation any more (R274). -/
def Dev.dropTurn (p : PartId) (d : Dev) : Dev := { d with turnGen := tDel p.val d.turnGen }.drainGens p

/-- The pending castling of a partition applies, or is refused (R275, R276). -/
def castleAtBoundary (p : PartId) (d : Dev) : Dev :=
  match tFind p.val d.castling with
  | none => d
  | some g =>
    let d := d.setCastling (tDel p.val d.castling)
    match d.castleRefusal p g with
    | some (reason, shard) =>
      let d := ((d.setFld F.GEN_REFUSED_GEN g p.val).setFld F.GEN_REFUSED_REASON reason p.val).setFld F.GEN_REFUSED_SHARD shard p.val
      d.postEvent p 6 0 (d.word (F.GEN_REFUSED_GEN.addr p.val 0)).toNat
    | none =>
      let old := d.fld F.GEN_LIVE_GEN p.val
      let d := match d.genEntry p old with | some i => d.setGenState p i 4 | none => d
      let d := match d.genEntry p g with | some i => d.setGenState p i 3 | none => d
      let d := (d.setFld F.GEN_LIVE_GEN g p.val).postEvent p 5 0 g
      if d.isServing p then
        d.setServing (tMod {} p.val (fun x => { x with
          castled := tPut old d.now (tDel g x.castled), oldDue := x.oldDue.filter fun n => decide (n ≠ g ∧ n ≠ old) }) d.serving)
      else d

/-! ### The loader -/

/-- ALLOCATE of a shard's extents (R279); none when one is not free. -/
def Dev.allocShard (d : Dev) (p : PartId) (l : GenLoad) (s : Shard) : Option Dev :=
  let es := (List.range s.count).map fun i => s.ext + i
  if es.any fun e => decide (extentCount ≤ e) || systemExtent e || decide (d.xf e XF.kind ≠ 0) || decide (d.xf e XF.retire = 1)
  then none
  else
    let arg := [(XF.kind, 2), (XF.owner, p.val), (XF.digestMode, b2n l.digest), (XF.gen, l.gen)].foldl
      (fun w f => f.1.put f.2 w) 0
    some (es.foldl (fun d e => d.allocExtent arg e 0 0) d)

/-- Codes of KIND_DATA by which the members of a loading group tell each other of failures: the spec names no message
for it (R281; log 48). A shard has failed on a member; where the bytes of its next attempt go on; the generation has
failed. -/
def shardFailedCode : Nat := 0xE1
/-- See shardFailedCode. -/
def retryHopCode : Nat := 0xE2
/-- See shardFailedCode. -/
def genFailedCode : Nat := 0xE3

/-- Tells a member of a loading group something about a shard. -/
def Dev.tellMember (d : Dev) (gen k code shard arg : Nat) : Dev :=
  d.emitSystem (Config.memberDevice gen k).toNat 0 4 shard (code + gen * 2 ^ 8 + k * 2 ^ 32 + arg * 2 ^ 48) [0]

/-- A generation is FAILED on this member (R281). -/
def Dev.genFailed (d : Dev) (p : PartId) (i : Nat) (shard : Nat) : Dev :=
  (d.setGenState p i 5).postEvent p 7 0 (d.fld F.GEN_ENTRY_GEN p.val i + shard % 2 ^ 32 * 2 ^ 32)

/-- A generation has failed on this member, and so its load fails on every member (R281). -/
def Dev.failGen (d : Dev) (p : PartId) (i : Nat) (shard : Nat) : Dev :=
  let d := d.genFailed p i shard
  match tFind (loadKey p i) d.loads with
  | none => d
  | some l => ((List.range l.group).filter fun k => decide (k ≠ l.member)).foldl
      (fun d k => d.tellMember l.gen k genFailedCode shard 0) d

/-- Sets the shards that are left, and STAGED when none is and every extent is VALID (R273, R285). -/
def Dev.updateGen (d : Dev) (p : PartId) (i : Nat) : Dev :=
  match tFind (loadKey p i) d.loads with
  | none => d
  | some l =>
    let left := (l.shards.filter fun s => !s.done).length
    let d := d.setFld F.GEN_ENTRY_SHARDS_LEFT (min left 255) p.val i
    if d.fld F.GEN_ENTRY_STATE p.val i = 1 ∧ left = 0 ∧ (d.genExtents p l.gen).all fun e => decide (d.xf e XF.state = 3)
    then d.setGenState p i 2 else d

/-- The same for every generation that loads. -/
def Dev.updateGens (d : Dev) : Dev := d.loads.foldl (fun d e => d.updateGen (partOf (e.1 / 8)) (e.1 % 8)) d

/-- Allocates the next shard of a load, and keeps the number of the first that could not be (R279, R281). -/
def allocNext (p : PartId) (l : GenLoad) (s : Dev × Option Nat) (x : Shard) : Dev × Option Nat :=
  match s.1.allocShard p l x with
  | some d => (d, s.2)
  | none => (s.1, s.2 <|> some x.num)

/-- STAGE (R273, R279). -/
def genStage (m : Mem) (p : PartId) (g a : Nat) (d : Dev) : Dev × Nat :=
  match d.genEntry p g, (List.range 8).find? fun i => decide (d.fld F.GEN_ENTRY_STATE p.val i = 0) with
  | none, some i =>
    if g = 0 then (d, 2)
    else match manifest m d p a g with
      | none => (raiseBad m a (if d.badRead a 64 then 64 else 64 + 64 * NF.shards.get (memNat m d a 64)) (some p) d, 4)
      | some l =>
        let d := (d.setFld F.GEN_ENTRY_GEN g p.val i).setGenState p i 1
        let d := d.setLoads (tPut (loadKey p i) l d.loads)
        let (d, bad) := l.shards.foldl (allocNext p l) (d, none)
        let d := d.updateGen p i
        (match bad with | some n => d.failGen p i n | none => d, 0)
  | _, _ => (d, 2)

/-- A generation command starts (R273). -/
def genStart (m : Mem) (h : PageCmd) (d : Dev) : Dev × Option Nat :=
  let p := partOf h.page
  let st := fun i => d.fld F.GEN_ENTRY_STATE p.val i
  match h.op with
  | 1 => let (d, r) := genStage m p h.a h.arg0 d; (d, some r)
  | 2 => match d.genEntry p h.a with
    | none => (d, some 2)
    | some i => if st i = 2 then (d.setCastling (tPut p.val h.a d.castling), some 0) else (d, some 3)
  | 3 => match d.genEntry p h.a with
    | none => (d, some 2)
    | some i =>
      if st i = 1 ∨ st i = 2 ∨ st i = 5 then
        let d := d.setLoads (tDel (loadKey p i) d.loads)
        let (d, ok) := (d.setGenState p i 5).freeGen p i
        (d, if ok then some 0 else none)
      else (d, some 3)
  | _ => (d, some 1)

/-- An ABANDON that runs frees the extents as soon as they can be freed (R273). -/
def genContinue (h : PageCmd) (d : Dev) : Dev × Option Nat :=
  let p := partOf h.page
  match decide (h.op = 3), d.genEntry p h.a with
  | true, some i => let (d, ok) := d.freeGen p i; (d, if ok then some 0 else none)
  | true, none => (d, some 0)
  | _, _ => (d, none)

/-- Changes a shard of a loader. -/
def Dev.modShard (d : Dev) (key n : Nat) (f : Shard → Shard) : Dev :=
  match tFind key d.loads with
  | none => d
  | some l => d.setLoads (tPut key { l with shards := l.shards.map fun s => if s.num = n then f s else s } d.loads)

/-- The entry and the shard of a number that a partition loads. -/
def Dev.loadingShard (d : Dev) (p : PartId) (n : Nat) : Option (Nat × GenLoad × Shard) :=
  ((List.range 8).filterMap fun i =>
    if d.fld F.GEN_ENTRY_STATE p.val i ≠ 1 then none
    else match tFind (loadKey p i) d.loads with
      | none => none
      | some l => (l.shards.find? fun s => decide (s.num = n) && !s.done).map fun s => (i, l, s)).head?

/-- The entry and the shard of a number that a partition reads from storage, for itself or for members that reported
it (R281). -/
def Dev.readShard (d : Dev) (p : PartId) (n : Nat) : Option (Nat × GenLoad × Shard) :=
  ((List.range 8).filterMap fun i =>
    if d.fld F.GEN_ENTRY_STATE p.val i ≠ 1 ∧ d.fld F.GEN_ENTRY_STATE p.val i ≠ 2 then none
    else match tFind (loadKey p i) d.loads with
      | none => none
      | some l => (l.shards.find? fun s => decide (s.num = n) && (!s.done || s.reading || !s.reports.isEmpty)).map
          fun s => (i, l, s)).head?

/-- A shard has failed on this member: its extents that are not VALID clear for another attempt, and its reader is
told; after RETRIES failures the generation fails (R281). -/
def shardFails (p : PartId) (i : Nat) (s : Shard) (d : Dev) : Dev :=
  let es := (List.range s.count).map fun j => s.ext + j
  let d := es.foldl (fun d e => if d.xf e XF.state = 2 then d.beginClear e (d.xf e XF.digestMode) else d) d
  let d := d.modShard (loadKey p i) s.num fun x => { x with
    got := 0, failed := x.failed + 1, reading := false, lastAt := d.now, nextHop := none }
  if d.fld F.GEN_LOADCFG_RETRIES p.val ≤ s.failed + 1 then d.failGen p i s.num
  else match tFind (loadKey p i) d.loads with
    | none => d
    | some l => if s.num % l.group = l.member then d else d.tellMember l.gen (s.num % l.group) shardFailedCode s.num l.member

/-- The partitions, entries and loaders of this device that are a member of the loading group of a generation. -/
def Dev.membersHere (d : Dev) (gen k : Nat) : List (PartId × Nat × GenLoad) :=
  (d.loads.filter fun x => decide (x.2.gen = gen) && decide (x.2.member = k)).map fun x => (partOf (x.1 / 8), x.1 % 8, x.2)

/-- A member of a loading group hears of a shard by a control packet (R281; log 48). -/
def memberTold (code gen k shard arg : Nat) (d : Dev) : Dev :=
  (d.membersHere gen k).foldl (fun d x =>
    let key := loadKey x.1 x.2.1
    if code = shardFailedCode then
      d.modShard key shard fun s => { s with reports := (s.reports.filter fun n => decide (n < arg)) ++ arg :: s.reports.filter fun n => decide (arg < n) }
    else if code = retryHopCode then d.modShard key shard fun s => { s with nextHop := some (if arg = 0 then none else some (arg - 1)) }
    else if d.fld F.GEN_ENTRY_STATE x.1.val x.2.1 = 1 ∨ d.fld F.GEN_ENTRY_STATE x.1.val x.2.1 = 2 then d.genFailed x.1 x.2.1 shard
    else d) d

/-- Tells the members that reported a shard where the bytes go on: each sends to the next of them (R281; log 48). -/
def tellHops (gen shard : Nat) : List Nat → Dev → Dev
  | [], d => d
  | k :: r, d => tellHops gen shard r (d.tellMember gen k retryHopCode shard (match r with | [] => 0 | q :: _ => q + 1))

/-- The read of a shard from storage begins. Its bytes go along the chain of R278; those of a later read go to the members
that have reported the shard, in seating order (R281). -/
def beginShard (key gen : Nat) (s : Shard) (d : Dev) : Dev :=
  let d := if s.reads = 0 then d else tellHops gen s.num s.reports d
  d.modShard key s.num fun x => { x with
    reading := true, got := 0, lastAt := d.now, reads := x.reads + 1
    reports := if x.reads = 0 then x.reports else []
    nextHop := if x.reads = 0 then none else some x.reports.head? }

/-- The shard's bytes have all arrived: LOAD_END of its extents (R279 to R281). -/
def shardEnds (m : Mem) (p : PartId) (i : Nat) (l : GenLoad) (s : Shard) (d : Dev) : Dev :=
  let listOk := !l.digest || (decide (s.digests % 8 = 0) && d.validData p.val s.digests (8 * s.count))
  if s.done then d.modShard (loadKey p i) s.num fun x => { x with reading := false }
  else if !listOk then shardFails p i s d
  else
    let (d, bad) := (List.range s.count).foldl (fun (x : Dev × Bool) j =>
      if x.1.xf (s.ext + j) XF.state ≠ 2 then x
      else
        let (d, b) := loadEndExtent m (s.ext + j) (memNat m x.1 (s.digests + 8 * j) 8) x.1
        (d, x.2 || b)) (d, false)
    if bad then shardFails p i s d
    else (d.modShard (loadKey p i) s.num fun x => { x with done := true, reading := false }).updateGen p i

/-- The member that gets a shard's bytes next: the next of the group, until the member before the reader holds them; in a
later attempt as its reader has said (R278, R281). -/
def GenLoad.nextOf (l : GenLoad) (s : Shard) : Option Nat :=
  let next := (l.member + 1) % l.group
  match s.nextHop with
  | some x => x
  | none => if s.failed ≠ 0 ∨ next = s.num % l.group then none else some next

/-- Bytes of a shard at an offset arrive: those of extents in LOADING are written, and the next member gets them (R278). -/
def shardArrives (m : Mem) (p : PartId) (i : Nat) (l : GenLoad) (s : Shard) (off : Nat) (data : List Byte) (d : Dev) : Dev :=
  let a := s.ext * extentSize + off
  let d := if d.xf (extentOf a) XF.state = 2 then
      accumulate m a data.length ((d.store a data).countStk true a data.length)
    else d
  let d := match l.nextOf s with
    | none => d
    | some next => (chunks 4096 (data.length + 1) data).zipIdx.foldl (fun d (c : List Byte × Nat) =>
        d.emitFlow (Config.memberDevice l.gen next).toNat (partJob m d p) 1 0
          ((Config.memberExtent l.gen next s.num).toNat * extentSize + off + 4096 * c.2) 0 false c.1) d
  let s' := { s with got := s.got + data.length, lastAt := d.now }
  let d := d.modShard (loadKey p i) s.num fun _ => s'
  if s'.got = s.count * extentSize then shardEnds m p i l s' d else d

/-- A bulk write of bytes at an address belongs to a shard that a partition loads (R278). -/
def Dev.shardAt (d : Dev) (a : Nat) : Option (PartId × Nat × GenLoad × Shard) :=
  (d.loads.filterMap fun x =>
    (x.2.shards.find? fun s => decide (s.ext * extentSize ≤ a) && decide (a < (s.ext + s.count) * extentSize) && !s.done).map
      fun s => (partOf (x.1 / 8), x.1 % 8, x.2, s)).head?

/-- SHARD_TIMEOUT. No byte of a shard has arrived for LOADCFG.TIMEOUT seconds (R281). -/
def shardTimeout (p : PartId) (n : Nat) (d : Dev) : Dev :=
  match d.loadingShard p n with
  | none => d
  | some (i, _, s) =>
    if s.lastAt + 1000000000 * d.fld F.GEN_LOADCFG_TIMEOUT p.val ≤ d.now then shardFails p i s d else d

/-- GENERATION_FREE_RETRY (R274). -/
def generationFreeRetry (p : PartId) (d : Dev) : Dev := d.drainGens p

end Sys2Proof.Machine
end

