-- ==== Sys2Proof/Machine/Serve.lean ====
section
/-! DEFINITION. The sequence table, the KV page allocator and the step composer (09_partitions_serving R266 to
R272, R276, R277). -/

namespace Sys2Proof.Machine

/-- Fields of a sequence table entry (R267). -/
def QF.prio : Bf := ⟨9, 4⟩
def QF.regen : Bf := ⟨13, 1⟩
def QF.gen : Bf := ⟨16, 24⟩
def QF.promptLen : Bf := ⟨64, 32⟩
def QF.pos : Bf := ⟨96, 32⟩
def QF.pages : Bf := ⟨128, 13⟩
def QF.promptAddr : Bf := ⟨144, 41⟩
def QF.joinTime : Bf := ⟨192, 64⟩

/-- Fields of a sequence command (R268). -/
def CR.op : Bf := ⟨0, 4⟩
def CR.seq : Bf := ⟨4, 14⟩
def CR.prio : Bf := ⟨18, 4⟩
def CR.len : Bf := ⟨64, 32⟩
def CR.step : Bf := ⟨64, 64⟩
def CR.addr : Bf := ⟨128, 41⟩

/-- A field of an entry. -/
def Dev.sq (d : Dev) (i : Nat) (f : Bf) : Nat := f.get (tGet 0 d.seqs i).toNat
/-- Sets a field of an entry. -/
def Dev.setSq (d : Dev) (i : Nat) (f : Bf) (v : Nat) : Dev :=
  { d with seqs := tSet 0 i (BitVec.ofNat 256 (f.put v (tGet 0 d.seqs i).toNat)) d.seqs }

/-- BASE and COUNT of a partition's range (R266). -/
def Dev.seqBase (d : Dev) (p : PartId) : Nat := d.fld F.SEQ_RANGE_BASE p.val
/-- See seqBase. -/
def Dev.seqCount (d : Dev) (p : PartId) : Nat := d.fld F.SEQ_RANGE_COUNT p.val

/-- A write of SEQ_p_RANGE is ignored: it overlaps another range or runs past entry 16,383 (R266). -/
def Dev.rangeBad (d : Dev) (p : PartId) (v : Nat) : Bool :=
  let base := bits v 0 14
  let n := bits v 14 15
  decide (16384 < base + n) || (decide (n ≠ 0) && allParts.any fun q =>
    decide (q ≠ p) && decide (d.seqCount q ≠ 0) && overlaps base n (d.seqBase q) (d.seqCount q))

/-- Entries of a partition in a state, in ascending index. -/
def Dev.seqsIn (d : Dev) (p : PartId) (f : Nat → Bool) : List Nat :=
  ((List.range (d.seqCount p)).map fun i => d.seqBase p + i).filter fun i =>
    decide (d.sq i QF.part = p.val) && f (d.sq i QF.state)

/-- a goes before b by rank (R269): PRIORITY high to low, JOIN_TIME early to late, index low to high. -/
def Dev.ranks (d : Dev) (a b : Nat) : Bool :=
  if d.sq a QF.prio ≠ d.sq b QF.prio then decide (d.sq b QF.prio < d.sq a QF.prio)
  else if d.sq a QF.joinTime ≠ d.sq b QF.joinTime then decide (d.sq a QF.joinTime < d.sq b QF.joinTime)
  else decide (a ≤ b)

/-- Inserts by rank. -/
def Dev.rankInsert (d : Dev) (a : Nat) : List Nat → List Nat
  | [] => [a]
  | b :: r => if d.ranks a b then a :: b :: r else b :: d.rankInsert a r

/-- A list by rank. -/
def Dev.byRank (d : Dev) (l : List Nat) : List Nat := l.foldr d.rankInsert []

/-- The serving record of a partition changes. -/
def Dev.modServe (d : Dev) (p : PartId) (f : Serving → Serving) : Dev :=
  { d with serving := tMod {} p.val f d.serving }

/-! ### KV pages -/

/-- Pages that a sequence holds. -/
def Dev.pagesOf (d : Dev) (p : PartId) (i : Nat) : List Nat := tGet [] (d.serve p.val).pages i

/-- A sequence takes the lowest free page; its page table gets the page's number (R270). -/
def Dev.takePage (d : Dev) (p : PartId) (i : Nat) : Dev :=
  match d.freePages p.val with
  | [] => d
  | q :: _ =>
    let ps := d.pagesOf p i
    let a := d.fld F.SEQ_AREA_PT_EXTENT p.val * extentSize + 16384 * (i - d.seqBase p) + 4 * ps.length
    let d := d.storeNat a 4 q
    let d := d.modServe p fun x => { x with pages := tPut i (ps ++ [q]) x.pages }
    d.setSq i QF.pages (ps.length + 1)

/-- A sequence takes n pages. -/
def Dev.takePages (d : Dev) (p : PartId) (i n : Nat) : Dev := (List.range n).foldl (fun d _ => d.takePage p i) d

/-- A sequence's pages are released. -/
def Dev.releasePages (d : Dev) (p : PartId) (i : Nat) : Dev :=
  (d.modServe p fun x => { x with pages := tDel i x.pages }).setSq i QF.pages 0

/-- A sequence leaves: its entry is FREE, with event 9 (R269). -/
def Dev.leave (d : Dev) (p : PartId) (i why : Nat) : Dev :=
  let d := d.releasePages p i
  ({ d with seqs := tDel i d.seqs }).postEvent p 9 i why

/-- A sequence is pre-empted (R271); with why 1 by the old-generation policy, which drops its reference (R277). -/
def Dev.preempt (d : Dev) (p : PartId) (i why : Nat) : Dev :=
  let d := d.releasePages p i
  let d := ((d.setSq i QF.promptLen (d.sq i QF.pos)).setSq i QF.pos 0).setSq i QF.state 5
  let d := if why = 1 then (d.setSq i QF.regen 1).setSq i QF.gen 0 else d
  (d.postEvent p 8 i why).count F.SEQ_COUNTS_PREEMPTS 1 p.val

/-- The victim of a pre-emption (R271): the last by rank of the PREFILL and DECODE sequences that hold pages. -/
def Dev.victim (d : Dev) (p : PartId) : Option Nat :=
  (d.byRank ((d.seqsIn p fun s => decide (s = 2) || decide (s = 3)).filter fun i => !(d.pagesOf p i).isEmpty)).getLast?

/-! ### Commands -/

/-- Tokens per page. -/
def Dev.pageTokens (d : Dev) (p : PartId) : Nat := d.fld F.SEQ_STEP_PAGE_TOKENS p.val
/-- Pages that a prompt needs (R269). -/
def Dev.pagesFor (d : Dev) (p : PartId) (n : Nat) : Nat := (n + d.pageTokens p - 1) / d.pageTokens p

/-- Why a JOIN is refused (R268): 1 index, 2 length. With PAGE_TOKENS 0 no length fits. -/
def Dev.joinRefusal (d : Dev) (p : PartId) (i n : Nat) : Option Nat :=
  if i < d.seqBase p ∨ d.seqBase p + d.seqCount p ≤ i ∨ d.sq i QF.state ≠ 0 then some 1
  else if n = 0 ∨ d.pageTokens p = 0 ∨ 4096 < d.pagesFor p n then some 2
  else none

/-- An index of the partition's range names an entry that is not FREE. -/
def Dev.seqLive (d : Dev) (p : PartId) (i : Nat) : Bool :=
  decide (d.seqBase p ≤ i) && decide (i < d.seqBase p + d.seqCount p) && decide (d.sq i QF.state ≠ 0)

/-- A command that is refused is counted and answered with event 10 (R268, R284). -/
def Dev.refuseJoin (d : Dev) (p : PartId) (i why : Nat) : Dev :=
  (d.count F.SEQ_COUNTS_BAD_CMDS 1 p.val).postEvent p 10 i why

/-- OLD_GEN_LIMIT has passed since a castling replaced a generation (R277). -/
def Dev.oldLimit (d : Dev) (p : PartId) (g : Nat) : Bool :=
  let limit := d.fld F.SEQ_POLICY_OLD_GEN_LIMIT p.val
  (d.serve p.val).oldDue.contains g || (match tFind g (d.serve p.val).castled with
    | some t => decide (0 < limit) && decide (t + 1000000 * limit ≤ d.now)
    | none => false)

/-- The policy of R277 at a step end: sequences on a generation that is not live are pre-empted, at the first step end
after the castling that replaced it or once OLD_GEN_LIMIT has passed since. -/
def oldGens (p : PartId) (d : Dev) : Dev :=
  let old := (d.seqsIn p fun s => decide (s = 2) || decide (s = 3) || decide (s = 5)).filter fun i =>
    let g := d.sq i QF.gen
    decide (g ≠ 0) && decide (g ≠ d.fld F.GEN_LIVE_GEN p.val) && (d.flag F.SEQ_POLICY_OLD_GEN p.val || d.oldLimit p g)
  old.foldl (fun d i => if d.sq i QF.state = 5 then (d.setSq i QF.regen 1).setSq i QF.gen 0 else d.preempt p i 1) d

/-- The step in progress ends (R272): its runs commit, and the partition is at its boundary (R255, R261, R262, R276,
R277). -/
def stepEnds (p : PartId) (runs : List StepRun) (d : Dev) : Dev :=
  let d := runs.foldl (fun d r =>
    if d.sq r.seq QF.state = 0 then d
    else
      let d := d.setSq r.seq QF.pos (d.sq r.seq QF.pos + r.count)
      if r.last && decide (d.sq r.seq QF.state = 2) then d.setSq r.seq QF.state 3 else d) d
  let d := d.modServe p fun x => { x with step := none }
  let d := oldGens p d
  let d := if d.fld F.GEN_AT_AT p.val ≤ d.now then castleAtBoundary p d else d
  (holdAtBoundary p d).drainGens p

/-- The entry of a sequence that joins (R267, R268): WAITING, as the command says, at position 0 and without pages. -/
def joinEntry (p : PartId) (r now : Nat) : Nat :=
  QF.joinTime.put now (QF.promptAddr.put (CR.addr.get r) (QF.promptLen.put (CR.len.get r)
    (QF.prio.put (CR.prio.get r) (QF.part.put p.val (QF.state.put 1 0)))))

/-- Takes one sequence command (R268, R272). -/
def seqCommand (p : PartId) (r : Nat) (d : Dev) : Dev :=
  let i := CR.seq.get r
  match CR.op.get r with
  | 1 =>
    match d.joinRefusal p i (CR.len.get r) with
    | some why => d.refuseJoin p i why
    | none =>
      { d with seqs := tSet 0 i (BitVec.ofNat 256 (joinEntry p r d.now)) d.seqs }
  | 2 => if d.seqLive p i then d.setSq i QF.state 4 else d
  | 3 => if d.seqLive p i then d.setSq i QF.prio (CR.prio.get r) else d
  | 4 =>
    match (d.serve p.val).step with
    | some (n, runs) => if n = CR.step.get r then stepEnds p runs d else d.count F.SEQ_COUNTS_BAD_CMDS 1 p.val
    | none => d.count F.SEQ_COUNTS_BAD_CMDS 1 p.val
  | _ => d.refuseJoin p i 3

/-- A ring of the partition that its PART_p_RINGS validates by a bit, a MESSAGE ring without error. -/
def Dev.hubRing (d : Dev) (p : PartId) (f : Fld) (bit : Nat) : Option Nat :=
  let r := d.fld f p.val
  if bitAt (d.fld F.PART_RINGS_VALID p.val) bit && d.ringMine p.val r && decide (d.rf r RF.kind = 1) && decide (d.rf r RF.error = 0)
  then some r else none

/-- Takes every command on the sequence ring, in ring order (R269). -/
def takeCommands (m : Mem) (p : PartId) (r : Nat) : Nat → Dev → Dev
  | 0, d => d
  | n + 1, d =>
    if !ringVisible m d r then d
    else
      let l := slotPayload m d r (d.rf r RF.consumed)
      let d := Dev.consumeAt m d r (d.rf r RF.consumed)
      takeCommands m p r n (seqCommand p (leNat (l.take 32)) d)

/-! ### Composition (R269) -/

/-- A decode sequence gets the page that it needs; others are pre-empted while none is free, and it may be one of
them (R269, R271). -/
def needPage (p : PartId) (i : Nat) : Nat → Dev → Dev
  | 0, d => d
  | n + 1, d =>
    if !(d.freePages p.val).isEmpty then d.takePage p i
    else match d.victim p with
      | none => d
      | some v => let d := d.preempt p v 0; if v = i then d else needPage p i n d

/-- Decode sequences by rank: the runs placed, within the budget. -/
def decodeRuns (p : PartId) (budget : Nat) : List Nat → Dev → List StepRun → Dev × List StepRun
  | [], d, rs => (d, rs)
  | i :: l, d, rs =>
    if d.sq i QF.state ≠ 3 then decodeRuns p budget l d rs
    else if d.sq i QF.pos % d.pageTokens p = 0 ∧ 4096 ≤ (d.pagesOf p i).length then
      decodeRuns p budget l (d.leave p i 1) rs
    else
      let d := if d.sq i QF.pos % d.pageTokens p = 0 then needPage p i (d.seqCount p + 1) d else d
      if d.sq i QF.state = 3 ∧ rs.length < budget then
        decodeRuns p budget l d (rs ++ [⟨i, false, false, d.sq i QF.gen, d.sq i QF.pos, 1⟩])
      else decodeRuns p budget l d rs

/-- Waiting and pre-empted sequences by rank are admitted while their pages are free; answers whether one is
deferred. -/
def admitSeqs (p : PartId) : List Nat → Dev → Dev × Bool
  | [], d => (d, false)
  | i :: l, d =>
    let n := d.pagesFor p (d.sq i QF.promptLen)
    if n ≤ (d.freePages p.val).length then
      let d := (d.takePages p i n).setSq i QF.state 2
      let d := if d.sq i QF.gen = 0 ∨ d.sq i QF.regen = 1 then
          (d.setSq i QF.gen (d.fld F.GEN_LIVE_GEN p.val)).setSq i QF.regen 0 else d
      admitSeqs p l d
    else (d, true)

/-- Prefill runs by rank, while tokens are left. -/
def prefillRuns (p : PartId) (chunk : Nat) : List Nat → Dev → Nat → List StepRun
  | [], _, _ => []
  | i :: l, d, left =>
    if left = 0 then []
    else
      let n := d.sq i QF.promptLen - d.sq i QF.pos
      let c := min (min chunk n) left
      ⟨i, true, decide (c = n), d.sq i QF.gen, d.sq i QF.pos, c⟩ :: prefillRuns p chunk l d (left - c)

/-- A run as the step record holds it (R272). -/
def StepRun.bytes (r : StepRun) : List Byte :=
  leBytes 16 (r.seq + b2n r.prefill * 2 ^ 14 + b2n r.last * 2 ^ 15 + r.gen * 2 ^ 16 + r.first * 2 ^ 64 + r.count * 2 ^ 96)

/-- The areas of a serving partition are VALID DATA extents of its own (R272). -/
def Dev.areasOk (d : Dev) (p : PartId) : Bool :=
  d.validData p.val (d.fld F.SEQ_AREA_PT_EXTENT p.val * extentSize) (16384 * d.seqCount p) &&
    d.validData p.val (d.fld F.SEQ_AREA_STEP_EXTENT p.val * extentSize) extentSize

/-- Publishes a step: its record and the message on the step ring (R272). -/
def publish (p : PartId) (ring : Nat) (runs : List StepRun) (d : Dev) : Dev :=
  let s := (d.serve p.val).next
  let dec := (runs.filter fun r => !r.prefill).length
  let pre := ((runs.filter fun r => r.prefill).map fun r => r.count).sum
  let head := leBytes 64 (s % 2 ^ 64 + runs.length * 2 ^ 64 + dec * 2 ^ 80 + pre * 2 ^ 96)
  let a := d.fld F.SEQ_AREA_STEP_EXTENT p.val * extentSize + 1048576 * (s % 2)
  let d := d.store a (head ++ runs.flatMap fun r => r.bytes)
  let d := d.produce ring (d.turnOf p) (leBytes 8 s)
  let d := d.modServe p fun x => { x with step := some (s, runs), next := s + 1 }
  d.setFld F.SEQ_STEPNUM_STEP s p.val

/-- Composes the next step (R269). -/
def compose (p : PartId) (ring : Nat) (d : Dev) : Dev :=
  let d := (d.seqsIn p fun s => decide (s = 4)).foldl (fun d i => d.leave p i 0) d
  let budget := d.fld F.SEQ_STEP_BUDGET_M1 p.val + 1
  let (d, dec) := decodeRuns p budget (d.byRank (d.seqsIn p fun s => decide (s = 3))) d []
  let (d, deferred) := admitSeqs p (d.byRank (d.seqsIn p fun s => decide (s = 1) || decide (s = 5))) d
  let pre := prefillRuns p (d.fld F.SEQ_STEP_CHUNK_M1 p.val + 1) (d.byRank (d.seqsIn p fun s => decide (s = 2))) d
    (budget - dec.length)
  let runs := dec ++ pre
  let d := d.drainGens p
  if (runs.map fun r => r.count).sum = 0 then d
  else (publish p ring runs d).count F.SEQ_COUNTS_DEFERRED (b2n deferred) p.val

/-- STEP_COMPOSE. The composer of a serving partition takes the commands on its sequence ring and, with no step in
progress, composes and publishes the next one (R255, R269, R272). -/
def stepCompose (m : Mem) (p : PartId) (d : Dev) : Dev :=
  if !d.isServing p || decide (d.pstate p = 0) then d
  else
    let d := match d.hubRing p F.PART_RINGS_SEQ_RING 1 with
      | some r =>
        if d.rf r RF.consumer ≠ 1 then d
        else if !d.bufferOk r then (if d.ringFill r = 0 then d else ringError m r 5 0 d)
        else takeCommands m p r (d.ringFill r) d
      | none => d
    match d.hubRing p F.PART_RINGS_STEP_RING 2 with
    | none => d
    | some r =>
      if d.pstate p = 3 ∨ d.pstate p = 4 ∨ (d.serve p.val).step.isSome ∨ !d.areasOk p ∨ d.pageTokens p = 0 ∨
          d.rf r RF.pHub ≠ 1 ∨ !d.ringRoom r then d
      else if !d.bufferOk r then ringError m r 5 0 d
      else
        let a := d.fld F.SEQ_AREA_STEP_EXTENT p.val * extentSize + 1048576 * ((d.serve p.val).next % 2)
        let b := d.slotAddr r (d.rf r RF.produced) + 64
        if d.badWrite a 1048576 then raiseCut m a 1048576 (some p) d
        else if d.badWrite b 8 then raiseCut m b 8 (some p) d
        else compose p r d

/-- OLD_GEN_LIMIT_EXPIRY. OLD_GEN_LIMIT has passed since a castling: a sequence still on the generation that it replaced
is pre-empted at the next step end (R277). -/
def oldGenLimitExpiry (p : PartId) (d : Dev) : Dev :=
  let due := ((d.serve p.val).castled.map fun e => e.1).filter fun g => d.oldLimit p g
  if due.isEmpty then d else d.modServe p fun x => { x with oldDue := due }

/-- A snapshot of a sequence table entry that a path selects (R284). -/
def Dev.seqSnapshot (d : Dev) (w : Path) (p : Nat) (i : Nat) : Dev :=
  let e := (tGet 0 d.seqs (i % 16384)).toNat
  (List.range 4).foldl (fun d j => d.setPfld w F.SEQ_READ_ENTRY (e / 2 ^ (64 * j) % 2 ^ 64) p j) d

end Sys2Proof.Machine
end

