-- ==== Sys2Proof/Machine/Move.lean ====
section
/-! DEFINITION. Moving a partition to another device (09_partitions_serving R263 to R265). The extents travel as bulk
writes; what else the rule sends travels in control packets of the model's own (log 49), since the spec gives no form
for it. -/

namespace Sys2Proof.Machine

/-- Codes of KIND_DATA of the packets of a move: registers of the partition, an extent's map entry, a ring, a sequence, pages
of a sequence, a generation, a context, a command of a collective that a context has not pushed, and the
refusal or the abandonment of the move. -/
inductive MoveItem where
  | regs | extent | ring | seq | pages | gen | ctx | sched | abandon
deriving DecidableEq, Repr

/-- Its code. -/
def MoveItem.code : MoveItem → Nat
  | .regs => 0xE4 | .extent => 0xE5 | .ring => 0xE6 | .seq => 0xE7 | .pages => 0xE8 | .gen => 0xE9 | .ctx => 0xEA
  | .sched => 0xEB | .abandon => 0xEC

/-- The item of a code. -/
def MoveItem.ofCode : Nat → Option MoveItem
  | 0xE4 => some .regs | 0xE5 => some .extent | 0xE6 => some .ring | 0xE7 => some .seq | 0xE8 => some .pages
  | 0xE9 => some .gen | 0xEA => some .ctx | 0xEB => some .sched | 0xEC => some .abandon | _ => none

/-- Sends an item, with the number of what it describes. -/
def Dev.sendItem (d : Dev) (target j : Nat) (i : MoveItem) (n : Nat) (l : List Byte) : Dev :=
  d.emitSystem target j 4 0 (i.code + n % 2 ^ 32 * 2 ^ 8) l

/-! ### Contexts (R142, R264) -/

/-- A wait of a hart, as 68 bytes. -/
def waitBytes : Option Wait → List Byte
  | none => leBytes 68 0
  | some (.sem n v) => leBytes 68 (1 + n.toNat * 2 ^ 8 + v.toNat * 2 ^ 16)
  | some (.fence s) => leBytes 68 (2 + s.toNat * 2 ^ 8)
  | some (.push q rd w) => leBytes 68 (3 + q.val * 2 ^ 8 + rd.toNat * 2 ^ 16 + w.toNat * 2 ^ 32)
  | some .collective => leBytes 68 4

/-- A wait from its bytes. -/
def waitOf (v : Nat) : Option Wait :=
  match v % 256 with
  | 1 => some (.sem (BitVec.ofNat 5 (bits v 8 8)) (BitVec.ofNat 16 (bits v 16 16)))
  | 2 => some (.fence (BitVec.ofNat 3 (bits v 8 8)))
  | 3 => some (.push ⟨bits v 8 8 % 3, Nat.mod_lt _ (by decide)⟩ (BitVec.ofNat 5 (bits v 16 8)) (BitVec.ofNat 512 (v / 2 ^ 32)))
  | 4 => some .collective
  | _ => none

/-- What a context holds beyond its image (R142): where it is homed, its wait, and its collective in progress. The contents
of its tiles are in the tile save area, whose layout is open (log 49). -/
def Ctx.rest (x : Ctx) (home : Nat) : List Byte :=
  let tile := fun (t : Option Tile) => match t with
    | some y => leBytes 4 (1 + ((List.range 32).find? fun k => decide (Fmt.ofCode k = some y.fmt)).getD 0 * 2 ^ 8 + b2n y.mx * 2 ^ 16 +
        y.owner % 256 * 2 ^ 24)
    | none => leBytes 4 0
  let h := x.hart
  let words := [h.mstatus, h.mtvec, h.mscratch, h.mie, h.mepc, h.mcause, h.mtval, x.movErr]
  leBytes 16 (x.num.toNat + home * 2 ^ 16 + x.ext * 2 ^ 24 + x.entryExt * 2 ^ 48 +
    (b2n x.sched.stopped + 2 * b2n x.tilesFresh + 4 * b2n x.loadedTile + 8 * b2n (decide (h.mode = .machine))) * 2 ^ 72 +
    x.collOp % 256 * 2 ^ 80 + x.coll30 % 2 ^ 16 * 2 ^ 88 + x.coll31 % 2 ^ 16 * 2 ^ 104) ++
  waitBytes x.wait ++ tile x.tiles.1 ++ tile x.tiles.2 ++ words.flatMap (fun w => leBytes 8 w.toNat) ++
  leBytes 2 x.barriers.length ++ leBytes 2 x.collCmds.length ++ (x.barriers ++ x.collCmds).flatMap fun s => leBytes 4 s.toNat

/-- The groups that an image's section holds (R142), at most n of them. -/
def savedGroupsOf : Nat → List Byte → List SavedGroup
  | 0, _ => []
  | n + 1, l =>
    if l.isEmpty then []
    else
      let v := leNat (l.take 16)
      let long := bitAt v 9
      let g : Group :=
        { base := bits v 0 4, count := bits v 4 5, long := long, width := bits v 10 2, exp := bits v 12 8, st := .isOpen
          passes := bits v 32 32, fill := if long then Long.encode ⟨0, bits v 12 8, 0⟩ else 0 }
      ⟨⟨bits v 124 3 % 8, Nat.mod_lt _ (by decide)⟩, g.withSegments ((l.drop 16).take (65536 * g.count))⟩ ::
        savedGroupsOf n (l.drop (16 + 65536 * g.count))

/-- The outer-product registers that an image's section holds (R142). -/
def savedOpOf (l : List Byte) : Option OpRegs :=
  if l.isEmpty then none
  else
    let v := leNat ((l.drop 557056).take 16)
    some { isOpen := true, cls := bits v 0 2, lambda := bits v 2 6, rows := bits v 16 32
           cells := (List.range 65536).filterMap fun i =>
             let u := (BitVec.ofNat 64 (leNat ((l.drop (8 * i)).take 8))).toInt
             let b := bits (leNat ((l.drop (524288 + i / 2)).take 1)) (4 * (i % 2)) 4
             if u = 0 ∧ b = 0 then none else some (i, ⟨u, b⟩) }

/-- A context from its image, as l gives its bytes, and from what it holds beyond it (R142, R264). -/
def Ctx.arrived (p : PartId) (home : CoreId) (l : Nat → Nat → List Byte) (rest : List Byte) (seed turn : Nat) (d : Dev) : Ctx × Dev :=
  let (i, d) := d.draw
  let v := leNat (rest.take 16)
  let part := fun (o n : Nat) => leNat ((rest.drop o).take n)
  let tile := fun (o k : Nat) =>
    match decide (part o 1 = 1), Fmt.ofCode (part (o + 1) 1) with
    | true, some f => some ({ fmt := f, mx := decide (part (o + 2) 1 = 1), owner := part (o + 3) 1
                              data := tableOf (freeBytes (2 * i + k) 65536)
                              scales := tableOf (freeBytes (2 * i + k) 67584 |>.drop 65536) } : Tile)
    | _, _ => none
  let x : Ctx := { num := BitVec.ofNat 16 v, part := p, home := home, ext := bits v 24 19, entryExt := bits v 48 19 }
  let head := leNat (l 0 64)
  let sect := fun (o : Nat) => l (bits head o 32) (bits head (o + 32) 32)
  let y := x.restore (l 0 creationBytes) seed turn
  let word := fun (k : Nat) => BitVec.ofNat 64 (part (92 + 8 * k) 8)
  let nb := part 156 2
  let seqs := fun (o n : Nat) => (List.range n).map fun k => BitVec.ofNat 32 (part (160 + 4 * (o + k)) 4)
  ({ y with
    hart := { y.hart with
      mode := if bitAt v 75 then .machine else .user, mstatus := word 0, mtvec := word 1, mscratch := word 2, mie := word 3
      mepc := word 4, mcause := word 5, mtval := word 6 }
    movErr := word 7
    err := BitVec.ofNat 64 (leNat (l 0x350 8))
    wait := waitOf (part 16 68)
    sched := { y.sched with stopped := bitAt v 72, runnableSince := some d.now }
    tiles := (tile 84 0, tile 88 1), tilesFresh := bitAt v 73, loadedTile := bitAt v 74
    collOp := bits v 80 8, coll30 := bits v 88 16, coll31 := bits v 104 16
    barriers := seqs 0 nb, collCmds := seqs nb (part 158 2)
    winSize := bits head 160 32 / 65536, savedSpd := tableOf ((sect 128).take (bits head 160 32 - 132 * 1024))
    savedGroups := savedGroupsOf 8 (sect 192), savedOp := savedOpOf (sect 256) }, d)

/-! ### The source -/

/-- The source sends every extent that the partition owns, and waits for what acknowledges them (R264 step 4). -/
def sendExtents (m : Mem) (p : PartId) (target j : Nat) (d : Dev) : Dev :=
  (d.ownedExtents p).foldl (fun d e => sendExtent m target j e e d) d

/-- The source sends the rest: registers, map fields, rings, sequences with their pages, generations and contexts (R264
step 4). -/
def sendRest (p : PartId) (target j : Nat) (d : Dev) : Dev :=
  let cs := d.ownedCores p
  let d := d.sendItem target j .regs 0 (leBytes 6 (d.turnOf p) ++ leBytes 8 (d.seedOf p) ++ leBytes 8 (d.serve p.val).next ++
    leBytes 1 (d.fld F.PART_CONFIG_SLOTS p.val) ++ leBytes 1 (d.fld F.PART_CONFIG_WINDOW p.val) ++ leBytes 1 cs.length ++
    leBytes 3 (d.fld F.GEN_LIVE_GEN p.val) ++ leBytes 3 (tGet 0 d.castling p.val))
  let d := (d.ownedExtents p).foldl (fun d e => d.sendItem target j .extent e (leBytes 16 (d.xent e))) d
  let d := (d.ownedRings p).foldl (fun d r => d.sendItem target j .ring r (leBytes 32 (d.ring r).ctx.toNat)) d
  let d := (d.seqsIn p fun _ => true).foldl (fun d i =>
    (chunks 4096 2048 ((d.pagesOf p i).flatMap fun q => leBytes 4 q)).foldl
      (fun d l => if l.isEmpty then d else d.sendItem target j .pages i l)
      (d.sendItem target j .seq i (leBytes 32 (tGet 0 d.seqs i).toNat))) d
  let d := (List.range 8).foldl (fun d i =>
    d.sendItem target j .gen i (leBytes 8 (d.word (F.GEN_ENTRY_GEN.addr p.val i)).toNat)) d
  (d.ctxs.filter fun e => decide (e.2.part = p)).foldl (fun d e =>
    let d := d.sendItem target j .ctx e.2.num.toNat (e.2.rest ((cs.findIdx? fun c => decide (c = e.2.home)).getD 0))
    e.2.schedule.foldl (fun d q =>
      d.sendItem target j .sched e.2.num.toNat (leBytes 1 q.1.val ++ leBytes 64 q.2.toNat)) d) d

/-- What a partition owned is freed, and the partition deleted (R264 step 8, R265). -/
def endMove (p : PartId) (d : Dev) : Dev :=
  let d := (d.ownedExtents p).foldl (fun d e => d.freeExtent e) d
  let d := (d.ownedRings p).foldl (fun d r => d.freeRing r) d
  let d := (List.range 8).foldl (fun d i => d.setWord (F.GEN_ENTRY_GEN.addr p.val i) 0)
    ({ d with
      seqs := d.seqs.filter fun e => decide (QF.part.get e.2.toNat ≠ p.val)
      castling := tDel p.val d.castling, turnGen := tDel p.val d.turnGen, moves := tDel p.val d.moves
      loads := d.loads.filter fun e => decide (e.1 / 8 ≠ p.val) } : Dev)
  partDelete p ((d.ownedCores p).foldl (fun d c => d.beginPlan c .idle) (d.setFld F.GEN_LIVE_GEN 0 p.val))

/-- The source abandons a move: the partition is HELD again, for the banker to release (R265). -/
def Dev.abandonMove (d : Dev) (p : PartId) : Dev :=
  { d.setFld F.PART_STATUS_STATE 3 p.val with moves := tDel p.val d.moves }

/-- A move of a job's partition toward a device, before everything was sent, is abandoned: the device refuses it, or cannot
be reached (R265). -/
def moveFails (m : Mem) (j : Nat) (d : Dev) : Dev :=
  (d.moves.filter fun e => decide (partJob m d (partOf e.1) = j)).foldl (fun d e => d.abandonMove (partOf e.1)) d

/-- An acknowledgement of a bulk transfer of a move (R297). -/
def Dev.moveAcked (d : Dev) (dev a : Nat) : Dev :=
  { d with moves := d.moves.map fun e =>
      (e.1, if e.2.target = dev then { e.2 with waiting := e.2.waiting.filter fun x => decide (x ≠ a) } else e.2) }

/-- Every partition of the partition's job is HELD (R263). -/
def jobHeld (m : Mem) (d : Dev) (p : PartId) : Bool :=
  decide (partJob m d p = 0) || (jobParts m d (partJob m d p)).all fun q => decide (d.pstate q = 3) || (tFind q.val d.moves).isSome

/-- The next step of a move that runs at the source (R264 steps 2, 4 and 8, R265). -/
def moveOn (m : Mem) (p : PartId) (x : MoveOut) (d : Dev) : Dev :=
  let j := partJob m d p
  let set := fun (y : MoveOut) (d : Dev) => ({ d with moves := tPut p.val y d.moves } : Dev)
  match x.stage with
  | 0 =>
    if (d.ownedCores p).any fun c => (d.core c).plan.isSome || (d.core c).swap.isSome then d
    else match (d.ownedExtents p).find? fun e => d.readFails (e * extentSize) extentSize with
      | some e => (raiseBad m (e * extentSize) extentSize (some p) (d.abandonMove p)).sendItem x.target j .abandon 0 [0]
      | none => set { x with stage := 1, waiting := (d.ownedExtents p).map lastPacket }
          (sendExtents m p x.target j d)
  | 1 => if x.waiting.isEmpty then set { x with stage := 2 } (sendRest p x.target j d) else d
  | _ => endMove p d

/-! ### The destination -/

/-- The partition of a job that takes a move in. -/
def moveTarget (m : Mem) (d : Dev) (j : Nat) : Option PartId :=
  allParts.find? fun p => decide (d.pstate p = 4) && (tFind p.val d.moves).isNone && decide (partJob m d p = j)

/-- The destination refuses an item (R263): the partition has too few cores, or other windows; an extent is not allocated as
at the source; a ring or a sequence table entry is not free, or outside the range. -/
def moveRefuses (d : Dev) (p : PartId) (i : MoveItem) (n : Nat) (l : List Byte) : Bool :=
  let v := leNat l
  match i with
  | .regs => decide (bits v 176 8 ≠ d.fld F.PART_CONFIG_SLOTS p.val) || decide (bits v 184 8 ≠ d.fld F.PART_CONFIG_WINDOW p.val) ||
      decide ((d.ownedCores p).length < bits v 192 8)
  | .extent => decide (d.xf n XF.owner ≠ p.val) || decide (d.xf n XF.state = 1) ||
      [XF.kind, XF.member, XF.partner, XF.gen, XF.digestMode].any fun f => decide (f.get v ≠ d.xf n f)
  | .ring => decide (d.rf n RF.kind ≠ 0)
  | .seq => decide (n < d.seqBase p) || decide (d.seqBase p + d.seqCount p ≤ n) || decide (d.sq n QF.state ≠ 0)
  | .ctx => (coreOf? (bits v 16 8)).isNone || !d.swapAccess p (bits v 24 19) false || (d.ctx? (ctxKey p (BitVec.ofNat 16 n))).isSome
  | _ => false
where
  coreOf? (i : Nat) : Option CoreId := (d.ownedCores p)[i]?

/-- The destination applies an item (R264 steps 4 and 5). -/
def moveApply (m : Mem) (p : PartId) (i : MoveItem) (n : Nat) (l : List Byte) (d : Dev) : Dev :=
  let v := leNat l
  let key := ctxKey p (BitVec.ofNat 16 n)
  match i with
  | .regs =>
    let d := ((d.setFld F.PART_TURN_TURN (bits v 0 48) p.val).setFld F.PART_SEED_SEED (bits v 48 64) p.val).setFld
      F.GEN_LIVE_GEN (bits v 200 24) p.val
    let d := if bits v 224 24 = 0 then d else d.setCastling (tPut p.val (bits v 224 24) d.castling)
    d.modServe p fun x => { x with next := bits v 112 64 }
  | .extent => ((d.setXf n XF.state (XF.state.get v)).setXf n XF.digest (XF.digest.get v)).setXf n XF.value (XF.value.get v)
  | .ring => d.setRing n { ctx := BitVec.ofNat 256 (RF.owner.put p.val v) }
  | .seq => { d with seqs := tSet 0 n (BitVec.ofNat 256 (QF.part.put p.val v)) d.seqs }
  | .pages =>
    let ps := (List.range (l.length / 4)).map fun k => leNat ((l.drop (4 * k)).take 4)
    d.modServe p fun x => { x with pages := tPut n (tGet [] x.pages n ++ ps) x.pages }
  | .gen => d.setWord (F.GEN_ENTRY_GEN.addr p.val n) (BitVec.ofNat 64 v)
  | .ctx =>
    match (d.ownedCores p)[bits v 16 8]? with
    | none => d
    | some c =>
      let (x, d) := Ctx.arrived p c (fun a k => memRead m d (bits v 24 19 * extentSize + a) k) l (d.seedOf p) (d.turnOf p) d
      d.setCtx key x
  | .sched => d.modCtx key fun x => { x with schedule := x.schedule ++
      [(⟨leNat (l.take 1) % 3, Nat.mod_lt _ (by decide)⟩, BitVec.ofNat 512 (leNat (l.drop 1)))] }
  | .abandon => endMove p d

/-- An item of a move arrives: at the destination it is applied, or refused, and with it the move; a refusal abandons the
move at the source (R263 to R265). -/
def moveArrive (m : Mem) (src j : Nat) (i : MoveItem) (n : Nat) (l : List Byte) (d : Dev) : Dev :=
  match moveTarget m d j with
  | some p =>
    if moveRefuses d p i n l then (endMove p d).sendItem src j .abandon 0 [0] else moveApply m p i n l d
  | none => if i = .abandon then moveFails m j d else d.sendItem src j .abandon 0 [0]

/-- PARTITION_MOVE, as the banker carries the move out (R264). At the source the first makes the partition of a HELD job
MOVING, and its contexts swap out; the next, once they are out, send its extents, then the rest, and last free
what it had. At the destination, which the row names as the target, the first creates the partition, the next
lets it take the copy, and the last makes it HELD for RELEASE (log 49). -/
def partitionMove (m : Mem) (p : PartId) (target : Nat) (d : Dev) : Dev :=
  let st := d.pstate p
  let set := fun (v : Nat) => d.setFld F.PART_STATUS_STATE v p.val
  if !d.hubOn then d
  else if target = d.deviceId then
    (if st = 0 then (set 3).setFld F.PART_TURN_TURN 0 p.val
     else if st = 3 then set 4
     else if st = 4 ∧ (tFind p.val d.moves).isNone then set 3 else d)
  else match tFind p.val d.moves with
    | some x => if st = 4 ∧ x.target = target then settleAll m (moveOn m p x d) else d
    | none =>
      if st = 3 ∧ jobHeld m d p then
        let d : Dev := { set 4 with moves := tPut p.val { target := target } d.moves }
        (d.ownedCores p).foldl (fun d c => d.beginPlan c .empty) d
      else d

end Sys2Proof.Machine
end

