-- ==== Sys2Proof/Machine/Fabric.lean ====
section
/-! DEFINITION. Pyrol Link: port states, flits and link replay, routing, flows, shares, beacons and fabric time
(10_pyrol_link_fabric R286 to R318). -/

namespace Sys2Proof.Machine

/-- The ports. -/
def allPorts : List PortId := (List.range 16).map fun i => ⟨i % 16, Nat.mod_lt i (by decide)⟩
/-- The run-time state of a port. -/
def Dev.port (d : Dev) (n : PortId) : Port := tGet {} d.ports n.val
/-- Sets it. -/
def Dev.setPort (d : Dev) (n : PortId) (x : Port) : Dev := { d with ports := tSet {} n.val x d.ports }
/-- Changes it. -/
def Dev.modPort (d : Dev) (n : PortId) (f : Port → Port) : Dev := d.setPort n (f (d.port n))
/-- STATE of a port (R317): 0 DARK, 1 TRAIN, 2 CHECK, 3 UP, 4 DOWN. -/
def Dev.portState (d : Dev) (n : PortId) : Nat := d.fld F.PL_STATUS_STATE n.val

/-- The ports run: the main rails are on and no reset holds them (R368, R410). -/
def Dev.fabricOn (d : Dev) : Bool := decide (d.power.phase ≠ .asleep) && decide (d.resetDomain 0x20 0 = 0)

/-! ### Share tables -/

/-- JOB, WEIGHT and CREDITS of a share entry (R317). -/
def SF.job : Bf := ⟨0, 16⟩
def SF.weight : Bf := ⟨16, 8⟩
def SF.credits : Bf := ⟨24, 12⟩

/-- A share entry as the registers hold it. -/
def Dev.shareReg (d : Dev) (n : PortId) (i : Nat) : Nat := (d.word (F.PL_SHARE_JOB.addr n.val i)).toNat

/-- The digest of the share registers (R290). -/
def Dev.shareDigest (d : Dev) (n : PortId) : Nat :=
  leNat ((sha3 ((List.range 32).flatMap fun i => leBytes 8 (d.shareReg n i))).take 8)

/-- The share registers of a port as a table. -/
def Dev.shareRegs (d : Dev) (n : PortId) : Table (BitVec 64) :=
  (List.range 32).filterMap fun i => let v := d.shareReg n i; if v = 0 then none else some (i, BitVec.ofNat 64 v)

/-- An entry of the table in force. -/
def Port.entry (x : Port) (i : Nat) : Nat := (tGet 0 x.share i).toNat

/-- Flits of credit of a channel of a set (R305); set 0 holds 64 flits. -/
def Port.capacity (x : Port) (set vc : Nat) : Nat :=
  let n := if set = 0 then 64
    else if SF.weight.get (x.entry (set - 1)) = 0 then 0 else SF.credits.get (x.entry (set - 1))
  if vc = 0 then (n + 1) / 2 else n / 2

/-- Full credits for the table in force. -/
def Port.fullCredits (x : Port) : Table Nat :=
  (List.range 66).filterMap fun k => let n := x.capacity (k / 2) (k % 2); if n = 0 then none else some (k, n)

/-- The set of a packet on a port (R297, R305); none for a job without a share entry. -/
def Port.setOf (x : Port) (p : Packet) : Option Nat :=
  if 3 ≤ p.pkind.toNat then some 0
  else ((List.range 32).find? fun i => decide (SF.weight.get (x.entry i) ≠ 0) && decide (SF.job.get (x.entry i) = p.job.toNat)).map
    fun i => i + 1

/-! ### Flits (R291 to R295) -/

/-- The bytes of a flit that its CRC covers. -/
def flitCovered (f : Flit) : List Byte :=
  leBytes 16 (f.fseq.toNat + f.ack.toNat * 2 ^ 16 + b2n f.nak * 2 ^ 32 + f.fkind.toNat * 2 ^ 33 + f.vset.toNat * 2 ^ 36 +
    f.vc.toNat * 2 ^ 42 + f.crVset.toNat * 2 ^ 43 + f.crVc.toNat * 2 ^ 49 + f.crCount.toNat * 2 ^ 50) ++ padTo 236 (f.body.take 236)

/-- A flit with its CRC (R292). -/
def sealFlit (f : Flit) : Flit := { f with crc := BitVec.ofNat 32 (crc32c (flitCovered f)) }

/-- The header and payload of a packet (R295, R296). -/
def packetBytes (p : Packet) : List Byte :=
  leBytes 32 (p.dst.toNat + p.src.toNat * 2 ^ 20 + p.job.toNat * 2 ^ 40 + p.pkind.toNat * 2 ^ 56 + b2n p.last * 2 ^ 60 +
    p.flowSeq.toNat * 2 ^ 64 + (p.payload.length - 1) * 2 ^ 96 + p.ring.toNat * 2 ^ 110 + p.addr.toNat * 2 ^ 128 +
    p.kindData.toNat * 2 ^ 192) ++ p.payload

/-- A packet from its bytes. -/
def packetOf (l : List Byte) : Packet :=
  let h := leNat (l.take 32)
  { dst := BitVec.ofNat 20 h, src := BitVec.ofNat 20 (bits h 20 20), job := BitVec.ofNat 16 (bits h 40 16)
    pkind := BitVec.ofNat 4 (bits h 56 4), last := bitAt h 60, flowSeq := BitVec.ofNat 32 (bits h 64 32)
    ring := BitVec.ofNat 18 (bits h 110 18), addr := BitVec.ofNat 41 (bits h 128 41), kindData := BitVec.ofNat 64 (bits h 192 64)
    payload := (l.drop 32).take (bits h 96 12 + 1) }

/-- The flits of a packet on a set and channel; sequence numbers, acknowledgements and CRC come when they are
sent. -/
def packetFlits (p : Packet) (set vc : Nat) : List Flit :=
  let cs := chunks 236 (p.payload.length + 33) (packetBytes p)
  cs.zipIdx.map fun c =>
    { fseq := 0, ack := 0, nak := false
      fkind := if cs.length = 1 then 4 else if c.2 = 0 then 1 else if c.2 + 1 = cs.length then 3 else 2
      vset := BitVec.ofNat 6 set, vc := BitVec.ofNat 1 vc, crVset := 0, crVc := 0, crCount := 0, body := padTo 236 c.1, crc := 0 }

/-! ### Routing (R300 to R302, R309) -/

/-- Fields of a route entry (R301). -/
def TF.primary : Bf := ⟨0, 16⟩
def TF.fallback : Bf := ⟨16, 16⟩
def TF.priVc : Bf := ⟨32, 1⟩
def TF.fbVc : Bf := ⟨33, 1⟩
def TF.valid : Bf := ⟨34, 1⟩

/-- The number of the route entry of a destination (R300). -/
def Dev.routeIndex (d : Dev) (dst : Nat) : Nat :=
  if dst / 4096 = d.deviceId / 4096 then dst % 4096 else 4096 + dst / 4096

/-- The ports of a mask that are UP, ascending. -/
def Dev.upOf (d : Dev) (mask : Nat) : List PortId := allPorts.filter fun n => bitAt mask n.val && decide (d.portState n = 3)

/-- Where a packet goes. -/
inductive RouteTo where
  | here
  | noRoute
  | hold
  | out (n : PortId) (vc : Nat)
deriving DecidableEq, Repr

/-- The route of a packet that arrived on a channel (R300 to R302). -/
def Dev.route (d : Dev) (p : Packet) (vc : Nat) : RouteTo :=
  if p.dst.toNat = d.deviceId then .here
  else
    let e := (tGet 0 d.routes (d.routeIndex p.dst.toNat)).toNat
    if TF.valid.get e = 0 then .noRoute
    else
      let pri := d.upOf (TF.primary.get e)
      let (up, v) := if pri.isEmpty then (d.upOf (TF.fallback.get e), TF.fbVc.get e) else (pri, TF.priVc.get e)
      match up[(p.src.toNat % 4096 + p.dst.toNat % 4096 + p.job.toNat) % up.length]? with
      | none => .hold
      | some n => .out n (max v vc)

/-- An error notice to a device, and to the banker where it is asked for (R297, R311): it names an address. -/
def Dev.errorNotice (d : Dev) (p : Packet) (banker : Bool) : Dev :=
  let d := d.emitSystem p.src.toNat p.job.toNat 3 p.addr.toNat 0 [0]
  if banker then d.emitSystem d.activeBanker.toNat p.job.toNat 3 p.addr.toNat 0 [0] else d

/-- A control packet reaches the hub control complex (R297). Pace notices and banker messages take their effect by the rows
that name them; the model's own messages, of loading groups and of moves, take it here (log 48, log 49). -/
def controlArrive (m : Mem) (p : Packet) (d : Dev) : Dev :=
  let k := p.kindData.toNat
  if !d.hubOn then d
  else match MoveItem.ofCode (k % 256) with
    | some i => settleAll m (moveArrive m p.src.toNat p.job.toNat i (bits k 8 32) p.payload d)
    | none =>
      if k % 256 = shardFailedCode ∨ k % 256 = retryHopCode ∨ k % 256 = genFailedCode then
        memberTold (k % 256) (bits k 8 24) (bits k 32 16) p.addr.toNat (bits k 48 16) d
      else d

/-- Sends a packet on its way: to this device's own units, to a port, or it is held or discarded (R301, R302, R309,
R311). since is the moment from which it has found no port. -/
def dispatchPacket (m : Mem) (p : Packet) (vc since : Nat) (d : Dev) (from_ : Option PortId := none) : Dev :=
  match d.route p vc with
  | .here => { d with inbox := d.inbox ++ [(from_, p)] }
  | .noRoute => (d.count F.FAB_DROPS_NO_ROUTE 1).errorNotice p false
  | .hold => { d with held := d.held ++ [({ pkt := p, vc := vc, since := since } : HeldPacket)] }
  | .out n v =>
    match (d.port n).setOf p with
    | none => raiseOwn m (2816 + 16 * (n.val / 4) + 4) none none ((d.count F.FAB_DROPS_NO_SHARE 1).errorNotice p false)
    | some s => d.modPort n fun x => { x with out := x.out ++ [({ pkt := p, set := s, vc := v, flits := packetFlits p s v, came := vc } : OutPacket)] }

/-- The place in a receive buffer of a packet that has arrived at a port: twice its set plus its channel (R305). -/
def Dev.transitKey (d : Dev) (n : PortId) (p : Packet) : Nat :=
  match d.transit.find? fun x => decide (x.1 = n) && decide (x.2.2 = p) with | some x => x.2.1 | none => 0

/-- A packet that has left a receive buffer: its flits of credit are owed to the partner (R305). -/
def Dev.owe (d : Dev) (n : PortId) (key : Nat) (p : Packet) : Dev :=
  if 128 ≤ key then d
  else d.modPort n fun x => { x with owed := tMod 0 key (fun c => c + (packetFlits p 0 0).length) x.owed }

/-- A packet that has arrived at a port goes to the router. -/
def Dev.leaveTransit (d : Dev) (n : PortId) (p : Packet) : Dev :=
  let key := d.transitKey n p
  ({ d with transit := d.transit.erase (n, key, p) } : Dev).owe n key p

/-- Flits that the receive buffer of a port holds (R305). -/
def Dev.bufferFlits (d : Dev) (n : PortId) : Nat :=
  ((d.port n).rx.map fun e => e.2.length / 236).sum +
    ((d.transit.filter fun x => decide (x.1 = n) && decide (x.2.1 < 128)).map fun x => (packetFlits x.2.2 0 0).length).sum

/-- Control packets for this device reach its hub control complex (R297). -/
def takeControls (m : Mem) (d : Dev) : Dev :=
  (d.inbox.filter fun e => decide (e.2.pkind = 4)).foldl (fun d e => controlArrive m e.2 d)
    { d with inbox := d.inbox.filter fun e => decide (e.2.pkind ≠ 4) }

/-- PACKET_FORWARD. A packet that the device originates leaves its queue, or one that arrived at a port goes on
(R302, R303). -/
def packetForward (m : Mem) (arrival : Option PortId) (p : Packet) (d : Dev) : Dev :=
  if !d.fabricOn then d
  else match arrival with
  | none =>
    if d.egress.contains p then takeControls m (dispatchPacket m p 0 d.now { d with egress := d.egress.erase p }) else d
  | some n =>
    let vc := d.transitKey n p % 2
    let d := d.leaveTransit n p
    let d := if p.dst.toNat = d.deviceId then d else d.count F.FAB_TRANSIT_FLITS_FLITS (packetFlits p 0 0).length
    takeControls m (dispatchPacket m p vc d.now d arrival)

/-- Packets held for want of a port try again. -/
def retryHeld (m : Mem) (d : Dev) : Dev :=
  d.held.foldl (fun d h => dispatchPacket m h.pkt h.vc h.since d) { d with held := [] }

/-- HELD_PACKET_DISCARD. Packets held for 5 ms are discarded with error notices (R311). -/
def heldPacketDiscard (d : Dev) : Dev :=
  let old := d.held.filter fun h => decide (h.since + 5000000 ≤ d.now)
  old.foldl (fun d h => d.errorNotice h.pkt true) { d with held := d.held.filter fun h => decide (d.now < h.since + 5000000) }

/-! ### Port states (R289, R290, R306, R310, R312) -/

/-- Enters a state. -/
def Dev.portEnter (d : Dev) (n : PortId) (st : Nat) : Dev :=
  (d.setFld F.PL_STATUS_STATE st n.val).modPort n fun x => { x with since := d.now }

/-- The port that gives the time (R314): the UP port whose partner advertises the fewest hops, ties to the lower
port. -/
def Dev.timePort (d : Dev) : Option PortId :=
  let l := allPorts.filter fun n => decide (d.portState n = 3) && decide ((d.port n).hops < 255)
  l.foldl (fun (b : Option PortId) n => match b with
    | none => some n
    | some q => if (d.port n).hops < (d.port q).hops then some n else some q) none

/-- The source of time is chosen anew; without one the device is in holdover (R314, R315). -/
def Dev.chooseTime (d : Dev) : Dev :=
  if d.flag F.FAB_TIME_SYNC_ROOT then d
  else match d.timePort with
    | none => ((d.setFld F.FAB_TIME_SYNC_HOPS 255).setFld F.FAB_TIME_SYNC_HOLDOVER 1).setFld F.TIME_STATUS_SOURCE 0
    | some n => (((d.setFld F.TIME_STATUS_SOURCE 1).setFld F.FAB_TIME_SYNC_HOPS (min ((d.port n).hops + 1) 255)).setFld F.FAB_TIME_SYNC_HOLDOVER 0).setFld
        F.FAB_TIME_SYNC_SOURCE_PORT n.val

/-- A port enters DOWN for a cause (R306, R310, R312): its packets that are not acknowledged, or not sent, take the
routes that remain, by the channel on which they came; the source of time is chosen anew (R314, R315); the banker gets a
partner report. A pod of one reports and raises nothing (R28). -/
def portDown (m : Mem) (n : PortId) (cause : Nat) (d : Dev) : Dev :=
  let x := d.port n
  let out := x.out.filter fun o => decide (o.pkt.pkind.toNat ≠ 5)
  let again := (out.filter fun o => x.replay.any fun f => decide (o.last = some f.fseq.toNat)).length
  let d := ((d.portEnter n 4).setFld F.PL_STATUS_CAUSE cause n.val).setFld F.PL_STATUS_WIDTH 0 n.val
  let d := (d.count F.PL_REPLAY_DOWNS 1 n.val).count F.PL_REPLAY_RESENT again n.val
  let d := { d.modPort n fun y => { since := y.since, dark := y.dark, share := y.share } with
    transit := d.transit.map fun t => if t.1 = n ∧ t.2.1 < 128 then (t.1, t.2.1 + 128, t.2.2) else t }
  let d := (out.foldl (fun d o => dispatchPacket m o.pkt o.came d.now d) d).chooseTime
  if d.fld F.BNK_STATUS_ROLE = 5 then d
  else
  let d := d.sendBanker (some d.activeBanker) 0x18 0 0 n.val (d.fld F.PL_PARTNER_DEVICE n.val) cause
  raiseOwn m (2560 + 16 * n.val) none none d

/-- The device is ready to train its ports: it has booted, and no reset holds them (R289, R498). -/
def Dev.trains (d : Dev) : Bool := d.fabricOn && decide (d.power.phase = .running)

/-- PL_CTL_WRITE's effect (R289, R306, R317): a port that is not DARK enters DOWN, and retrains 100 ms after; with EN 0 it is
DARK at once; with EN 1 a DARK one trains when the device is ready. -/
def plCtl (m : Mem) (n : PortId) (v : Nat) (d : Dev) : Dev :=
  let st := d.portState n
  let d := (d.setFld F.PL_CTL_EN (v % 2) n.val).setFld F.PL_CTL_HALF_ONLY (v / 2 % 2) n.val
  let d := if st = 0 ∨ st = 4 then d else portDown m n 10 d
  if v % 2 = 0 then d.portEnter n 0 else if st = 0 ∧ d.trains then d.portEnter n 1 else d

/-- The lane set that training takes (R288): WIDTH 1 lanes 0 to 15, 2 lanes 0 to 7, 3 lanes 8 to 15. -/
def laneSet (half : Bool) (lanes : List (Fin 16)) : Option Nat :=
  let all := fun lo n => (List.range n).all fun i => lanes.any fun l => decide (l.val = lo + i)
  if !half && all 0 16 then some 1 else if all 0 8 then some 2 else if all 8 8 then some 3 else none

/-- TRAIN_DONE. Training ends with the lanes that trained (R288, R289). -/
def trainDone (m : Mem) (n : PortId) (lanes : List (Fin 16)) (d : Dev) : Dev :=
  if !d.fabricOn || decide (d.portState n ≠ 1) then d
  else match laneSet (d.flag F.PL_CTL_HALF_ONLY n.val) lanes with
    | some w => ((d.portEnter n 2).setFld F.PL_STATUS_WIDTH w n.val).send
        (.check n d.deviceId (d.fld F.FAB_CTL_MODE) (BitVec.ofNat 64 (d.shareDigest n)))
    | none => portDown m n 6 d

/-- TRAIN_TIMEOUT (R289). -/
def trainTimeout (m : Mem) (n : PortId) (d : Dev) : Dev :=
  if d.fabricOn && decide (d.portState n = 1) && decide ((d.port n).since + 20000000 ≤ d.now) then portDown m n 6 d else d

/-- CHECK_EXCHANGE. The partner's identity, mode and share digest arrive in CHECK (R290). A partner that sends them to a port
that is UP has left UP, and so asks for DOWN (R306; log 30). -/
def checkExchange (m : Mem) (n : PortId) (device port mode digest : Nat) (d : Dev) : Dev :=
  if d.fabricOn && decide (d.portState n = 3) then portDown m n 5 d
  else if !d.fabricOn || decide (d.portState n ≠ 2) then d
  else
    let d := ((d.setFld F.PL_PARTNER_DEVICE device n.val).setFld F.PL_PARTNER_PORT port n.val).setFld F.PL_PARTNER_VALID 1 n.val
    let own := d.fld F.FAB_CTL_MODE
    if digest ≠ d.shareDigest n then portDown m n 9 d
    else if mode ≠ own then portDown m n 8 d
    else if own = 0 ∧ (device ≠ d.fld F.PL_EXPECT_DEVICE n.val ∨ port ≠ d.fld F.PL_EXPECT_PORT n.val) then portDown m n 7 d
    else
      let d := (d.portEnter n 3).setFld F.PL_STATUS_SHARE_PENDING 0 n.val
      let x : Port := { since := d.now, share := d.shareRegs n, sentAt := d.now, heardAt := d.now }
      retryHeld m (d.setPort n { x with credits := x.fullCredits })

/-- CHECK_TIMEOUT (R289): the code of its cause is a free value. -/
def checkTimeout (m : Mem) (n : PortId) (d : Dev) : Dev :=
  if d.fabricOn && decide (d.portState n = 2) && decide ((d.port n).since + 1000000 ≤ d.now) then
    let (k, d) := d.draw
    portDown m n ((Config.fresh k).toNat % 16) d
  else d

/-- DOWN_RETRAIN (R289). -/
def downRetrain (n : PortId) (d : Dev) : Dev :=
  if d.fabricOn && decide (d.portState n = 4) && d.flag F.PL_CTL_EN n.val && decide ((d.port n).since + 100000000 ≤ d.now)
  then d.portEnter n 1 else d

/-- LIGHT_LOSS. Half or more of the active lanes have had no light for 1 µs (R306). -/
def lightLoss (m : Mem) (n : PortId) (d : Dev) : Dev :=
  let st := d.portState n
  if !d.fabricOn || decide (st = 0) then d
  else
    let d := d.modPort n fun x => { x with dark := true }
    if st = 4 then d else portDown m n 1 d

/-- LIGHT_RETURN. After a loss of signal a DOWN port trains at once (R289). -/
def lightReturn (n : PortId) (d : Dev) : Dev :=
  if d.fabricOn && (d.port n).dark then
    let d := d.modPort n fun x => { x with dark := false }
    if d.portState n = 4 ∧ d.flag F.PL_CTL_EN n.val then d.portEnter n 1 else d
  else d

/-- Every enabled port trains when the device is ready (R289, R498). -/
def startPorts (d : Dev) : Dev :=
  allPorts.foldl (fun d n => if d.flag F.PL_CTL_EN n.val && decide (d.portState n = 0) then d.portEnter n 1 else d) d

/-! ### Link replay and the egress arbiter (R293, R294, R305, R307) -/

/-- Flits of the replay buffer that an ACK covers go; packets whose last flit is covered and of which none is
left have left the device. -/
def Port.acked (x : Port) (ack : Nat) : Port :=
  match x.replay.findIdx? fun f => decide (f.fseq.toNat = ack) with
  | none => x
  | some i =>
    let gone := x.replay.take (i + 1)
    { x with
      replay := x.replay.drop (i + 1)
      resend := x.resend.filter fun f => !gone.contains f
      out := x.out.filter fun o => !(o.flits.isEmpty && gone.any fun f => decide (o.last = some f.fseq.toNat)) }

/-- Acknowledgement, NAK and credits of a flit (R291, R293, R294, R305). -/
def Dev.takeControl (d : Dev) (n : PortId) (f : Flit) : Dev :=
  let d := d.modPort n fun x =>
    let x := x.acked f.ack.toNat
    { x with credits := tMod 0 (2 * f.crVset.toNat + f.crVc.toNat) (fun c => c + f.crCount.toNat) x.credits }
  if f.nak then (d.count F.PL_REPLAY_REPLAYS 1 n.val).modPort n fun x => { x with resend := x.replay } else d

/-- A flit with a right CRC whose turn it is passes on; a complete packet waits in the receive buffer for the router. A
beacon goes no further: its contents arrive by BEACON_RECEIVE (R297; log 30). -/
def Dev.takeBody (d : Dev) (n : PortId) (f : Flit) : Dev :=
  let key := 2 * f.vset.toNat + f.vc.toNat
  let x := d.port n
  let old := if f.fkind = 1 ∨ f.fkind = 4 then [] else tGet [] x.rx key
  let l := old ++ f.body
  let d := (d.count F.PL_FLITS_RX_FLITS 1 n.val).modPort n fun x => { x with
    rxSeq := (x.rxSeq + 1) % 2 ^ 16, nak := false, losing := false, discards := 0, rx := tSet [] key l x.rx }
  if f.fkind = 3 ∨ f.fkind = 4 then
    let p := packetOf l
    let d := d.modPort n fun x => { x with rx := tDel key x.rx }
    if 6 ≤ p.pkind.toNat then (d.count F.FAB_DROPS_BAD 1).owe n key p
    else if p.pkind.toNat = 5 then d.owe n key p
    else { d with transit := d.transit ++ [(n, key, p)] }
  else d

/-- A flit's CRC is wrong: it is counted, and whether a codeword that it lies in is uncorrectable is free. The 64th such
codeword within 1 ms takes the port down (R287, R306; log 30). -/
def badFlit (m : Mem) (n : PortId) (d : Dev) : Dev :=
  let d := d.count F.PL_ERR_COUNT_CRC_FAIL 1 n.val
  let (i, d) := d.draw
  if (Config.fresh i).getLsbD 0 then
    let l := d.now :: (d.port n).uncorr.filter fun t => decide (d.now < t + 1000000)
    let d := (d.count F.PL_ERR_COUNT_FEC_UNCORR 1 n.val).modPort n fun x => { x with uncorr := l }
    if 64 ≤ l.length then portDown m n 2 d else d
  else d

/-- A flit that is not accepted is discarded (R294): NAK is asked for at the first discard, and again when the expected FSEQ
fails again; the sixteenth discard of it takes the port down. -/
def discardFlit (m : Mem) (n : PortId) (f : Flit) (d : Dev) : Dev :=
  let x := d.port n
  let mine := decide (f.fseq.toNat = x.rxSeq)
  let k := if mine then x.discards + 1 else x.discards
  let d := d.modPort n fun x => { x with nak := x.nak || !x.losing || mine, losing := true, discards := k }
  if 16 ≤ k then portDown m n 3 d else d

/-- FLIT_RECEIVE (R292 to R295). -/
def flitReceive (m : Mem) (n : PortId) (f : Flit) (d : Dev) : Dev :=
  if !d.fabricOn || decide (d.portState n ≠ 3) then d
  else
    let good := decide (f.crc.toNat = crc32c (flitCovered f))
    if good && decide (f.fkind = 0) then d.takeControl n f
    else if good && decide (f.fseq.toNat = (d.port n).rxSeq) then (d.takeControl n f).takeBody n f
    else
      let d := if good then d else badFlit m n d
      if d.portState n = 3 then discardFlit m n f d else d

/-- The next packet of a set with a flit to send and a credit for it: channel 1 before channel 0, one packet at a
time (R295, R305, R307). -/
def Port.ready (x : Port) (set : Nat) : Option OutPacket :=
  let on := fun (v : Nat) => if tGet 0 x.credits (2 * set + v) = 0 then none
    else x.out.find? fun o => decide (o.set = set) && decide (o.vc = v) && !o.flits.isEmpty
  (on 1) <|> (on 0)

/-- The job set that deficit round robin serves next, with what is left of its share then (R307). -/
def Port.nextSet (x : Port) : Option (Nat × Nat) :=
  if x.served ≠ 0 ∧ 0 < x.deficit ∧ (x.ready x.served).isSome then some (x.served, x.deficit - 1)
  else
    ((List.range 32).map fun i => (x.served + i) % 32 + 1).findSome? fun s =>
      if (x.ready s).isSome then some (s, SF.weight.get (x.entry (s - 1)) - 1) else none

/-- The first credit owed to the partner. -/
def Port.owes (x : Port) : Nat × Nat := (x.owed.head?.map fun e => (e.1, min e.2 4095)).getD (0, 0)

/-- A flit as it leaves: with the acknowledgement, a NAK and a credit return (R291, R293). -/
def Port.stamp (x : Port) (f : Flit) (seq : Nat) : Flit :=
  sealFlit { f with
    fseq := BitVec.ofNat 16 seq, ack := BitVec.ofNat 16 (x.rxSeq + 2 ^ 16 - 1), nak := x.nak
    crVset := BitVec.ofNat 6 (x.owes.1 / 2), crVc := BitVec.ofNat 1 x.owes.1, crCount := BitVec.ofNat 12 x.owes.2 }

/-- A flit as it leaves again: it brings the credit return that it brought before, which the partner has not taken (R293,
R294). -/
def Port.again (x : Port) (f : Flit) : Flit :=
  sealFlit { f with ack := BitVec.ofNat 16 (x.rxSeq + 2 ^ 16 - 1), nak := x.nak }

/-- What has been owed is returned. -/
def Port.paid (x : Port) : Port := { x with owed := tMod 0 x.owes.1 (fun c => c - x.owes.2) x.owed, nak := false }

/-- An idle flit. -/
def idleFlit : Flit :=
  { fseq := 0, ack := 0, nak := false, fkind := 0, vset := 0, vc := 0, crVset := 0, crVc := 0, crCount := 0
    body := List.replicate 236 0, crc := 0 }

/-- A new flit of a packet leaves. -/
def Port.sendNew (x : Port) (o : OutPacket) (f : Flit) : Port × Flit :=
  let g := x.stamp f x.txSeq
  let y := x.paid
  ({ y with
    txSeq := (x.txSeq + 1) % 2 ^ 16, replay := x.replay ++ [g]
    out := x.out.map fun q => if q = o then { q with flits := q.flits.drop 1, last := some x.txSeq } else q
    credits := tMod 0 (2 * o.set + o.vc) (fun c => c - 1) x.credits }, g)

/-- FLIT_SEND. The next flit slot of a port (R293, R294, R307): a flit sent again, the system set within its 4 flits
in 256 slots, a job set by deficit round robin in as many slots of eight as the links level allows (R380), or an idle
flit. -/
def flitSend (n : PortId) (d : Dev) : Dev :=
  if !d.fabricOn || decide (d.portState n ≠ 3) then d
  else
    let x := d.port n
    let slot := fun (sys : Bool) (y : Port) => { y with system := (sys :: y.system).take 255, slot := (y.slot + 1) % 8 }
    let idle := (d.setPort n (slot false x.paid)).send (.flit n (x.stamp idleFlit 0))
    match x.resend with
    | f :: r =>
      let g := x.again f
      let y := { x with nak := false, resend := r, replay := x.replay.map fun h => if h.fseq = f.fseq then g else h }
      ((d.setPort n (slot (decide (f.vset = 0)) y)).send (.flit n g)).count F.PL_FLITS_TX_FLITS 1 n.val
    | [] =>
      if 4096 ≤ x.replay.length then idle
      else
        let sys := if (x.system.filter fun b => b).length < 4 then x.ready 0 else none
        let go := fun (o : OutPacket) (y : Port) => match o.flits with
          | [] => idle
          | f :: _ =>
            let (y, g) := y.sendNew o f
            ((d.setPort n (slot (decide (o.set = 0)) y)).send (.flit n g)).count F.PL_FLITS_TX_FLITS 1 n.val
        match sys with
        | some o => go o x
        | none => match (if x.slot < d.fld F.PWR_LEVELS_LINK_LEVEL then x.nextSet else none) with
          | some (s, left) => match x.ready s with
            | some o => go o { x with served := s, deficit := left }
            | none => idle
          | none => idle

/-! ### Beacons and time (R313 to R315) -/

/-- The beacon of a port (R313), a single-flit packet to the partner: device, port, pending digest, hops, and the stamps at
which it leaves and at which the partner's last beacon arrived. The places of these in the payload are the model's
(log 30). -/
def Dev.beaconPacket (d : Dev) (n : PortId) : Packet :=
  { dst := BitVec.ofNat 20 (d.fld F.PL_PARTNER_DEVICE n.val), src := BitVec.ofNat 20 d.deviceId, job := 0, pkind := 5, last := true
    flowSeq := 0, ring := 0, addr := 0, kindData := 0
    payload := leBytes 4 d.deviceId ++ leBytes 4 n.val ++ leBytes 8 (d.shareDigest n) ++ leBytes 8 (d.fld F.FAB_TIME_SYNC_HOPS) ++
      leBytes 8 d.now ++ leBytes 8 (d.port n).heardAt }

/-- A port may send a flit of a beacon now: nothing is to be sent again, the replay buffer has room, the system set has a
credit and a slot, and no packet of its channel is under way (R293 to R295, R305, R307). -/
def Port.beaconSlot (x : Port) : Bool :=
  x.resend.isEmpty && decide (x.replay.length < 4096) && decide (tGet 0 x.credits 0 ≠ 0) &&
    decide ((x.system.filter fun b => b).length < 4) &&
    x.out.all fun o => !(decide (o.set = 0) && decide (o.vc = 0) && o.last.isSome && !o.flits.isEmpty)

/-- BEACON_SEND (R313): the beacon's flit leaves in a slot of the system set. -/
def beaconSend (n : PortId) (d : Dev) : Dev :=
  let x := d.port n
  if d.fabricOn && decide (d.portState n = 3) && decide (x.sentAt + 100000 ≤ d.now) && x.beaconSlot then
    match packetFlits (d.beaconPacket n) 0 0 with
    | [] => d
    | f :: _ =>
      let o : OutPacket := { pkt := d.beaconPacket n, set := 0, vc := 0, flits := [f] }
      let (y, g) := Port.sendNew { x with out := o :: x.out, sentAt := d.now, told := BitVec.ofNat 64 (d.shareDigest n) } o f
      ((d.setPort n { y with system := (true :: y.system).take 255, slot := (y.slot + 1) % 8 }).send (.flit n g)).count
        F.PL_FLITS_TX_FLITS 1 n.val
  else d

/-- Corrects the time base by an offset (R314): it slews, or steps beyond 10 µs; after a step back the counter holds
until time passes the last stamp. -/
def Dev.correctTime (d : Dev) (by_ : Int) : Dev :=
  let p := d.power
  if 10000 < by_.natAbs then
    let d := d.count F.TIME_STATUS_STEPS 1
    d.setPower { p with raw := ((p.raw : Int) + by_).toNat, last := max p.last d.now, slewLeft := 0, slewPhase := 0 }
  else d.setPower { p with slewLeft := by_ }

/-- An offset in a 32-bit field, saturating (R318, R371). -/
def offset32 (x : Int) : Nat :=
  let y := max (-(2 : Int) ^ 31) (min ((2 : Int) ^ 31 - 1) x)
  (y % (2 : Int) ^ 32).toNat

/-- A changed share table takes effect once both ends advertise it (R308). -/
def Dev.applyShare (d : Dev) (n : PortId) (dig : BitVec 64) : Dev :=
  if d.flag F.PL_STATUS_SHARE_PENDING n.val ∧ dig.toNat = d.shareDigest n ∧ (d.port n).told = dig then
    let d := d.setFld F.PL_STATUS_SHARE_PENDING 0 n.val
    d.modPort n fun x =>
      let y := { x with share := d.shareRegs n }
      { y with credits := (List.range 66).filterMap fun k =>
          let c := tGet 0 x.credits k + y.capacity (k / 2) (k % 2) - x.capacity (k / 2) (k % 2)
          if c = 0 then none else some (k, c) }
  else d

/-- BEACON_RECEIVE (R308, R313, R314). -/
def beaconReceive (n : PortId) (b : Beacon) (d : Dev) : Dev :=
  if !d.fabricOn || decide (d.portState n ≠ 3) then d
  else
    let d := (d.modPort n fun x => { x with heardAt := d.now, hops := b.hops.toNat }).applyShare n b.pendingDigest
    let i := fun (x : BitVec 64) => (x.toNat : Int)
    let off := ((i b.t2 - i b.t1) - (i b.t4 - i b.t3)) / 2
    let delay := ((i b.t2 - i b.t1) + (i b.t4 - i b.t3)) / 2
    let d := (d.setFld F.PL_DELAY_DELAY (delay.toNat % 2 ^ 24) n.val).chooseTime
    if d.timePort = some n ∧ !d.flag F.FAB_TIME_SYNC_ROOT then
      (d.setFld F.FAB_TIME_SYNC_OFFSET (offset32 off)).correctTime (-off)
    else d

/-- BEACON_TIMEOUT (R306). -/
def beaconTimeout (m : Mem) (n : PortId) (d : Dev) : Dev :=
  if d.fabricOn && decide (d.portState n = 3) && decide ((d.port n).heardAt + 1000000 ≤ d.now) then portDown m n 4 d
  else d

/-! ### Configuration -/

/-- SHARE_TABLE_WRITE's effect (R308). -/
def shareWrite (n : PortId) (i v : Nat) (d : Dev) : Dev :=
  let at_ := fun j => if j = i then v % 2 ^ 36 else d.shareReg n j
  let es := (List.range 32).map at_
  let bad := es.any (fun e => decide (SF.weight.get e ≠ 0) && decide (SF.credits.get e < 36)) ||
    decide (252 < (es.map SF.weight.get).sum) || decide (1984 < (es.map SF.credits.get).sum)
  if bad then d.setFld F.PL_STATUS_SHARE_ERR 1 n.val
  else
    let d := d.setWord (F.PL_SHARE_JOB.addr n.val i) (BitVec.ofNat 64 (v % 2 ^ 36))
    if d.portState n = 3 then d.setFld F.PL_STATUS_SHARE_PENDING (b2n (decide (d.shareRegs n ≠ (d.port n).share))) n.val else d

/-- FAB_CTL_WRITE's effect (R304, R318). -/
def fabCtl (m : Mem) (v : Nat) (d : Dev) : Dev :=
  let d := if allPorts.any fun n => decide (d.portState n = 3) then d else d.setFld F.FAB_CTL_DEVICE_ID (v % 2 ^ 20)
  let d := d.setFld F.FAB_CTL_MODE (v / 2 ^ 20 % 2)
  allPorts.foldl (fun d n => if d.portState n = 0 then d else let e := portDown m n 10 d; if e.trains then e.portEnter n 1 else e) d

/-- The number of the route entry that an index register names (R318). -/
def rtIndex (v : Nat) : Option Nat := if bitAt v 12 then (if bits v 0 12 < 256 then some (4096 + bits v 0 12) else none) else some (bits v 0 12)

/-- FAB_RT_IDX: the path's snapshot of the entry (R318). -/
def Dev.routeSnapshot (d : Dev) (w : Path) (v : Nat) : Dev :=
  match rtIndex v with
  | some i => d.setPfld w F.FAB_RT_READ_ENTRY (tGet 0 d.routes i).toNat
  | none => d

/-- FAB_RT_DATA: the entry that the path's index names is written (R300, R318). -/
def routeWrite (m : Mem) (w : Path) (v : Nat) (d : Dev) : Dev :=
  match rtIndex (d.pfld w F.FAB_RT_IDX_INDEX + 2 ^ 12 * d.pfld w F.FAB_RT_IDX_POD_TABLE) with
  | some i => retryHeld m { d with routes := tSet 0 i (BitVec.ofNat 64 (v % 2 ^ 35)) d.routes }
  | none => d

end Sys2Proof.Machine
end

