-- ==== Sys2Proof/Machine/Deliver.lean ====
section
/-! DEFINITION. What happens to packets that reach this device: flows (10_pyrol_link_fabric R297 to R299, R311), rings
across the fabric (11_collectives_mapping R327 to R330), bulk writes, and mirrors (07_training_support R217 to R219). -/

namespace Sys2Proof.Machine

/-- Key of a flow that ends here. -/
def flowKey (src job : Nat) : Nat := src * 2 ^ 16 + job

/-- The turn of a job fails: its device reports once (R311, R415). -/
def failJob (m : Mem) (j cause : Nat) (d : Dev) : Dev :=
  if j = 0 then d
  else match jobParts m d j with
    | p :: _ => failJobTurn m p cause d
    | [] => d

/-! ### Ring messages and credit returns (R327 to R329) -/

/-- Fields of KIND_DATA of a ring message (R327). -/
def KF.seq : Bf := ⟨0, 32⟩
/-- See KF.seq. -/
def KF.len : Bf := ⟨32, 20⟩
/-- See KF.seq. -/
def KF.credit : Bf := ⟨52, 1⟩

/-- A packet comes from the ring's peer, on the job of the ring, and the ring takes its kind (R329 cause 2). -/
def Dev.fromPeer (d : Dev) (r : Nat) (p : Packet) : Bool :=
  (if KF.credit.get p.kindData.toNat = 1 then decide (d.rf r RF.kind = 2)
   else decide (d.rf r RF.kind = 1) && decide (d.rf r RF.remote = 1)) &&
    decide (d.rf r RF.peerDevice = p.src.toNat) && decide (d.rf r RF.job = p.job.toNat)

/-- A check of a ring fails: ERROR, RING_ERR, and an error notice to SRC; the packet is discarded (R329). -/
def ringFault (m : Mem) (r cause : Nat) (p : Packet) (d : Dev) : Dev :=
  (ringError m r cause p.src.toNat d).errorNotice p false

/-- A credit return: CONSUMED of the SEND ring takes the count, unless it lies beyond PRODUCED (R328, R329). -/
def takeCredit (m : Mem) (r : Nat) (p : Packet) (d : Dev) : Dev :=
  let c := KF.seq.get p.kindData.toNat
  if 2 ^ 31 ≤ (d.rf r RF.produced + 2 ^ 32 - c) % 2 ^ 32 then ringFault m r 6 p d else d.setRf r RF.consumed c

/-- The cause for which a packet of a message is refused; none when it is accepted (R329). -/
def messageCause (d : Dev) (r : Nat) (p : Packet) : Option Nat :=
  let x := d.ring r
  let first := decide (x.arrivingLen = 0)
  let len := if first then KF.len.get p.kindData.toNat else x.arrivingLen
  if first ∧ KF.seq.get p.kindData.toNat ≠ d.rf r RF.produced then some 1
  else if d.slotCapacity r < len ∨ len < x.arrived + p.payload.length ∨ (first ∧ !d.ringRoom r) then some 3
  else if !d.bufferOk r then some 5
  else none

/-- Bytes of a message are written to its slot; the header stands from the first packet on, and COMPLETE is set
after the last byte (R322, R325). -/
def takeMessage (r : Nat) (p : Packet) (d : Dev) : Dev :=
  let x := d.ring r
  let first := decide (x.arrivingLen = 0)
  let len := if first then KF.len.get p.kindData.toNat else x.arrivingLen
  let (n, d) := if first then d.claim r else ((d.rf r RF.produced + 2 ^ 32 - 1) % 2 ^ 32, d)
  let a := d.slotAddr r n
  let turn := d.turnOf (partOf (d.rf r RF.owner))
  let got := x.arrived + p.payload.length
  let d := (d.store (a + 64 + x.arrived) p.payload).countStk true (a + 64 + x.arrived) p.payload.length
  let d := if first ∨ got = len then
      (d.store a (slotHeader len n turn p.src.toNat (decide (got = len)) true)).countStk true a 64
    else d
  let ends := p.last || decide (got = len)
  d.setRing r { d.ring r with arrived := if ends then 0 else got, arrivingLen := if ends then 0 else len }

/-- The write of a packet's bytes to its slot, or of the slot's header, meets an uncorrectable line that it covers in part
(R240). -/
def messageCut (d : Dev) (r : Nat) (p : Packet) : Option (Nat × Nat) :=
  let x := d.ring r
  let n := if x.arrivingLen = 0 then d.rf r RF.produced else (d.rf r RF.produced + 2 ^ 32 - 1) % 2 ^ 32
  let a := d.slotAddr r n + 64 + x.arrived
  if d.badWrite a p.payload.length then some (a, p.payload.length) else none

/-- A packet of kind 0 reaches its ring (R329): a ring in error accepts nothing. -/
def ringArrive (m : Mem) (p : Packet) (d : Dev) : Dev :=
  let r := p.ring.toNat
  if d.rf r RF.error = 1 then d
  else if !d.fromPeer r p then ringFault m r 2 p d
  else if KF.credit.get p.kindData.toNat = 1 then takeCredit m r p d
  else match messageCause d r p with
    | some c => ringFault m r c p d
    | none => match messageCut d r p with
      | some (a, n) => raiseCut m a n (some (partOf (d.rf r RF.owner))) (d.errorNotice p false)
      | none => takeMessage r p d

/-- RING_CREDIT_RETURN. A MESSAGE ring with REMOTE 1 reports its CONSUMED once it has advanced by a quarter of its
slots, or 1 µs after an advance (R328). -/
def ringCreditReturn (r : Nat) (d : Dev) : Dev :=
  let x := d.ring r
  let c := d.rf r RF.consumed
  let adv := (c + 2 ^ 32 - x.returned) % 2 ^ 32
  let due : Bool := match x.advancedAt with | some t => decide (t + 1000 ≤ d.now) | none => false
  if d.rf r RF.kind = 1 ∧ d.rf r RF.remote = 1 ∧ adv ≠ 0 ∧ (due ∨ 2 ^ d.rf r RF.slotsLog ≤ 4 * adv) then
    let d := d.emitFlow (d.rf r RF.peerDevice) (d.rf r RF.job) 0 (d.rf r RF.peerRing) 0 (c + 2 ^ 52) true (List.replicate 64 0)
    d.setRing r { d.ring r with returned := c, advancedAt := none }
  else d

/-! ### Bulk writes and acknowledgements (R297, R218) -/

/-- A bulk transfer may write an extent (R232, R233, R264). -/
def Dev.bulkWrites (d : Dev) (e : Nat) : Bool :=
  let k := d.xf e XF.kind
  let s := d.xf e XF.state
  decide (e < extentCount) &&
    ((decide (1 ≤ k) && decide (k ≤ 6) && decide (d.fld F.PART_STATUS_STATE (d.xf e XF.owner) = 4) && (decide (s = 2) || decide (s = 3))) ||
     (decide (k = 1) && decide (s = 3)) || (decide (2 ≤ k) && decide (k ≤ 4) && decide (s = 2)) ||
     (decide (k = 4) && decide (s = 3) && !d.isLive e))

/-- Notes whether a packet of the bulk transfer that a flow carries has been refused (R297). -/
def Dev.setRefused (d : Dev) (p : Packet) (v : Bool) : Dev :=
  { d with flowIn := tMod {} (flowKey p.src.toNat p.job.toNat) (fun f => { f with refused := v }) d.flowIn }

/-- A bulk write is refused: discarded whole, with an error notice; its transfer is not acknowledged (R297). -/
def refuseBulk (p : Packet) (d : Dev) : Dev := (d.setRefused p (!p.last)).errorNotice p false

/-- A packet of kind 1 reaches memory: it is written whole or refused whole; the last packet of a transfer is
acknowledged when every line of the transfer is written, and says that a mirror has arrived (R219, R297). Bytes of a
shard go on along its chain (R278). -/
def bulkArrive (m : Mem) (p : Packet) (d : Dev) : Dev :=
  let a := p.addr.toNat
  let n := p.payload.length
  if a % 64 ≠ 0 ∨ 2 ^ 41 < a + n ∨ !(extentsOf a n).all d.bulkWrites then refuseBulk p d
  else if d.badWrite a n then raiseCut m a n (d.extentOwner (extentOf a)) (refuseBulk p d)
  else
    let e := extentOf a
    let whole := !(tGet {} d.flowIn (flowKey p.src.toNat p.job.toNat)).refused
    let d := match d.shardAt a with
      | some (q, i, l, s) => shardArrives m q i l s (a - s.ext * extentSize) p.payload d
      | none => accumulate m a n ((d.store a p.payload).countStk true a n)
    if !p.last then d
    else if !whole then d.setRefused p false
    else
      let d := if decide (d.xf e XF.kind = 4) && decide (d.xf e XF.state = 3) && !d.arrived.contains e then
          { d with arrived := d.arrived ++ [e] }
        else d
      d.emitFlow p.src.toNat p.job.toNat 2 0 a 0 true [0]

/-- A packet of kind 2 acknowledges the oldest transfer that its address names, of its job's mirrors or of a move (R218,
R264). -/
def ackArrive (p : Packet) (d : Dev) : Dev :=
  let d := d.moveAcked p.src.toNat p.addr.toNat
  d.modJob p.job.toNat fun x => { x with unacked := x.unacked.erase (p.src.toNat, p.addr.toNat) }

/-! ### Flows (R298, R299, R311) -/

/-- A packet is delivered by its kind (R297). -/
def deliverPacket (m : Mem) (p : Packet) (d : Dev) : Dev :=
  match p.pkind.toNat with
  | 0 => ringArrive m p d
  | 1 => bulkArrive m p d
  | 2 => ackArrive p d
  | _ => d

/-- Held packets that follow in order are delivered; n bounds their number. -/
def deliverHeld (m : Mem) (key : Nat) : Nat → Dev → Dev
  | 0, d => d
  | n + 1, d =>
    let f := tGet {} d.flowIn key
    match f.held.find? fun h => decide (h.pkt.flowSeq.toNat = f.next) with
    | none => d
    | some h =>
      let d := { d with flowIn := tPut key { next := (f.next + 1) % 2 ^ 32, held := f.held.erase h } d.flowIn }
      deliverHeld m key n (deliverPacket m h.pkt d)

/-- Bytes that the reorder store of a die holds (R299). -/
def Dev.reorderBytes (d : Dev) (die : Nat) : Nat :=
  (d.flowIn.map fun f => ((f.2.held.filter fun h => decide (h.die = die)).map fun h => 32 + h.pkt.payload.length).sum).sum

/-- A packet of a flow arrives at a die (R298, R299): it is delivered with the held ones behind it, discarded as a
duplicate, or held. -/
def flowArrive (m : Mem) (p : Packet) (die : Nat) (d : Dev) : Dev :=
  let key := flowKey p.src.toNat p.job.toNat
  if (tFind key d.flowIn).isNone ∧ 131072 ≤ d.flowIn.length then
    raiseOwn m (2816 + 16 * die + 3) none none (d.count F.FAB_DROPS_FLOWS 1)
  else
    let f := tGet {} d.flowIn key
    let ahead := (p.flowSeq.toNat + 2 ^ 32 - f.next) % 2 ^ 32
    if ahead = 0 then
      deliverHeld m key f.held.length (deliverPacket m p { d with flowIn := tPut key { f with next := (f.next + 1) % 2 ^ 32 } d.flowIn })
    else if 2 ^ 31 ≤ ahead ∨ f.held.any (fun h => decide (h.pkt.flowSeq = p.flowSeq)) then d.count F.FAB_DROPS_DUP 1
    else if 1048576 < d.reorderBytes die + 32 + p.payload.length then d.count F.FAB_DROPS_REORDER 1
    else { d with flowIn := tPut key { f with held := f.held ++ [({ pkt := p, die := die, at_ := d.now } : EarlyPacket)] } d.flowIn }

/-- The die at whose port a packet has arrived. -/
def Dev.arrivalDie (d : Dev) (p : Packet) : Nat :=
  match d.inbox.find? fun x => decide (x.2 = p) with
  | some (some n, _) => n.val / 4
  | _ => 0

/-- Memory, the map and the rings are in reset (R410). -/
def Dev.memoryDown (d : Dev) : Bool := decide (d.resetDomain 0x10 0 ≠ 0)

/-- A packet of a kind is taken in by this device: f is what it does. While a MEMORY reset runs, packets of flows
are refused with error notices (R410). -/
def takePacket (kind : Nat) (p : Packet) (f : Nat → Dev → Dev) (d : Dev) : Dev :=
  if !d.fabricOn || decide (p.pkind.toNat ≠ kind) || decide (p.dst.toNat ≠ d.deviceId) then d
  else
    let die := d.arrivalDie p
    let entry := d.inbox.find? fun x => decide (x.2 = p)
    let d := { d with inbox := match entry with | some x => d.inbox.erase x | none => d.inbox }
    if d.memoryDown then (if kind < 3 then d.errorNotice p false else d) else f die d

/-- RING_MESSAGE_PACKET, BULK_WRITE_PACKET and WRITE_ACK_PACKET: a packet of a flow (R297, R298). -/
def flowPacket (m : Mem) (kind : Nat) (p : Packet) (d : Dev) : Dev := takePacket kind p (flowArrive m p) d

/-- Rings of a flow from a device, on a job, enter error (R329 cause 4). -/
def failRings (m : Mem) (dev job : Nat) (send : Bool) (d : Dev) : Dev :=
  (d.rings.filter fun r => let c := r.2.ctx.toNat
    (if send then decide (RF.kind.get c = 2) else decide (RF.kind.get c = 1) && decide (RF.remote.get c = 1)) &&
      decide (RF.peerDevice.get c = dev) && decide (RF.job.get c = job)).foldl (fun d r => ringError m r.1 4 dev d) d

/-- ERROR_NOTICE_PACKET. A transfer of this device has failed, and with it the turn that made it (R311, R329): the
SEND rings of the job toward the sender of the notice enter error. A move that sends for the job is abandoned (R265). -/
def noticeArrive (m : Mem) (p : Packet) (d : Dev) : Dev :=
  failJob m p.job.toNat 8 (failRings m p.src.toNat p.job.toNat true (moveFails m p.job.toNat d))

/-- FLOW_FAILED. A packet has been held for 5 ms behind a gap (R311). -/
def flowFailed (m : Mem) (src job : Nat) (d : Dev) : Dev :=
  let key := flowKey src job
  match tFind key d.flowIn with
  | none => d
  | some f =>
    match f.held.find? fun h => decide (h.at_ + 5000000 ≤ d.now) with
    | none => d
    | some h =>
      let d := { d with flowIn := tPut key { f with held := [] } d.flowIn }
      failJob m job 8 (failRings m src job false (d.errorNotice h.pkt true))

/-! ### Mirrors (R217, R218, R221) -/

/-- The device acts as its own banker (R28). -/
def Dev.podOfOne (d : Dev) : Bool := decide (d.fld F.BNK_STATUS_ROLE = 5)

/-- The device that holds a place of a job (R425). -/
def Dev.holds (d : Dev) (j dev : Nat) : Nat := tGet dev d.places (j * 2 ^ 20 + dev)

/-- The devices of a job in the order of the lowest seat that each hosts, spares in their places (R217, R425, R469). -/
def Dev.jobDevices (d : Dev) (j : Nat) : List Nat :=
  if d.podOfOne then [d.deviceId] else (Config.jobDevices j).map fun x => d.holds j x.toNat

/-- The buddy of a device of a job: the device after it in the order, unless installation software gives another (R217). A
device is no buddy of its own, and the only device of a job has none (R28). -/
def Dev.buddyOf (d : Dev) (j dev : Nat) : Option Nat :=
  let l := d.jobDevices j
  match l.findIdx? fun x => decide (x = dev) with
  | none => none
  | some q =>
    let place := ((Config.jobDevices j)[q]?.map fun x => x.toNat).getD dev
    let b := match Config.buddyMap j place with
      | some y => some (d.holds j y.toNat)
      | none => l[(q + 1) % l.length]?
    b.filter fun y => decide (y ≠ dev)

/-- The buddy of this device for a job. -/
def Dev.buddy (d : Dev) (j : Nat) : Option Nat := if d.podOfOne then none else d.buddyOf j d.deviceId

/-- The device mirrors nothing for a job (R28, R217). -/
def Dev.mirrorsOff (d : Dev) (j : Nat) : Bool := (d.buddy j).isNone

/-- Where an extent of a job has its mirror, on the buddy. -/
def Dev.mirrorOf (d : Dev) (j e : Nat) : Nat := (Config.mirrorExtent j d.deviceId e).toNat

/-- A member goes whole to an extent of another device, which is to acknowledge it (R218); an uncorrectable line fails the
transfer, and the turn (R240). -/
def sendMember (m : Mem) (dst j e to_ : Nat) (d : Dev) : Dev :=
  if d.badRead (e * extentSize) extentSize then
    failJob m j 8 (raiseBad m (e * extentSize) extentSize (d.extentOwner e) d)
  else (sendExtent m dst j e to_ d).modJob j fun x => { x with unacked := x.unacked ++ [(dst, lastPacket to_)] }

/-- MIRROR_SEND. A shadow member whose last write has completed goes whole to the buddy's mirror (R218). -/
def mirrorSend (m : Mem) (e : Nat) (d : Dev) : Dev :=
  let j := partJob m d (partOf (d.xf e XF.owner))
  match d.buddy j with
  | none => d
  | some b =>
    if j = 0 ∨ d.xf e XF.kind ≠ 3 ∨ d.xf e XF.state ≠ 3 ∨ d.isLive e ∨ !d.unsent.contains e ∨ d.extentBusy e ∨ !d.fabricOn then d
    else sendMember m b j e (d.mirrorOf j e) { d with unsent := d.unsent.filter fun x => decide (x ≠ e) }

/-- Live members of a kind, 3 turn pairs or 4 mirrors, of a job's partitions (R216, R234). -/
def jobLives (m : Mem) (d : Dev) (j kind : Nat) : List Nat :=
  (d.xmap.filter fun e => let v := e.2.toNat
    decide (XF.kind.get v = kind) && decide (XF.state.get v = 3) && d.isLive e.1 &&
      (jobParts m d j).any fun p => decide (p.val = XF.owner.get v)).map fun e => e.1

/-- A spare has taken the place of a failed device of a job (R221, R425): the failed device's buddy sends it the live members
of the mirrors, and the device whose buddy it has become sends it its live members. -/
def restoreTo (m : Mem) (j failed spare : Nat) (d : Dev) : Dev :=
  let place := ((Config.jobDevices j).find? fun v => decide (d.holds j v.toNat = failed)).map fun v => v.toNat
  let mine := decide (d.buddyOf j failed = some d.deviceId)
  let d : Dev := { d with places := tPut (j * 2 ^ 20 + place.getD failed) spare d.places }
  if d.podOfOne || decide (d.deviceId = spare) then d
  else
    let d := if mine then (jobLives m d j 4).foldl (fun d e => sendMember m spare j e (Config.mirroredExtent j e).toNat d) d else d
    if d.buddy j = some spare then (jobLives m d j 3).foldl (fun d e => sendMember m spare j e (d.mirrorOf j e) d) d else d

/-! ### Turn-scoped rings (R330) -/

/-- The TURN_SCOPED rings of a job's partitions. -/
def turnRings (m : Mem) (d : Dev) (j : Nat) : List Nat :=
  (d.rings.filter fun r => let c := r.2.ctx.toNat
    decide (RF.kind.get c = 1 ∨ RF.kind.get c = 2) && decide (RF.turnScoped.get c = 1) &&
      (jobParts m d j).any fun p => decide (p.val = RF.owner.get c)).map fun r => r.1

/-- Each of them is drained: CONSUMED equals PRODUCED. -/
def ringsDrained (m : Mem) (d : Dev) (j : Nat) : Bool := (turnRings m d j).all fun r => decide (d.ringFill r = 0)

/-- The slots of a MESSAGE ring are discarded: COMPLETE is cleared in each (R330, R347). -/
def discardSlots (m : Mem) (r : Nat) (d : Dev) : Dev :=
  if d.rf r RF.kind = 1 ∧ d.bufferOk r then
    (List.range (2 ^ d.rf r RF.slotsLog)).foldl (fun d i =>
      let a := d.slotAddr r i + 24
      let b := (memByte m d a).toNat
      if bitAt b 0 then d.store a [BitVec.ofNat 8 (setBits b 0 1 0)] else d) d
  else d

/-- PRODUCED, CONSUMED and ERROR of a ring are cleared, and its slots discarded (R330, R347). -/
def ringClear (m : Mem) (r : Nat) (d : Dev) : Dev :=
  let d := discardSlots m r d
  let d := ((d.setRf r RF.produced 0).setRf r RF.consumed 0).setRf r RF.error 0
  d.setRing r { ctx := (d.ring r).ctx }

/-- A packet on its way, out of this device or into it, belongs to a TURN_SCOPED ring of a job (R330). -/
def turnTraffic (m : Mem) (d : Dev) (j : Nat) (p : Packet) : Bool :=
  decide (p.pkind = 0) && decide (p.job.toNat = j) && (turnRings m d j).any fun r =>
    (decide (p.src.toNat = d.deviceId) && decide (d.rf r RF.kind = 2) && decide (d.rf r RF.peerDevice = p.dst.toNat) &&
      decide (d.rf r RF.peerRing = p.ring.toNat)) || (decide (p.dst.toNat = d.deviceId) && decide (r = p.ring.toNat))

/-- A port's packets of which no flit has left, without those that a test discards. -/
def Port.purge (x : Port) (keep : Packet → Bool) : Port :=
  { x with out := x.out.filter fun o => o.last.isSome || keep o.pkt }

/-- At a failure of the turn every TURN_SCOPED ring of the job starts again, and messages in flight are discarded
(R330). -/
def resetTurnRings (m : Mem) (j : Nat) (d : Dev) : Dev :=
  let keep := fun (p : Packet) => !turnTraffic m d j p
  let e := (turnRings m d j).foldl (fun d r => ringClear m r d) d
  let e := (e.transit.filter fun x => !keep x.2.2).foldl (fun e x => e.leaveTransit x.1 x.2.2) e
  { e with
    egress := e.egress.filter keep
    held := e.held.filter fun h => keep h.pkt
    inbox := e.inbox.filter fun x => keep x.2
    ports := e.ports.map fun x => (x.1, x.2.purge keep)
    flowIn := e.flowIn.map fun f => (f.1, { f.2 with held := f.2.held.filter fun h => keep h.pkt }) }

/-- The banker clears the flows of a job tag (R298, R330): every flow of it here begins again at 0. -/
def Dev.clearFlows (d : Dev) (j : Nat) : Dev :=
  { d with flowIn := d.flowIn.filter fun e => decide (e.1 % 2 ^ 16 ≠ j)
           flowOut := d.flowOut.filter fun e => decide (e.1 % 2 ^ 16 ≠ j) }

end Sys2Proof.Machine
end

