-- ==== Sys2Proof/Machine/RingCmd.lean ====
section
/-! DEFINITION. Ring commands (11_collectives_mapping R347, R348). A command of the RING page names its ring in operand
a; RING_ARG_0 to RING_ARG_2 are its arguments. -/

namespace Sys2Proof.Machine

/-- The RING page. -/
def ringPage : Nat := 0x1200

/-- The context that RING_ARG_0 to RING_ARG_2 of a path hold; RING_ARG_3 is ignored (R348). -/
def PageCmd.context (h : PageCmd) : Nat := h.arg0 + h.arg1 * 2 ^ 64 + h.arg2 * 2 ^ 128

/-- R321 allows a context, apart from its buffer. -/
def contextOk (c : Nat) : Bool :=
  let zero := fun (l : List Bf) => l.all fun f => decide (f.get c = 0)
  let common := zero [⟨27, 5⟩, ⟨48, 16⟩]
  match RF.kind.get c with
  | 1 => common && zero [⟨99, 29⟩, ⟨176, 16⟩] && decide (7 ≤ RF.slotLog.get c) && decide (RF.slotLog.get c ≤ 20) &&
      decide (RF.slotsLog.get c ≤ 16) && decide (RF.consumer.get c ≠ 3) &&
      (decide (RF.remote.get c = 0) || zero [RF.pMover, RF.pHost, RF.pHub])
  | 2 => common && zero [⟨99, 29⟩, ⟨176, 16⟩] && decide (7 ≤ RF.peerSlotLog.get c) && decide (RF.peerSlotLog.get c ≤ 20) &&
      decide (RF.peerSlotsLog.get c ≤ 16)
  | 3 => common && zero [⟨184, 8⟩] && decide (1 ≤ RF.pmtu.get c) && decide (RF.pmtu.get c ≤ 5) && decide (RF.qstate.get c ≤ 4)
  | 4 => common
  | _ => false

/-- The buffer of a MESSAGE ring, or the response cache of a DCP ring, lies in VALID DATA extents of the owner. -/
def Dev.contextBuffer (d : Dev) (c : Nat) : Bool :=
  let n := 2 ^ (RF.slotLog.get c + RF.slotsLog.get c)
  let in_ := fun (a n : Nat) => decide (a + n ≤ 2 ^ 41) && d.validData (RF.owner.get c) a n
  match RF.kind.get c with
  | 1 => in_ (64 * RF.bufLine.get c) n
  | 4 => in_ (64 * RF.cacheLine.get c) 524288
  | _ => true

/-- A ring gets a context, and starts anew (R347). -/
def Dev.newRing (d : Dev) (r c : Nat) : Dev :=
  { d.setRing r { ctx := BitVec.ofNat 256 c } with qps := tDel r d.qps, ringPips := tDel r d.ringPips }

/-- ALLOCATE (R347, R348). -/
def ringAllocate (h : PageCmd) (d : Dev) : Dev × Nat :=
  let c := RF.error.put 0 h.context
  if d.rf h.a RF.kind ≠ 0 then (d, 2)
  else if !contextOk c then (d, 1)
  else if d.fld F.PART_STATUS_STATE (RF.owner.get c) ≠ 1 then (d, 3)
  else if !d.contextBuffer c then (d, 4)
  else if RF.kind.get c = 3 ∧ 16384 ≤ (d.rings.filter fun r => decide (RF.kind.get r.2.ctx.toNat = 3)).length then (d, 5)
  else (d.newRing h.a c, 0)

/-- A packet that this device originated carries a message of a SEND ring. -/
def Dev.sendTraffic (d : Dev) (r : Nat) (p : Packet) : Bool :=
  decide (p.pkind = 0) && decide (p.src.toNat = d.deviceId) && decide (p.dst.toNat = d.rf r RF.peerDevice) &&
    decide (p.ring.toNat = d.rf r RF.peerRing) && decide (KF.credit.get p.kindData.toNat = 0)

/-- A packet for this device carries a message of a MESSAGE ring. -/
def Dev.ringTraffic (d : Dev) (r : Nat) (p : Packet) : Bool :=
  decide (p.pkind = 0) && decide (p.dst.toNat = d.deviceId) && decide (p.ring.toNat = r) && decide (KF.credit.get p.kindData.toNat = 0)

/-- A message of a ring is in flight in a mover or the fabric (R347). -/
def Dev.ringBusy (d : Dev) (r : Nat) : Bool :=
  (allCores.any fun c => (d.core c).mover.any fun x => decide (x.cmd.f CF.op = 0x45 ∨ x.cmd.f CF.op = 0x46) && decide (x.cmd.f MF.ring = r)) ||
    decide ((d.ring r).arrivingLen ≠ 0) ||
    (decide (d.rf r RF.kind = 2) && (d.egress.any (d.sendTraffic r) || (d.held.any fun h => d.sendTraffic r h.pkt) ||
      d.ports.any fun x => x.2.out.any fun o => d.sendTraffic r o.pkt)) ||
    (decide (d.rf r RF.kind = 1) && ((d.inbox.any fun x => d.ringTraffic r x.2) || (d.transit.any fun x => d.ringTraffic r x.2.2) ||
      (d.egress.any (d.ringTraffic r)) || d.flowIn.any fun f => f.2.held.any fun h => d.ringTraffic r h.pkt))

/-- FREE goes on until no message is in flight (R347). -/
def ringFreeStep (r : Nat) (d : Dev) : Dev × Option Nat :=
  if d.ringBusy r then (d, none) else (d.freeRing r, some 0)

/-- RESET (R347). -/
def ringReset (m : Mem) (r : Nat) (d : Dev) : Dev × Nat :=
  if d.rf r RF.kind ≠ 1 ∧ d.rf r RF.kind ≠ 2 then (d, 2) else (ringClear m r d, 0)

/-- The owner's job has quiesced after a failure notice, and the device has not applied its replay notice (R347). -/
def Dev.quiescedFor (d : Dev) (m : Mem) (p : PartId) : Bool :=
  let j := partJob m d p
  decide (j ≠ 0) && (d.job j).stopped && (d.job j).quiesced

/-- RETARGET (R347). With it the flows of the ring's job begin again (R330; log 31). -/
def ringRetarget (m : Mem) (h : PageCmd) (d : Dev) : Dev × Nat :=
  let r := h.a
  let p := partOf (d.rf r RF.owner)
  if d.rf r RF.kind ≠ 2 ∧ ¬(d.rf r RF.kind = 1 ∧ d.rf r RF.remote = 1) then (d, 2)
  else if d.fld F.PART_STATUS_STATE p.val ≠ 3 ∧ !d.quiescedFor m p then (d, 3)
  else (((d.setRf r RF.peerDevice (RF.peerDevice.get h.context)).setRf r RF.peerRing (RF.peerRing.get h.context)).clearFlows
    (d.rf r RF.job), 0)

/-- A ring command starts (R347). -/
def ringStart (m : Mem) (h : PageCmd) (d : Dev) : Dev × Option Nat :=
  let done := fun (x : Dev × Nat) => (x.1, some x.2)
  match h.op with
  | 1 => done (ringAllocate h d)
  | 2 => if d.rf h.a RF.kind = 0 then (d, some 2) else ringFreeStep h.a d
  | 3 => done (ringReset m h.a d)
  | 4 => done (ringRetarget m h d)
  | _ => (d, some 1)

/-- A FREE that runs goes on. -/
def ringContinue (h : PageCmd) (d : Dev) : Dev × Option Nat := if h.op = 2 then ringFreeStep h.a d else (d, none)

/-- RING_FREE_TIMEOUT: a FREE has waited for 10 ms (R347). -/
def ringFreeTimeout (h : PageCmd) (d : Dev) : Option Nat :=
  match h.began with
  | some t => if h.op = 2 ∧ t + 10000000 ≤ d.now ∧ d.ringBusy h.a then some 6 else none
  | none => none

/-- The snapshot that a write of RING_READ_IDX takes (R348). -/
def Dev.ringSnapshot (d : Dev) (w : Path) (r : Nat) : Dev :=
  (List.range 4).foldl (fun e i => e.setPfld w F.RING_READ_WORD (bits (d.ring r).ctx.toNat (64 * i) 64) 0 i) d

end Sys2Proof.Machine
end

