-- ==== Sys2Proof/Machine/Roce.lean ====
section
/-! DEFINITION. RoCE v2 queue pairs (12_host_port R364 to R366) and the reads by which generations load from storage
(09_partitions_serving R278). -/

namespace Sys2Proof.Machine

/-- The host port serves: its link is up, the main rails are on, and the hub is not in reset (R368). -/
def Dev.hostOn (d : Dev) : Bool :=
  decide (d.power.phase = .running) && d.flag F.HOST_STATUS_LINK && decide (d.resetDomain 0x28 0 = 0)

/-- The ring of a local queue pair number (R364). -/
def Dev.qpOf (d : Dev) (qpn : Nat) : Option Nat :=
  let r := qpn - 0x800000
  if 0x800000 ≤ qpn ∧ r < 262144 ∧ d.rf r RF.kind = 3 then some r else none

/-- The run-time part of a queue pair. -/
def Dev.qp (d : Dev) (r : Nat) : QpRun := tGet {} d.qps r
/-- Sets it. -/
def Dev.setQp (d : Dev) (r : Nat) (x : QpRun) : Dev := { d with qps := tSet {} r x d.qps }
/-- Bytes of a path MTU code (R365). -/
def Dev.mtu (d : Dev) (r : Nat) : Nat := 128 * 2 ^ d.rf r RF.pmtu
/-- Next PSN. -/
def psnAdd (p n : Nat) : Nat := (p + n) % 2 ^ 24

/-- Kinds of RoCE packets that the device sends: 1 ACK, 2 NAK with its syndrome, 3 READ response, 4 READ request,
5 congestion notification, 6 RNR NAK. It goes to the queue pair's remote queue pair, by its entry of the peer table (R365,
R370). -/
def Dev.sendRoce (d : Dev) (r kind psn : Nat) (payload : List Byte) : Dev :=
  (d.countFrame true payload.length).send (.roce (BitVec.ofNat 18 r) (d.rf r RF.remoteQpn) (tGet {} d.peers (d.rf r RF.peerEntry))
    (d.frameTag .host) kind psn payload)

/-- The shard that a READ serves has failed (R281, R364). -/
def readFails (rd : QpRead) (d : Dev) : Dev :=
  match d.readShard rd.part rd.shard with
  | some (i, _, s) => if i = rd.entry then shardFails rd.part i s d else d
  | none => d

/-- A queue pair enters ERROR and flushes its work (R364, R365). -/
def qpError (r : Nat) (d : Dev) : Dev :=
  if d.rf r RF.qstate = 4 then d
  else
    let rd := (d.qp r).read
    let d := ((d.setRf r RF.qstate 4).count F.HOST_ERR_QP_ERRORS 1).setQp r { d.qp r with read := none, msg := none }
    match rd with
    | some x => readFails x d
    | none => d

/-- A NAK with a syndrome, after which the queue pair is in ERROR (R364): 1 Remote Invalid Request, 2 Remote Access
Error, 3 Remote Operational Error. -/
def qpNak (r syndrome psn : Nat) (d : Dev) : Dev := qpError r (d.sendRoce r 2 psn [BitVec.ofNat 8 syndrome])

/-- The system R_Key reaches a byte range for a read or a write (R229). -/
def sysKeyAccess (a n : Nat) (write : Bool) : Bool :=
  (extentsOf a n).all fun e => decide (e < extentCount) &&
    (if e % 16384 = 16382 then !write
     else decide (e = 32767) || (!write && (decide (e = 16383) || decide (e = 49151))))

/-- The R_Key and the map permit an RDMA access on a queue pair (R364). -/
def Dev.rdmaOk (d : Dev) (r rkey a n : Nat) (write : Bool) : Bool :=
  let p := partOf (d.rf r RF.owner)
  let key := d.fld F.HOST_RKEY_KEY 0 p.val
  let sys := d.fld F.HOST_RKEY_SYS_KEY
  decide (a + n ≤ 2 ^ 41) &&
    if rkey = key ∧ key ≠ 0 then (extentsOf a n).all fun e => d.hostAccess p e write
    else decide (rkey = sys) && decide (sys ≠ 0) && sysKeyAccess a n write

/-- A request packet reaches a queue pair that receives: f is what it does. For a PSN already taken it does again; one ahead
gets a NAK with the sequence error syndrome 0; without memory it is told to retry (R364, R368; the InfiniBand rules of PSNs).
A mark of congestion is answered (R366). -/
def onQp (p : RocePacket) (f again : Nat → Dev → Dev) (d : Dev) : Dev :=
  if !d.hostOn || !d.frameTaken .host p.source then d
  else if d.memoryDown then (if 0x800000 ≤ p.qpn.toNat then d.sendRoce (p.qpn.toNat - 0x800000) 6 p.psn.toNat [] else d)
  else match d.qpOf p.qpn.toNat with
    | none => d
    | some r =>
      if d.rf r RF.qstate ≠ 2 ∧ d.rf r RF.qstate ≠ 3 then d
      else
        let d := d.countFrame false p.data.length
        let due := match (d.qp r).cnpSent with | some t => decide (t + 50000 ≤ d.now) | none => true
        let d := if p.ce && due then (d.sendRoce r 5 0 []).setQp r { d.qp r with cnpSent := some d.now } else d
        let ahead := (p.psn.toNat + 2 ^ 24 - d.rf r RF.recvPsn) % 2 ^ 24
        if ahead = 0 then f r d
        else if 2 ^ 23 ≤ ahead then again r d
        else d.sendRoce r 2 (d.rf r RF.recvPsn) [0]

/-- A packet is acknowledged once more (R364). -/
def ackAgain (p : RocePacket) (r : Nat) (d : Dev) : Dev := d.sendRoce r 1 p.psn.toNat []

/-- The packet ends its message. -/
def endsMsg (p : RocePacket) : Bool := decide (p.place = .only) || decide (p.place = .last)

/-- The packet begins its message. -/
def beginsMsg (p : RocePacket) : Bool := decide (p.place = .only) || decide (p.place = .first)

/-- A packet of a WRITE or SEND fits (R364): its payload keeps to the path MTU, which a packet that does not end its message
fills, and it goes on with the message that the queue pair has begun, if there is one. -/
def Dev.packetFits (d : Dev) (r : Nat) (send : Bool) (p : RocePacket) : Bool :=
  (if endsMsg p then decide (p.data.length ≤ d.mtu r) else decide (p.data.length = d.mtu r)) &&
    (match (d.qp r).msg with
     | none => beginsMsg p
     | some x => !beginsMsg p && x.send == send)

/-- The message of a WRITE's packet as it stands before the packet (R364). -/
def Dev.writeMsg (d : Dev) (r : Nat) (p : RocePacket) : QpMsg :=
  (d.qp r).msg.getD { send := false, addr := p.va.toNat, rkey := p.rkey.toNat, left := p.length.toNat, psn := p.psn.toNat }

/-- What a WRITE still brings after n bytes, if anything. -/
def QpMsg.after (x : QpMsg) (n : Nat) : QpMsg := { x with addr := x.addr + n, left := x.left - n }

/-- The bytes that the check of a WRITE's packet covers: all of the message at its first packet (a refused write writes
nothing), the packet's own after it (R364). -/
def checkedBytes (p : RocePacket) (x : QpMsg) : Nat := if beginsMsg p then x.left else p.data.length

/-- RDMA_WRITE. The bytes are written and then acknowledged, or refused (R364). -/
def rdmaWrite (m : Mem) (p : RocePacket) (d : Dev) : Dev :=
  onQp p (fun r d =>
    let x := d.writeMsg r p
    let n := p.data.length
    if !d.packetFits r false p || decide (if endsMsg p then n ≠ x.left else x.left ≤ n) then qpNak r 1 p.psn.toNat d
    else if !d.rdmaOk r x.rkey x.addr (checkedBytes p x) true then qpNak r 2 p.psn.toNat d
    else if d.badWrite x.addr n then raiseCut m x.addr n (some (partOf (d.rf r RF.owner))) (qpNak r 3 p.psn.toNat d)
    else
      let d := accumulate m x.addr n ((d.store x.addr p.data).countStk true x.addr n)
      let d := d.setQp r { d.qp r with msg := if endsMsg p then none else some (x.after n) }
      (d.setRf r RF.recvPsn (psnAdd (d.rf r RF.recvPsn) 1)).sendRoce r 1 p.psn.toNat []) (ackAgain p) d

/-- Response packets of a READ from piece i on: at an uncorrectable line, a NAK at the first unsent PSN (R364). -/
def readPieces (m : Mem) (r psn a mtu : Nat) (last : Nat) : List Nat → Dev → Dev
  | [], d => d
  | i :: l, d =>
    let n := min mtu (last - i * mtu)
    if d.readFails (a + i * mtu) n then
      raiseBad m (a + i * mtu) n (some (partOf (d.rf r RF.owner))) (qpNak r 3 (psnAdd psn i) d)
    else readPieces m r psn a mtu last l
      ((d.sendRoce r 3 (psnAdd psn i) (memRead m d (a + i * mtu) n)).countStk false (a + i * mtu) n)

/-- RDMA_READ. It is answered from memory in packets of the path MTU, and answered again when its packet comes again
(R364). -/
def rdmaRead (m : Mem) (p : RocePacket) (d : Dev) : Dev :=
  let answer := fun (fresh : Bool) (r : Nat) (d : Dev) =>
    let a := p.va.toNat
    let n := p.length.toNat
    let k := max 1 ((n + d.mtu r - 1) / d.mtu r)
    if (d.qp r).msg.isSome then qpNak r 1 p.psn.toNat d
    else if !d.rdmaOk r p.rkey.toNat a n false then qpNak r 2 p.psn.toNat d
    else readPieces m r p.psn.toNat a (d.mtu r) n (List.range k)
      (if fresh then d.setRf r RF.recvPsn (psnAdd (d.rf r RF.recvPsn) k) else d)
  onQp p (answer true) (answer false) d

/-- The message of a SEND's packet as it stands with the packet (R364). -/
def Dev.sendMsg (d : Dev) (r : Nat) (p : RocePacket) : QpMsg :=
  let x := (d.qp r).msg.getD { send := true, psn := p.psn.toNat }
  { x with bytes := x.bytes ++ p.data }

/-- A queue pair's receive ring takes SENDs (R365). -/
def Dev.recvOk (d : Dev) (r : Nat) : Bool :=
  let q := d.rf r RF.recvRing
  decide (d.rf r RF.recvEn = 1) && decide (d.rf q RF.kind = 1) && decide (d.rf q RF.owner = d.rf r RF.owner) &&
    decide (d.rf q RF.pHost = 1)

/-- A SEND finds no room: the requester is to make the message again from its first packet (R364). -/
def Dev.notReady (d : Dev) (r psn : Nat) : Dev :=
  ((d.setQp r { d.qp r with msg := none }).setRf r RF.recvPsn psn).sendRoce r 6 psn []

/-- SEND. The message goes onto the receive ring with its last packet, when the ring has room (R364). -/
def roceSend (m : Mem) (p : RocePacket) (d : Dev) : Dev :=
  onQp p (fun r d =>
    let q := d.rf r RF.recvRing
    let x := d.sendMsg r p
    let n := x.bytes.length
    if !d.packetFits r true p || !d.recvOk r || decide (d.slotCapacity q < n) || x.bytes.isEmpty then qpNak r 1 p.psn.toNat d
    else if !d.ringRoom q || decide (d.rf q RF.error = 1) then d.notReady r x.psn
    else if !endsMsg p then
      (d.setQp r { d.qp r with msg := some x }).setRf r RF.recvPsn (psnAdd (d.rf r RF.recvPsn) 1)
    else if !d.bufferOk q then (ringError m q 5 0 d).notReady r x.psn
    else
      let a := d.slotAddr q (d.rf q RF.produced)
      if d.badWrite a (64 + n) then
        raiseCut m a (64 + n) (some (partOf (d.rf r RF.owner))) (qpNak r 3 p.psn.toNat d)
      else
      let d := (d.produce q (d.turnOf (partOf (d.rf q RF.owner))) x.bytes).countStk true a (64 + n)
      let d := d.setQp r { d.qp r with msg := none }
      (d.setRf r RF.recvPsn (psnAdd (d.rf r RF.recvPsn) 1)).sendRoce r 1 p.psn.toNat []) (ackAgain p) d

/-! ### Reads from storage (R278, R364) -/

/-- Big-endian bytes: the order of RoCE's own headers (R351). -/
def beBytes (n v : Nat) : List Byte := (leBytes n v).reverse

/-- The bytes of the piece of a shard that a READ asks for: an extent at most. -/
def QpRead.want (rd : QpRead) (s : Shard) : Nat := min extentSize (s.count * extentSize - rd.off)

/-- The READ request for what has not come of a piece: address, key and length (R278, R351, R364). -/
def Dev.sendRead (d : Dev) (r : Nat) (rd : QpRead) (s : Shard) : Dev :=
  d.sendRoce r 4 (psnAdd (d.rf r RF.sendPsn) (rd.got / d.mtu r))
    (beBytes 8 (s.remote + rd.off + rd.got) ++ beBytes 4 s.rkey ++ beBytes 4 (rd.want s - rd.got))

/-- Sets a queue pair's outstanding READ, asked for now. -/
def Dev.setRead (d : Dev) (r : Nat) (rd : QpRead) : Dev :=
  d.setQp r { d.qp r with read := some { rd with at_ := d.now } }

/-- Asks for a piece of a shard. -/
def askShard (r : Nat) (rd : QpRead) (s : Shard) (d : Dev) : Dev :=
  let rd := { rd with got := 0, tries := 0, rnr := 0 }
  (d.sendRead r rd s).setRead r rd

/-- Asks again for what has not come of the piece that a READ asks for. -/
def readAgain (r : Nat) (rd : QpRead) (d : Dev) : Dev :=
  match d.readShard rd.part rd.shard with
  | some (_, _, s) => (d.sendRead r rd s).setRead r rd
  | none => d.setQp r { d.qp r with read := none }

/-- SHARD_READ. The member that reads a shard from storage starts, once the shard's extents have been cleared and its
queue pair is ready and without work (R278, R279); it reads it again for members that reported it (R281). -/
def shardRead (p : PartId) (n : Nat) (d : Dev) : Dev :=
  match d.readShard p n with
  | none => d
  | some (i, l, s) =>
    let cleared := (List.range s.count).all fun j => decide (d.xf (s.ext + j) XF.state = 2 ∨ d.xf (s.ext + j) XF.state = 3)
    if s.reading ∨ s.published ∨ s.count = 0 ∨ n % l.group ≠ l.member ∨ !cleared ∨ !d.hostOn ∨ d.memoryDown ∨ !d.ringMine p.val s.qp ∨
        d.rf s.qp RF.kind ≠ 3 ∨ d.rf s.qp RF.qstate ≠ 3 ∨ (d.qp s.qp).read.isSome then d
    else
      let d := beginShard (loadKey p i) l.gen s d
      askShard s.qp { part := p, entry := i, shard := n, off := 0 } s d

/-- READ_RESPONSE. Bytes of an outstanding READ arrive; or an answer that the other side is not ready, after which the READ
is made again as often as RNR_RETRY allows; or a NAK, or a packet of a wrong length, after which the queue pair is in ERROR
(R364, R365). -/
def readResponse (m : Mem) (x : RoceResponse) (d : Dev) : Dev :=
  if !d.hostOn || !d.frameTaken .host x.source then d
  else match d.qpOf x.qpn.toNat with
    | none => d
    | some r =>
      match (d.qp r).read with
      | none => d
      | some rd =>
        let d := d.countFrame false x.data.length
        match x.answer with
        | .nak => qpError r d
        | .rnr =>
          if d.rf r RF.rnrRetry = 7 ∨ rd.rnr < d.rf r RF.rnrRetry then readAgain r { rd with rnr := rd.rnr + 1 } d
          else qpError r d
        | .data =>
          if x.psn.toNat ≠ psnAdd (d.rf r RF.sendPsn) (rd.got / d.mtu r) then d
          else match d.readShard rd.part rd.shard with
            | none => d.setQp r { d.qp r with read := none }
            | some (i, l, s) =>
              let want := rd.want s
              let got := rd.got + x.data.length
              if x.data.length ≠ min (d.mtu r) (want - rd.got) ∨ (x.last ≠ decide (got = want)) then qpError r d
              else
                let d := d.setRead r { rd with got := got, tries := 0, rnr := 0 }
                let d := shardArrives m rd.part i l s (rd.off + rd.got) x.data d
                if got < want then d
                else
                  let d := d.setRf r RF.sendPsn (psnAdd (d.rf r RF.sendPsn) ((want + d.mtu r - 1) / d.mtu r))
                  if rd.off + want < s.count * extentSize then askShard r { rd with off := rd.off + want } s d
                  else d.setQp r { d.qp r with read := none }

/-- ACK_TIMEOUT. The acknowledgement timeout of a queue pair's outstanding work has passed: it is asked for again, or
after its retries the queue pair fails (R364, R365). -/
def ackTimeout (r : Nat) (d : Dev) : Dev :=
  match (d.qp r).read with
  | none => d
  | some rd =>
    if !d.hostOn || decide (d.now < rd.at_ + 4096 * 2 ^ d.rf r RF.ackTimeout) then d
    else if d.rf r RF.retryCnt ≤ rd.tries then qpError r d
    else readAgain r { rd with tries := rd.tries + 1 } d

/-! ### Congestion (R366) -/

/-- The line rate in units of 0.1 Gb/s (R350). -/
def Dev.lineRate (d : Dev) : Nat := if d.fld F.HOST_STATUS_SPEED = 1 then 8000 else 16000

/-- A rate within its bounds. -/
def Dev.clampRate (d : Dev) (x : Nat) : Nat := max (d.fld F.HOST_CC_MIN_RATE) (min x d.lineRate)

/-- alpha after a decay (R366), in units of 2⁻¹⁶, rounded down. -/
def Dev.decayed (d : Dev) (r : Nat) : Nat := d.rf r RF.alpha * (256 - d.fld F.HOST_CC_G) / 256

/-- CNP_RECEIVE (R366). -/
def cnpReceive (r : Nat) (d : Dev) : Dev :=
  if !d.hostOn || decide (d.rf r RF.kind ≠ 3) then d
  else
    let rate := d.rf r RF.rate
    let d := ((d.countFrame false 0).count F.HOST_ERR_CNP_RX 1).setQp r { d.qp r with target := rate, cnpAt := d.now, decayAt := d.now, raiseAt := d.now }
    let new := d.clampRate (rate - rate * d.rf r RF.alpha / 131072)
    (d.setRf r RF.rate new).setRf r RF.alpha (min 65535 (d.decayed r + 256 * d.fld F.HOST_CC_G))

/-- ALPHA_DECAY (R366). -/
def alphaDecay (r : Nat) (d : Dev) : Dev :=
  if d.hostOn && decide (d.rf r RF.kind = 3) && decide ((d.qp r).decayAt + 55000 ≤ d.now) then
    (d.setRf r RF.alpha (d.decayed r)).setQp r { d.qp r with decayAt := d.now }
  else d

/-- RATE_INCREASE (R366). -/
def rateIncrease (r : Nat) (d : Dev) : Dev :=
  if d.hostOn && decide (d.rf r RF.kind = 3) && decide ((d.qp r).raiseAt + 1000 * d.fld F.HOST_CC_T_INC ≤ d.now) then
    (d.setRf r RF.rate (d.clampRate ((d.rf r RF.rate + (d.qp r).target) / 2))).setQp r { d.qp r with raiseAt := d.now }
  else d

/-- PAUSE_FRAME (R366). -/
def pauseFrame (prio : Nat) (on : Bool) (d : Dev) : Dev :=
  if d.hostOn && d.flag F.HOST_NET_PFC_EN && decide (prio = d.fld F.HOST_NET_PFC_PRIO) then { d.countFrame false 0 with paused := on } else d

end Sys2Proof.Machine
end

