-- ==== Sys2Proof/Machine/Power.lean ====
section
/-! DEFINITION. The power controller (13_power_clocks R372 to R398): the main input, set points and PLLs, droop, the
power caps, thermal control, pace notices and pip counters. -/

namespace Sys2Proof.Machine

/-- The power controller runs: the main rails are on and no DEVICE reset runs. -/
def Dev.controllerOn (d : Dev) : Bool := decide (d.power.phase ≠ .asleep) && decide (d.resetDomain 0x40 0 = 0)

/-! ### The main input (R372, R498) -/

/-- A condition that began at a stamp has lasted 20 µs (R372). -/
def past20 (d : Dev) (o : Option Nat) : Bool := match o with | some t => decide (t + 20000 ≤ d.now) | none => false

/-- MAIN_INPUT_SAMPLE. The main input is checked: it limits the dies, or turns the main rails off; MAIN_PRESENT goes
when the input leaves its range. -/
def mainInputSample (mv : Nat) (d : Dev) : Dev :=
  if !d.power.auxOn then d
  else
    let ok := decide (40000 ≤ mv) && decide (mv ≤ 58000)
    let since := fun (c : Bool) (o : Option Nat) => if c then some (o.getD d.now) else none
    let d := d.setPower { d.power with
      mainMv := mv, okSince := since ok d.power.okSince, lowSince := since (decide (mv < 36000)) d.power.lowSince
      highSince := since (decide (60000 < mv)) d.power.highSince }
    let d := if ok then d else d.setFld F.HGU_STATUS_MAIN_PRESENT 0
    if d.power.phase = .asleep then d
    else
      let d := (d.setFld F.PWR_INPUT_MAIN_MV (min mv 65535)).setFld F.PWR_STATUS_INPUT_LOW
        (b2n (decide (36000 ≤ mv) && decide (mv < 40000)))
      if past20 d d.power.lowSince || past20 d d.power.highSince then d.mainOff else d

/-! ### Set points (R375 to R378) -/

/-- A step up may not start or switch: the droop flag is set, or it has been clear for fewer than 64 array cycles. -/
def Dev.droopBlocks (d : Dev) (k : Nat) : Bool :=
  d.flag F.CLK_STATUS_DROOP k || (match (d.clock k).clearFrom with
    | some n => decide ((d.clock k).cycles < n + 64)
    | none => false)

/-- The idle PLL is programmed to a set point, and settles in 20 µs. -/
def Dev.program (d : Dev) (k t : Nat) : Dev :=
  d.setClock k { d.clock k with change := some (t, d.now + 20000), held := false, deferred := false }

/-- The clock switches to the settled PLL (R375 step 3). -/
def Dev.switchPll (d : Dev) (k t : Nat) : Dev :=
  let d := d.setClock k { d.clock k with change := none, held := false, deferred := false }
  ((d.setFld F.CLK_STATUS_CURRENT t k).setFld F.CLK_STATUS_PLL (1 - d.fld F.CLK_STATUS_PLL k) k).count F.CLK_CHANGES_CHANGES 1 k

/-- SET_POINT_CHANGE. A die whose target differs from what drives it, or from where it is going, acts (R375 to R377). -/
def setPointChange (k : Nat) (d : Dev) : Dev :=
  if !d.controllerOn then d
  else
    let x := d.clock k
    let c := d.fld F.CLK_STATUS_CURRENT k
    let t := (d.target k).1
    match x.change with
    | none =>
      if t = c then d.setClock k { x with deferred := false }
      else if t < c then d.program k t
      else if d.droopBlocks k then
        if x.deferred then d else (d.setClock k { x with deferred := true }).count F.CLK_CHANGES_DEFERRED 1 k
      else d.program k t
    | some (g, _) =>
      if t = g then d
      else if c < g then
        if t = c then d.setClock k { x with change := none, held := false } else d.program k t
      else if t < c then d.program k t
      else d

/-- PLL_SETTLED. The idle PLL has settled: the clock switches, unless the droop flag holds a step up (R375, R376). -/
def pllSettled (k : Nat) (d : Dev) : Dev :=
  let x := d.clock k
  match x.change with
  | none => d
  | some (g, t) =>
    if !d.controllerOn || decide (d.now < t) || x.held then d
    else if d.fld F.CLK_STATUS_CURRENT k < g ∧ d.droopBlocks k then
      (d.setClock k { x with held := true }).count F.CLK_CHANGES_DEFERRED 1 k
    else d.switchPll k g

/-- DEFERRED_SWITCH. The flag has been clear for 64 array cycles (R376). -/
def deferredSwitch (k : Nat) (d : Dev) : Dev :=
  match (d.clock k).change with
  | none => d
  | some (g, _) => if d.controllerOn && (d.clock k).held && !d.droopBlocks k then d.switchPll k g else d

/-- DROOP_TRIP. A core's detector trips (R378). -/
def droopTrip (c : CoreId) (d : Dev) : Dev :=
  if d.controllerOn then (d.setFld F.CLK_STATUS_DROOP 1 (dieOf c)).count F.CLK_DROOP_EVENTS 1 (dieOf c) else d

/-- DROOP_RELEASE. Every detector of the die has been released for 32 stretched cycles (R378). -/
def droopRelease (k : Nat) (d : Dev) : Dev :=
  if d.controllerOn && d.flag F.CLK_STATUS_DROOP k then
    (d.setFld F.CLK_STATUS_DROOP 0 k).setClock k { d.clock k with clearFrom := some (d.clock k).cycles }
  else d

/-! ### Caps (R379 to R382) -/

/-- Classes of R380. -/
inductive PowerClass where
  | links
  | memory
  | compute
deriving DecidableEq, Repr

/-- A class by its code. -/
def PowerClass.ofCode : Nat → PowerClass
  | 0 => .links
  | 1 => .memory
  | _ => .compute

/-- The classes in the order of PWR_CTL, first first. -/
def Dev.classOrder (d : Dev) : List PowerClass :=
  [d.fld F.PWR_CTL_FIRST, d.fld F.PWR_CTL_SECOND, d.fld F.PWR_CTL_THIRD].map PowerClass.ofCode

/-- The die whose CAP limit a test picks, ties to the lower number. -/
def Dev.pickDie (d : Dev) (better : Nat → Nat → Bool) (ok : Nat → Bool) : Option Nat :=
  ([0, 1, 2, 3].filter ok).foldl (fun b k => match b with
    | none => some k
    | some q => if better (d.fld F.CLK_LIMITS_CAP k) (d.fld F.CLK_LIMITS_CAP q) then some k else some q) none

/-- One level down in a class: what it is estimated to save; none at its floor (R381). -/
def Dev.cutLevel (d : Dev) (c : PowerClass) : Option (Dev × Nat) :=
  match c with
  | .links =>
    let n := d.fld F.PWR_LEVELS_LINK_LEVEL
    if n ≤ 4 then none else some (d.setFld F.PWR_LEVELS_LINK_LEVEL (n - 1), (Config.levelWatts 0 0 n).toNat)
  | .memory =>
    let n := d.fld F.PWR_LEVELS_MEM_LEVEL
    if n ≤ 4 then none else some (d.setFld F.PWR_LEVELS_MEM_LEVEL (n - 1), (Config.levelWatts 1 0 n).toNat)
  | .compute =>
    match d.pickDie (fun a b => decide (b < a)) fun k => decide (d.fld F.CLK_LIMITS_CAP k ≠ 0) with
    | none => none
    | some k =>
      let n := d.fld F.CLK_LIMITS_CAP k
      some (d.setFld F.CLK_LIMITS_CAP (n - 1) k, (Config.levelWatts 2 k n).toNat)

/-- One level up in a class that is cut, with what it is estimated to cost (R381). -/
def Dev.raiseLevel (d : Dev) (c : PowerClass) : Option (Dev × Nat) :=
  match c with
  | .links =>
    let n := d.fld F.PWR_LEVELS_LINK_LEVEL
    if 8 ≤ n then none else some (d.setFld F.PWR_LEVELS_LINK_LEVEL (n + 1), (Config.levelWatts 0 0 (n + 1)).toNat)
  | .memory =>
    let n := d.fld F.PWR_LEVELS_MEM_LEVEL
    if 8 ≤ n then none else some (d.setFld F.PWR_LEVELS_MEM_LEVEL (n + 1), (Config.levelWatts 1 0 (n + 1)).toNat)
  | .compute =>
    match d.pickDie (fun a b => decide (a < b)) fun k => decide (d.fld F.CLK_LIMITS_CAP k < d.fld F.CLK_CTL_MAX k) with
    | none => none
    | some k =>
      let n := d.fld F.CLK_LIMITS_CAP k
      some (d.setFld F.CLK_LIMITS_CAP (n + 1) k, (Config.levelWatts 2 k (n + 1)).toNat)

/-- Cuts a class while power is over and the class is above its floor; f bounds the levels. -/
def cutClass (c : PowerClass) : Nat → Int → Dev → Dev × Int
  | 0, x, d => (d, x)
  | f + 1, x, d =>
    if x ≤ 0 then (d, x)
    else match d.cutLevel c with
      | none => (d, x)
      | some (d, w) => cutClass c f (x - w) d

/-- Raises the first class that is cut and for whose next level there is room, by one level. -/
def raiseOne (room : Int) : List PowerClass → Dev → Dev
  | [], d => d
  | c :: l, d => match d.raiseLevel c with
    | some (e, w) => if (w : Int) + 20 ≤ room then e else raiseOne room l d
    | none => raiseOne room l d

/-- A class is cut. -/
def Dev.anyCut (d : Dev) : Bool := d.classOrder.any fun c => (d.raiseLevel c).isSome
/-- Every class is at its floor. -/
def Dev.allFloor (d : Dev) : Bool := d.classOrder.all fun c => (d.cutLevel c).isNone

/-- The mean of samples, in whole watts. -/
def mean (l : List Nat) : Nat := l.sum / max 1 l.length

/-- The input power of the last millisecond and of the last 100 ms, as PWR_MEAS shows them (R381). -/
def Dev.takePower (d : Dev) (w : Nat) : Dev :=
  let l := (w :: d.capSamples).take 1000
  (({ d with capSamples := l }).setFld F.PWR_MEAS_FAST_W (mean (l.take 10))).setFld F.PWR_MEAS_AVG_W (mean l)

/-- The excess over the caps in watts, negative where there is room (R379, R382). -/
def Dev.excess (d : Dev) (w : Nat) : Int :=
  let l := (w :: d.capSamples).take 1000
  max ((mean (l.take 10) : Int) - 10 * d.fld F.PWR_CAP_PEAK) ((mean l : Int) - 10 * d.fld F.PWR_CAP_SUSTAINED)

/-- The caps act on the power measured: cuts from the last class on, or one level back where there is room (R380, R382). -/
def Dev.capsActed (d : Dev) (w : Nat) : Dev :=
  let e := d.takePower w
  if 0 < d.excess w then (e.classOrder.reverse.foldl (fun s c => cutClass c 128 s.2 s.1) (e, d.excess w)).1
  else raiseOne (-d.excess w) e.classOrder e

/-- The moment since when every class has been at its floor with the caps exceeded. -/
def Dev.setFloor (d : Dev) (t : Option Nat) : Dev := { d with floorSince := t }

/-- CAP_EVALUATION. Every 100 µs, with the input power measured over the interval that ends (R379 to R382, R396). -/
def capEvaluation (w : Nat) (d : Dev) : Dev :=
  if !d.controllerOn then d
  else
    let e := d.capsActed w
    (e.setFloor (if decide (0 < d.excess w) && e.allFloor then some (e.floorSince.getD e.now) else none)).setFld
      F.PWR_STATUS_OVER (b2n e.anyCut)

/-- CAP_UNMET (R382). -/
def capUnmet (m : Mem) (d : Dev) : Dev :=
  match d.floorSince with
  | some t => if d.controllerOn && decide (t + 10000000 ≤ d.now) then
      raiseOwn m 2952 none none (d.setFld F.PWR_STATUS_UNMET 1)
    else d
  | none => d

/-! ### Thermal control (R383 to R386) -/

/-- The hottest of a range of sensors. -/
def Dev.hottest (d : Dev) (lo n : Nat) : Nat := (List.range n).foldl (fun b i => max b (tGet 0 d.temps (lo + i))) 0

/-- THERMAL of a die after a sample; was: the die was at or above THROTTLE_C before (R385). -/
def thermalDie (was : Bool) (k : Nat) (d : Dev) : Dev :=
  let t := d.hottest (36 * k) 36
  let n := d.fld F.CLK_LIMITS_THERMAL k
  let last := tGet 0 d.thermAt k
  let set := fun (v : Nat) => { d.setFld F.CLK_LIMITS_THERMAL v k with thermAt := tPut k d.now d.thermAt }
  if d.fld F.THM_CTL_THROTTLE_C ≤ t then
    if !was then set (d.fld F.CLK_STATUS_CURRENT k - 4)
    else if last + 100000 ≤ d.now then set (n - 1) else d
  else if t < d.fld F.THM_CTL_RELEASE_C then
    if last + 1000000 ≤ d.now ∧ n < 28 then set (n + 1) else d
  else d

/-- The field of THM_MAX of a die. -/
def maxOf : Nat → Fld
  | 0 => F.THM_MAX_DIE_0
  | 1 => F.THM_MAX_DIE_1
  | 2 => F.THM_MAX_DIE_2
  | _ => F.THM_MAX_DIE_3

/-- The junction temperatures of a reading are taken; a sensor without a reading keeps its last (R383). -/
def Dev.takeTemps (d : Dev) (temps : List (Option (BitVec 8))) : Dev :=
  ((temps.take 164).zipIdx).foldl (fun d x => match x.1 with
    | some v => { d with
        temps := tPut x.2 v.toNat d.temps
        hotSince := if 105 ≤ v.toNat then tPut x.2 (tGet d.now d.hotSince x.2) d.hotSince else tDel x.2 d.hotSince }
    | none => d) d

/-- At 105 °C on a compute die every die goes to set point 0 (R386). -/
def Dev.thermalLimit (d : Dev) : Dev :=
  [0, 1, 2, 3].foldl (fun d k => d.setFld F.CLK_LIMITS_THERMAL 0 k) (d.setFld F.THM_STATUS_LIMIT 1)

/-- THM_STATUS and the maxima follow the temperatures (R383, R385). -/
def Dev.showTemps (d : Dev) : Dev :=
  let hot := maskOf 4 fun k => decide (d.fld F.THM_CTL_THROTTLE_C ≤ d.hottest (36 * k) 36)
  let d := (d.setFld F.THM_STATUS_HOT hot).setFld F.THM_STATUS_OPTICS_HOT (b2n (decide (80 ≤ d.hottest 148 16)))
  let d := [0, 1, 2, 3].foldl (fun d k => d.setFld (maxOf k) (d.hottest (36 * k) 36)) d
  (d.setFld F.THM_MAX_HUB (d.hottest 144 4)).setFld F.THM_MAX_OPTICS (d.hottest 148 16)

/-- Optics at 80 °C or above raise their port's source (R385). -/
def opticsHot (m : Mem) (d : Dev) : Dev :=
  (List.range 16).foldl (fun d n => if 80 ≤ tGet 0 d.temps (148 + n) then raiseOwn m (2560 + 16 * n + 3) none none d else d) d

/-- THERMAL_SAMPLE. Every 10 µs the junction sensors are read (R383 to R386). -/
def thermalSample (m : Mem) (temps : List (Option (BitVec 8))) (d : Dev) : Dev :=
  if !d.controllerOn then d
  else
    let d := d.takeTemps temps
    let was := d.fld F.THM_STATUS_HOT
    let d := [0, 1, 2, 3].foldl (fun d k => thermalDie (bitAt was k) k d) d
    let limit := decide (105 ≤ d.hottest 0 144)
    let d := opticsHot m (if limit then d.thermalLimit else d).showTemps
    if limit || decide (105 ≤ d.hottest 144 20) then raiseOwn m 2954 none none d else d

/-- THERMAL_TRIP. A sensor has stayed at 105 °C or above for 100 ms: every main rail goes off (R386). -/
def thermalTrip (d : Dev) : Dev :=
  if d.controllerOn && d.hotSince.any fun e => decide (e.2 + 100000000 ≤ d.now) then
    (d.setFld F.THM_STATUS_TRIPPED 1).mainOff
  else d

/-- The snapshot of a sensor's temperature that a write of THM_IDX takes (R398). -/
def Dev.thermalSnapshot (d : Dev) (w : Path) (i : Nat) : Dev :=
  (d.setPfld w F.THM_DATA_TEMP (tGet 0 d.temps i)).setPfld w F.THM_DATA_VALID (b2n (tFind i d.temps).isSome)

/-! ### Pace (R387 to R391) -/

/-- A die is throttled (R387): PACE never makes it so. -/
def Dev.dieThrottled (d : Dev) (k : Nat) : Bool :=
  (((d.limits k).drop 1).take 3).any fun x => decide (x < d.fld F.CLK_CTL_MAX k)

/-- The dies that hold a core owned by a partition of a job. -/
def jobDies (m : Mem) (d : Dev) (j : Nat) : List Nat :=
  [0, 1, 2, 3].filter fun k => (jobParts m d j).any fun p => (d.ownedCores p).any fun c => decide (dieOf c = k)

/-- The device is throttled for a job. -/
def jobThrottled (m : Mem) (d : Dev) (j : Nat) : Bool := (jobDies m d j).any d.dieThrottled

/-- RATE of a job. -/
def jobRate (m : Mem) (d : Dev) (j : Nat) : Nat := (jobDies m d j).foldl (fun r k => min r (d.target k).1) 28

/-- The devices of the pace table of a job (R390). -/
def paceTable (m : Mem) (d : Dev) (j : Nat) : List Nat :=
  match jobParts m d j with
  | [] => []
  | p :: _ =>
    let a := 16381 * extentSize + 65536 * p.val
    (List.range (min (memNat m d (a + 2) 2) 16383)).map fun i => memNat m d (a + 4 + 4 * i) 4 % 2 ^ 20

/-- Sends a pace or a release notice of a job to its pace table and the active banker (R388, R389). -/
def sendPace (m : Mem) (j : Nat) (release : Bool) (d : Dev) : Dev :=
  let rate := if release then 0 else jobRate m d j
  let seq := (d.fld F.PWR_PACE_OUT_SEQ + 1) % 2 ^ 32
  let body := leBytes 64 (d.deviceId + j * 2 ^ 20 + rate * 2 ^ 36 + seq * 2 ^ 64 + jobTurn m d j * 2 ^ 96 + d.now % 2 ^ 64 * 2 ^ 192)
  let d := (paceTable m d j ++ [d.activeBanker.toNat]).foldl (fun d x => d.emitSystem x j 4 0 (if release then 2 else 1) body) d
  let d := d.setFld F.PWR_PACE_OUT_SEQ seq
  let d := if release then d else (d.setFld F.PWR_PACE_OUT_RATE rate).modJob j fun x => { x with throttled := true }
  let d := { d with pace := tPut j { active := !release, rate := rate, sentAt := d.now } d.pace }
  d.setFld F.PWR_PACE_OUT_ACTIVE (b2n (d.pace.any fun e => e.2.active))

/-- Pace notices are sent for a partition's job: there is one, and the pod has other devices (R388). -/
def paces (m : Mem) (d : Dev) (p : PartId) : Bool :=
  d.controllerOn && decide (partJob m d p ≠ 0) && decide (d.fld F.BNK_STATUS_ROLE ≠ 5)

/-- PACE_NOTICE_SEND. The device has become throttled for the job, or its RATE has changed (R388). -/
def paceNoticeSend (m : Mem) (p : PartId) (d : Dev) : Dev :=
  let j := partJob m d p
  let x := tGet {} d.pace j
  if paces m d p && jobThrottled m d j &&
      (!x.active || (decide (x.rate ≠ jobRate m d j) && decide (x.sentAt + 100000 ≤ d.now))) then sendPace m j false d
  else d

/-- PACE_NOTICE_REPEAT (R388). -/
def paceNoticeRepeat (m : Mem) (p : PartId) (d : Dev) : Dev :=
  let j := partJob m d p
  let x := tGet {} d.pace j
  if paces m d p && jobThrottled m d j && x.active && decide (x.sentAt + 1000000 ≤ d.now) then sendPace m j false d else d

/-- The device has not been throttled for a job for 1 ms (R388). -/
def calmed (d : Dev) (x : PaceOut) : Bool := match x.calmSince with | some t => decide (t + 1000000 ≤ d.now) | none => false

/-- RELEASE_NOTICE_SEND. The device has not been throttled for the job for 1 ms (R388). -/
def releaseNoticeSend (m : Mem) (p : PartId) (d : Dev) : Dev :=
  let j := partJob m d p
  let x := tGet {} d.pace j
  if paces m d p && x.active && !jobThrottled m d j && calmed d x then sendPace m j true d else d

/-- Follows, for every job with an unreleased notice, since when the device has not been throttled for it (R388). -/
def trackPace (m : Mem) (d : Dev) : Dev :=
  d.pace.foldl (fun d e =>
    let calm := if jobThrottled m d e.1 then none else some (e.2.calmSince.getD d.now)
    if e.2.active && decide (calm ≠ e.2.calmSince) then { d with pace := tPut e.1 { e.2 with calmSince := calm } d.pace } else d) d

/-- The PACE limit of every die follows the notices in force (R391). -/
def updatePace (m : Mem) (d : Dev) : Dev :=
  let ps := allParts.filter fun p => bitAt (d.fld F.PWR_PACE_EN_EN) p.val && decide (partJob m d p ≠ 0)
  [0, 1, 2, 3].foldl (fun d k =>
    let here := ps.filter fun p => (d.ownedCores p).any fun c => decide (dieOf c = k)
    let least := here.foldl (fun r p => (d.paceIn.filter fun e => e.2.inForce && decide (e.1 % 2 ^ 16 = partJob m d p)).foldl
      (fun r e => min r (e.2.rate + 1)) r) 28
    if d.fld F.CLK_LIMITS_PACE k = least then d else d.setFld F.CLK_LIMITS_PACE least k) d

/-- A notice is newer than the last of its sender (R391). -/
def newerPace (n : PaceNotice) (x : Option PaceIn) : Bool :=
  match x with
  | none => true
  | some x =>
    let a := (n.seq.toNat + 2 ^ 32 - x.seq) % 2 ^ 32
    decide (a ≠ 0) && decide (a < 2 ^ 31)

/-- PACE_NOTICE_RECEIVE (R391). -/
def paceNoticeReceive (m : Mem) (n : PaceNotice) (d : Dev) : Dev :=
  let j := n.job.toNat
  let key := n.device.toNat * 2 ^ 16 + j
  if !d.controllerOn || !d.fabricOn || !(paceTable m d j).contains n.device.toNat || !newerPace n (tFind key d.paceIn) then d
  else updatePace m { d with paceIn := tPut key ⟨n.seq.toNat, n.rate.toNat, d.now, !n.release⟩ d.paceIn }

/-- PACE_NOTICE_EXPIRY. No newer notice of a sender has come for 5 ms (R391). -/
def paceNoticeExpiry (m : Mem) (dev j : Nat) (d : Dev) : Dev :=
  let key := dev * 2 ^ 16 + j
  match tFind key d.paceIn with
  | none => d
  | some x => if x.inForce && decide (x.at_ + 5000000 ≤ d.now) then
      updatePace m { d with paceIn := tPut key { x with inForce := false } d.paceIn }
    else d

/-! ### Energy (R392 to R394) -/

/-- ENERGY_ESTIMATE. The estimates of a 10 µs interval are charged (R393). -/
def energyEstimate (l : List (BitVec 6 × Account × BitVec 64)) (d : Dev) : Dev :=
  if d.controllerOn then
    { d with charges := d.charges ++ (l.filter fun c => decide (c.1.toNat < 14)).map fun c => ⟨c.1.toNat, c.2.1, c.2.2.toNat⟩ }
  else d

/-- Adds to a pip counter, which wraps. -/
def Dev.addPips (d : Dev) (f : Fld) (n : Nat) (i : Nat := 0) : Dev := d.setFld f ((d.fld f 0 i + n) % 2 ^ 64) 0 i

/-- Charges whole pips to an account; a ring's count for its owner too (R392). -/
def Dev.charge (d : Dev) (a : Account) (n : Nat) : Dev :=
  match a with
  | .partition p => d.addPips F.PWR_PIP_PIPS n p.val
  | .transit => d.addPips F.PWR_PIP_TRANSIT_PIPS n
  | .device => d.addPips F.PWR_PIP_DEVICE_PIPS n
  | .ring r =>
    let d := { d with ringPips := tPut r.toNat ((tGet 0 d.ringPips r.toNat + n) % 2 ^ 64) d.ringPips }
    if d.rf r.toNat RF.kind = 0 then d else d.addPips F.PWR_PIP_PIPS n (d.rf r.toNat RF.owner)

/-- A rail's charges are scaled to its measured energy, rounded down; the rest goes to the device account (R394). -/
def reconcileRail (rail measured : Nat) (d : Dev) : Dev :=
  let cs := d.charges.filter fun c => decide (c.rail = rail)
  let total := (cs.map fun c => c.amount).sum
  let part := fun (c : Charge) => if total = 0 then 0 else c.amount * measured / total
  let d := cs.foldl (fun d c => d.charge c.account (part c)) d
  let d := d.charge .device (measured - (cs.map part).sum)
  { d with railPips := tPut rail (tGet 0 d.railPips rail + measured) d.railPips }

/-- ENERGY_RECONCILE. An interval of 1 ms ends: measured energies of rails 0 to 13, then the regulation loss (R394). -/
def energyReconcile (l : List (BitVec 32)) (d : Dev) : Dev :=
  if !d.controllerOn then d
  else
    let d := ((l.take 14).zipIdx).foldl (fun d x => reconcileRail x.2 x.1.toNat d) d
    let d := match l[14]? with | some n => d.charge .device n.toNat | none => d
    { d with charges := [] }

/-- Snapshots of a rail's energy and of a ring's pips (R396). -/
def Dev.railSnapshot (d : Dev) (w : Path) (i : Nat) : Dev := d.setPfld w F.PWR_RAIL_ENERGY_PIPS (tGet 0 d.railPips i)
/-- See Dev.railSnapshot. -/
def Dev.pipSnapshot (d : Dev) (w : Path) (r : Nat) : Dev := d.setPfld w F.PWR_RING_PIP_PIPS (tGet 0 d.ringPips r)

end Sys2Proof.Machine
end

