-- ==== Sys2Proof/Machine/Job.lean ====
section
/-! DEFINITION. A device's side of the turn: ready reports, commit, failure and replay notices (07_training_support R219,
R220, 14_faults_recovery R415 to R418, 16_management_banker R465), and what turn-scoped rings ask of a turn
(11_collectives_mapping R330). -/

namespace Sys2Proof.Machine

/-- Takes a banker message (R465): a copy from the management network is dropped when its tag fails or its boot count and
SEQ are not above the highest taken from its sender for the code; a copy from the fabric is recorded under the
highest boot count taken. -/
def takeMsg (code : Nat) (x : BankerMsg) (f : Dev → Dev) (d : Dev) : Dev :=
  let key := x.device.toNat * 256 + code
  let top := tGet 0 d.bank.taken key
  let note := fun (d : Dev) (n : Nat) => { d with bank := { d.bank with taken := tPut key (max top n) d.bank.taken } }
  if !d.hubOn then d
  else match x.via with
  | .fabric => f (note d (top / 2 ^ 32 * 2 ^ 32 + x.seq.toNat + 1))
  | .mgmt _ =>
    let n := x.bootCount.toNat * 2 ^ 32 + x.seq.toNat + 1
    if x.tagOk && decide (top < n) then f (note d n) else d

/-! ### Ready reports -/

/-- Shadow members of a kind, 3 turn pairs or 4 mirrors, that a job's partitions own in VALID (R216). -/
def jobShadows (m : Mem) (d : Dev) (j kind : Nat) : List Nat :=
  (d.xmap.filter fun e => let v := e.2.toNat
    decide (XF.kind.get v = kind) && decide (XF.state.get v = 3) && !d.isLive e.1 &&
      (jobParts m d j).any fun p => decide (p.val = XF.owner.get v)).map fun e => e.1

/-- The conditions for reporting ready (R219, R330); that every seat has completed its last command is the event's own
fact, and no command of the job executes. -/
def turnReady (m : Mem) (d : Dev) (j : Nat) : Bool :=
  let r := d.job j
  let own := jobShadows m d j 3
  decide (j ≠ 0) && !r.failed && !r.stopped && ((jobParts m d j).all fun p => !d.partExecutes p) &&
    own.all d.written.contains && ringsDrained m d j &&
    (d.mirrorsOff j || ((own.all fun e => !d.unsent.contains e) && r.unacked.isEmpty &&
      (jobShadows m d j 4).all d.arrived.contains))

/-- The straggler index of a partition, in µs (R344): idle time counts up to its last command. -/
def Dev.straggler (d : Dev) (p : PartId) (start : Nat) : Nat :=
  let done := tGet d.now d.stillSince p.val
  let idle := (d.ownedCores p).map fun c => tGet 0 d.idleMark c.val
  let least := match idle with | [] => 0 | x :: r => r.foldl min x
  min ((done - start - least) / 1000) (2 ^ 32 - 1)

/-- Publishes the straggler index of a partition (R345). -/
def Dev.publishStrag (d : Dev) (p : PartId) (r : JobRun) : Dev :=
  (((d.setFld F.PART_STRAG_INDEX (d.straggler p r.attemptAt) p.val).setFld F.PART_STRAG_THROTTLED (b2n r.throttled) p.val).setFld
    F.PART_STRAG_VALID 1 p.val).setFld F.PART_STRAG_TURN_TURN (d.turnOf p) p.val

/-- Partitions of a job with a castling pending for the turn that follows (R276). -/
def castlingParts (m : Mem) (d : Dev) (j : Nat) : List PartId :=
  (jobParts m d j).filter fun p => (tFind p.val d.castling).isSome && decide (d.fld F.GEN_AT_AT p.val = d.turnOf p + 1)

/-- Every one of them has its generation STAGED. -/
def castlingStaged (m : Mem) (d : Dev) (j : Nat) : Bool :=
  let ps := castlingParts m d j
  !ps.isEmpty && ps.all fun p => match d.genEntry p (tGet 0 d.castling p.val) with
    | some i => decide (d.fld F.GEN_ENTRY_STATE p.val i = 2)
    | none => false

/-- Sends the ready report of a job (R219, R276, R345). -/
def sendReady (m : Mem) (j : Nat) (d : Dev) : Dev :=
  let r := d.job j
  let ps := jobParts m d j
  let d := ps.foldl (fun d p => d.publishStrag p r) d
  let idx := ps.foldl (fun n p => max n (d.fld F.PART_STRAG_INDEX p.val)) 0
  (d.modJob j fun x => { x with readyAt := some d.now }).sendBanker (some d.activeBanker) 0x12 j (jobTurn m d j)
    (idx + b2n r.throttled * 2 ^ 32) (b2n (castlingStaged m d j)) 0

/-- READY_REPORT_SEND. The device reports ready for the turn, once (R219). -/
def readyReportSend (m : Mem) (j : Nat) (d : Dev) : Dev :=
  if d.hubOn && turnReady m d j && (d.job j).readyAt.isNone && !(jobParts m d j).isEmpty then sendReady m j d else d

/-- READY_REPEAT. The report is repeated every 1 ms until a notice for the turn arrives, whatever has happened since (R219). -/
def readyRepeat (m : Mem) (j : Nat) (d : Dev) : Dev :=
  match (d.job j).readyAt with
  | some t => if d.hubOn && decide (t + 1000000 ≤ d.now) then sendReady m j d else d
  | none => d

/-! ### Notices -/

/-- A partition's turn number becomes n + 1 by the banker's notice, with its boundary (R216, R220, R255, R262, R274, R276);
no number follows the last (R197). -/
def commitPart (m : Mem) (n castle : Nat) (d : Dev) (p : PartId) : Dev :=
  let a := F.PART_TURN_TURN.addr p.val 0
  if d.turnOf p ≠ n ∨ n + 1 = 2 ^ 48 then d.count F.PART_TURN_IGNORED 1 p.val
  else
    let old := d.readWord .banker a
    let e := d.setFld F.PART_TURN_TURN (n + 1) p.val
    let d := journalWrite m .banker a (e.word a).toNat old (e.readWord .banker a) e
    let d := (d.ctxs.filter fun e => decide (e.2.part = p)).foldl (fun d e =>
      d.modCtx e.1 fun x => { x with hart := { x.hart with kturn := BitVec.ofNat 48 (n + 1) } }) d
    let d := if castle = 1 ∧ d.fld F.GEN_AT_AT p.val = n + 1 then castleAtBoundary p d else d
    let d := (beginTurn m p (holdAtBoundary p d)).drainGens p
    let cs := d.ownedCores p
    { d with
      idleSpan := d.idleSpan.filter fun e => !cs.any fun c => decide (c.val = e.1)
      idleMark := d.idleMark.filter fun e => !cs.any fun c => decide (c.val = e.1)
      stillSince := tDel p.val d.stillSince }

/-- A pod of one that a live banker has admitted joins its pod at the turn boundary (R28). -/
def Dev.joinPod (d : Dev) : Dev :=
  match d.bank.joins with
  | none => d
  | some dev =>
    let d := { d with bank := { d.bank with joins := none, jobs := [], heardAt := d.now } }
    ((d.setFld F.BNK_STATUS_ROLE 2).setFld F.BNK_STATUS_ACTIVE dev).setFld F.FAB_TIME_SYNC_ROOT 0

/-- COMMIT. A commit notice for turn n (R220). -/
def commitApply (m : Mem) (j n castle : Nat) (d : Dev) : Dev :=
  let ps := jobParts m d j
  let now := (ps.any fun p => decide (d.turnOf p = n)) && decide (n + 1 ≠ 2 ^ 48)
  let d := ps.foldl (commitPart m n castle) d
  if now then
    settleAll m (({ d with jobs := tSet {} j { attemptAt := d.now } d.jobs }).joinPod)
  else d

/-- Unissued commands of a context are discarded (R417). -/
def Ctx.discard (x : Ctx) : Ctx :=
  { x with mq := { x.mq with cmds := [] }, vq := { x.vq with cmds := [] }, sq := { x.sq with cmds := [] }, schedule := [] }

/-- FAILURE_NOTICE. A failure notice for the turn in progress (R417). -/
def failureApply (m : Mem) (j n : Nat) (d : Dev) : Dev :=
  let ps := (jobParts m d j).filter fun p => decide (d.turnOf p = n)
  if ps.isEmpty then d
  else
    let d := (d.ctxs.filter fun e => ps.contains e.2.part).foldl (fun d e => d.modCtx e.1 Ctx.discard) d
    let d := { d with failHold := (d.failHold ++ ps).dedup }
    let d := resetTurnRings m j d
    let d := ps.foldl (fun d p => Dev.dropTurn p (d.postEvent p 4 0 n)) d
    d.modJob j fun x => { x with failed := true, stopped := true, quiesced := false, readyAt := none, unacked := [] }

/-- The stopped commands of a job have ended, and so have dumps, resets and the clearing of its cores (R406, R417). -/
def Dev.quiet (d : Dev) (m : Mem) (j : Nat) : Bool :=
  d.power.running.isEmpty && (jobParts m d j).all fun p => !d.partExecutes p &&
    (d.ownedCores p).all fun c => (d.core c).clearing.isNone && (d.core c).plan.isNone

/-- QUIESCE_REPORT_SEND (R417). -/
def quiesceReportSend (m : Mem) (j : Nat) (d : Dev) : Dev :=
  let r := d.job j
  if d.hubOn && r.stopped && !r.quiesced && d.quiet m j then
    (d.modJob j fun x => { x with quiesced := true }).sendBanker (some d.activeBanker) 0x16 j (jobTurn m d j) 0 0 0
  else d

/-- REPLAY. A replay notice for the turn in progress (R330, R418). -/
def replayApply (m : Mem) (j n : Nat) (d : Dev) : Dev :=
  let ps := (jobParts m d j).filter fun p => decide (d.turnOf p = n)
  if ps.isEmpty || !(d.job j).stopped then d
  else
    let d := ps.foldl (fun d p => beginTurn m p (restartPart m p n d)) ((resetTurnRings m j d).clearFlows j)
    let cs := ps.flatMap d.ownedCores
    let d := { d with
      failHold := d.failHold.filter fun p => !ps.contains p
      idleSpan := d.idleSpan.filter fun e => !cs.any fun c => decide (c.val = e.1)
      idleMark := d.idleMark.filter fun e => !cs.any fun c => decide (c.val = e.1)
      stillSince := d.stillSince.filter fun e => !ps.any fun p => decide (p.val = e.1)
      jobs := tSet {} j { attemptAt := d.now } d.jobs }
    settleAll m (d.count F.FLT_COUNTS_REPLAYS 1)

/-- JOB_END. Every partition of the job is HELD (R465). -/
def jobEndApply (m : Mem) (j : Nat) (d : Dev) : Dev :=
  let ps := jobParts m d j
  let d := ps.foldl (fun d p => Dev.dropTurn p ((d.setFld F.PART_STATUS_STATE 3 p.val).postEvent p 4 0 (d.turnOf p))) d
  { d with plainHold := (d.plainHold ++ ps).dedup, jobs := tSet {} j { attemptAt := d.now } d.jobs }

/-- TURN_SCOPED_TIMEOUT. The job's rings are not drained 10 ms after its last command has completed, and the turn fails
(R330). -/
def turnScopedTimeout (m : Mem) (j : Nat) (d : Dev) : Dev :=
  let ps := jobParts m d j
  let late := !ps.isEmpty && ps.all fun p => match tFind p.val d.stillSince with
    | some t => decide (t + 10000000 ≤ d.now)
    | none => false
  if j ≠ 0 ∧ d.hubOn ∧ late ∧ !(d.job j).failed ∧ !ringsDrained m d j then failJob m j 8 d else d

end Sys2Proof.Machine
end

