-- ==== Sys2Proof/Machine/Bank.lean ====
section
/-! DEFINITION. The banker role: election, heartbeats, decisions and duties (16_management_banker R465 to R469,
07_training_support R220, R221, 14_faults_recovery R415, R416, R421, R425). -/

namespace Sys2Proof.Machine

/-- The device's role (R473): 0 none, 1 electing, 2 member, 3 standby, 4 active, 5 pod of one. -/
def Dev.role (d : Dev) : Nat := d.fld F.BNK_STATUS_ROLE
/-- The device acts as active banker. -/
def Dev.banks (d : Dev) : Bool := decide (d.role = 4) || decide (d.role = 5)
/-- Index of a device within its pod (R300). -/
def podIndex (dev : Nat) : Nat := dev % 4096
/-- A device of this device's pod (R466). -/
def Dev.samePod (d : Dev) (dev : Nat) : Bool := decide (dev / 4096 = d.deviceId / 4096)
/-- A member's record, by device index. -/
def Dev.member (d : Dev) (i : Nat) : Member := tGet {} d.bank.members i
/-- Changes a member's record. -/
def Dev.modMember (d : Dev) (i : Nat) (f : Member → Member) : Dev :=
  { d with bank := { d.bank with members := tMod {} i f d.bank.members } }
/-- The banker's record of a job. -/
def Dev.bankJob (d : Dev) (j : Nat) : BankJob := tGet {} d.bank.jobs j
/-- Sets it. -/
def Dev.setBankJob (d : Dev) (j : Nat) (x : BankJob) : Dev :=
  { d with bank := { d.bank with jobs := tPut j x d.bank.jobs } }
/-- Sends a notice to every device of a job. -/
def Dev.sendJob (d : Dev) (code j turn f0 : Nat) : Dev :=
  (d.jobDevices j).foldl (fun d x => d.sendBanker (some (BitVec.ofNat 20 x)) code j turn f0 0 0) d

/-- Takes a role; the time root follows the active role (R314, R467). -/
def Dev.setRole (d : Dev) (r : Nat) : Dev :=
  let root := decide (r = 4 ∨ r = 5)
  let d := (d.setFld F.BNK_STATUS_ROLE r).setFld F.FAB_TIME_SYNC_ROOT (b2n root)
  if root then
    let held := d.flag F.HOST_PTP_HOLDOVER
    ((d.setFld F.FAB_TIME_SYNC_HOPS (if held then 255 else 0)).setFld F.FAB_TIME_SYNC_HOLDOVER (b2n held)).setFld
      F.TIME_STATUS_SOURCE (if held then 0 else 2)
  else d.chooseTime

/-- Follows an active banker. -/
def Dev.follow (d : Dev) (dev epoch : Nat) : Dev :=
  let d := { d with bank := { d.bank with heardAt := d.now, lostAt := none, jobs := [] } }
  ((d.setRole 2).setFld F.BNK_STATUS_ACTIVE dev).setFld F.BNK_EPOCH_EPOCH epoch

/-- Becomes active at an epoch and announces it (R466, R467). -/
def Dev.becomeActive (d : Dev) (epoch : Nat) : Dev :=
  let d := ((d.setRole 4).setFld F.BNK_STATUS_ACTIVE d.deviceId).setFld F.BNK_EPOCH_EPOCH epoch
  d.sendBanker none 0x10 0 0 4 (d.fld F.BNK_CTL_PRIORITY) 0

/-- Names a standby, or none. -/
def Dev.setStandby (d : Dev) (dev : Option Nat) : Dev :=
  (d.setFld F.BNK_STATUS_STANDBY (dev.getD 0)).setFld F.BNK_STATUS_STANDBY_VALID (b2n dev.isSome)

/-- Rank of candidates (R466): PRIORITY, highest first, then device ID, lowest first. -/
def outranks (a b : Nat × Nat) : Bool := decide (b.1 < a.1) || (decide (a.1 = b.1) && decide (a.2 < b.2))

/-- The highest-ranked of candidates, as pairs of PRIORITY and device. -/
def bestOf (l : List (Nat × Nat)) : Option (Nat × Nat) :=
  l.foldl (fun b x => match b with
    | none => some x
    | some y => if outranks x y then some x else some y) none

/-- Candidates that the device has heard, by its pod's numbers. -/
def Dev.heardCandidates (d : Dev) (f : Member → Bool) : List (Nat × Nat) :=
  d.bank.members.filterMap fun e => if f e.2 then e.2.priority.map fun p => (p, d.deviceId / 4096 * 4096 + e.1) else none

/-! ### Decisions -/

/-- Ends a job: MAX_ATTEMPTS failure notices, a pod of one whose failure fencing does not cure, or the last turn number
(R28, R216, R469). -/
def Dev.endJob (d : Dev) (j : Nat) : Dev :=
  let d := d.sendJob 0x1B j (d.bankJob j).turn 0
  { d with bank := { d.bank with jobs := tDel j d.bank.jobs } }

/-- The median of numbers; of an even count, the lower of the two in the middle (log 39). -/
def medianOf (l : List Nat) : Nat :=
  let k := (l.length - 1) / 2
  (l.find? fun x => decide ((l.filter fun y => decide (y < x)).length ≤ k) && decide (k < (l.filter fun y => decide (y ≤ x)).length)).getD 0

/-- How many committed turns in a row each device of a job has been a straggler, with the reports of the turn that commits: its
index over the median exceeds the threshold, and it is not throttled (R345). -/
def Dev.slowOf (d : Dev) (b : BankJob) : Table Nat :=
  let mid := medianOf (b.ready.map fun e => e.2.1 % 2 ^ 32)
  b.ready.filterMap fun e =>
    if e.2.1 / 2 ^ 32 % 2 = 0 ∧ d.fld F.BNK_STRAG_THRESHOLD * mid < 256 * (e.2.1 % 2 ^ 32) then some (e.1, tGet 0 b.slow e.1 + 1)
    else none

/-- With AUTO_SPARE set, a device that has been a straggler in three committed turns in a row is to move to a live spare
(R345, R469): PARTITION_MOVE carries the move out. -/
def Dev.noteStragglers (d : Dev) (j : Nat) (slow : Table Nat) : Dev :=
  match decide (d.flag F.BNK_CTL_AUTO_SPARE), d.bank.members.find? fun e => e.2.spare && decide (e.2.state = 1) with
  | true, some s =>
    slow.foldl (fun d e => if e.2 < 3 then d
      else { d with bank := { d.bank with moves := tPut (j * 2 ^ 20 + e.1) (d.deviceId / 4096 * 4096 + s.1) d.bank.moves } }) d
  | _, _ => d

/-- Sends the notices of a decision (R220, R416). -/
def Dev.sendDecision (d : Dev) (j : Nat) (x : Decision) : Dev :=
  let b := d.bankJob j
  if x.commit then
    let slow := d.slowOf b
    let d := (d.sendJob 0x13 j x.turn x.castle).noteStragglers j slow
    d.setBankJob j { turn := x.turn + 1, since := d.now, slow := slow, failNext := b.failNext
                     decision := some { x with awaits := none } }
  else
    let d := d.sendJob 0x15 j x.turn 0
    let d := d.setBankJob j { b with turn := x.turn, ready := [], firstAt := none, failedAt := some d.now, quiesced := []
                                     attempts := b.attempts + 1, decision := some { x with awaits := none } }
    if d.fld F.BNK_JOBS_MAX_ATTEMPTS ≤ b.attempts + 1 then d.endJob j else d

/-- Makes a decision: with a standby it is first recorded there (R220). -/
def Dev.decide_ (d : Dev) (j : Nat) (x : Decision) : Dev :=
  if d.role = 4 ∧ d.flag F.BNK_STATUS_STANDBY_VALID then
    let n := tGet 0 d.bankSeq 0x19
    let d := d.sendBanker (some (BitVec.ofNat 20 (d.fld F.BNK_STATUS_STANDBY))) 0x19 j x.turn (if x.commit then 1 else 2) x.castle 0
    d.setBankJob j { d.bankJob j with decision := some { x with awaits := some n } }
  else d.sendDecision j x

/-- A decision waits for the standby. -/
def BankJob.waits (b : BankJob) : Bool := match b.decision with | some x => x.awaits.isSome | none => false

/-- Declares the turn of a job failed, unless a failure of it runs; while the commit of the turn is being recorded, the
turn after it fails (R415, R416, R420). In a pod of one a failure that fencing does not cure ends the job (R28). -/
def Dev.declareFailure (d : Dev) (j : Nat) (cured : Bool := false) : Dev :=
  let b := d.bankJob j
  if d.podOfOne ∧ !cured then d.endJob j
  else if b.failedAt.isSome then d
  else match b.decision with
    | some x =>
      if x.awaits.isNone then d.decide_ j ⟨b.turn, false, 0, none⟩
      else if x.commit then d.setBankJob j { b with failNext := true } else d
    | none => d.decide_ j ⟨b.turn, false, 0, none⟩

/-- A recorded decision is released (R220); a failure of the turn after it follows (R415). -/
def Dev.releaseDecision (d : Dev) (j : Nat) (x : Decision) : Dev :=
  let d := d.sendDecision j x
  let b := d.bankJob j
  if b.failNext then (d.setBankJob j { b with failNext := false }).declareFailure j else d

/-- READY. A ready report arrives (R219, R220, R469). The last turn number commits no turn: the job ends (R197). -/
def bankReady (x : BankerMsg) (d : Dev) : Dev :=
  let j := x.job.toNat
  let n := x.turn.toNat
  if !d.banks then d
  else
    let b := d.bankJob j
    match b.decision.bind fun e => if e.turn = n then some e else none with
    | some e =>
      if e.awaits.isSome then d
      else if e.commit then d.sendBanker (some x.device) 0x13 j n e.castle 0 0
      else if b.failedAt.isSome then d.sendBanker (some x.device) 0x15 j n 0 0 0
      else take j n b d
    | none => take j n b d
where
  take (j n : Nat) (b : BankJob) (d : Dev) : Dev :=
    if n < b.turn then d
    else
      let b := if b.turn < n then { b with turn := n, ready := [], firstAt := none, since := d.now, attempts := 0 } else b
      let b := { b with ready := tPut x.device.toNat (x.f0.toNat, x.f1.toNat) b.ready, firstAt := some (b.firstAt.getD d.now) }
      let d := d.setBankJob j b
      if (d.jobDevices j).all fun v => (tFind v b.ready).isSome then
        if n + 1 = 2 ^ 48 then d.endJob j else d.decide_ j ⟨n, true, b2n (b.ready.all fun e => decide (e.2.2 = 1)), none⟩
      else d

/-- READY_LIMIT_EXPIRY (R220). -/
def readyLimitExpiry (j : Nat) (d : Dev) : Dev :=
  let b := d.bankJob j
  match b.firstAt with
  | some t =>
    if d.hubOn && d.banks && !b.waits && decide (t + 1000000 * d.fld F.BNK_READY_LIMIT_MS ≤ d.now) then d.declareFailure j else d
  | none => d

/-- TURN_LIMIT_EXPIRY (R220, R473). -/
def turnLimitExpiry (j : Nat) (d : Dev) : Dev :=
  let b := d.bankJob j
  if d.hubOn && d.banks && (tFind j d.bank.jobs).isSome && !b.waits && b.failedAt.isNone &&
      decide (b.since + 1000000 * max 1 (d.fld F.BNK_TURN_LIMIT_MS) ≤ d.now) then d.declareFailure j
  else d

/-- A device is failed (R421). -/
def Dev.failMember (d : Dev) (dev : Nat) : Dev := d.modMember (podIndex dev) fun x => { x with state := 2 }

/-- Fencing has cured what failed (R28, R422): the report names a fenced core, and every partition of the job has a core. -/
def fencingCured (m : Mem) (x : BankerMsg) (d : Dev) : Bool :=
  decide (x.f0.toNat = 3) && (jobParts m d x.job.toNat).all fun p =>
    !(d.ownedCores p).isEmpty || allCores.any fun c => decide ((d.core c).plan = some (.add p))

/-- FAILURE_REPORT (R28, R415, R416, R421). -/
def failureReport (m : Mem) (x : BankerMsg) (d : Dev) : Dev :=
  let j := x.job.toNat
  let n := x.turn.toNat
  if !d.banks then d
  else
    let wide := decide (5 ≤ x.f0.toNat) && decide (x.f0.toNat ≤ 7)
    let d := if wide then d.failMember x.device.toNat else d
    let b := d.bankJob j
    let b := if b.turn < n then { b with turn := n, ready := [], firstAt := none, since := d.now, attempts := 0 } else b
    let d := d.setBankJob j b
    let cured := fencingCured m x d
    match b.decision with
    | some e =>
      if e.commit && decide (e.turn = n) && e.awaits.isNone then (d.sendJob 0x13 j n e.castle).declareFailure j cured
      else d.declareFailure j cured
    | none => d.declareFailure j cured

/-- The replay notice goes out once every device has reported quiesced (R416). -/
def Dev.checkQuiet (d : Dev) (j : Nat) : Dev :=
  let b := d.bankJob j
  if b.failedAt.isSome && (d.jobDevices j).all b.quiesced.contains then
    (d.setBankJob j { b with failedAt := none, quiesced := [], ready := [], firstAt := none, since := d.now }).sendJob 0x17 j b.turn 0
  else d

/-- QUIESCED (R416). -/
def bankQuiesced (x : BankerMsg) (d : Dev) : Dev :=
  let j := x.job.toNat
  let b := d.bankJob j
  if d.banks && b.failedAt.isSome && decide (b.turn = x.turn.toNat) then
    (d.setBankJob j { b with quiesced := b.quiesced ++ [x.device.toNat] }).checkQuiet j
  else d

/-- QUIESCE_TIMEOUT (R416, R421). -/
def quiesceTimeout (j : Nat) (d : Dev) : Dev :=
  let b := d.bankJob j
  match b.failedAt with
  | some t =>
    if d.hubOn && d.banks && decide (t + 1000000000 ≤ d.now) then
      ((d.jobDevices j).filter fun v => !b.quiesced.contains v).foldl Dev.failMember d
    else d
  | none => d

/-- The active banker may put a spare in the place of a failed device of a job: it knows the one as live and as a spare, and
the other as failed (R421, R425, R469). -/
def Dev.substitutes (d : Dev) (j failed spare : Nat) : Bool :=
  let s := d.member (podIndex spare)
  decide (d.role = 4) && (d.jobDevices j).contains failed && decide ((d.member (podIndex failed)).state = 2) &&
    s.spare && decide (s.state = 1) && (tFind j d.bank.jobs).isSome

/-- SPARE_SUBSTITUTION. A live spare takes a failed device's place (R221, R425, R469): the active banker fails the turn and
counts the spare as quiesced; every device that the failed one had to do with sends the spare what it is to hold. -/
def spareSubstitution (m : Mem) (j failed spare : Nat) (d : Dev) : Dev :=
  if !d.hubOn then d
  else if d.role = 4 then
    if !d.substitutes j failed spare then d
    else
      let ended := d.declareFailure j
      if (tFind j ended.bank.jobs).isNone then ended
      else
        let b := ended.bankJob j
        let d := restoreTo m j failed spare (ended.setBankJob j { b with quiesced := b.quiesced ++ [spare] })
        (d.modMember (podIndex spare) fun x => { x with state := 3 }).checkQuiet j
  else if (d.jobDevices j).contains failed then restoreTo m j failed spare d
  else d

/-- PARTNER. A report about a DOWN port is recorded (R312). -/
def bankPartner (x : BankerMsg) (d : Dev) : Dev :=
  if d.banks then { d with bank := { d.bank with reports := tPut (x.device.toNat * 16 + x.f0.toNat % 16) x.f1.toNat d.bank.reports } }
  else d

/-! ### The standby -/

/-- DECISION. The standby records a decision and acknowledges it (R220); a member that its active banker sends one is
its standby. -/
def bankDecision (x : BankerMsg) (d : Dev) : Dev :=
  let ok := (decide (d.role = 3) || decide (d.role = 2)) && decide (d.fld F.BNK_STATUS_ACTIVE = x.device.toNat)
  let d := if ok then
      let e : Decision := ⟨x.turn.toNat, decide (x.f0 = 1), x.f1.toNat, none⟩
      let d := ((d.setRole 3).setStandby (some d.deviceId))
      { d with bank := { d.bank with heardAt := d.now, decisions := tPut x.job.toNat e d.bank.decisions } }
    else d
  d.sendBanker (some x.device) 0x1A x.job.toNat x.turn.toNat x.seq.toNat (b2n !ok) 0

/-- The standby finds the active banker failed (R467). -/
def Dev.takeOver (d : Dev) : Dev :=
  let old := d.fld F.BNK_STATUS_ACTIVE
  let d := (d.becomeActive (d.fld F.BNK_EPOCH_EPOCH + 1)).failMember old
  let ds := d.bank.decisions
  let d := { d with bank := { d.bank with decisions := [], jobs := [] } }
  let d := ds.foldl (fun d e => (d.setBankJob e.1 { turn := e.2.turn, since := d.now }).sendDecision e.1 e.2) d
  d.setStandby ((bestOf (d.heardCandidates fun x => decide (x.state = 1))).map fun x => x.2)

/-! ### Election and heartbeats -/

/-- ANNOUNCE (R466 to R468). -/
def bankAnnounce (x : BankerMsg) (d : Dev) : Dev :=
  let dev := x.device.toNat
  let e := x.epoch.toNat
  if !d.samePod dev then d
  else
    let d := { d with bank := { d.bank with epochHeard := max d.bank.epochHeard e } }
    match x.f0.toNat with
    | 1 => d.modMember (podIndex dev) fun y => { y with priority := some x.f1.toNat }
    | 3 => if decide (d.role = 2) && decide (e = d.fld F.BNK_EPOCH_EPOCH) then d.setStandby (some dev) else d
    | 4 =>
      let mine := d.fld F.BNK_EPOCH_EPOCH
      if d.role = 1 ∨ d.role = 5 then d.sendBanker (some x.device) 0x11 0 0 d.role 0 0
      else if d.role = 4 then
        if mine < e ∨ (mine = e ∧ outranks (x.f1.toNat, dev) (d.fld F.BNK_CTL_PRIORITY, d.deviceId)) then d.follow dev e else d
      else if mine < e then d.follow dev e
      else if d.fld F.BNK_STATUS_ACTIVE = dev then { d with bank := { d.bank with heardAt := d.now } }
      else d
    | _ => d

/-- HEARTBEAT (R466, R467). -/
def bankHeartbeat (x : BankerMsg) (d : Dev) : Dev :=
  let dev := x.device.toNat
  if !d.samePod dev then d
  else if d.role = 4 then
    let admitted := (d.member (podIndex dev)).admitted
    let d := if admitted then d.modMember (podIndex dev) fun y => { y with
        heardAt := d.now, state := if y.state = 0 ∨ (y.state = 2 ∧ x.f0 = 1) then 1 else y.state } else d
    d.sendBanker (some x.device) 0x1A 0 0 x.seq.toNat (b2n !admitted) 0
  else if d.fld F.BNK_STATUS_ACTIVE = dev then { d with bank := { d.bank with heardAt := d.now, lostAt := none } }
  else d

/-- ACK (R220, R466). -/
def bankAck (x : BankerMsg) (d : Dev) : Dev :=
  let dev := x.device.toNat
  let ok := decide (x.f1 = 0)
  match d.role with
  | 1 => if ok then d.follow dev (max x.epoch.toNat (d.fld F.BNK_EPOCH_EPOCH)) else d
  | 4 =>
    if ok && d.flag F.BNK_STATUS_STANDBY_VALID && decide (d.fld F.BNK_STATUS_STANDBY = dev) then
      match d.bank.jobs.find? fun e => decide (e.2.decision.bind (fun y => y.awaits) = some x.f0.toNat) with
      | some e => match e.2.decision with | some y => d.releaseDecision e.1 y | none => d
      | none => d
    else d
  | 5 =>
    if !ok then d
    else
      let d := { d with bank := { d.bank with joins := some dev } }
      if d.liveParts.isEmpty then ({ d.joinPod with bank := { d.bank with joins := none } }).follow dev x.epoch.toNat else d
  | _ => if decide (d.fld F.BNK_STATUS_ACTIVE = dev) then { d with bank := { d.bank with heardAt := d.now, lostAt := none } } else d

/-- CANDIDATE_ANNOUNCE (R466). -/
def candidateAnnounce (d : Dev) : Dev :=
  if d.hubOn && decide (d.role = 1) && d.flag F.BNK_CTL_ELIGIBLE && decide (d.bank.saidAt + 100000000 ≤ d.now) then
    ({ d with bank := { d.bank with saidAt := d.now } }).sendBanker none 0x10 0 0 1 (d.fld F.BNK_CTL_PRIORITY) 0
  else d

/-- Enters election (R466). -/
def Dev.startElection (d : Dev) : Dev :=
  let d := { d with bank := { d.bank with
    electAt := d.now, lostAt := none, members := d.bank.members.map fun (e : Nat × Member) => (e.1, { e.2 with priority := none }) } }
  (d.setRole 1).setStandby none

/-- The end of an election without admission (R466). -/
def Dev.rankSelf (d : Dev) : Dev :=
  let me := (d.fld F.BNK_CTL_PRIORITY, d.deviceId)
  let own := d.flag F.BNK_CTL_ELIGIBLE
  let l := d.heardCandidates (fun _ => true) ++ (if own then [me] else [])
  match bestOf l with
  | none => if d.fld F.FAB_STATUS_PORTS_UP = 0 ∧ allPorts.all (fun n => !d.portUp n.val) then
      (d.setRole 5).setFld F.BNK_STATUS_ACTIVE d.deviceId else d.startElection
  | some a =>
    let second := bestOf (l.filter fun x => decide (x ≠ a))
    if own && decide (a = me) then (d.becomeActive (d.bank.epochHeard + 1)).setStandby (second.map fun x => x.2)
    else if own && decide (second = some me) then
      let d := ((d.follow a.2 (d.bank.epochHeard + 1)).setRole 3).setStandby (some d.deviceId)
      d.sendBanker none 0x10 0 0 3 me.1 0
    else d.startElection

/-- ELECTION_TIMEOUT. ELECT_MS has passed in election, or without an active banker (R466, R467). -/
def electionTimeout (d : Dev) : Dev :=
  let span := 1000000 * d.fld F.BNK_TIMING_ELECT_MS
  if !d.hubOn then d
  else if d.role = 1 then (if d.bank.electAt + span ≤ d.now then d.rankSelf else d)
  else match d.bank.lostAt with
    | some t => if t + span ≤ d.now then d.startElection else d
    | none => d

/-- HEARTBEAT_SEND (R467). -/
def heartbeatSend (d : Dev) : Dev :=
  let due := decide (d.bank.beatAt + 1000000 * d.fld F.BNK_TIMING_HB_MS ≤ d.now)
  let r := d.role
  let dst := if r = 2 ∨ r = 3 then some (d.fld F.BNK_STATUS_ACTIVE)
    else if r = 4 ∧ d.flag F.BNK_STATUS_STANDBY_VALID then some (d.fld F.BNK_STATUS_STANDBY) else none
  match d.hubOn && due, dst with
  | true, some x => ({ d with bank := { d.bank with beatAt := d.now } }).sendBanker (some (BitVec.ofNat 20 x)) 0x11 0 0 r 0 0
  | _, _ => d

/-- HEARTBEAT_MISS. No heartbeat of a device has arrived for MISS periods (R421, R467). -/
def heartbeatMiss (dev : Nat) (d : Dev) : Dev :=
  let span := 1000000 * d.fld F.BNK_TIMING_HB_MS * d.fld F.BNK_TIMING_MISS
  if !d.hubOn then d
  else match d.role with
  | 4 =>
    let x := d.member (podIndex dev)
    if !d.samePod dev || (decide (x.state ≠ 1) && decide (x.state ≠ 3)) || decide (d.now < x.heardAt + span) then d
    else
      let d := d.failMember dev
      if d.flag F.BNK_STATUS_STANDBY_VALID ∧ d.fld F.BNK_STATUS_STANDBY = dev then
        let d := d.setStandby none
        d.bank.jobs.foldl (fun (d : Dev) (e : Nat × BankJob) => match e.2.decision with
          | some y => if y.awaits.isSome then d.releaseDecision e.1 y else d
          | none => d) d
      else d
  | 3 => if d.fld F.BNK_STATUS_ACTIVE = dev ∧ d.bank.heardAt + span ≤ d.now then d.takeOver else d
  | 2 => if d.fld F.BNK_STATUS_ACTIVE = dev ∧ d.bank.heardAt + span ≤ d.now ∧ d.bank.lostAt = none then
      { d with bank := { d.bank with lostAt := some d.now } } else d
  | _ => d

/-- A snapshot of a member entry (R473). -/
def Dev.memberSnapshot (d : Dev) (w : Path) (i : Nat) : Dev :=
  let x := d.member (i % 4096)
  ((d.setPfld w F.BNK_MEMBER_ADMIT (b2n x.admitted)).setPfld w F.BNK_MEMBER_SPARE (b2n x.spare)).setPfld w F.BNK_MEMBER_STATE x.state

/-- A write of BNK_MEMBER (R473). -/
def Dev.memberWrite (d : Dev) (w : Path) (v : Nat) : Dev :=
  let i := d.pfld w F.BNK_MEMBER_IDX_INDEX
  (d.modMember i fun x => { x with admitted := bitAt v 0, spare := bitAt v 1 }).memberSnapshot w i

end Sys2Proof.Machine
end

