-- ==== Sys2Proof/Machine/Hostport.lean ====
section
/-! DEFINITION. The host port beside RoCE and requests: link and cage, neighbour requests, IEEE 1588, the peer table
(12_host_port R350, R367, R370, 18_physical_startup R493), and what times out in sessions (R356, R361, R363). -/

namespace Sys2Proof.Machine

/-- The hub's side of the host port is up: the main rails are on and no DEVICE reset runs (R368, R442). -/
def Dev.portOn (d : Dev) : Bool := decide (d.power.phase ≠ .asleep) && decide (d.resetDomain 0x28 0 = 0)

/-- An address is the port's own, for the protocol of a request; the port has no address where the register is 0 (R350,
R371). -/
def Dev.ownAddress (d : Dev) (k : NeighbourKind) (a : Nat) : Bool :=
  let v4 := d.fld F.HOST_IP4_ADDR
  let v6 := d.fld F.HOST_IP6_LO_ADDR + 2 ^ 64 * d.fld F.HOST_IP6_HI_ADDR
  match k with
  | .arp | .icmpEcho => decide (v4 ≠ 0) && decide (a = 0xFFFF * 2 ^ 32 + v4)
  | .neighbourDiscovery | .icmpv6Echo => decide (v6 ≠ 0) && decide (a = v6)

/-- NEIGHBOUR_REQUEST. Answered for an address that the port has (R350, R371). -/
def neighbourRequest (q : NeighbourFrame) (d : Dev) : Dev :=
  if d.portOn && d.flag F.HOST_STATUS_LINK && d.frameTaken .host q.source && d.ownAddress q.kind q.asked.toNat then
    ((d.countFrame false 0).countFrame true 0).send (.neighbour q.kind q.source (d.frameTag .host))
  else d

/-- The time root takes its time from the host port, or is in holdover (R314, R315, R367). -/
def Dev.rootTime (d : Dev) (held : Bool) : Dev :=
  if d.flag F.FAB_TIME_SYNC_ROOT then
    ((d.setFld F.FAB_TIME_SYNC_HOPS (if held then 255 else 0)).setFld F.FAB_TIME_SYNC_HOLDOVER (b2n held)).setFld
      F.TIME_STATUS_SOURCE (if held then 0 else 2)
  else d

/-- PTP_MESSAGE (R367). -/
def ptpMessage (x : PtpMessage) (d : Dev) : Dev :=
  if !d.portOn || !d.flag F.HOST_STATUS_LINK || !x.sync || decide (x.domain.toNat ≠ d.fld F.HOST_PTP_DOMAIN) then d
  else
    let d := ((d.setFld F.HOST_PTP_HOLDOVER 0).setFld F.HOST_PTP_OFFSET (offset32 x.offset)).rootTime false
    let d := if d.flag F.FAB_TIME_SYNC_ROOT then d.correctTime (-x.offset) else d
    { d.countFrame false 0 with ptpAt := d.now }

/-- PTP_HOLDOVER (R367). -/
def ptpHoldover (d : Dev) : Dev :=
  if d.portOn && !d.flag F.HOST_PTP_HOLDOVER && decide (d.ptpAt + 10000000000 ≤ d.now) then
    (d.setFld F.HOST_PTP_HOLDOVER 1).rootTime true
  else d

/-- A write of HOST_CTL retrains the port (R350, R493). -/
def hostCtl (v : Nat) (d : Dev) : Dev :=
  let d := ((d.setFld F.HOST_CTL_EN (bits v 0 1)).setFld F.HOST_CTL_SPEED (bits v 1 1)).setFld F.HOST_STATUS_LINK 0
  d.setPower { d.power with hmodResetN := bitAt v 0 }

/-- HOST_LINK_UP. Training completes with a module in the cage (R350, R493). -/
def hostLinkUp (d : Dev) : Dev :=
  if d.portOn && d.flag F.HOST_CTL_EN && d.power.cagePresent then
    (d.setFld F.HOST_STATUS_LINK 1).setFld F.HOST_STATUS_SPEED (d.fld F.HOST_CTL_SPEED)
  else d

/-- HOST_LINK_DOWN (R371). -/
def hostLinkDown (d : Dev) : Dev := if d.portOn then d.setFld F.HOST_STATUS_LINK 0 else d

/-- CAGE_INSERT (R493): training may begin. -/
def cageInsert (d : Dev) : Dev := d.setPower { d.power with cagePresent := true }

/-- CAGE_REMOVE (R493): the link goes down. -/
def cageRemove (d : Dev) : Dev := hostLinkDown (d.setPower { d.power with cagePresent := false })

/-- A snapshot of a peer table entry (R370). -/
def Dev.peerSnapshot (d : Dev) (w : Path) (i : Nat) : Dev :=
  let x := tGet {} d.peers (i % 4096)
  ((d.setPword w (F.HOST_PEER_LO_ADDR.addr 0 0) x.lo).setPword w (F.HOST_PEER_HI_ADDR.addr 0 0) x.hi).setPword w
    (F.HOST_PEER_MAC_MAC.addr 0 0) x.mac

/-- A write of HOST_PEER_MAC stores the path's three registers into its entry (R370). -/
def Dev.peerWrite (d : Dev) (w : Path) (v : Nat) : Dev :=
  let d := d.setPfld w F.HOST_PEER_MAC_MAC (v % 2 ^ 48)
  let x : HostPeer := ⟨d.pword w (F.HOST_PEER_LO_ADDR.addr 0 0), d.pword w (F.HOST_PEER_HI_ADDR.addr 0 0),
    d.pword w (F.HOST_PEER_MAC_MAC.addr 0 0)⟩
  { d with peers := tSet {} (d.pfld w F.HOST_PEER_IDX_INDEX) x d.peers }

/-- SESSION_IDLE_EXPIRY (R356). -/
def sessionIdleExpiry (n : Nat) (d : Dev) : Dev :=
  match tFind n d.sessions with
  | some s => if s.lastAt + 1000000000 * d.fld F.HOST_DCP_IDLE ≤ d.now then d.closeSession n else d
  | none => d

/-- HELD_REQUEST_EXPIRY (R361). -/
def heldRequestExpiry (n : Nat) (d : Dev) : Dev :=
  match tFind n d.sessions with
  | some s =>
    d.setSession n { s with held := s.held.filter fun e => decide (d.now < e.2.at_ + 100000000) }
  | none => d

/-- PRODUCED and CONSUMED of a ring, as one number. -/
def Dev.ringCounts (d : Dev) (r : Nat) : Nat := d.rf r RF.produced + 2 ^ 32 * d.rf r RF.consumed

/-- No NOTIFY of a ring has gone out in the gap before a stamp (R363). -/
def Session.gapPassed (s : Session) (gap r now : Nat) : Bool :=
  match tFind r s.heard with
  | some t => decide (t + gap ≤ now)
  | none => true

/-- NOTIFY_SEND. The counts of a ring that a session hears of have changed, and the gap has passed (R363). -/
def notifySend (n r : Nat) (d : Dev) : Dev :=
  match tFind n d.sessions with
  | some s => match tFind r s.subs with
    | some c =>
      if d.ringCounts r = c ∨ !s.gapPassed (1000 * d.fld F.HOST_DCP_NOTIFY_GAP) r d.now ∨ !d.portOn then d
      else
        (d.setSession n { s with subs := tPut r (d.ringCounts r) s.subs, heard := tPut r d.now s.heard }).notify n (leBytes 4 r ++ leBytes 8 (d.ringCounts r))
    | none => d
  | none => d

/-- MANAGEMENT_LINK_CHANGE. A PHY out of reset brings the link of an enabled management port up, or it goes down (R471,
R494). -/
def managementLinkChange (n : Fin 2) (up : Bool) (d : Dev) : Dev :=
  d.setFld F.HGU_MGT_STATUS_LINK (b2n (up && d.power.auxOn && d.power.phyRstN && d.flag F.HGU_MGT_CFG_EN 0 n.val)) 0 n.val

end Sys2Proof.Machine
end

