-- ==== Sys2Proof/Machine/Firmware.lean ====
section
/-! DEFINITION. Firmware slots, images and boots, anti-rollback counters, measurement and attestation
(15_security_firmware R432 to R444). -/

namespace Sys2Proof.Machine

/-! ### The certificate chain (R431) -/

/-- Holders of keys that the factory data certifies. -/
inductive KeyHolder where
  | root
  | deviceIssuing
  | identity
  | sessionKey
  | firmwareKey
deriving DecidableEq, Repr

/-- The number of a holder, by which Config gives its key and its certificate's signature. -/
def KeyHolder.code : KeyHolder → Nat
  | .root => 0
  | .deviceIssuing => 1
  | .identity => 2
  | .sessionKey => 3
  | .firmwareKey => 4

/-- What an X.509 certificate of the chain says: whose key it is, by whose key it is signed, the serial number that an identity
certificate's subject carries, the public key, and the signature under id-ml-dsa-87. -/
structure Certificate where
  subject : KeyHolder
  issuer : KeyHolder
  serial : Option (BitVec 64)
  key : List Byte
  signature : List Byte
deriving DecidableEq, Repr

/-- By whose key a holder's certificate is signed: the root signs itself and the device-issuing certificate. -/
def KeyHolder.issuer : KeyHolder → KeyHolder
  | .root => .root
  | .deviceIssuing => .root
  | .identity => .deviceIssuing
  | .sessionKey => .identity
  | .firmwareKey => .identity

/-- Bytes of a holder's public key (R429): ML-KEM-1024 for the session and firmware keys, ML-DSA-87 for the others. -/
def KeyHolder.keyBytes : KeyHolder → Nat
  | .sessionKey | .firmwareKey => 1568
  | _ => 2592

/-- The certificate of a holder. -/
def certificateOf (h : KeyHolder) : Certificate :=
  { subject := h, issuer := h.issuer
    serial := if h = .identity then some Config.serial else none
    key := (List.range h.keyBytes).map (Config.publicKey h.code)
    signature := (List.range 4627).map (Config.certSignature h.code) }

/-- The factory data's chain: it never changes in service (R431). -/
def certificateChain : List Certificate :=
  [KeyHolder.root, .deviceIssuing, .identity, .sessionKey, .firmwareKey].map certificateOf

/-! ### Slots and images (R436, R437) -/

/-- Bytes of a slot of a component (R436). -/
def slotBytes (c : Nat) : Nat := 1048576 * ([1, 2, 4, 4, 16, 4, 64].getD c 0)
/-- A firmware slot. -/
def Dev.fwSlot (d : Dev) (c s : Nat) : FwSlot := tGet {} d.flash.slots (2 * c + s)
/-- Sets it. -/
def Dev.setFwSlot (d : Dev) (c s : Nat) (x : FwSlot) : Dev :=
  d.setFlash { d.flash with slots := tSet {} (2 * c + s) x d.flash.slots }
/-- An anti-rollback counter (R444). -/
def Dev.counter (d : Dev) (c : Nat) : Nat := tGet 0 d.flash.counters c
/-- The slot of a component in a state. -/
def Dev.slotIn (d : Dev) (c st : Nat) : Option Nat := [0, 1].find? fun s => decide ((d.fwSlot c s).state = st)
/-- The slot that is not ACTIVE (R440). -/
def Dev.inactive (d : Dev) (c : Nat) : Nat := if d.slotIn c 3 = some 0 then 1 else 0

/-- A little-endian field of an image header. -/
def FwSlot.field (x : FwSlot) (o n : Nat) : Nat := bNat x.data o n
/-- LEVEL of a slot's image. -/
def FwSlot.level (x : FwSlot) (c : Nat) : Nat := if x.factory then (Config.factoryLevel c).toNat else x.field 6 2
/-- SVN of a slot's image. -/
def FwSlot.svn (x : FwSlot) (c : Nat) : Nat := if x.factory then (Config.factorySvn c).toNat else x.field 8 4
/-- The image of component c accepts a level of component j (R437). -/
def FwSlot.accepts (x : FwSlot) (c j : Nat) (y : FwSlot) : Bool :=
  if x.factory then y.factory || Config.factoryAccepts c j (BitVec.ofNat 16 (y.level j))
  else decide (x.field (0x20 + 4 * j) 2 ≤ y.level j) && decide (y.level j ≤ x.field (0x22 + 4 * j) 2)
/-- The bytes of an image: header and ciphertext. -/
def FwSlot.image (x : FwSlot) : List Byte := bRead x.data 0 (12288 + x.field 0x18 8)
/-- D, the signed digest (R437). -/
def FwSlot.digest (x : FwSlot) (c : Nat) : List Byte :=
  if x.factory then (List.range 64).map (Config.factoryDigest c)
  else sha3 (bRead x.data 0 0xAC0 ++ bRead x.data 12288 (x.field 0x18 8))

/-- REASON 1 of R439 does not hold. -/
def FwSlot.headerOk (x : FwSlot) (c : Nat) : Bool :=
  decide (x.field 0 4 = 0x4B465731) && decide (x.field 5 1 = 1) && decide (x.field 4 1 = c) && decide (x.field 0xC 4 = 0) &&
    decide (x.field 0x3C 4 = 0) && decide (x.field 0x4C 4 = 0) && decide (x.field 0x2323 3293 = 0) &&
    decide (12288 + x.field 0x18 8 ≤ slotBytes c)

/-- Verification of a slot's image (R439): 0 when it passes, else the REASON. -/
def Dev.verify (d : Dev) (c s : Nat) : Nat :=
  let x := d.fwSlot c s
  if x.factory then (if x.svn c < d.counter c then 3 else 0)
  else if !x.headerOk c then 1
  else if bRead x.data 0x60 64 ≠ sha3 (bRead x.data 0xA0 2592) ∨ !Config.imageSigned x.image then 2
  else if x.svn c < d.counter c then 3
  else if !Config.imageKey x.image then 4
  else if !Config.imageTag x.image then 5
  else 0

/-! ### Measurements (R433) -/

/-- A measurement register. -/
def Dev.measure (d : Dev) (i : Nat) : List Byte := tGet (List.replicate 64 0) d.meas i
/-- An extension of it by 64 bytes. -/
def Dev.extendM (d : Dev) (i : Nat) (x : List Byte) : Dev := { d with meas := tPut i (sha3 (d.measure i ++ x)) d.meas }

/-! ### Boots (R435, R441, R443) -/

/-- What a boot has chosen for a component: the slot, whether it was staged, and whether a slot failed. -/
structure Choice where
  slot : Nat
  staged : Bool := false
  fell : Bool := false
deriving DecidableEq, Repr

/-- A slot fails with a REASON. -/
def Dev.failSlot (d : Dev) (c s reason : Nat) : Dev := d.setFwSlot c s { d.fwSlot c s with state := 5, reason := reason }

/-- The ACTIVE slot of a component, or its previous one when that fails (R441); none: none verifies. -/
def chooseActive (c : Nat) (fell : Bool) (d : Dev) : Dev × Option Choice :=
  let prev := fun (d : Dev) => match d.slotIn c 4 with
    | some s => if d.verify c s = 0 then (d, some (⟨s, false, true⟩ : Choice)) else (d, none)
    | none => (d, none)
  match d.slotIn c 3 with
  | some s => let r := d.verify c s
    if r = 0 then (d, some ⟨s, false, fell⟩) else prev (d.failSlot c s r)
  | none => prev d

/-- The candidate of a component. -/
def chooseSlot (c : Nat) (d : Dev) : Dev × Option Choice :=
  match d.slotIn c 2 with
  | some s => let r := d.verify c s
    if r = 0 then (d, some ⟨s, true, false⟩) else chooseActive c true (d.failSlot c s r)
  | none => chooseActive c false d

/-- Candidates of a set of components, in ascending number; none for those of which no image verifies. -/
def chooseAll (l : List Nat) (d : Dev) : Dev × Table (Option Choice) :=
  l.foldl (fun s c => let (d, x) := chooseSlot c s.1; (d, tPut c x s.2)) (d, [])

/-- The slot that a component would run: its candidate, or the one that runs. -/
def Dev.runs (d : Dev) (cand : Table (Option Choice)) (c : Nat) : Option FwSlot :=
  match tFind c cand with
  | some (some x) => some (d.fwSlot c x.slot)
  | some none => none
  | none => (d.slotIn c 3).map fun s => d.fwSlot c s

/-- The interface levels of every pair agree (R441). -/
def Dev.pairsOk (d : Dev) (cand : Table (Option Choice)) : Bool :=
  (List.range 7).all fun a => (List.range 7).all fun b => decide (a = b) || match d.runs cand a, d.runs cand b with
    | some x, some y => x.accepts a b y
    | _, _ => true

/-- The pair checks: a staged slot that disagrees fails, and its ACTIVE slot is chosen (R441). -/
def checkPairs (d : Dev) (cand : Table (Option Choice)) : Dev × Table (Option Choice) × Bool :=
  if d.pairsOk cand then (d, cand, true)
  else match cand.find? fun e => match e.2 with | some x => x.staged | none => false with
    | some (c, some x) =>
      let d := d.failSlot c x.slot 6
      let cand := tPut c ((d.slotIn c 3).map fun s => (⟨s, false, true⟩ : Choice)) cand
      (d, cand, d.pairsOk cand)
    | _ => (d, cand, false)

/-- The fields of SEC_BOOT of a component: SLOT, NEW and FELL_BACK. -/
def bootFields (c : Nat) : Fld × Fld × Fld :=
  match c with
  | 0 => (F.SEC_BOOT_SLOT_0, F.SEC_BOOT_NEW_0, F.SEC_BOOT_FELL_BACK_0)
  | 1 => (F.SEC_BOOT_SLOT_1, F.SEC_BOOT_NEW_1, F.SEC_BOOT_FELL_BACK_1)
  | 2 => (F.SEC_BOOT_SLOT_2, F.SEC_BOOT_NEW_2, F.SEC_BOOT_FELL_BACK_2)
  | 3 => (F.SEC_BOOT_SLOT_3, F.SEC_BOOT_NEW_3, F.SEC_BOOT_FELL_BACK_3)
  | 4 => (F.SEC_BOOT_SLOT_4, F.SEC_BOOT_NEW_4, F.SEC_BOOT_FELL_BACK_4)
  | 5 => (F.SEC_BOOT_SLOT_5, F.SEC_BOOT_NEW_5, F.SEC_BOOT_FELL_BACK_5)
  | _ => (F.SEC_BOOT_SLOT_6, F.SEC_BOOT_NEW_6, F.SEC_BOOT_FELL_BACK_6)

/-- A component boots its candidate; a staged slot, or the previous one that it falls back to, is then ACTIVE. -/
def bootOne (c : Nat) (x : Choice) (d : Dev) : Dev :=
  let y := d.fwSlot c x.slot
  let d := if y.state = 3 then d
    else
      let d := match d.slotIn c 3 with
        | some s => d.setFwSlot c s { d.fwSlot c s with state := 4 }
        | none => d
      d.setFwSlot c x.slot { y with state := 3, reason := 0 }
  let f := bootFields c
  let d := ((d.setFld f.1 x.slot).setFld f.2.1 (b2n x.staged)).setFld f.2.2 (b2n x.fell)
  d.extendM c (y.digest c)

/-- A boot of components (R441); answers whether it ends in recovery. -/
def boot (l : List Nat) (d : Dev) : Dev × Bool :=
  let (d, cand) := chooseAll l d
  let (d, cand, ok) := if cand.all fun e => e.2.isSome then checkPairs d cand else (d, cand, false)
  if ok then (cand.foldl (fun d e => match e.2 with | some x => bootOne e.1 x d | none => d) d, false)
  else (d, true)

/-- The components that a domain's boot contains (R435). -/
def bootSet (domain : Nat) : List Nat :=
  match domain with
  | 2 => [4]
  | 3 => [2, 4]
  | 4 => [2, 3, 4, 5]
  | 5 => [0, 1, 2, 3, 4, 5, 6]
  | _ => []

/-! ### Commands of SEC_FW_CMD (R440, R450) -/

/-- Address of the staging window. -/
def stagingBase : Nat := (16384 + 16383) * extentSize

/-- A firmware command: its result (R440, R450). -/
def fwCommand (m : Mem) (op c src len dst : Nat) (d : Dev) : Dev × Nat :=
  let s := d.inactive c
  let x := d.fwSlot c s
  if op = 0 ∨ 4 < op ∨ 6 < c then (d, 1)
  else match op with
  | 1 =>
    if len = 0 ∨ 4194304 < src + len ∨ slotBytes c < 4096 * dst + len then (d, 3)
    else
      let x := if dst = 0 then ({ state := 1 } : FwSlot) else x
      (d.setFwSlot c s { x with data := bWrite (4096 * dst) (memRead m d (stagingBase + src) len) x.data }, 0)
  | 2 =>
    if x.state ≠ 1 then (d, 2)
    else if (List.range 7).any fun c => (d.slotIn c 2).isSome then (d, 4)
    else (d.setFwSlot c s { x with state := 2 }, 0)
  | 3 => if x.state = 1 ∨ x.state = 2 ∨ x.state = 5 then (d.setFwSlot c s {}, 0) else (d, 2)
  | _ =>
    match d.slotIn c 3 with
    | some a =>
      if decide (d.power.phase = .running) && decide (d.fld (bootFields c).1 = a) then
        (d.setFlash { d.flash with counters := tSet 0 c (max (d.counter c) ((d.fwSlot c a).svn c)) d.flash.counters }, 0)
      else (d, 2)
    | none => (d, 2)

/-- A snapshot of a firmware slot (R450); a component that does not exist has an empty one. -/
def Dev.slotSnapshot (d : Dev) (w : Path) (c s : Nat) : Dev :=
  let x := if c ≤ 6 then d.fwSlot c s else {}
  let full := decide (x.state ≠ 0)
  (((d.setPfld w F.SEC_FW_SLOT_STATE x.state).setPfld w F.SEC_FW_SLOT_REASON x.reason).setPfld w F.SEC_FW_SLOT_LEVEL
    (if full then x.level c else 0)).setPfld w F.SEC_FW_SLOT_SVN (if full then x.svn c else 0)

/-! ### Attestation (R434) -/

/-- A path's SEC_NONCE_0 to SEC_NONCE_7 as bytes (R483). -/
def Dev.nonce (d : Dev) (w : Path) : List Byte := (List.range 8).flatMap fun i => leBytes 8 (d.pfld w F.SEC_NONCE_WORD 0 i)

/-- The check word of a position (R445). -/
def positionCheck (l : List Byte) : List Byte := (l.drop 0x40).take 64

/-- The position in force: its slot (R446). -/
def Dev.inForce (d : Dev) : Option Nat :=
  (d.flash.positions.find? fun e => decide (e.2.state = 2) || decide (e.2.state = 3)).map fun e => e.1

/-- The check word of the position in force, or of the factory position. -/
def Dev.checkInForce (d : Dev) : List Byte :=
  match d.inForce with
  | some s => positionCheck (tGet {} d.flash.positions s).data
  | none => (List.range 64).map Config.factoryCheck

/-- The report without its signature (R434). -/
def Dev.reportBody (d : Dev) (w : Path) : List Byte :=
  leBytes 8 (0x41545331 + 2 ^ 32) ++ leBytes 8 Config.serial.toNat ++ leBytes 8 d.now ++
    leBytes 8 (d.counter 31 + 2 ^ 32 * bits (d.word (F.SEC_BOOT_SLOT_0.addr 0 0)).toNat 0 28) ++ List.replicate 32 0 ++
    d.nonce w ++ ((List.range 16).flatMap d.measure) ++ ((List.range 32).flatMap fun i => leBytes 4 (d.counter i)) ++ d.checkInForce

/-- Attestation commands: the result (R433, R434, R450). -/
def attest (w : Path) (op i : Nat) (d : Dev) : Dev × Nat :=
  match op with
  | 1 =>
    let l := d.reportBody w
    (d.store (16383 * extentSize) (l ++ (List.range 4627).map (Config.signature l)), 0)
  | 2 => if 8 ≤ i then (d.extendM i (d.nonce w), 0) else (d, 2)
  | _ => (d, 1)

/-- ENTROPY_HEALTH_FAIL (R432). -/
def entropyHealthFail (m : Mem) (d : Dev) : Dev :=
  if d.hubOn then raiseOwn m 2950 none none (d.setFld F.SEC_STATUS_ENTROPY_FAIL 1) else d

end Sys2Proof.Machine
end

