-- ==== Sys2Proof/Machine/Regs.lean ====
section
/-! DEFINITION. What a write of each register does, but for the command registers (17_register_pages R475 to R485 and the
register tables of every chapter). -/

namespace Sys2Proof.Machine

/-! ### Snapshots of flash and of the hourglass unit's tables -/

/-- A snapshot of an error log entry (R427). -/
def Dev.logSnapshot (d : Dev) (w : Path) (i : Nat) : Dev :=
  let e := (tGet 0 d.log (i % 4096)).toNat
  [0, 1, 2, 3].foldl (fun d j => d.setPfld w F.FLT_LOG_DATA_WORD (bits e (64 * j) 64) 0 j) d

/-- A snapshot of a dump slot's status (R427, R428). -/
def Dev.dumpSnapshot (d : Dev) (w : Path) (i : Nat) : Dev :=
  let x := tGet {} d.dumps (i % 256)
  (((d.setPfld w F.FLT_DUMP_VALID (b2n x.valid)).setPfld w F.FLT_DUMP_PARTIAL (b2n x.part)).setPfld w F.FLT_DUMP_SKIPPED
    x.skipped).setPfld w F.FLT_DUMP_TIME (x.time % 2 ^ 48)

/-- A snapshot of an anti-rollback counter (R444, R450). -/
def Dev.counterSnapshot (d : Dev) (w : Path) (i : Nat) : Dev := d.setPfld w F.SEC_COUNTER_VALUE (d.counter (i % 32))

/-- A position slot. -/
def Dev.position (d : Dev) (s : Nat) : Position := tGet {} d.flash.positions s

/-- A little-endian field of a position (R445). -/
def posField (l : List Byte) (o n : Nat) : Nat := leNat ((l.drop o).take n)

/-- A snapshot of a position slot (R451). -/
def Dev.positionSnapshot (d : Dev) (w : Path) (s : Nat) : Dev :=
  let x := d.position (s % 8)
  ((((d.setPfld w F.CFG_SLOT_0_STATE x.state).setPfld w F.CFG_SLOT_1_VERSION (posField x.data 8 8)).setPfld w
    F.CFG_SLOT_2_CREATOR (posField x.data 0x10 8)).setPfld w F.CFG_SLOT_3_TIME (posField x.data 0x18 8)).setPfld w
    F.CFG_SLOT_4_CHECK (posField x.data 0x40 8)

/-- A signed number as 16 bits. -/
def signed16 (x : Int) : Nat := (x % 65536).toNat

/-- A snapshot of a sensor (R471). -/
def Dev.sensorSnapshot (d : Dev) (w : Path) (i : Nat) : Dev :=
  match tFind (i % 256) d.sensors with
  | some x => ((d.setPfld w F.HGU_SENSOR_FILTERED (signed16 x.y)).setPfld w F.HGU_SENSOR_RAW (signed16 x.raw)).setPfld w
      F.HGU_SENSOR_VALID 1
  | none => ((d.setPfld w F.HGU_SENSOR_FILTERED 0).setPfld w F.HGU_SENSOR_RAW 0).setPfld w F.HGU_SENSOR_VALID 0

/-- A snapshot of a journal entry (R472). -/
def Dev.journalSnapshot (m : Mem) (d : Dev) (w : Path) (i : Nat) : Dev :=
  [0, 1, 2, 3].foldl (fun d j => d.setPfld w F.JNL_READ_WORD (memNat m d (journalBase + 32 * (i % 65536) + 8 * j) 8) 0 j) d

/-! ### Pages -/

/-- Writes of the pages of a core; a session's write of CORE_c_CTX_k is ignored and counted (R482). -/
def writeCore (m : Mem) (w : Path) (a v code o : Nat) (c : CoreId) (d : Dev) : Dev :=
  if code = 0x01 ∧ 0x118 ≤ o ∧ o ≤ 0x130 ∧ w.origin ≤ 2 then d.count F.CFG_STATUS_IGNORED 1
  else if o ≠ 0x100 then
    (if code = 0x01 ∧ o = 0x110 then settle m c false (coreSwap c v d) else d.writeFields w a v)
  else match code with
  | 0x01 => settle m c false (coreCtl c v d)
  | 0x02 => settle m c false (aryCtl c v d)
  | 0x03 => vecCtl c v d
  | 0x06 => settle m c false (movCtl c v d)
  | _ => d.writeFields w a v

/-- A write of fields with the old value kept where a field is ignored. -/
def Dev.keepField (d : Dev) (f : Fld) (inst : Nat) (bad : Bool) (v : Nat) : Nat :=
  if bad then setBits v f.lo f.width (d.fld f inst) else v

/-- CLK_k_CTL (R397): fields out of range stay. -/
def Dev.clkCtl (d : Dev) (k v : Nat) : Nat :=
  let v := d.keepField F.CLK_CTL_MAX k (decide (28 < bits v 0 5)) v
  let v := d.keepField F.CLK_CTL_STRETCH k (decide (bits v 5 2 = 3)) v
  d.keepField F.CLK_CTL_DROOP_MV k (decide (bits v 7 7 < 20) || decide (80 < bits v 7 7)) v

/-- A write of PWR_CTL, PWR_CAP or THM_CTL that is ignored (R379, R396, R398). -/
def powerIgnored (a v : Nat) : Bool :=
  if a = F.PWR_CTL_FIRST.addr 0 0 then
    let l := [bits v 0 2, bits v 2 2, bits v 4 2]
    l.any (fun x => decide (2 < x)) || !decide (l.Nodup)
  else if a = F.PWR_CAP_SUSTAINED.addr 0 0 then
    decide (bits v 0 9 < 100) || decide (320 < bits v 0 9) || decide (bits v 9 9 < bits v 0 9) || decide (380 < bits v 9 9)
  else if a = F.THM_CTL_THROTTLE_C.addr 0 0 then
    decide (bits v 0 8 < 80) || decide (100 < bits v 0 8) || decide (bits v 0 8 < bits v 8 8 + 2)
  else false

/-- Writes of the power, clock and thermal pages. -/
def writePower (m : Mem) (w : Path) (a v code inst o : Nat) (d : Dev) : Dev :=
  if powerIgnored a v then d
  else
    let e := d.writeFields w a v
    match code, o with
    | 0x40, 0x130 => e.railSnapshot w (v % 16)
    | 0x40, 0x140 => updatePace m e
    | 0x40, 0x160 => e.pipSnapshot w (v % 2 ^ 18)
    | 0x41, 0x100 => d.writeFields w a (d.clkCtl inst v)
    | 0x42, 0x118 => e.thermalSnapshot w (v % 256)
    | _, _ => e

/-- Writes of the extent map, stack and ring pages that are no command. -/
def writeMemory (w : Path) (a v code inst o : Nat) (d : Dev) : Dev :=
  let e := d.writeFields w a v
  match code, o with
  | 0x10, 0x120 => e.xmapSnapshot w inst (v % 131072)
  | 0x11, 0x120 => d.writeFields w a (d.keepField F.STK_PATROL_PERIOD inst (decide (168 < v % 256)) v)
  | 0x12, 0x130 => e.ringSnapshot w (v % 2 ^ 18)
  | 0x12, 0x158 => if bitAt v 22 then e.setFld F.RING_ERR_OVERFLOW 0 else e
  | _, _ => e

/-- Writes of the link and fabric pages. -/
def writeFabric (m : Mem) (w : Path) (a v code inst o : Nat) (d : Dev) : Dev :=
  let n : PortId := ⟨inst % 16, Nat.mod_lt _ (by decide)⟩
  match code, o with
  | 0x20, 0x100 => plCtl m n v d
  | 0x21, 0x100 => fabCtl m v d
  | 0x21, 0x110 => (d.writeFields w a v).routeSnapshot w v
  | 0x21, 0x118 => routeWrite m w v d
  | _, _ => if code = 0x20 ∧ 0x200 ≤ o then shareWrite n ((o - 0x200) / 8 % 32) v d else d.writeFields w a v

/-- Writes of the host page. -/
def writeHost (w : Path) (a v o : Nat) (d : Dev) : Dev :=
  match o with
  | 0x100 => hostCtl v d
  | 0x158 => (d.writeFields w a v).peerSnapshot w v
  | 0x170 => d.peerWrite w v
  | 0x188 => d.setFld F.HOST_RKEY_SYS_KEY (v % 2 ^ 32)
  | _ => d.writeFields w a v

/-- Writes of the partition, sequence and generation pages that are no command (R283, R284). -/
def writePart (w : Path) (a v code inst o : Nat) (d : Dev) : Dev :=
  let p := partOf inst
  match code, o with
  | 0x30, 0x110 => d.writeFields w a (d.partConfig p v)
  | 0x31, 0x100 => if d.rangeBad p v then d else d.writeFields w a v
  | 0x31, 0x140 => (d.writeFields w a v).seqSnapshot w inst (v % 16384)
  | _, _ => d.writeFields w a v

/-- A write of FLT_SRC_CFG: CLASS of the path's source, a reserved CLASS ignored (R406, R428). -/
def Dev.srcCfg (d : Dev) (w : Path) (v : Nat) : Dev :=
  let s := d.pfld w F.FLT_SRC_IDX_SOURCE
  if 7 < bits v 0 4 then d else d.setSrc s { d.src s with cls := some (bits v 0 4) }

/-- A write of FLT_SRC_STATE clears what is written 1 (R401, R402, R428). -/
def Dev.srcState (d : Dev) (w : Path) (v : Nat) : Dev :=
  let s := d.pfld w F.FLT_SRC_IDX_SOURCE
  let d := if bitAt v 2 then d.setSrc s { d.src s with wire := false } else d
  if bitAt v 0 then d.clearSrc s else d

/-- A write of FLT_DUMP frees the slot that the path's index names (R414). -/
def Dev.freeDump (d : Dev) (w : Path) (v : Nat) : Dev :=
  let i := d.pfld w F.FLT_DUMP_IDX_CORE
  if bitAt v 0 then { d with dumps := tMod {} i (fun x => { x with valid := false }) d.dumps } else d

/-- Writes of the fault page that are no command. -/
def writeFaults (w : Path) (a v o : Nat) (d : Dev) : Dev :=
  match o with
  | 0x118 => d.srcCfg w v
  | 0x120 => d.srcState w v
  | 0x138 => (d.writeFields w a v).logSnapshot w v
  | 0x198 => (d.writeFields w a v).dumpSnapshot w v
  | 0x1A0 => (d.freeDump w v).writeFields w a v
  | _ => d.writeFields w a v

/-- Writes of the HGU page; WAKE and SHUTDOWN act besides. A rule that is written starts released (R460, R471). -/
def writeHgu (w : Path) (a v o : Nat) (d : Dev) : Dev :=
  let e := d.writeFields w a v
  if 0x200 ≤ o then { e with rules := tDel ((o - 0x200) / 8) e.rules }
  else match o with
  | 0x110 => e.sensorSnapshot w v
  | 0x128 => if v % 65536 ≠ 0 ∧ (v % 65536 < 10 ∨ 60000 < v % 65536) then d else e
  | _ => e

/-- Writes of the security, configuration, journal, banker and time pages that are no command. -/
def writeHub (m : Mem) (w : Path) (a v code o : Nat) (d : Dev) : Dev :=
  let e := d.writeFields w a v
  match code, o with
  | 0x51, 0x130 => e.slotSnapshot w (v % 8) (v / 8 % 2)
  | 0x51, 0x140 => e.counterSnapshot w v
  | 0x52, 0x118 => if v % 4096 < 10 ∨ 3600 < v % 4096 then d else e
  | 0x52, 0x120 => e.positionSnapshot w v
  | 0x53, 0x118 => e.journalSnapshot m w v
  | 0x54, 0x138 => e.memberSnapshot w v
  | 0x54, 0x140 => d.memberWrite w v
  | 0x54, _ => if 0x148 ≤ o ∧ o ≤ 0x160 then d.setWord a (BitVec.ofNat 64 v) else e
  | _, _ => e

/-- A write of a register that is no command (R8). -/
def writeSimple (m : Mem) (w : Path) (a v : Nat) (d : Dev) : Dev :=
  let code := a / 2 ^ 24
  let inst := a / 2 ^ 16 % 256
  let o := a % 2 ^ 16
  match coreOf inst with
  | some c => if code ≤ 0x06 then writeCore m w a v code o c d else rest code inst o
  | none => rest code inst o
where
  rest (code inst o : Nat) : Dev :=
    if code ≤ 0x12 then writeMemory w a v code inst o d
    else if code ≤ 0x21 then writeFabric m w a v code inst o d
    else if code = 0x28 then writeHost w a v o d
    else if code ≤ 0x32 then writePart w a v code inst o d
    else if code ≤ 0x42 then writePower m w a v code inst o d
    else if code = 0x48 then writeFaults w a v o d
    else if code = 0x50 then writeHgu w a v o d
    else writeHub m w a v code o d

end Sys2Proof.Machine
end

