-- ==== Sys2Proof/Machine/Position.lean ====
section
/-! DEFINITION. Configuration positions (15_security_firmware R445 to R448, R451). -/

namespace Sys2Proof.Machine

/-! ### Contents (R445) -/

/-- LENGTH, KEYS and RECORDS of a position. -/
def posLength (l : List Byte) : Nat := posField l 4 4
/-- See posLength. -/
def posKeys (l : List Byte) : Nat := posField l 0x20 2
/-- See posLength. -/
def posRecords (l : List Byte) : Nat := posField l 0x22 2

/-- A position meets the layout of R445. -/
def positionFormat (l : List Byte) : Bool :=
  decide (posField l 0 4 = 0x4B504F31) && decide (256 ≤ posLength l) && decide (posLength l ≤ 524288) && decide (l.length = posLength l) &&
    decide (posField l 0x10 8 < 2 ^ 24) && decide (posKeys l ≤ 16) && decide (posRecords l ≤ 30000) &&
    decide (posField l 0x24 28 = 0) && decide (posField l 0x80 128 = 0) &&
    decide (posLength l = 256 + 2592 * posKeys l + 16 * posRecords l)

/-- Its CHECK is right. -/
def positionCheckOk (l : List Byte) : Bool :=
  decide (positionCheck l = sha3 (l.take 0x40 ++ List.replicate 64 0 ++ l.drop 0x80))

/-- An operator key of a position; none for the factory position (R448). -/
def operatorKey (l : Option (List Byte)) (i : Nat) : Option (List Byte) :=
  l.bind fun l => if i < posKeys l then some ((l.drop (256 + 2592 * i)).take 2592) else none

/-- The records of a position: address and value. -/
def posRecordList (l : List Byte) : List (Nat × Nat) :=
  (List.range (posRecords l)).map fun i =>
    let o := 256 + 2592 * posKeys l + 16 * i
    (posField l o 8, posField l (o + 8) 8)

/-! ### Application (R447) -/

/-- A field that a position sets. -/
def Fld.byPosition (f : Fld) : Bool := f.reset.isNone && (decide (f.acc = .rw) || decide (f.acc = .wo))

/-- The words that hold such fields, but for FLT_SRC_CFG, which has a value for every source. -/
def positionWords : List Nat :=
  pageDirectory.flatMap fun b =>
    let fs := (blockFields b.code).filter Fld.byPosition
    let os := (fs.flatMap fun f => (List.range f.count).map fun i => f.addr 0 i % 2 ^ 16).dedup
    if b.code = 0x48 then []
    else (List.range b.insts).flatMap fun i => os.map fun o => b.code * 2 ^ 24 + i * 2 ^ 16 + o

/-- A word as a position writes it: given fields from val, other RW fields as they are, and nothing cleared. -/
def Dev.positionWord (d : Dev) (a : Nat) (set : Fld → Bool) (val : Fld → Nat → Nat) : Nat :=
  let o := a % 2 ^ 16
  (wordFields (a / 2 ^ 24) o).foldl (fun x f =>
    if f.1.byPosition && set f.1 then setBits x f.2 f.1.width (val f.1 f.2)
    else if f.1.acc = .rw then x else setBits x f.2 f.1.width 0) (d.word a).toNat

/-- A write by the firmware that applies positions. -/
def firmwareWrite (m : Mem) (a v : Nat) (d : Dev) : Dev := regWrite m fwPath a v (writeSimple m fwPath a v) d

/-- Writes the factory value of every field that a position sets. -/
def applyFactory (m : Mem) (d : Dev) : Dev :=
  let d := { d with faults := d.faults.map fun e => (e.1, { e.2 with cls := none }) }
  positionWords.foldl (fun d a =>
    let o := a % 2 ^ 16
    firmwareWrite m a (d.positionWord a (fun _ => true) fun f lo =>
      factoryFld f (if lo < 32 then o else if (f.indexAt o).isSome then o else o + 4)) d) d

/-- The fields that a record sets: those of the register at its address that a position sets, with their places in the
register's word. -/
def recordFields (a : Nat) : List (Fld × Nat) :=
  let code := a / 2 ^ 24
  let o := a % 2 ^ 16
  if !addressOk (a / 8 * 8) then []
  else ((blockFields code).filter fun f => f.byPosition && (f.indexAt o).isSome).map fun f => (f, f.lo + 8 * (a % 8))

/-- Applies a record; one that names no such field, or whose write the register's rules ignore, is counted. -/
def applyRecord (m : Mem) (a v : Nat) (d : Dev) : Dev :=
  let fs := recordFields a
  let skip := fun (d : Dev) => d.count F.CFG_STATUS_IGNORED 1
  if fs.isEmpty then skip d
  else
    let word := a / 8 * 8
    let mine := fun (f : Fld) => fs.any fun x => decide (x.1 = f)
    let d := firmwareWrite m word (d.positionWord word mine fun f _ => bits v f.lo f.width) d
    let now := if a = F.FLT_SRC_CFG_CLASS.addr 0 0 then d.srcClass (d.pfld fwPath F.FLT_SRC_IDX_SOURCE) else (d.word word).toNat
    if fs.all fun x => decide (bits now x.2 x.1.width = bits v x.1.lo x.1.width) then d else skip d

/-- Sessions whose operator key is another, or none, in the new position are closed (R447). -/
def closeByKeys (old new : Option (List Byte)) (d : Dev) : Dev :=
  (d.sessions.filter fun e => decide (e.2.key ≠ 0xFFFE) &&
      decide (operatorKey old e.2.key.toNat ≠ operatorKey new e.2.key.toNat)).foldl (fun d e => d.closeSession e.1) d

/-- The bytes of the position in force; none for the factory position. -/
def Dev.positionInForce (d : Dev) : Option (List Byte) := d.inForce.map fun s => (d.position s).data

/-- Applies the position in force (R433, R447). -/
def applyPosition (m : Mem) (old : Option (List Byte)) (d : Dev) : Dev :=
  let l := d.positionInForce
  let d := applyFactory m d
  let d := match l with
    | some l => (posRecordList l).foldl (fun d x => applyRecord m x.1 x.2 d) d
    | none => d
  (closeByKeys old l d).extendM 7 d.checkInForce

/-- The fields of some pages take the values that the records of a position give them (R9). -/
def Dev.loadFlash (d : Dev) (position : Option (List Byte)) (page : Nat → Bool) : Dev :=
  match position with
  | none => d
  | some l => (posRecordList l).foldl (fun d x =>
      let word := x.1 / 8 * 8
      if page x.1 then
        (recordFields x.1).foldl (fun d f => d.setWord word (BitVec.ofNat 64 (setBits (d.word word).toNat f.2 f.1.width
          (bits x.2 f.1.lo f.1.width)))) d
      else d) d

/-- At the reset of a block its fields take the values of the position in force (R9, R447). -/
def Dev.restoreFlash (d : Dev) (domain core : Nat) : Dev :=
  d.loadFlash d.positionInForce fun a => inDomain domain core (a / 2 ^ 24) (a / 2 ^ 16 % 256)

/-! ### States (R446, R448) -/

/-- The slot in a state. -/
def Dev.positionIn (d : Dev) (st : Nat) : Option Nat := (d.flash.positions.find? fun e => decide (e.2.state = st)).map fun e => e.1

/-- Sets a slot. -/
def Dev.setPosition (d : Dev) (s : Nat) (x : Position) : Dev :=
  d.setFlash { d.flash with positions := tSet {} s x d.flash.positions }

/-- Sets the state of a slot. -/
def Dev.setPosState (d : Dev) (s : Option Nat) (st : Nat) : Dev :=
  match s with
  | some s => d.setPosition s { d.position s with state := st }
  | none => d

/-- CFG_ACTIVE follows the slots (R451). -/
def Dev.showActive (d : Dev) : Dev :=
  let s := d.inForce
  let p := d.positionIn 4
  ((((d.setFld F.CFG_ACTIVE_IN_FORCE (s.getD 0)).setFld F.CFG_ACTIVE_FACTORY (b2n s.isNone)).setFld F.CFG_ACTIVE_TRIAL
    (b2n (d.positionIn 3).isSome)).setFld F.CFG_ACTIVE_PREVIOUS (p.getD 0)).setFld F.CFG_ACTIVE_PREV_VALID (b2n p.isSome)

/-- The slots change as TAKE_BACK changes them; without a PREVIOUS slot the factory position is in force. A PREVIOUS slot
whose CHECK fails is INVALID (R446, R448). -/
def Dev.takeBackSlots (d : Dev) : Dev :=
  let p := d.positionIn 4
  let d := d.setPosState d.inForce 1
  let d := match p with
    | none => d
    | some s => if positionCheckOk (d.position s).data then d.setPosState (some s) 2
      else (d.setPosState (some s) 5).setFld F.CFG_STATUS_DEFAULTS 1
  (d.setFld F.CFG_DEADLINE_TIME 0).showActive

/-- The position before the trial is taken back and applied. -/
def takeBack (m : Mem) (d : Dev) : Dev :=
  let old := d.positionInForce
  applyPosition m old d.takeBackSlots

/-- STORE: its result (R446, R451). -/
def positionStore (m : Mem) (s src : Nat) (d : Dev) : Dev × Nat :=
  let st := (d.position s).state
  let head := memRead m d (stagingBase + src) 256
  let n := posLength head
  if st ≠ 0 ∧ st ≠ 1 ∧ st ≠ 5 then (d, 2)
  else if 4194304 < src + n ∨ n < 256 ∨ 524288 < n then (d, 4)
  else
    let l := memRead m d (stagingBase + src) n
    if !positionFormat l then (d, 4)
    else if !positionCheckOk l then (d, 3)
    else (d.setPosition s ⟨1, l⟩, 0)

/-- ACTIVATE: its result. -/
def positionActivate (m : Mem) (s : Nat) (d : Dev) : Dev × Nat :=
  if (d.positionIn 3).isSome ∨ (d.position s).state ≠ 1 then (d, 2)
  else if !positionCheckOk (d.position s).data then ((d.setPosState (some s) 5).showActive, 3)
  else
    let old := d.positionInForce
    let force := d.inForce
    let d := ((d.setPosState (d.positionIn 4) 1).setPosState force 4).setPosState (some s) 3
    let d := (d.setFld F.CFG_DEADLINE_TIME (d.now + 1000000000 * d.fld F.CFG_SETTLE_SECONDS)).showActive
    (applyPosition m old d, 0)

/-- SETTLE: its result (R446, R448). -/
def positionSettle (d : Dev) : Dev × Nat :=
  match d.positionIn 3 with
  | some s => if d.now < d.fld F.CFG_DEADLINE_TIME then
      let d := ((d.setPosState (some s) 2).setFld F.CFG_DEADLINE_TIME 0).showActive
      (d.extendM 7 d.checkInForce, 0)
    else (d, 2)
  | none => (d, 2)

/-- A position command: its result. -/
def positionCommand (m : Mem) (op s src : Nat) (d : Dev) : Dev × Nat :=
  match op with
  | 1 => positionStore m s src d
  | 2 => positionActivate m s d
  | 3 => positionSettle d
  | 4 => match d.positionIn 4 with
    | none => (d, 2)
    | some p =>
      let e := takeBack m d
      (e, if (e.position p).state = 5 then 3 else 0)
  | 5 => if (d.position s).state = 1 ∨ (d.position s).state = 5 then (d.setPosition s {}, 0) else (d, 2)
  | _ => (d, 1)

/-- TRIAL_EXPIRY. The trial window ends without SETTLE (R448). -/
def trialExpiry (m : Mem) (d : Dev) : Dev :=
  if d.hubOn && (d.positionIn 3).isSome && decide (d.fld F.CFG_DEADLINE_TIME ≤ d.now) then
    (takeBack m d).setFld F.CFG_STATUS_TAKEN_BACK 1
  else d

/-- The position that a boot puts in force (R448). -/
def bootPosition (m : Mem) (d : Dev) : Dev :=
  let d := if (d.positionIn 3).isSome then d.takeBackSlots.setFld F.CFG_STATUS_TAKEN_BACK 1 else d
  let d := match d.inForce with
    | some s => if positionCheckOk (d.position s).data then d
      else (d.setPosState (some s) 5).setFld F.CFG_STATUS_DEFAULTS 1
    | none => d
  applyPosition m d.positionInForce d.showActive

end Sys2Proof.Machine
end

