-- ==== Sys2Proof/Machine/Startup.lean ====
section
/-! DEFINITION. Start-up, power and the end of resets (18_physical_startup R498 to R504, 14_faults_recovery R410, R411,
R506, 15_security_firmware R429, R430, R442, R443, 01_module_overview R19 to R21). -/

namespace Sys2Proof.Machine

/-! ### The steps of start-up (R498) -/

/-- The boot count rises (R444). -/
def Dev.countBoot (d : Dev) : Dev :=
  d.setFlash { d.flash with counters := tSet 0 31 ((d.counter 31 + 1) % 2 ^ 32) d.flash.counters }

/-- Steps 1 to 3: the seed, and the boot of all seven components; the boot count rises (R430, R441, R444). Answers whether
start-up goes on, and whether it ends in recovery. -/
def bootRom (d : Dev) : Dev × Bool × Bool :=
  let n := d.counter 31 + 1
  let d := d.countBoot
  let tries := Config.seedRetries n
  if 3 ≤ tries then (d.setFld F.HGU_STATUS_PUF_FAIL 1, false, false)
  else
    let (e, recovery) := boot (bootSet 5) d
    let hub := (chooseSlot 6 d).2
    match recovery, hub with
    | true, none => (e.setFld F.HGU_STATUS_PUF_FAIL 1, false, true)
    | true, some x => ((bootOne 6 x e).setFld F.SEC_STATUS_PUF_RETRIES tries, true, true)
    | false, _ => (e.setFld F.SEC_STATUS_PUF_RETRIES tries, true, false)

/-- Steps 5 and 6: the hourglass unit runs component 0, sessions that it served close, the hub control complex starts,
enters election and applies the position in force. -/
def startHub (m : Mem) (recovery : Bool) (d : Dev) : Dev :=
  let d := (d.sessions.filter fun e => e.2.byHgu).foldl (fun d e => d.closeSession e.1) d
  let d := d.setPower { d.power with phase := if recovery then .recovery else .running }
  let d := (d.setFld F.HGU_STATUS_ROM_ONLY 0).setFld F.SEC_STATUS_RECOVERY (b2n recovery)
  let d := d.setFld F.SEC_BOOT_BOOTS (d.counter 31)
  let d := (bootPosition m d).startElection
  d.setPower { d.power with hmodResetN := d.flag F.HOST_CTL_EN }

/-- Step 7: the stacks' firmware runs, and the extent map takes its power-up state with retired extents (R230). -/
def startStacks (d : Dev) : Dev :=
  let d := (List.range 32).foldl (fun d s => d.setFld F.STK_STATUS_FW_OK 1 s) d
  { d with xmap := d.flash.retired.foldl (fun t e => tPut e 8 t) [] }

/-- Self-test of the cores, with the fence map (R19). -/
def selfTest (d : Dev) : Dev :=
  let n := d.counter 31
  let d := d.setFlash { d.flash with fence := (d.flash.fence ++ ((List.range 144).filter fun c => !Config.selfTest c n)).dedup }
  allCores.foldl (fun d c => d.modCore c fun x => { x with
    selfTestOk := Config.selfTest c.val n, fenced := d.flash.fence.contains c.val }) d

/-- Rated selection, die by die: the 32 lowest-numbered serviceable cores (R20). -/
def selectRated (d : Dev) : Dev :=
  let good := fun (c : CoreId) => (d.core c).selfTestOk && !(d.core c).fenced
  let rated := (List.range 4).flatMap fun k => (allCores.filter fun c => decide (dieOf c = k) && good c).take 32
  let d := allCores.foldl (fun d c => d.modCore c fun x => { x with rated := rated.contains c }) d
  d.setPower { d.power with selfTested := true }

/-- Step 9: the core runtime starts: self-test, rated selection and scratchpad initialisation. -/
def startCores (d : Dev) : Dev := allCores.foldl (fun d c => d.clearCore c) (selectRated (selfTest d))

/-- Steps 2 to 9 with the rails up; recovery ends them after step 6 (R442, R498, R500). -/
def startUp (m : Mem) (d : Dev) : Dev :=
  let (d, goes, recovery) := bootRom d
  if !goes then (if d.power.phase = .asleep then d else d.mainOff)
  else
    let d := d.setPower { d.power with mainOn := true }
    let d := startHub m recovery d
    if recovery then d else startCores (startPorts (startStacks d))

/-- A shutdown rule is active. -/
def Dev.shutRule (d : Dev) : Bool := (List.range 64).any fun i => d.ruleActive i && decide (d.ruf i RU.action = 3)

/-- A wake (R459, R460, R498, R501): the module is asleep with main power present, and was not stopped under R430. The
whole start-up takes place at once. -/
def wakeUp (m : Mem) (d : Dev) : Dev :=
  if d.power.phase ≠ .asleep ∨ !d.power.auxOn then d
  else if d.shutRule then d.setFld F.HGU_STATUS_WAKE_REFUSED 1
  else if d.flag F.HGU_STATUS_MAIN_PRESENT && !d.flag F.HGU_STATUS_PUF_FAIL then startUp m d
  else d

/-- A shutdown by command (R471, R501, R502). -/
def shutDown (d : Dev) : Dev := if d.power.phase = .asleep then d else d.mainOff

/-! ### Power inputs -/

/-- The state in which auxiliary power finds the device: what flash holds, the carrier's cage, and the model's record of
outputs remain. -/
def Dev.powered (d : Dev) (on : Bool) : Dev :=
  { stores := [.clear 0 (2 ^ 41)], freeCtr := d.freeCtr, sent := d.sent, flash := d.flash
    power := { auxOn := on, cagePresent := d.power.cagePresent } }

/-- The position that a boot would put in force, if its CHECK is right (R448). -/
def Dev.bootingPosition (d : Dev) : Option (List Byte) :=
  let l := (if (d.positionIn 3).isSome then d.positionIn 4 else d.inForce).map fun s => (d.position s).data
  l.bind fun l => if positionCheckOk l then some l else none

/-- A word of the hourglass unit's page that it takes from flash: all but the rules, of which its ROM runs the factory values
(R9, R460). -/
def hguFlashWord (a : Nat) : Bool := decide (a / 2 ^ 24 = 0x50) && (F.HGU_RULE_RULE.indexAt (a % 2 ^ 16)).isNone

/-- AUX_POWER_UP: the hourglass unit runs its ROM and the time base counts from 0 (R498); its flash fields take the values of
the active position (R9). -/
def auxPowerUp (d : Dev) : Dev :=
  if d.power.auxOn then d else (d.powered true).loadFlash d.bootingPosition hguFlashWord

/-- AUX_POWER_LOSS: every main rail goes off and volatile state is lost (R410, R501). -/
def auxPowerLoss (d : Dev) : Dev := if d.power.auxOn then d.powered false else d

/-- MAIN_PRESENT: the main input has stayed in range for 10 ms; with AUTO_ON the module wakes the first time (R460,
R498). -/
def mainPresent (m : Mem) (d : Dev) : Dev :=
  match d.power.okSince with
  | some t =>
    if d.power.auxOn && decide (t + 10000000 ≤ d.now) && !d.flag F.HGU_STATUS_MAIN_PRESENT then
      let first := d.power.firstMain
      let d := (d.setFld F.HGU_STATUS_MAIN_PRESENT 1).setPower { d.power with firstMain := false }
      if first && d.flag F.HGU_CTL_AUTO_ON then wakeUp m d else d
    else d
  | none => d

/-- MAIN_POWER_LOSS: the condition of R372; every main rail goes off (R503). -/
def mainPowerLoss (d : Dev) : Dev :=
  let d := (d.setFld F.HGU_STATUS_MAIN_PRESENT 0).setPower { d.power with mainMv := 0, okSince := none }
  if d.power.phase = .asleep then d else d.mainOff

/-- PHY_RESET_RELEASE (R494). -/
def phyResetRelease (d : Dev) : Dev :=
  if d.power.auxOn && decide (d.power.auxSince + 10000000 ≤ d.now) then
    d.setPower { d.power with phyRstN := true }
  else d

/-! ### The end of a reset -/

/-- The status fields of a page's command register, with RESULT RESET (R506); op is register × 256 + operation. -/
def pageStatusOf (page op : Nat) : CmdStatus × Nat :=
  match page / 256, op / 256 with
  | 0x10, _ => (⟨F.XMAP_STATUS_BUSY, F.XMAP_STATUS_RESULT, some F.XMAP_STATUS_OVERRUN⟩, 6)
  | 0x12, _ => (⟨F.RING_STATUS_BUSY, F.RING_STATUS_RESULT, some F.RING_STATUS_OVERRUN⟩, 7)
  | 0x30, 0 => (⟨F.PART_STATUS_BUSY, F.PART_STATUS_RESULT, some F.PART_STATUS_OVERRUN⟩, 6)
  | 0x30, _ => (⟨F.PART_CTX_CMD_BUSY, F.PART_CTX_CMD_RESULT, some F.PART_STATUS_CTX_OVERRUN⟩, 6)
  | 0x32, _ => (⟨F.GEN_STATUS_BUSY, F.GEN_STATUS_RESULT, some F.GEN_STATUS_OVERRUN⟩, 5)
  | 0x48, _ => (⟨F.FLT_FENCE_CMD_BUSY, F.FLT_FENCE_CMD_RESULT, none⟩, 0)
  | 0x51, 0 => (⟨F.SEC_FW_STATUS_BUSY, F.SEC_FW_STATUS_RESULT, some F.SEC_FW_STATUS_OVERRUN⟩, 0)
  | 0x51, _ => (⟨F.SEC_ATTEST_STATUS_BUSY, F.SEC_ATTEST_STATUS_RESULT, some F.SEC_ATTEST_STATUS_OVERRUN⟩, 0)
  | _, _ => (⟨F.CFG_STATUS_BUSY, F.CFG_STATUS_RESULT, some F.CFG_STATUS_OVERRUN⟩, 0)

/-- The paths of abandoned commands read RESULT RESET (R506). -/
def Dev.endAbandoned (d : Dev) : Dev :=
  let d := d.abandoned.foldl (fun d c =>
    let s := pageStatusOf c.page c.op
    if d.pathOpen c.path then (d.setPfld c.path s.1.busy 0 (c.page % 256)).setPfld c.path s.1.result s.2 (c.page % 256) else d) d
  { d with abandoned := [] }

/-- Records that AUTO_CLEAR clears when the reset has ended (R401). -/
def Dev.endAwaits (d : Dev) : Dev :=
  (d.faults.filter fun e => e.2.awaits).foldl (fun d e => d.clearSrc e.1) d

/-- A narrower boot (R441, R443): it may end in recovery (R442). -/
def narrowBoot (domain : Nat) (d : Dev) : Dev :=
  let (d, recovery) := boot (bootSet domain) d
  if recovery then (d.setFld F.SEC_STATUS_RECOVERY 1).setPower { d.power with phase := .recovery } else d

/-- The blocks of a domain run again (R410, R500). -/
def endReset (m : Mem) (r : ResetRun) (d : Dev) : Dev :=
  let d := d.setPower { d.power with running := d.power.running.erase r }
  if r.domain = 5 then startUp m (d.setPower { d.power with phase := .running })
  else
    let d := if 2 ≤ r.domain then narrowBoot r.domain d else d
    let cs := if r.domain = 1 then allCores.filter fun c => decide (c.val = r.core) else allCores
    let d := cs.foldl (fun d c => (d.clearCore c).setWindows c (d.core c).owner) d
    let d := if 3 ≤ r.domain then startStacks d else d
    let d := d.restoreFlash r.domain r.core
    if 4 ≤ r.domain then startPorts d else d

/-- RESET_DONE: the reset of the widest domain that runs ends, or the first of the CORE resets. -/
def resetDone (m : Mem) (d : Dev) : Dev :=
  match (d.power.running.find? fun r => decide (r.domain ≠ 1)).or d.power.running.head? with
  | none => d
  | some r => settleAll m (((endReset m r d).endAwaits).endAbandoned)

end Sys2Proof.Machine
end

