-- ==== Sys2Proof/Machine/Hgu.lean ====
section
/-! DEFINITION. The hourglass unit: sensors, filters and rules, telemetry, the I3C sideband and JTAG, and steps of the
time base by software (16_management_banker R455 to R461, R474). -/

namespace Sys2Proof.Machine

/-! ### Sensors (R456, R457) -/

/-- A sensor has its supply. -/
def Dev.sensorPowered (d : Dev) (i : Nat) : Bool :=
  if i < 228 then decide (d.power.phase ≠ .asleep)
  else if i < 232 then true
  else if i < 246 then decide (d.power.phase ≠ .asleep)
  else decide (i < 248)

/-- The median of samples; of an even number, the floor of the mean of the middle two. -/
def median (l : List Int) : Int :=
  let s := l.insertionSort (· ≤ ·)
  let n := s.length
  if n % 2 = 1 then s.getD (n / 2) 0 else (s.getD (n / 2 - 1) 0 + s.getD (n / 2) 0) / 2

/-- A sensor takes a sample. -/
def takeSample (k : Nat) (old : Option Sensor) (x : Int) : Sensor :=
  match old with
  | none => ⟨x, x, [x]⟩
  | some s =>
    let l := (x :: s.recent).take 5
    ⟨x, s.y + (median l - s.y) / 2 ^ k, l⟩

/-- The sensors after a sample: one without a reading, or without its supply, is invalid. -/
def Dev.sampleAll (d : Dev) (l : List (Option (BitVec 16))) : Table Sensor :=
  (List.range 248).filterMap fun i => match l.getD i none with
    | some v => if d.sensorPowered i then some (i, takeSample (d.fld F.HGU_CTL_IIR_SHIFT) (tFind i d.sensors) v.toInt) else none
    | none => none

/-! ### Rules (R459) -/

/-- What a sample does to a rule. -/
inductive RuleEvent where
  | activates
  | releases
deriving DecidableEq, Repr

/-- The filtered values of a rule's valid sensors. -/
def Dev.ruleValues (d : Dev) (i : Nat) : List Int :=
  (List.range (d.ruf i RU.span + 1)).filterMap fun j => (tFind (d.ruf i RU.sensor + j) d.sensors).map fun s => s.y

/-- A rule at a sample: its state, its event and the value it took. -/
def Dev.evalRule (d : Dev) (i : Nat) : RuleRun × Option RuleEvent × Int :=
  let r := tGet {} d.rules i
  let t := d.ruf i RU.test
  if t = 0 then ({}, if r.active then some .releases else none, 0)
  else if t = 3 then (r, none, 0)
  else match d.ruleValues i with
    | [] => ({ r with dwell := 0 }, none, 0)
    | x :: l =>
      let v := l.foldl (fun a b => if t = 1 then max a b else min a b) x
      let th := (BitVec.ofNat 16 (d.ruf i RU.threshold)).toInt
      let hy := (d.ruf i RU.hyst : Int)
      let on := if t = 1 then decide (th ≤ v) else decide (v < th)
      let off := if t = 1 then decide (v < th - hy) else decide (th + hy ≤ v)
      if r.active then (if off then ({}, some .releases, v) else (r, none, v))
      else if !on then ({}, none, v)
      else if max 1 (d.ruf i RU.dwell) ≤ r.dwell + 1 then (⟨true, 0⟩, some .activates, v)
      else (⟨false, r.dwell + 1⟩, none, v)

/-- Applies what a sample does to a rule, but for a wake. -/
def applyRule (i : Nat) (x : RuleRun × Option RuleEvent × Int) (d : Dev) : Dev :=
  match x.2.1 with
  | none => d.setRule i x.1
  | some .activates => d.activateRule i (signed16 x.2.2)
  | some .releases => d.releaseRule i (signed16 x.2.2)

/-- HGU_SAMPLE. The unit samples its sensors, filters them and evaluates its rules in index order; a shutdown overrides a
wake (R457, R459, R460). -/
def hguSample (m : Mem) (l : List (Option (BitVec 16))) (d : Dev) : Dev :=
  if !d.power.auxOn then d
  else
    let d := { d with sensors := d.sampleAll l }
    let ev := (List.range 64).map fun i => (i, d.evalRule i)
    let wakes := ev.any fun e => decide (e.2.2.1 = some .activates) && decide (d.ruf e.1 RU.action = 2)
    let d := ev.foldl (fun d e => applyRule e.1 e.2 d) d
    if wakes then wakeUp m d else d

/-! ### Telemetry (R461) -/

/-- The body of a telemetry NOTIFY. -/
def Dev.telemetry (d : Dev) : List Byte :=
  leBytes 4 0xFFFFFFFF ++ leBytes 8 d.now ++ leBytes 8 (maskOf 64 d.ruleActive) ++
    leBytes 32 (maskOf 256 fun i => (tFind i d.sensors).isSome) ++
    ((List.range 256).flatMap fun i => leBytes 2 (match tFind i d.sensors with | some s => signed16 s.y | none => 0)) ++
    (List.range 64).flatMap fun p => leBytes 8 (if d.power.phase = .asleep then 0 else d.fld F.PWR_PIP_PIPS 0 p)

/-- TELEMETRY_NOTIFY. -/
def telemetryNotify (d : Dev) : Dev :=
  let span := 1000000 * d.fld F.HGU_TELEM_PERIOD_MS
  if span = 0 ∨ !d.power.auxOn then d
  else
    let body := d.telemetry
    (d.sessions.filter fun e => e.2.telemetry && decide (e.2.lastTelemetry + span ≤ d.now)).foldl (fun d e =>
      let d := d.notify e.1 body
      { d with sessions := tMod e.2 e.1 (fun s => { s with lastTelemetry := d.now }) d.sessions }) d

/-! ### I3C and JTAG (R455) -/

/-- I3C_ENTDAA. -/
def i3cEntdaa (x : BitVec 7) (d : Dev) : Dev :=
  if d.power.auxOn then d.setPower { d.power with i3cAddr := some x } else d

/-- The HGU page from offset 0 as bytes, and TIME_NOW. -/
def Dev.hguPage (d : Dev) : List Byte :=
  ((List.range 128).flatMap fun i => leBytes 8 (d.readWord (.firmware 0) (0x50 * 2 ^ 24 + 8 * i))) ++ leBytes 8 d.now

/-- I3C_PRIVATE_READ. -/
def i3cPrivateRead (n : Nat) (d : Dev) : Dev :=
  if d.power.auxOn && d.power.i3cAddr.isSome then
    (d.send (.i3c (d.hguPage.take n))).setPower { d.power with i3cIbi := false }
  else d

/-- A private write of one byte. -/
def Dev.i3cTakes (d : Dev) : Bool := d.power.auxOn && d.power.i3cAddr.isSome && d.flag F.HGU_CTL_I3C_POWER

/-- A TAP operation (IEEE 1149.1): what is driven on TDO is a free value but in BYPASS, which captures 0. -/
def boundaryScan (op : TapOp) (d : Dev) : Dev :=
  let go := fun (ir : Nat) (d : Dev) => d.setPower { d.power with jtagIr := ir }
  if !d.power.auxOn then d
  else match op with
  | .reset => go 1 d
  | .idcode => (go 1 d).send (.tdo Config.idcode.toNat)
  | .bypass _ => (go 0 d).send (.tdo 0)
  | .boundarySample => go 2 d
  | .boundaryShift _ =>
    let (n, d) := d.draw
    (go 2 d).send (.tdo ((Config.fresh n).toNat % 2))

/-! ### Time (R474) -/

/-- TIME_SET steps the time base while its source is the oscillator (R314). -/
def timeSet (v : Nat) (d : Dev) : Dev :=
  if d.fld F.TIME_STATUS_SOURCE ≠ 0 then d
  else
    let now := d.now
    let d := d.count F.TIME_STATUS_STEPS 1
    d.setPower { d.power with raw := v, last := max d.power.last now, slewLeft := 0, slewPhase := 0 }

/-- A write of HGU_CTL: WAKE and SHUTDOWN act; with both, the shutdown stands (R460, R471). -/
def hguCtl (m : Mem) (w : Path) (v : Nat) (d : Dev) : Dev :=
  let d := d.writeFields w (F.HGU_CTL_WAKE.addr 0 0) v
  let d := if bitAt v 0 && !bitAt v 1 then wakeUp m d else d
  if bitAt v 1 then shutDown d else d

end Sys2Proof.Machine
end

