-- ==== Sys2Proof/Machine/Commands.lean ====
section
/-! DEFINITION. Commands that are written to the command registers of pages (17_register_pages R483), and what a write
of any register does. -/

namespace Sys2Proof.Machine

/-! ### Fencing commands (R422, R423, R428) -/

/-- FENCE: training partitions' turns fail (R221, R415). -/
def fenceCommand (m : Mem) (c : CoreId) (d : Dev) : Dev :=
  if (d.core c).fenced then d
  else
    let ps := (d.affected (16 * c.val) none).filter fun p => decide (partJob m d p ≠ 0)
    settleAll m (fenceCore m c (failParts m 3 (some c) ps [] d))

/-- A fence command: its result. -/
def fenceStart (m : Mem) (h : PageCmd) (d : Dev) : Dev × Nat :=
  match h.op, coreOf h.a with
  | 1, some c => (fenceCommand m c d, 0)
  | 2, some c => (d.setFlash { d.flash with fence := d.flash.fence.filter fun x => decide (x ≠ c.val) }, 0)
  | 1, none => (d, 2)
  | 2, none => (d, 2)
  | _, _ => (d, 1)

/-! ### Commands of a page, one at a time (R483) -/

/-- A command starts: its result, or none while it runs. -/
def startCmd (m : Mem) (h : PageCmd) (d : Dev) : Dev × Option Nat :=
  let once := fun (x : Dev × Nat) => (x.1, some x.2)
  match h.page / 256, h.op / 256 with
  | 0x10, _ => let (d, r) := xmapStart m h d; (d.updateGens, r)
  | 0x12, _ => ringStart m h d
  | 0x30, 0 => partStart m h d
  | 0x30, _ => ctxStart m h d
  | 0x32, _ => genStart m h d
  | 0x48, _ => once (fenceStart m h d)
  | 0x51, 0 => once (fwCommand m h.op h.a h.arg0 h.arg1 h.arg2 d)
  | 0x51, _ => once (attest h.path h.code h.a d)
  | _, _ => once (positionCommand m h.op h.a h.b d)

/-- A command that runs goes on, where nothing but other commands' effects is waited for. -/
def continueCmd (m : Mem) (h : PageCmd) (d : Dev) : Dev × Option Nat :=
  match h.page / 256, h.op / 256 with
  | 0x12, _ => ringContinue h d
  | 0x30, 0 => (d, partContinue h d)
  | 0x30, _ => ctxContinue m h d
  | 0x32, _ => genContinue h d
  | _, _ => (d, none)

/-- Ends the command at the head of a page with a result. -/
def Dev.finish (d : Dev) (page result : Nat) : Dev :=
  match d.pageHead page with
  | some h => d.endHead (pageStatusOf page h.op).1 (page % 256) page result
  | none => d

/-- Lets a page's commands go on: the head starts, or continues, and the next follows when it ends. -/
def pump (m : Mem) (page : Nat) : Nat → Dev → Dev
  | 0, d => d
  | n + 1, d =>
    match d.pageHead page with
    | none => d
    | some h =>
      let (d, r) := if h.began.isSome then continueCmd m h d
        else
          let d := d.beginHead page
          startCmd m { h with began := some d.now } d
      match r with
      | some r => pump m page n (d.finish page r)
      | none => d

/-- Lets every page's commands go on. -/
def pumpAll (m : Mem) (d : Dev) : Dev :=
  (d.pageCmds.map fun c => c.page).dedup.foldl (fun d page => pump m page (d.pageCmds.length + 1) d) d

/-- A command that runs at the head of a page ends with the result that an event gives, and the next follows. -/
def eventEnds (m : Mem) (page : Nat) (f : PageCmd → Dev → Dev × Option Nat) (d : Dev) : Dev :=
  match d.runningOn page with
  | none => d
  | some h =>
    let (d, r) := f h d
    match r with
    | some r => pump m page (d.pageCmds.length + 1) (d.finish page r)
    | none => d

/-- Enters a command and lets its page go on. -/
def enterAndPump (m : Mem) (c : PageCmd) (d : Dev) : Dev :=
  let d := d.enterCmd (pageStatusOf c.page c.op).1 (c.page % 256) c
  pump m c.page (d.pageCmds.length + 1) d

/-- The command that a write of v to a command register enters, with the path's arguments; none for other
registers. -/
def commandOf (w : Path) (a v : Nat) (d : Dev) : Option PageCmd :=
  let page := a / 2 ^ 16
  let k := page % 256
  let mk := fun (op x y z a0 a1 a2 : Nat) => some (⟨w, page, op, x, y, z, a0, a1, a2, none, false⟩ : PageCmd)
  match page / 256, a % 2 ^ 16 with
  | 0x10, 0x100 => mk (bits v 0 4) (bits v 4 17) (bits v 21 12) 0 (d.pfld w F.XMAP_ARG0_ENTRY k) (d.pfld w F.XMAP_ARG1_EXPECTED k) 0
  | 0x12, 0x100 => mk (bits v 0 3) (bits v 3 18) 0 0 (d.pfld w F.RING_ARG_WORD 0 0) (d.pfld w F.RING_ARG_WORD 0 1)
      (d.pfld w F.RING_ARG_WORD 0 2)
  | 0x30, 0x100 => mk (bits v 0 4) (bits v 4 8) (bits v 12 6) 0 0 0 0
  | 0x30, 0x160 => mk (256 + bits v 0 3) (bits v 3 16) (bits v 19 8) (bits v 27 19) (d.pfld w F.PART_CTX_ARG_ADDR k) 0 0
  | 0x32, 0x100 => mk (bits v 0 3) (bits v 3 24) 0 0 (d.pfld w F.GEN_ARG_MANIFEST k) 0 0
  | 0x48, 0x178 => mk (bits v 0 2) (bits v 2 8) 0 0 0 0 0
  | 0x51, 0x118 => mk (bits v 0 4) (bits v 4 3) 0 0 (d.pfld w F.SEC_FW_ARG_SRC_OFFSET) (d.pfld w F.SEC_FW_ARG_LENGTH)
      (d.pfld w F.SEC_FW_ARG_DST_OFFSET)
  | 0x51, 0x150 => mk (256 + bits v 0 2) (bits v 2 4) 0 0 0 0 0
  | 0x52, 0x100 => mk (bits v 0 3) (bits v 3 3) (bits v 6 22) 0 0 0 0
  | _, _ => none

/-- A write of FLT_RESET (R411, R428). -/
def resetWrite (m : Mem) (v : Nat) (d : Dev) : Dev :=
  match bits v 0 3, coreOf (bits v 3 8) with
  | 1, none => d
  | n, c => settleAll m (d.startReset n (c.getD 0) (!bitAt v 11) 0)

/-- A write of FLT_SRC_CFG: CLASS, and then the force bits (R403, R428). -/
def srcCfgWrite (m : Mem) (w : Path) (v : Nat) (d : Dev) : Dev :=
  let d := d.srcCfg w v
  let s := d.pfld w F.FLT_SRC_IDX_SOURCE
  let on := d.flag F.FLT_CTL_DICE_EN
  let (a, d) := d.draw
  let (b, d) := d.draw
  let detail := (Config.fresh b).toNat
  let d := if on && bitAt v 5 then raiseFault m s 0xFF detail true false none d else d
  let d := if on && bitAt v 6 then raiseFault m s ((Config.fresh a).toNat % 256) detail true true none d else d
  settleAll m d

/-- What a write of v to the word at a does. -/
def writeEffect (m : Mem) (w : Path) (a v : Nat) (d : Dev) : Dev :=
  match commandOf w a v d with
  | some c => enterAndPump m c d
  | none =>
    if a = F.FLT_RESET_DOMAIN.addr 0 0 then resetWrite m v d
    else if a = F.FLT_SRC_CFG_CLASS.addr 0 0 then srcCfgWrite m w v d
    else if a = F.HGU_CTL_WAKE.addr 0 0 then hguCtl m w v d
    else if a = F.TIME_SET_NS.addr 0 0 then timeSet v d
    else writeSimple m w a v d

/-! ### What follows an event -/

/-- After an event on a core: its contexts' bookkeeping (R258, R259), and page commands that can go on (R483). -/
def afterCore (m : Mem) (c : CoreId) (force : Bool) (d : Dev) : Dev := pumpAll m (settle m c force d)

/-- After an event that may concern every core. -/
def afterAll (m : Mem) (d : Dev) : Dev := pumpAll m (settleAll m d)

/-- A register write by a path, with what follows from it; one that is refused changes nothing. -/
def doWrite (m : Mem) (w : Path) (a v : Nat) (d : Dev) : Dev :=
  if d.writeAns w a v = .ok then afterAll m (regWrite m w a v (writeEffect m w a v) d) else d

end Sys2Proof.Machine
end

