-- ==== Sys2Proof/Machine/Dcp.lean ====
section
/-! DEFINITION. The Dzioft Control Protocol: sessions and requests (12_host_port R352 to R363, 16_management_banker R453,
R454, R461). -/

namespace Sys2Proof.Machine

/-- A DCP port serves: the host port with its link, or an enabled management port with its link (R352, R368, R452). -/
def Dev.portServes (d : Dev) (p : NetPort) : Bool :=
  match p with
  | .host => d.portOn && d.flag F.HOST_STATUS_LINK
  | .mgt n => d.power.auxOn && d.flag F.HGU_MGT_CFG_EN 0 n.val && d.flag F.HGU_MGT_STATUS_LINK 0 n.val

/-! ### Opening (R353, R354, R453) -/

/-- The OPEN names a key that the device holds. -/
def Dev.openKey (d : Dev) (o : OpenPacket) : Bool :=
  if o.keyIndex = 0xFFFE then decide (o.port ≠ .host)
  else (operatorKey d.positionInForce o.keyIndex.toNat).isSome

/-- A slot for a device-scope session is free: 8 on the host port, 4 on a management port. -/
def Dev.openSlot (d : Dev) (p : NetPort) : Bool :=
  let n := (d.sessions.filter fun e => decide (e.2.port = p) && decide (e.2.scope = .device)).length
  decide (n < if p = .host then 8 else 4)

/-- A partition-scope OPEN names an ACTIVE or HELD partition and a DCP ring of it without a session. -/
def Dev.openPart (d : Dev) (p : PartId) (r : Nat) : Bool :=
  let st := d.fld F.PART_STATUS_STATE p.val
  (decide (st = 1) || decide (st = 3)) && decide (d.rf r RF.kind = 4) && decide (d.rf r RF.owner = p.val) &&
    !d.sessions.any fun e => decide (e.2.scope ≠ .device) && decide (e.2.ring.toNat = r)

/-- The scope that an OPEN names, if it names one (R353). -/
def openScope (o : OpenPacket) : Option Scope :=
  if o.scope = 0xFF then some .device
  else if h : o.scope.toNat < 64 then some (.partition ⟨o.scope.toNat, h⟩)
  else none

/-- Items 1 to 5 of the body of an OPEN, over whose SHA3-512 digest the host signs (R353). -/
def openItems (o : OpenPacket) : List Byte :=
  leBytes 1568 o.ciphertext.toNat ++ leBytes 32 o.hostNonce.toNat ++ leBytes 8 o.scope.toNat ++ leBytes 4 o.ring.toNat ++
    leBytes 2 o.keyIndex.toNat

/-- The body of an OPEN (R353). -/
def openBody (o : OpenPacket) : List Byte := openItems o ++ leBytes 4627 o.signature.toNat

/-- The reason for which an OPEN is refused. -/
def Dev.openRefusal (d : Dev) (o : OpenPacket) : Option Nat :=
  if !o.signatureOk || !d.openKey o then some 1
  else if !o.decapsOk then some 2
  else match openScope o with
    | some .device => if d.openSlot o.port then none else some 3
    | some (.partition p) => if o.port = .host ∧ d.openPart p o.ring.toNat then none else some 4
    | none => some 4

/-- A session number that is free and not 0, from a free value on. -/
def Dev.freeSession (d : Dev) (n : Nat) : Nat :=
  (((List.range (d.sessions.length + 2)).map fun i => (n + i) % 2 ^ 32).find? fun i =>
    decide (i ≠ 0) && (tFind i d.sessions).isNone).getD 1

/-- An OPEN and its answer are counted on the host port (R371). -/
def Dev.openFrames (d : Dev) (p : NetPort) : Dev := if p = .host then (d.countFrame false 0).countFrame true 0 else d

/-- The two keys of a session as one string: the SHA3-512 digest of the shared secret, of the digest of the OPEN's body and of
the device's nonce (R354). -/
def sessionKeys (o : OpenPacket) (nonce : List Byte) : List Byte :=
  sha3 ((List.range 32).map (Config.sharedSecret o.ciphertext) ++ sha3 (openBody o) ++ nonce)

/-- The session that an OPEN begins (R353, R354). -/
def openedSession (o : OpenPacket) (keys : List Byte) (d : Dev) : Session :=
  let s := (openScope o).getD .device
  { port := o.port, scope := s, key := o.keyIndex
    ring := match s with | .partition _ => BitVec.ofNat 18 o.ring.toNat | .device => 0
    peer := o.source, toDevice := keys.take 32, toHost := keys.drop 32
    lastAt := d.now, byHgu := d.hguAlone }

/-- Session n begins: a DCP ring names it, and counts requests from 0 (R321, R354). -/
def Dev.beginSession (d : Dev) (n : Nat) (o : OpenPacket) (keys : List Byte) : Dev :=
  let s := openedSession o keys d
  let e := d.setSession n s
  match s.scope with
  | .partition _ => (e.setRf s.ring.toNat RF.session n).setRf s.ring.toNat RF.nextSeq 0
  | .device => e

/-- A DCP packet that is not authentic, or of no session, is dropped and counted (R352). -/
def Dev.unheard (d : Dev) : Dev := if d.hguAlone then d else d.count F.HOST_ERR_DCP_AUTH 1

/-- The header of a DCP packet is right (R352): MAGIC and VERSION. -/
def dcpHead (magic : BitVec 16) (version : BitVec 8) : Bool := decide (magic = 0x4443) && decide (version = 1)

/-- The body of an OPEN_ACK (R354): SESSION, the device's nonce, and a signature over the digest of the OPEN's body, SESSION
and the nonce. -/
def openAck (o : OpenPacket) (n : Nat) (nonce : List Byte) : List Byte :=
  leBytes 4 n ++ nonce ++ (List.range 4627).map (Config.signature (sha3 (openBody o ++ leBytes 4 n ++ nonce)))

/-- The device's nonce: a free value, for the number of free values drawn (R354, R432). -/
def deviceNonce (k : Nat) : List Byte := (List.range 32).map fun i => Config.freeByte (k * 2 ^ 32 + i)

/-- DCP_OPEN. The session opens, or is refused (R354). -/
def dcpOpen (o : OpenPacket) (d : Dev) : Dev :=
  if !d.portServes o.port || !d.frameTaken o.port o.source then d
  else if !dcpHead o.magic o.version then d.unheard
  else
    let tag := d.frameTag o.port
    match d.openRefusal o with
    | some r => (d.openFrames o.port).send (.dcp o.port o.source tag 6 0 0 0 (leBytes 4 r))
    | none =>
      let (k, d) := (d.openFrames o.port).draw
      let n := d.freeSession (Config.fresh k).toNat
      (d.beginSession n o (sessionKeys o (deviceNonce k))).send (.dcp o.port o.source tag 2 (BitVec.ofNat 32 n) 0 0
        (openAck o n (deviceNonce k)))

/-! ### Operations (R358 to R360, R362, R363) -/

/-- The LENGTH of a request that carries n bytes of data (R359). -/
def reqLength (n : Nat) : Nat := 24 + n + 16

/-- The request is of SIZE as R359 wants it: COUNT from lo to hi, n bytes of data. -/
def sized (h : ReqHead) (o : DcpOp) (lo hi n : Nat) : Bool :=
  decide (lo ≤ o.count.toNat) && decide (o.count.toNat ≤ hi) && decide (o.data.length = n) &&
    decide (h.length.toNat = reqLength n)

/-- STATUS of an answer to a register access (R360). -/
def Ans.status : Ans → Nat
  | .ok => 0
  | .address => 2
  | .denied => 1
  | .reset => 5

/-- A reply with a DONE that the spec does not state. -/
def reply (status : Nat) (data : List Byte) (d : Dev) : Dev × Reply :=
  let (k, d) := d.draw
  (d, ⟨status, (Config.fresh k).toNat % 2 ^ 32, data⟩)

/-- REG_READ of n words from a on, of which k are done (R359, R360, R484). -/
def readWords (w : Path) (d : Dev) : Nat → Nat → Nat → List Byte → Reply
  | _, k, 0, l => ⟨0, k, l⟩
  | a, k, n + 1, l =>
    match d.readAns w a with
    | .ok => readWords w d (a + 8) (k + 1) n (l ++ leBytes 8 (d.readFor w a))
    | r => ⟨r.status, k, l⟩

/-- REG_WRITE of words from a on, of which k are done (R359, R360, R484). -/
def writeWords (m : Mem) (w : Path) : List (List Byte) → Nat → Nat → Dev → Dev × Reply
  | [], _, k, d => (d, ⟨0, k, []⟩)
  | v :: l, a, k, d =>
    match d.writeAns w a (leNat v) with
    | .ok => writeWords m w l (a + 8) (k + 1) (doWrite m w a (leNat v) d)
    | r => (d, ⟨r.status, k, []⟩)

/-- An extent lies within a session's scope (R355): a partition's own, or any for a device-scope session. -/
def Dev.extentInScope (d : Dev) (s : Scope) (e : Nat) : Bool :=
  match s with
  | .device => true
  | .partition p => d.entryMine p.val e false

/-- A session may read or write an extent (R229, R232, R233). -/
def Dev.dcpAccess (d : Dev) (s : Scope) (e : Nat) (write : Bool) : Bool :=
  match s with
  | .partition p => d.hostAccess p e write
  | .device =>
    if systemExtent e then (decide (e = 16381) && !write) || sysKeyAccess (e * extentSize) 1 write
    else d.hostAccess (partOf (d.xf e XF.owner)) e write

/-- STATUS of an access to device memory, before it is made (R360, R368). -/
def Dev.memStatus (d : Dev) (s : Scope) (a n : Nat) (write : Bool) : Nat :=
  let es := extentsOf a n
  if d.memoryDown ∨ d.hguAlone then 5
  else if 2 ^ 41 < a + n then 2
  else if !es.all (d.extentInScope s) then 1
  else if !es.all fun e => d.dcpAccess s e write then 3
  else if (if write then d.badWrite a n else d.readFails a n) then 7
  else 0

/-- The partition of a scope. -/
def scopePart : Scope → Option PartId
  | .device => none
  | .partition p => some p

/-- MEM_READ (R359). -/
def opMemRead (m : Mem) (s : Session) (h : ReqHead) (o : DcpOp) (d : Dev) : Dev × Reply :=
  let a := o.addr.toNat
  let n := o.count.toNat
  if !sized h o 1 4096 0 then reply 8 [] d
  else match d.memStatus s.scope a n false with
    | 0 => reply 0 (memRead m d a n) (d.countStk false a n)
    | 7 => reply 7 [] (raiseBad m a n (scopePart s.scope) d)
    | r => reply r [] d

/-- MEM_WRITE (R359, R360). -/
def opMemWrite (m : Mem) (s : Session) (h : ReqHead) (o : DcpOp) (d : Dev) : Dev × Reply :=
  let a := o.addr.toNat
  let n := o.count.toNat
  if !sized h o 1 8064 n then reply 8 [] d
  else match d.memStatus s.scope a n true with
    | 0 => reply 0 [] (accumulate m a n ((d.store a o.data).countStk true a n))
    | 7 => reply 7 [] (raiseCut m a n (scopePart s.scope) d)
    | r => reply r [] d

/-- A ring lies within a session's scope (R355). -/
def Dev.ringInScope (d : Dev) (s : Scope) (r : Nat) : Bool :=
  match s with
  | .device => true
  | .partition p => d.ringMine p.val r

/-- DOORBELL (R362). -/
def opDoorbell (m : Mem) (s : Session) (h : ReqHead) (o : DcpOp) (d : Dev) : Dev × Reply :=
  let r := o.ring.toNat
  let n := o.count.toNat
  let own := partOf (d.rf r RF.owner)
  if d.memoryDown ∨ d.hguAlone then reply 5 [] d
  else if !d.ringInScope s.scope r then reply 1 [] d
  else if d.rf r RF.kind ≠ 1 ∨ d.rf r RF.pHost ≠ 1 then reply 4 [] d
  else if !sized h o 1 (d.slotCapacity r) 0 then reply 8 [] d
  else if o.addr.toNat % 2 ^ 32 ≠ d.rf r RF.produced ∨ !d.ringRoom r ∨ d.rf r RF.error = 1 then reply 4 [] d
  else if !d.bufferOk r then reply 4 [] (ringError m r 5 0 d)
  else
    let (k, d) := d.claim r
    let a := d.slotAddr r k
    reply 0 [] ((d.store a (slotHeader n k (d.turnOf own) d.deviceId true false)).countStk true a 64)

/-- CONSUME (R362). -/
def opConsume (m : Mem) (s : Session) (h : ReqHead) (o : DcpOp) (d : Dev) : Dev × Reply :=
  let r := o.ring.toNat
  if d.memoryDown ∨ d.hguAlone then reply 5 [] d
  else if !d.ringInScope s.scope r then reply 1 [] d
  else if !sized h o 0 (2 ^ 32) 0 then reply 8 [] d
  else if d.rf r RF.kind ≠ 1 ∨ d.rf r RF.consumer ≠ 2 ∨ o.addr.toNat % 2 ^ 32 ≠ d.rf r RF.consumed ∨
      d.rf r RF.error = 1 ∨ !ringVisible m d r then reply 4 [] d
  else if !d.bufferOk r then reply 4 [] (ringError m r 5 0 d)
  else reply 0 [] (d.consumeAt m r (d.rf r RF.consumed))

/-- Changes a session that is open. -/
def Dev.modSession (d : Dev) (n : Nat) (f : Session → Session) : Dev :=
  match tFind n d.sessions with
  | some s => d.setSession n (f s)
  | none => d

/-- SUBSCRIBE (R363, R461). -/
def opSubscribe (n : Nat) (s : Session) (h : ReqHead) (o : DcpOp) (d : Dev) : Dev × Reply :=
  let r := o.ring.toNat
  let on := decide (o.count = 1)
  if !sized h o 0 1 0 then reply 8 [] d
  else if s.port ≠ .host ∧ o.addr = 1 then
    reply 0 [] (d.modSession n fun s => { s with telemetry := on, lastTelemetry := d.now })
  else if d.memoryDown ∨ d.hguAlone then reply 5 [] d
  else if !d.ringInScope s.scope r then reply 1 [] d
  else if d.rf r RF.kind ≠ 1 ∧ d.rf r RF.kind ≠ 2 then reply 4 [] d
  else reply 0 [] (d.modSession n fun s => { s with
    subs := if !on then tDel r s.subs else if (tFind r s.subs).isSome then s.subs else tPut r (d.ringCounts r) s.subs })

/-- REG_READ (R359). -/
def opRegRead (w : Path) (h : ReqHead) (o : DcpOp) (d : Dev) : Dev × Reply :=
  if !sized h o 1 1000 0 then reply 8 [] d
  else (d, readWords w d o.addr.toNat 0 o.count.toNat [])

/-- REG_WRITE (R359). -/
def opRegWrite (m : Mem) (w : Path) (h : ReqHead) (o : DcpOp) (d : Dev) : Dev × Reply :=
  let n := o.count.toNat
  if !sized h o 1 1000 (8 * n) then reply 8 [] d
  else writeWords m w ((List.range n).map fun i => (o.data.drop (8 * i)).take 8) o.addr.toNat 0 d

/-- The effect of an operation, and its reply (R359). -/
def runOp (m : Mem) (n code : Nat) (s : Session) (h : ReqHead) (o : DcpOp) (d : Dev) : Dev × Reply :=
  if !h.reservedZero || decide (o.op.toNat ≠ code) then reply 6 [] d
  else match code with
    | 2 => opRegRead (sessionPath n s) h o d
    | 3 => opRegWrite m (sessionPath n s) h o d
    | 4 => opMemRead m s h o d
    | 5 => opMemWrite m s h o d
    | 6 => opDoorbell m s h o d
    | 7 => opConsume m s h o d
    | 8 => opSubscribe n s h o d
    | _ => if h.length.toNat = reqLength 0 then reply 0 [] d else reply 8 [] d

/-! ### Order (R361) -/

/-- The operation of a row that carries none beyond its code. -/
def plainOp (code : Nat) : DcpOp := ⟨BitVec.ofNat 8 code, 0, 0, 0, []⟩

/-- The body of a RESPONSE (R358). -/
def Reply.body (r : Reply) (seq : Nat) : List Byte :=
  leBytes 8 seq ++ leBytes 4 r.status ++ leBytes 4 r.done ++ r.data

/-- Sends a reply (R358). -/
def Dev.respond (d : Dev) (n : Nat) (seq : Nat) (r : Reply) : Dev := d.sendIn n 4 r.status (r.body seq)

/-- The header of a DCP packet of a type whose body takes len bytes (R352). -/
def dcpHeader (type n seq len : Nat) : List Byte :=
  leBytes 2 0x4443 ++ leBytes 1 1 ++ leBytes 1 type ++ leBytes 4 n ++ leBytes 8 seq ++ leBytes 2 len ++ leBytes 14 0

/-- The RESPONSE to request seq goes into the response cache of a partition's session, in device memory: 64 responses of
8,192 bytes (R352, R357, R361). -/
def Dev.cacheResponse (d : Dev) (n seq : Nat) (r : Reply) : Dev :=
  match tFind n d.sessions with
  | none => d
  | some s =>
    match s.scope with
    | .device => d
    | .partition p =>
    let a := 64 * d.rf s.ring.toNat RF.cacheLine + 8192 * (seq % 64)
    let l := dcpHeader 4 n s.sentSeq (16 + (r.body seq).length) ++ r.body seq
    if d.memoryDown ∨ d.rf s.ring.toNat RF.kind ≠ 4 ∨ 8192 < l.length ∨ d.badWrite a l.length ∨ !d.validData p.val a l.length then d
    else (d.store a l).countStk true a l.length

/-- Executes the request whose turn it is, answers it and keeps the reply; CLOSE ends the session (R356, R361). -/
def execRequest (m : Mem) (n : Nat) (x : HeldReq) (d : Dev) : Dev :=
  match tFind n d.sessions with
  | none => d
  | some s =>
    let seq := s.next.toNat
    let (d, r) := runOp m n x.code s x.head (x.op.getD (plainOp x.code)) d
    let d := d.modSession n fun s => { s with
      next := s.next + 1, held := tDel seq s.held
      cache := tPut seq r (s.cache.filter fun e => decide (seq < e.1 + 64)) }
    let d := match s.scope with
      | .partition _ => if d.rf s.ring.toNat RF.kind = 4 then d.setRf s.ring.toNat RF.nextSeq (seq + 1) else d
      | .device => d
    let d := d.cacheResponse n seq r
    let d := d.respond n seq r
    if x.code = 9 ∧ r.status = 0 then d.closeSession n else d

/-- Executes held successors in order. -/
def execHeld (m : Mem) (n : Nat) : Nat → Dev → Dev
  | 0, d => d
  | k + 1, d =>
    match tFind n d.sessions with
    | none => d
    | some s => match tFind s.next.toNat s.held with
      | none => d
      | some x => execHeld m n k (execRequest m n x d)

/-- A frame of a REQUEST is counted on the host port (R371). -/
def Dev.heard (d : Dev) (h : ReqHead) : Dev := if h.port = .host then d.countFrame false (32 + h.length.toNat) else d

/-- A session holds a request that is early (R361). -/
def Session.early (x : HeldReq) (s : Session) : Session := { s with held := tPut x.head.seq.toNat x s.held }

/-- A REQUEST arrives (R352, R361): executed, held, answered again, or dropped and counted. -/
def takeRequest (m : Mem) (code : Nat) (h : ReqHead) (o : Option DcpOp) (d : Dev) : Dev :=
  if !d.portServes h.port || !d.frameTaken h.port h.source then d
  else
    let n := h.session.toNat
    let d := d.heard h
    match tFind n d.sessions with
    | none => d.unheard
    | some s =>
      if !dcpHead h.magic h.version || decide (h.type ≠ 3) || !h.tagOk || decide ((s.port = .host) ≠ (h.port = .host)) then d.unheard
      else
        let d := d.modSession n fun s => { s with lastAt := d.now, port := h.port, peer := h.source }
        let x : HeldReq := ⟨code, h, o, d.now⟩
        let ahead := (h.seq - s.next).toNat
        let behind := (s.next - h.seq).toNat
        if ahead = 0 then execHeld m n s.held.length (execRequest m n x d)
        else if ahead ≤ 63 then if (tFind h.seq.toNat s.held).isSome then d else d.modSession n fun s => s.early x
        else if behind ≤ 64 then
          match tFind h.seq.toNat s.cache with
          | some r => d.respond n h.seq.toNat r
          | none => d
        else if d.hguAlone then d else d.count F.HOST_ERR_DCP_SEQ 1

end Sys2Proof.Machine
end

