-- ==== Sys2Proof/Machine/Idle.lean ====
section
/-! DEFINITION. What cores wait for: idle causes (11_collectives_mapping R343), stalemate (14_faults_recovery R409), and
the hourglass timers (R408). -/

namespace Sys2Proof.Machine

/-! ### Waiting contexts -/

/-- The command at the head of a context's mover queue waits for its ring (R258, R343): whether it is an MRECV, and
the ring. -/
def ringWait (m : Mem) (d : Dev) (y : Ctx) : Option (Bool × Nat) :=
  match y.sq.cmds with
  | [] => none
  | cmd :: _ =>
    let op := cmd.f CF.op
    let r := cmd.f MF.ring
    if (op = 0x45 ∨ op = 0x46) ∧ !ringServes m d op r then some (decide (op = 0x46), r) else none

/-- The resident context of a partition that has been blocked longest on a core (R343). -/
def Dev.waitingCtx (d : Dev) (p : PartId) (c : CoreId) : Option Ctx :=
  let l := [0, 1, 2, 3].filterMap fun i => match d.slotCtx c (slotOf i) with
    | some y => if y.part = p ∧ (d.core c).blocked (slotOf i) y then some (i, y.sched.blockedSince.getD d.now, i) else none
    | none => none
  (earliest l).bind fun i => d.slotCtx c (slotOf i)

/-- A swap runs on a core: one that waits counts as a blocked context (R141). -/
def Dev.swapRuns (d : Dev) (c : CoreId) : Bool := (d.core c).swap.isSome && !d.swapWaits c

/-- A core that a partition owns is idle (R343). -/
def Dev.coreIdle (d : Dev) (p : PartId) (c : CoreId) : Bool :=
  !d.swapRuns c && [0, 1, 2, 3].all fun i => match d.slotCtx c (slotOf i) with
    | some y => decide (y.part ≠ p) || !(d.core c).executingAny (slotOf i)
    | none => true

/-! ### Phases of a turn (R198) -/

/-- READY: the device has reported ready for the turn. -/
def readyPhase (m : Mem) (d : Dev) (p : PartId) : Bool :=
  decide (partJob m d p ≠ 0) && (d.job (partJob m d p)).readyAt.isSome

/-- Castling wait: at the boundary, for the banker's decision (R276). -/
def castlingWait (m : Mem) (d : Dev) (p : PartId) : Bool :=
  readyPhase m d p && (castlingParts m d (partJob m d p)).contains p

/-- COMPUTE: a pass of the job runs, or a weight-gradient accumulation has not written its last row. -/
def computePhase (m : Mem) (d : Dev) (p : PartId) : Bool :=
  decide (partJob m d p ≠ 0) && !readyPhase m d p && (d.ownedCores p).any fun c => let x := d.core c
    !x.passes.isEmpty || x.op.isOpen || x.op.closing.isSome || x.opDrain.isSome

/-- REDUCE: a collective of the partition has not ended. -/
def reducePhase (m : Mem) (d : Dev) (p : PartId) : Bool :=
  decide (partJob m d p ≠ 0) && !readyPhase m d p && d.ctxs.any fun e => decide (e.2.part = p) &&
    (decide (e.2.wait = some .collective) || !e.2.schedule.isEmpty || e.2.sq.cmds.any (fun q => e.2.collCmds.contains q.seq) ||
      (match e.2.place with
       | .resident c k => (d.core c).mover.any fun x => decide (x.slot = k) && e.2.collCmds.contains x.cmd.seq
       | .out => false))

/-- A shadow member is written, and no access to it is in flight (R171). -/
def Dev.settled (d : Dev) (e : Nat) : Bool := d.written.contains e && !d.extentBusy e

/-- MIRROR: every shadow member of the job is written, and mirrors are not all through. -/
def mirrorPhase (m : Mem) (d : Dev) (p : PartId) : Bool :=
  let j := partJob m d p
  let own := jobShadows m d j 3
  decide (j ≠ 0) && !readyPhase m d p && !own.isEmpty && own.all d.settled && !d.mirrorsOff j &&
    (own.any d.unsent.contains || !(d.job j).unacked.isEmpty || !(jobShadows m d j 4).all d.arrived.contains)

/-- UPDATE: the writing of shadow members of the job has begun, and not every one is written. -/
def updatePhase (m : Mem) (d : Dev) (p : PartId) : Bool :=
  let own := jobShadows m d (partJob m d p) 3
  decide (partJob m d p ≠ 0) && own.any (fun e => d.written.contains e || d.extentBusy e) && !own.all d.settled

/-! ### Idle causes (R343) -/

/-- A device that a ring names has a pace notice in force here. -/
def Dev.paced (d : Dev) (device : Nat) : Bool := d.paceIn.any fun e => decide (e.1 / 2 ^ 16 = device) && e.2.inForce

/-- The index of the cause against which an idle instant of a core of p counts, if any: the first row that applies. -/
def idleCause (m : Mem) (d : Dev) (p : PartId) (c : CoreId) : Option Nat :=
  let w := d.waitingCtx p c
  let ring := w.bind (ringWait m d)
  let waits := fun (f : Nat → Bool) => match ring with | some (_, r) => decide (d.rf r RF.kind = 1) && f r | none => false
  let begun := match ring with
    | some (true, r) => decide (d.rf r RF.kind = 1) &&
        (let n := (d.rf r RF.produced + 2 ^ 32 - d.nextRecv r) % 2 ^ 32; decide (0 < n) && decide (n < 2 ^ 31))
    | _ => false
  let full := match ring with | some (false, r) => decide (d.rf r RF.kind = 2) | _ => false
  let queued := match w.bind fun y => y.sq.cmds.head? with
    | some cmd => decide (cmd.f CF.op = 0x45) && decide (d.rf (cmd.f MF.ring) RF.kind = 2) && d.ringRoom (cmd.f MF.ring) &&
        d.egress.any (d.sendTraffic (cmd.f MF.ring))
    | none => false
  let barrier := match w with
    | some y => ring.isSome && (match y.sq.cmds with | x :: _ => y.barriers.contains x.seq | [] => false)
    | none => false
  if castlingWait m d p then some 6
  else if readyPhase m d p || barrier then some 2
  else if (d.homedOn c).any fun e => decide (e.2.part = p) && decide (e.2.place = .out) && e.2.sched.runnableSince.isSome then some 7
  else if waits fun r => decide (d.rf r RF.remote = 1) && d.paced (d.rf r RF.peerDevice) then some 1
  else if begun || queued then some 5
  else if (waits fun r => decide (d.rf r RF.remote = 1)) || full || mirrorPhase m d p then some 0
  else if waits fun r => decide (d.rf r RF.pHost = 1) then some 4
  else if updatePhase m d p then some 3
  else none

/-- Counts n ns of device time of a core against its cause, and for the straggler index (R343, R344). -/
def countIdle (m : Mem) (n : Nat) (d : Dev) (c : CoreId) : Dev :=
  match (d.core c).owner with
  | none => d
  | some p =>
    if !d.coreIdle p c then d
    else match idleCause m d p c with
      | none => d
      | some i =>
        let d := d.setFld F.PART_IDLE_NS ((d.fld F.PART_IDLE_NS p.val i + n) % 2 ^ 64) p.val i
        if partJob m d p ≠ 0 ∧ [0, 1, 2, 5, 6].contains i then
          { d with idleSpan := tPut c.val (tGet 0 d.idleSpan c.val + n) d.idleSpan }
        else d

/-! ### Stalemate (R409) -/

/-- A resident context is blocked locally. -/
def blockedLocally (m : Mem) (d : Dev) (c : CoreId) (k : SlotId) (y : Ctx) : Bool :=
  (d.core c).blocked k y && (match ringWait m d y with
    | some (true, r) => !(decide (d.rf r RF.kind = 1) &&
        (decide (d.rf r RF.remote = 1) || decide (d.rf r RF.pHost = 1) || decide (d.rf r RF.pHub = 1)))
    | some (false, r) => decide (d.rf r RF.kind ≠ 2)
    | none => true)

/-- A partition is in stalemate. -/
def inStalemate (m : Mem) (d : Dev) (p : PartId) : Bool :=
  let res := (d.ctxs.filter fun e => decide (e.2.part = p)).filterMap fun e => match e.2.place with
    | .resident c k => if e.2.sched.stopped then none else some (c, k, e.2)
    | .out => none
  !d.partExecutes p && (d.ownedCores p).all (fun c => !d.swapRuns c) && !res.isEmpty &&
    (res.all fun x => blockedLocally m d x.1 x.2.1 x.2.2) &&
    !(d.ctxs.any fun e => decide (e.2.part = p) && decide (e.2.place = .out) && e.2.sched.runnableSince.isSome)

/-- The stalemate detector of a partition runs. -/
def detectorRuns (m : Mem) (d : Dev) (p : PartId) : Bool :=
  decide (d.pstate p ≠ 0) && decide (d.pstate p ≠ 3) && !readyPhase m d p && !castlingWait m d p &&
    (!d.isServing p || (d.serve p.val).step.isSome)

/-- STALEMATE_DETECTED. A partition has been in stalemate for the limit: its source raises. -/
def stalemateDetected (m : Mem) (p : PartId) (d : Dev) : Dev :=
  match tFind p.val d.staleSince with
  | none => d
  | some t =>
    if d.hubOn && detectorRuns m d p && inStalemate m d p && decide (t + 1000000 * d.fld F.FLT_STALEMATE_LIMIT_MS ≤ d.now) then
      let d := { d.count F.FLT_STALEMATE_FIRED 1 with staleSince := tPut p.val d.now d.staleSince }
      settleAll m (raiseOwn m (2880 + p.val) none (some p) d)
    else d

/-! ### Hourglass timers (R408) -/

/-- The oldest command that a unit has issued. Of a pass and a tile load, the one that ends first counts as older. -/
def Core.oldest (x : Core) (u : Nat) : Option Cmd :=
  match u with
  | 0 =>
    let cl := x.closings
    match cl.find? fun y => y.ready with
    | some y => some y.cmd
    | none => match x.passes, x.tileLoad with
      | p :: _, some t => if p.due ≤ t.due then some p.cmd else some t.cmd
      | p :: _, none => some p.cmd
      | [], some t => some t.cmd
      | [], none => cl.head?.map fun y => y.cmd
  | 1 => x.vec.map fun v => v.cmd
  | _ => x.mover.head?.map fun v => v.cmd

/-- HOURGLASS_TIMER_EXPIRY. A unit's oldest command has reached the limit: its source raises, with TAG and sequence
number; the timer starts again. -/
def hourglassTimerExpiry (m : Mem) (c : CoreId) (u : Nat) (d : Dev) : Dev :=
  match (d.core c).oldest u, tFind u (d.core c).hang with
  | some cmd, some t =>
    if d.hubOn && decide (t + 1000000 * d.fld F.FLT_HANG_LIMIT_MS ≤ d.now) then
      let d := d.modCore c fun x => { x with hang := tPut u d.now x.hang }
      settleAll m (raiseOwn m (16 * c.val + u) (some (cmd.f CF.tag + cmd.seq.toNat * 2 ^ 16)) none d)
    else d
  | _, _ => d

/-! ### Errors that reach the collector (R399, R400, R403) -/

/-- The oldest pass of a core ends with an error: what it computes is lost, and what it was to close stays open. -/
def Core.dropPass (x : Core) : Core :=
  match x.passes with
  | [] => x
  | p :: r =>
    let mine := fun (cl : Option Closing) => match cl with | some y => decide (y.cmd = p.cmd) && decide (y.slot = p.slot) | none => false
    { x with
      passes := r
      groups := x.groups.map fun e => if mine e.2.closing then (e.1, { e.2 with st := .isOpen, closing := none }) else e
      op := if mine x.op.closing then { x.op with isOpen := true, closing := none } else x.op }

/-- An uncorrectable word of a core's scratchpad (3), accumulator file (4) or staging buffer (5) is read (R159): the
vector command, drain or pass that reads it ends with an error and writes nothing; words of the two memories are counted
(log 47). -/
def badWord (c : CoreId) (i : Nat) (d : Dev) : Dev :=
  match i with
  | 3 => ((d.count F.SPD_ECC_COUNT_UNCORRECTED 1 c.val).modCore c fun x => { x with vec := none }).restartTimer c 1
  | 4 => ((d.count F.ACF_ECC_COUNT_UNCORRECTED 1 c.val).modCore c fun x => { x with drains := x.drains.drop 1 }).restartTimer c 0
  | 5 => (d.modCore c Core.dropPass).restartTimer c 0
  | _ => d

/-- An uncorrectable read names its line, all of whose symbols are wrong from then on (R238, R240); a line whose transfers
fail five times fails its next access (R224). -/
def badLine (s line : Nat) (d : Dev) : Dev :=
  if line / 2 ^ 30 ≠ (s - 2304) / 8 then d
  else if (s - 2304) % 8 = 0 then
    (d.failLine line).noteBad line
  else if (s - 2304) % 8 = 4 then { d with ecc := { d.ecc with failing := d.ecc.failing ++ [line] } }
  else d

/-- FAULT_RAISE. A source raises, with what its cause does besides (R159, R224, R240); a change journal seal fault shows
in JNL_STATUS. -/
def faultRaise (m : Mem) (s code detail : Nat) (req : Option PartId) (d : Dev) : Dev :=
  if d.power.phase = .asleep then d
  else
    let d := if 2304 ≤ s ∧ s < 2560 then badLine s (detail % 2 ^ 35) d
      else match sourceCore s with | some c => badWord c (s % 16) d | none => d
    let d := if s = 2955 then d.setFld F.JNL_STATUS_SEAL_ERR 1 else d
    settleAll m (raiseFault m s code detail false false req d)

/-- WIRE_FAULT (R400, R402). The code and the detail are free values. -/
def wireFault (m : Mem) (s : Nat) (d : Dev) : Dev :=
  if d.power.phase = .asleep then d
  else
    let (a, d) := d.draw
    let (b, d) := d.draw
    settleAll m (raiseFault m s ((Config.fresh a).toNat % 256) (Config.fresh b).toNat false true none d)

end Sys2Proof.Machine
end

