-- ==== Sys2Proof/Machine/Clocking.lean ====
section
/-! DEFINITION. One nanosecond of device time: the time base with its slewing (10_pyrol_link_fabric R314), the array
cycles of the four dies (13_power_clocks R374, R378), and what is counted or watched over time. -/

namespace Sys2Proof.Machine

/-- Advances the time base by 1 ns; a slew adds or drops 1 ns in every 10,000 (R314: 100 ppm). -/
def tickTime (p : Power) : Power :=
  if p.slewLeft = 0 then { p with raw := p.raw + 1 }
  else if p.slewPhase + 1 < 10000 then { p with raw := p.raw + 1, slewPhase := p.slewPhase + 1 }
  else if 0 < p.slewLeft then
    { p with raw := p.raw + 2, slewPhase := 0, slewLeft := p.slewLeft - 1 }
  else { p with slewPhase := 0, slewLeft := p.slewLeft + 1 }

/-- Array cycles in units of 1/120,000 that pass in 1 ns at a set point, with the clock stretched by
a STRETCH code (R374: set point f runs at 400 + 25 f MHz; R378). -/
def cycleUnits (point : Nat) (stretch : Option Nat) : Nat :=
  (400 + 25 * point) *
    (match stretch with
     | none => 120
     | some 0 => 96
     | some 1 => 80
     | some _ => 60)

/-- Advances a die's cycle counter by 1 ns. -/
def tickClock (units : Nat) (c : Clock) : Clock :=
  let n := c.phase + units
  { c with cycles := c.cycles + n / 120000, phase := n % 120000 }

/-- The stretch of a die's clock now (R378). -/
def Dev.stretch (d : Dev) (k : Nat) : Option Nat :=
  if d.flag F.CLK_STATUS_DROOP k then some (d.fld F.CLK_CTL_STRETCH k) else none

/-- A cell of a core is active in a cycle (R104). -/
def Core.cellsActive (x : Core) (t : Nat) : Bool := x.cellSpans.any fun y => decide (y.1 ≤ t) && decide (t < y.2)

/-- How many requesters of R155 a core has: a tile load, the array, the vector engine, drains and the mover. -/
def Core.requesters (x : Core) : Nat :=
  b2n x.tileLoad.isSome + b2n !x.passes.isEmpty + b2n x.vec.isSome + b2n (!x.drains.isEmpty || x.opDrain.isSome) +
    b2n !x.mover.isEmpty

/-- What a core counts over the array cycles from a up to b (R104, R152, R157, R159): cycles of its cells, of passes that
wait under R71 and of its vector engine; and, in numbers that the spec leaves open, request cycles lost where several
requesters meet, and corrected words while one reads (log 26, log 45). -/
def countCycles (c : CoreId) (a b : Nat) (d : Dev) : Dev :=
  let x := d.core c
  let during := fun (f : Nat → Bool) => ((List.range (b - a)).filter fun i => f (a + i)).length
  let busy := match x.vec with | some v => min b v.due - a | none => 0
  let d := ((d.count F.ARY_BUSY_CYCLES_CYCLES (during x.cellsActive) c.val).count F.ARY_SWITCH_CYCLES_CYCLES
    (during (d.switchWaits c)) c.val).count F.VEC_BUSY_CYCLES_CYCLES busy c.val
  if x.requesters = 0 then d
  else
    let (i, d) := d.draw
    let (j, d) := d.draw
    let (k, d) := d.draw
    let free := fun (n top : Nat) => (Config.fresh n).toNat % (top + 1)
    let d := d.count F.SPD_CONFLICT_CYCLES_CYCLES (free i (64 * (x.requesters - 1) * (b - a))) c.val
    (d.count F.SPD_ECC_COUNT_CORRECTED (free j (512 * (b - a))) c.val).count F.ACF_ECC_COUNT_CORRECTED
      (free k (2048 * (b - a))) c.val

/-- A core at an array cycle: groups whose time has come are free (R80, R163), and spans of its cells that have passed
are dropped. -/
def Core.atCycle (x : Core) (now : Nat) : Core :=
  { x with
    groups := x.groups.filter fun e => !(match e.2.freeAt with | some n => decide (n ≤ now) | none => false)
    cellSpans := x.cellSpans.filter fun y => decide (now < y.2) }

/-- The array cycles from a up to b pass on the cores of a die that hold anything. -/
def passCycles (k a b : Nat) (d : Dev) : Dev :=
  if a = b then d
  else (allCores.filter fun c => decide (dieOf c = k) && (tFind c.val d.cores).isSome).foldl
    (fun d c => (countCycles c a b d).modCore c fun x => x.atCycle b) d

/-- Advances the clock of a die by 1 ns, when the main rails are on, with what that brings to its cores; STRETCHED counts the cycles
that pass while the clock is stretched, in units of 1,024 (R397). -/
def tickDie (d : Dev) (k : Nat) : Dev :=
  let old := d.clock k
  let new := tickClock (cycleUnits (d.fld F.CLK_STATUS_CURRENT k) (d.stretch k)) old
  let d := passCycles k old.cycles new.cycles d
  if (d.stretch k).isNone then d.setClock k new
  else
    let n := old.stretched + (new.cycles - old.cycles)
    (d.setClock k { new with stretched := n % 1024 }).count F.CLK_DROOP_STRETCHED (n / 1024) k

/-- Since when a live partition executes nothing, and since when it is in stalemate (R330, R344, R409). -/
def watchPart (m : Mem) (d : Dev) (p : PartId) : Dev :=
  let still := d.pstate p ≠ 0 ∧ !d.partExecutes p
  let stale := detectorRuns m d p && inStalemate m d p
  let d := if still then d
    else { d with idleMark := (d.ownedCores p).foldl (fun l c => tSet 0 c.val (tGet 0 d.idleSpan c.val) l) d.idleMark }
  { d with
    stillSince := if still then tPut p.val (tGet d.now d.stillSince p.val) d.stillSince else tDel p.val d.stillSince
    staleSince := if stale then tPut p.val (tGet d.now d.staleSince p.val) d.staleSince else tDel p.val d.staleSince }

/-- The hub sees a partition of a job that it has not seen of it before: the job starts here, or has moved here. Its flows begin
at 0 (R298), its turn holds the live generation (R274), and the attempt starts (R344); a banker counts the turn limit
from here (R220). -/
def jobStarts (m : Mem) (d : Dev) (p : PartId) : Dev :=
  let j := partJob m d p
  if j = tGet 0 d.jobOf p.val then d
  else
    let first := decide (j ≠ 0) && !d.jobOf.any fun e => decide (e.2 = j)
    let d := { d with jobOf := tSet 0 p.val j d.jobOf }
    let d := if first then { d.clearFlows j with jobs := tSet {} j { attemptAt := d.now } d.jobs } else d
    let d := if first && d.banks && (tFind j d.bank.jobs).isNone then d.setBankJob j { turn := d.turnOf p, since := d.now } else d
    if j = 0 then d else beginTurn m p d

/-- What the hub counts and watches while n ns of device time pass: jobs that start, stamps of partitions, idle causes, pace
notices, and the PACE limits (R343, R388, R391, R409). -/
def tickHub (m : Mem) (n : Nat) (d : Dev) : Dev :=
  let d := d.liveParts.foldl (jobStarts m) d
  let d := d.liveParts.foldl (watchPart m) d
  let d := (allCores.filter fun c => (d.core c).owner.isSome).foldl (countIdle m n) d
  updatePace m (trackPace m d)

/-- Codewords that ports in UP corrected in this ns: how many is free (R287, R317; log 30). -/
def linkCodes (d : Dev) : Dev :=
  (allPorts.filter fun n => decide (d.portState n = 3)).foldl (fun d n =>
    let (i, d) := d.draw
    d.count F.PL_ERR_COUNT_FEC_CORR ((Config.fresh i).toNat % 2) n.val) d

/-- Transfers that failed their CRC and were retried at stacks that served requests in this ns: how many is free
(R224; log 26). -/
def linkRetries (d : Dev) : Dev :=
  (d.stackUse.filter fun e => decide (e.2 = d.now)).foldl (fun d e =>
    let (i, d) := d.draw
    d.count F.STK_ECC_COUNT_LINK_RETRY ((Config.fresh i).toNat % 5) e.1) d

/-- Symbols of a stored codeword go wrong as time passes: whether, where and which is free (R238; log 26). -/
def upset (d : Dev) : Dev :=
  let (i, d) := d.draw
  let (j, d) := d.draw
  let (k, d) := d.draw
  let v := Config.fresh i
  let line := bits v.toNat 1 35
  let w : BitVec 80 := Config.fresh j ++ (Config.fresh k).setWidth 16
  if v.getLsbD 0 then { d with ecc := { d.ecc with wrong := tMod 0 line (fun u => u ||| w) d.ecc.wrong } } else d

/-- What passes in 1 ns. Nothing passes without auxiliary power; array clocks need the main rails. -/
def tick (m : Mem) (d : Dev) : Dev :=
  let old := d.now
  if d.power.auxOn then
    let d := { (if d.power.phase = .asleep then d else linkRetries d) with power := tickTime d.power }
    if d.power.phase = .asleep then d
    else
      let d := stackFirmware m (upset d)
      let d := tickDie (tickDie (tickDie (tickDie d 0) 1) 2) 3
      let d := if d.fabricOn then linkCodes d else d
      if d.hubOn then tickHub m (d.now - old) d else d
  else d

end Sys2Proof.Machine
end

