-- ==== Sys2Proof/Machine/CoreExec.lean ====
section
/-! DEFINITION. Register writes of the pages of a core, and the events of swapping (04_core_engines R139 to R146, R179, 05_on_die_storage R160,
03_two_way_array R101), as steps of the block. -/

namespace Sys2Proof.Machine

/-- The end of a swap, with the scheduling decision that follows one (R259). -/
def swapEvent (m : Mem) (c : CoreId) (e d : Dev) : Dev := afterCore m c (decide ((e.core c).swap ≠ (d.core c).swap)) e

/-- A command that moves a core ends with RESULT 0 when the core has moved (R254, R261, R262). -/
def coreMoved (c : CoreId) (h : PageCmd) (d : Dev) : Dev × Option Nat :=
  (d, if 3 ≤ h.op ∧ h.op ≤ 6 ∧ h.a = c.val then some 0 else none)

/-- The end of a core's clearing, with the command that waited for it (R253, R254, R261, R262). -/
def initDone (m : Mem) (c : CoreId) (d : Dev) : Dev :=
  let (e, p) := scratchpadInitDone c d
  let ended := decide ((e.core c).clearing ≠ (d.core c).clearing)
  let e := afterCore m c ended e
  match p with
  | none => e
  | some p => eventEnds m (0x3000 + p.val) (coreMoved c) e

/-- CORE_RESUME (R144). -/
def execCoreResume (w : Path) (c : CoreId) (mask : BitVec 4) (s : State) : Host.Outcome State Fault Refusal :=
  .next (s.run fun m d => doWrite m w (F.CORE_CTL_RESUME.addr c.val 0) (mask.toNat + 16 * d.fld F.CORE_CTL_HALT c.val) d)

/-- CORE_HALT (R144). -/
def execCoreHalt (w : Path) (c : CoreId) (mask : BitVec 4) (s : State) : Host.Outcome State Fault Refusal :=
  .next (s.run fun m d => doWrite m w (F.CORE_CTL_HALT.addr c.val 0) (16 * mask.toNat) d)

/-- SWAP_OUT (R140). -/
def execSwapOut (w : Path) (c : CoreId) (k : SlotId) (ext : ExtentId) (s : State) : Host.Outcome State Fault Refusal :=
  .next (s.run fun m d => doWrite m w (F.CORE_SWAP_SLOT.addr c.val 0) (k.val + 8 * ext.toNat) d)

/-- SWAP_IN (R141). -/
def execSwapIn (w : Path) (c : CoreId) (k : SlotId) (ext : ExtentId) (s : State) : Host.Outcome State Fault Refusal :=
  .next (s.run fun m d => doWrite m w (F.CORE_SWAP_SLOT.addr c.val 0) (k.val + 4 + 8 * ext.toNat) d)

/-- SWAP_OUT_DONE (R140). -/
def execSwapOutDone (c : CoreId) (s : State) : Host.Outcome State Fault Refusal :=
  .next (s.run fun m d => swapEvent m c (swapOutDone c d) d)

/-- SWAP_IN_DONE (R141). -/
def execSwapInDone (c : CoreId) (s : State) : Host.Outcome State Fault Refusal :=
  .next (s.run fun m d => swapEvent m c (swapInDone c d) d)

/-- KO_HOLD_END (R260). -/
def execKoHoldEnd (c : CoreId) (s : State) : Host.Outcome State Fault Refusal :=
  .next (s.run fun m d => 
    let (e, b) := koHoldEnd c d
    afterCore m c b e)

/-- ARY_HOLD (R101). -/
def execAryHold (w : Path) (c : CoreId) (hold : Bool) (s : State) : Host.Outcome State Fault Refusal :=
  .next (s.run fun m d => doWrite m w (F.ARY_CTL_HOLD.addr c.val 0) (b2n hold) d)

/-- ARY_CLR_COUNTS (R101). -/
def execAryClrCounts (w : Path) (c : CoreId) (s : State) : Host.Outcome State Fault Refusal :=
  .next (s.run fun m d => doWrite m w (F.ARY_CTL_CLR_COUNTS.addr c.val 0) (2 + d.fld F.ARY_CTL_HOLD c.val) d)

/-- VEC_CLR_COUNTS (R151). -/
def execVecClrCounts (w : Path) (c : CoreId) (s : State) : Host.Outcome State Fault Refusal :=
  .next (s.run fun m d => doWrite m w (F.VEC_CTL_CLR_COUNTS.addr c.val 0) (1) d)

/-- MOV_RESUME (R179). -/
def execMovResume (w : Path) (c : CoreId) (mask : BitVec 4) (s : State) : Host.Outcome State Fault Refusal :=
  .next (s.run fun m d => doWrite m w (F.MOV_CTL_RESUME.addr c.val 0) (mask.toNat) d)

/-- SCRATCHPAD_INIT_DONE (R160). -/
def execScratchpadInitDone (c : CoreId) (s : State) : Host.Outcome State Fault Refusal :=
  .next (s.run fun m d => initDone m c d)

end Sys2Proof.Machine
end

