-- ==== Sys2Proof/Machine/FabricExec.lean ====
section
/-! DEFINITION. Pyrol Link ports, the router and what arrives over the fabric (10_pyrol_link_fabric), as steps of the block. -/

namespace Sys2Proof.Machine

/-- PL_CTL_WRITE (R289). -/
def execPlCtlWrite (w : Path) (n : PortId) (v : BitVec 32) (s : State) : Host.Outcome State Fault Refusal :=
  .next (s.run fun m d => doWrite m w (F.PL_CTL_EN.addr n.val 0) (v.toNat) d)

/-- TRAIN_DONE (R288). -/
def execTrainDone (n : PortId) (lanes : List (Fin 16)) (s : State) : Host.Outcome State Fault Refusal :=
  .next (s.run fun m d => afterAll m (trainDone m n lanes d))

/-- TRAIN_TIMEOUT (R289). -/
def execTrainTimeout (n : PortId) (s : State) : Host.Outcome State Fault Refusal :=
  .next (s.run fun m d => afterAll m (trainTimeout m n d))

/-- CHECK_EXCHANGE (R290). -/
def execCheckExchange (n : PortId) (device : DeviceId) (port : BitVec 4) (mode : BitVec 2) (digest : BitVec 64) (s : State)
    : Host.Outcome State Fault Refusal :=
  .next (s.run fun m d => afterAll m (checkExchange m n device.toNat port.toNat mode.toNat digest.toNat d))

/-- CHECK_TIMEOUT (R289). -/
def execCheckTimeout (n : PortId) (s : State) : Host.Outcome State Fault Refusal :=
  .next (s.run fun m d => afterAll m (checkTimeout m n d))

/-- DOWN_RETRAIN (R289). -/
def execDownRetrain (n : PortId) (s : State) : Host.Outcome State Fault Refusal :=
  .next (s.run fun _ d => downRetrain n d)

/-- LIGHT_LOSS (R306). -/
def execLightLoss (n : PortId) (s : State) : Host.Outcome State Fault Refusal :=
  .next (s.run fun m d => afterAll m (lightLoss m n d))

/-- LIGHT_RETURN (R289). -/
def execLightReturn (n : PortId) (s : State) : Host.Outcome State Fault Refusal :=
  .next (s.run fun _ d => lightReturn n d)

/-- FLIT_RECEIVE (R294). -/
def execFlitReceive (n : PortId) (flit : Flit) (s : State) : Host.Outcome State Fault Refusal :=
  .next (s.run fun m d => afterAll m (flitReceive m n flit d))

/-- FLIT_SEND (R307). -/
def execFlitSend (n : PortId) (s : State) : Host.Outcome State Fault Refusal :=
  .next (s.run fun _ d => flitSend n d)

/-- PACKET_FORWARD (R302). -/
def execPacketForward (arrival : Option PortId) (pkt : Packet) (s : State) : Host.Outcome State Fault Refusal :=
  .next (s.run fun m d => afterAll m (packetForward m arrival pkt d))

/-- RING_MESSAGE_PACKET (R329). -/
def execRingMessagePacket (pkt : Packet) (s : State) : Host.Outcome State Fault Refusal :=
  .next (s.run fun m d => afterAll m (flowPacket m 0 pkt d))

/-- BULK_WRITE_PACKET (R297). -/
def execBulkWritePacket (pkt : Packet) (s : State) : Host.Outcome State Fault Refusal :=
  .next (s.run fun m d => afterAll m (flowPacket m 1 pkt d))

/-- WRITE_ACK_PACKET (R297). -/
def execWriteAckPacket (pkt : Packet) (s : State) : Host.Outcome State Fault Refusal :=
  .next (s.run fun m d => afterAll m (flowPacket m 2 pkt d))

/-- ERROR_NOTICE_PACKET (R311). -/
def execErrorNoticePacket (pkt : Packet) (s : State) : Host.Outcome State Fault Refusal :=
  .next (s.run fun m d => afterAll m (takePacket 3 pkt (fun _ => noticeArrive m pkt) d))

/-- BEACON_SEND (R313). -/
def execBeaconSend (n : PortId) (s : State) : Host.Outcome State Fault Refusal :=
  .next (s.run fun _ d => beaconSend n d)

/-- BEACON_RECEIVE (R314). -/
def execBeaconReceive (n : PortId) (b : Beacon) (s : State) : Host.Outcome State Fault Refusal :=
  .next (s.run fun _ d => beaconReceive n b d)

/-- BEACON_TIMEOUT (R306). -/
def execBeaconTimeout (n : PortId) (s : State) : Host.Outcome State Fault Refusal :=
  .next (s.run fun m d => afterAll m (beaconTimeout m n d))

/-- HELD_PACKET_DISCARD (R311). -/
def execHeldPacketDiscard (s : State) : Host.Outcome State Fault Refusal :=
  .next (s.run fun _ d => heldPacketDiscard d)

/-- FLOW_FAILED (R311). -/
def execFlowFailed (src : DeviceId) (job : BitVec 16) (s : State) : Host.Outcome State Fault Refusal :=
  .next (s.run fun m d => afterAll m (flowFailed m src.toNat job.toNat d))

/-- SHARE_TABLE_WRITE (R308). -/
def execShareTableWrite (w : Path) (n : PortId) (i : Fin 32) (v : BitVec 64) (s : State)
    : Host.Outcome State Fault Refusal :=
  .next (s.run fun m d => doWrite m w (F.PL_SHARE_JOB.addr n.val i.val) v.toNat d)

/-- FAB_CTL_WRITE (R304). -/
def execFabCtlWrite (w : Path) (v : BitVec 64) (s : State) : Host.Outcome State Fault Refusal :=
  .next (s.run fun m d => doWrite m w (F.FAB_CTL_DEVICE_ID.addr 0 0) (v.toNat) d)

/-- FAB_RT_IDX (R318). -/
def execFabRtIdx (w : Path) (v : BitVec 32) (s : State) : Host.Outcome State Fault Refusal :=
  .next (s.run fun m d => doWrite m w (F.FAB_RT_IDX_INDEX.addr 0 0) (v.toNat) d)

/-- FAB_RT_DATA (R318). -/
def execFabRtData (w : Path) (v : BitVec 64) (s : State) : Host.Outcome State Fault Refusal :=
  .next (s.run fun m d => doWrite m w (F.FAB_RT_DATA_ENTRY.addr 0 0) (v.toNat) d)

/-- MIRROR_SEND (R218). -/
def execMirrorSend (ext : ExtentId) (s : State) : Host.Outcome State Fault Refusal :=
  .next (s.run fun m d => afterAll m (mirrorSend m ext.toNat d))

end Sys2Proof.Machine
end

