-- ==== Sys2Proof/Machine/FaultExec.lean ====
section
/-! DEFINITION. Faults, resets and fencing (14_faults_recovery), as steps of the block. -/

namespace Sys2Proof.Machine

/-- FAULT_RAISE (R401). -/
def execFaultRaise (src : Fin 4096) (code : BitVec 8) (detail : BitVec 64) (req : Option PartId) (s : State)
    : Host.Outcome State Fault Refusal :=
  .next (s.run fun m d => pumpAll m (faultRaise m src.val code.toNat detail.toNat req d))

/-- WIRE_FAULT (R400). -/
def execWireFault (src : Fin 4096) (s : State) : Host.Outcome State Fault Refusal :=
  .next (s.run fun m d => pumpAll m (wireFault m src.val d))

/-- FORCE (R403). -/
def execForce (w : Path) (s : State) : Host.Outcome State Fault Refusal :=
  .next (s.run fun m d => doWrite m w (F.FLT_SRC_CFG_CLASS.addr 0 0) (d.srcClass (d.pfld w F.FLT_SRC_IDX_SOURCE) % 16 + 2 ^ 5) d)

/-- FORCE_WIRE (R403). -/
def execForceWire (w : Path) (s : State) : Host.Outcome State Fault Refusal :=
  .next (s.run fun m d => doWrite m w (F.FLT_SRC_CFG_CLASS.addr 0 0) (d.srcClass (d.pfld w F.FLT_SRC_IDX_SOURCE) % 16 + 2 ^ 6) d)

/-- FLT_SRC_IDX (R427). -/
def execFltSrcIdx (w : Path) (v : BitVec 32) (s : State) : Host.Outcome State Fault Refusal :=
  .next (s.run fun m d => doWrite m w (F.FLT_SRC_IDX_SOURCE.addr 0 0) (v.toNat) d)

/-- FLT_LOG_IDX (R427). -/
def execFltLogIdx (w : Path) (v : BitVec 32) (s : State) : Host.Outcome State Fault Refusal :=
  .next (s.run fun m d => doWrite m w (F.FLT_LOG_IDX_ENTRY.addr 0 0) (v.toNat) d)

/-- FLT_DUMP_IDX (R427). -/
def execFltDumpIdx (w : Path) (v : BitVec 32) (s : State) : Host.Outcome State Fault Refusal :=
  .next (s.run fun m d => doWrite m w (F.FLT_DUMP_IDX_CORE.addr 0 0) (v.toNat) d)

/-- DOMAIN_RESET (R411). -/
def execDomainReset (w : Path) (v : BitVec 32) (s : State) : Host.Outcome State Fault Refusal :=
  .next (s.run fun m d => doWrite m w (F.FLT_RESET_DOMAIN.addr 0 0) (v.toNat) d)

/-- RESET_DONE (R410). -/
def execResetDone (s : State) : Host.Outcome State Fault Refusal :=
  .next (s.run fun m d => afterAll m (resetDone m d))

/-- HOURGLASS_TIMER_EXPIRY (R408). -/
def execHourglassTimerExpiry (c : CoreId) (unit : Fin 3) (s : State) : Host.Outcome State Fault Refusal :=
  .next (s.run fun m d => pumpAll m (hourglassTimerExpiry m c unit.val d))

/-- STALEMATE_DETECTED (R409). -/
def execStalemateDetected (p : PartId) (s : State) : Host.Outcome State Fault Refusal :=
  .next (s.run fun m d => pumpAll m (stalemateDetected m p d))

/-- FENCE (R422). -/
def execFence (w : Path) (core : BitVec 8) (s : State) : Host.Outcome State Fault Refusal :=
  .next (s.run fun m d => doWrite m w (F.FLT_FENCE_CMD_OP.addr 0 0) (1 + 4 * core.toNat) d)

/-- CLEAR (R423). -/
def execClear (w : Path) (core : BitVec 8) (s : State) : Host.Outcome State Fault Refusal :=
  .next (s.run fun m d => doWrite m w (F.FLT_FENCE_CMD_OP.addr 0 0) (2 + 4 * core.toNat) d)

end Sys2Proof.Machine
end

