-- ==== Sys2Proof/Machine/Isa.lean ====
section
/-! DEFINITION. The user-mode instructions of a hart: RV64IMAC with Zicsr and Zifencei (PRESUMED from
the RISC-V unprivileged specification, which 04_core_engines R107 names without restating it, log 11),
and the tensor-issue extension (R110 to R115). -/

namespace Sys2Proof.Machine

/-- What an instruction does to its context. -/
inductive HOut where
  /-- the context goes on -/
  | next (x : Ctx)
  /-- an exception: mcause and mtval -/
  | trap (cause tval : Nat)
  /-- an ECALL to the core runtime -/
  | ecall
deriving DecidableEq, Repr

/-- Register n; x0 reads 0. -/
def Ctx.x (c : Ctx) (n : Nat) : Word := if n = 0 then 0 else tGet 0 c.hart.xs n

/-- Sets register n; a write of x0 is discarded. -/
def Ctx.setX (c : Ctx) (n : Nat) (v : Word) : Ctx :=
  if n = 0 then c else { c with hart := { c.hart with xs := tSet 0 n v c.hart.xs } }

/-- Sets the pc. -/
def Ctx.setPc (c : Ctx) (v : Word) : Ctx := { c with hart := { c.hart with pc := v } }

/-- Advances the pc past an instruction of n bytes. -/
def Ctx.adv (c : Ctx) (n : Nat) : Ctx := c.setPc (c.hart.pc + BitVec.ofNat 64 n)

/-- Bytes of a user window (R109): 48 KiB. -/
def winBytes : Nat := 0xC000
/-- User address of the data window (R109). -/
def dataBase : Nat := 0x10000

/-- Reads n bytes at a user address (R109); none outside the two windows. -/
def Ctx.load (c : Ctx) (a n : Nat) : Option Nat :=
  if a + n ≤ winBytes then some (bNat c.imem a n)
  else if dataBase ≤ a ∧ a + n ≤ dataBase + winBytes then some (bNat c.dmem (a - dataBase) n)
  else none

/-- Writes n bytes at a user address. -/
def Ctx.store (c : Ctx) (a n v : Nat) : Option Ctx :=
  if a + n ≤ winBytes then some { c with imem := bWrite a (leBytes n v) c.imem }
  else if dataBase ≤ a ∧ a + n ≤ dataBase + winBytes then
    some { c with dmem := bWrite (a - dataBase) (leBytes n v) c.dmem }
  else none

/-- An integer operation of OP and OP-IMM by funct3; alt selects SUB and SRA. -/
def aluOp (f3 : Nat) (alt : Bool) (a b : Word) : Word :=
  match f3 with
  | 0 => if alt then a - b else a + b
  | 1 => a <<< (b.toNat % 64)
  | 2 => if a.slt b then 1 else 0
  | 3 => if a.ult b then 1 else 0
  | 4 => a ^^^ b
  | 5 => if alt then a.sshiftRight (b.toNat % 64) else a >>> (b.toNat % 64)
  | 6 => a ||| b
  | _ => a &&& b

/-- A 32-bit operation of OP-32 and OP-IMM-32; none for a code that is not assigned. -/
def aluOpW (f3 : Nat) (alt : Bool) (a b : Word) : Option Word :=
  let x := a.setWidth 32
  let s := b.toNat % 32
  match f3 with
  | 0 => some ((if alt then x - b.setWidth 32 else x + b.setWidth 32).signExtend 64)
  | 1 => if alt then none else some ((x <<< s).signExtend 64)
  | 5 => some ((if alt then x.sshiftRight s else x >>> s).signExtend 64)
  | _ => none

/-- Signed division with the results of the M extension for a zero divisor and for overflow. -/
def divS {w : Nat} (a b : BitVec w) : BitVec w := if b = 0 then BitVec.allOnes w else a.sdiv b
/-- Signed remainder. -/
def remS {w : Nat} (a b : BitVec w) : BitVec w := if b = 0 then a else a.srem b
/-- Unsigned division. -/
def divU {w : Nat} (a b : BitVec w) : BitVec w := if b = 0 then BitVec.allOnes w else a.udiv b
/-- Unsigned remainder. -/
def remU {w : Nat} (a b : BitVec w) : BitVec w := if b = 0 then a else a.umod b

/-- An operation of the M extension by funct3. -/
def mulOp (f3 : Nat) (a b : Word) : Word :=
  match f3 with
  | 0 => a * b
  | 1 => BitVec.ofInt 64 (a.toInt * b.toInt / 2 ^ 64)
  | 2 => BitVec.ofInt 64 (a.toInt * (b.toNat : Int) / 2 ^ 64)
  | 3 => BitVec.ofNat 64 (a.toNat * b.toNat / 2 ^ 64)
  | 4 => divS a b
  | 5 => divU a b
  | 6 => remS a b
  | _ => remU a b

/-- A 32-bit operation of the M extension. -/
def mulOpW (f3 : Nat) (a b : Word) : Option Word :=
  let x := a.setWidth 32
  let y := b.setWidth 32
  match f3 with
  | 0 => some ((x * y).signExtend 64)
  | 4 => some ((divS x y).signExtend 64)
  | 5 => some ((divU x y).signExtend 64)
  | 6 => some ((remS x y).signExtend 64)
  | 7 => some ((remU x y).signExtend 64)
  | _ => none

/-- A branch's condition by funct3. -/
def branchTaken (f3 : Nat) (a b : Word) : Option Bool :=
  match f3 with
  | 0 => some (a == b)
  | 1 => some (a != b)
  | 4 => some (a.slt b)
  | 5 => some (!a.slt b)
  | 6 => some (a.ult b)
  | 7 => some (!a.ult b)
  | _ => none

/-- What an AMO stores, by funct5. -/
def amoOp (f5 : Nat) (w : Nat) (old src : Nat) : Option Nat :=
  let a := BitVec.ofNat w old
  let b := BitVec.ofNat w src
  match f5 with
  | 0x01 => some b.toNat
  | 0x00 => some (a + b).toNat
  | 0x04 => some (a ^^^ b).toNat
  | 0x0C => some (a &&& b).toNat
  | 0x08 => some (a ||| b).toNat
  | 0x10 => some (if a.slt b then a else b).toNat
  | 0x14 => some (if a.slt b then b else a).toNat
  | 0x18 => some (if a.ult b then a else b).toNat
  | 0x1C => some (if a.ult b then b else a).toNat
  | _ => none

/-- Immediates. -/
def immI (w : Nat) : Word := BitVec.ofInt 64 (sext (bits w 20 12) 12)
def immS (w : Nat) : Word := BitVec.ofInt 64 (sext (bits w 7 5 + bits w 25 7 * 32) 12)
def immB (w : Nat) : Word :=
  BitVec.ofInt 64 (sext (bits w 8 4 * 2 + bits w 25 6 * 32 + bits w 7 1 * 2048 + bits w 31 1 * 4096) 13)
def immU (w : Nat) : Word := BitVec.ofInt 64 (sext (bits w 12 20 * 4096) 32)
def immJ (w : Nat) : Word :=
  BitVec.ofInt 64 (sext (bits w 21 10 * 2 + bits w 20 1 * 2048 + bits w 12 8 * 4096 + bits w 31 1 * 1048576) 21)

/-- Extends a loaded value by funct3: signed, or unsigned from 4 upward. -/
def extendLoad (f3 : Nat) (v : Nat) : Word :=
  if 4 ≤ f3 then BitVec.ofNat 64 v else BitVec.ofInt 64 (sext v (8 * 2 ^ f3))

/-! ### The tensor-issue extension (R113) -/

/-- Pushes a command onto a queue: its sequence number goes to rd (R112, R113). -/
def Ctx.push (x : Ctx) (q : QueueId) (rd : Nat) (word : BitVec 512) : Ctx :=
  let u := x.queue q
  let x := x.setQueue q { u with
    cmds := u.cmds ++ [⟨word, u.next, x.hart.kseed, x.hart.kturn⟩]
    next := u.next + 1 }
  x.setX rd (u.next.setWidth 64)

/-- A queue holds 64 commands (R112). -/
def Ctx.full (x : Ctx) (q : QueueId) : Bool := decide (64 ≤ (x.queue q).cmds.length)

/-- TPUSH.M, TPUSH.V, TPUSH.S (R113): the command is copied when the instruction executes; a full queue
blocks the hart. -/
def Ctx.tpush (x : Ctx) (q : QueueId) (rd rs1 : Nat) : HOut :=
  let a := (x.x rs1).toNat
  if a % 64 ≠ 0 then .trap 4 a
  else if a < dataBase ∨ dataBase + winBytes < a + 64 then .trap 5 a
  else
    let word := BitVec.ofNat 512 (bNat x.dmem (a - dataBase) 64)
    if x.full q then .next { x with wait := some (.push q (BitVec.ofNat 5 rd) word) }
    else .next ((x.push q rd word).adv 4)

/-- SEMWAIT (R113, R115). -/
def Ctx.semwait (x : Ctx) (rs1 rs2 : Nat) : HOut :=
  let n := (x.x rs1).toNat % 32
  let v := (x.x rs2).setWidth 16
  if semOk (x.sem n) v then .next (x.adv 4)
  else .next { x with wait := some (.sem (BitVec.ofNat 5 n) v) }

/-- SEMSIG (R113). -/
def Ctx.semsig (x : Ctx) (rs1 rs2 : Nat) : HOut :=
  .next ((x.signal ((x.x rs1).toNat % 32) ((x.x rs2).setWidth 16)).adv 4)

/-- SEMREAD (R113). -/
def Ctx.semread (x : Ctx) (rd rs1 : Nat) : HOut :=
  .next ((x.setX rd ((x.sem ((x.x rs1).toNat % 32)).setWidth 64)).adv 4)

/-- TFENCE (R113): busy tells which queues have executing commands. -/
def Ctx.tfence (x : Ctx) (rs1 : Nat) (busy : QueueId → Bool) : HOut :=
  let sel := (x.x rs1).setWidth 3
  let free := [(0 : QueueId), 1, 2].all fun q => !(sel.getLsbD q.val) || ((x.queue q).cmds.isEmpty && !busy q)
  if free then .next (x.adv 4) else .next { x with wait := some (.fence sel) }

/-- An instruction of the custom-0 opcode (R113). -/
def Ctx.custom0 (x : Ctx) (w : Nat) (busy : QueueId → Bool) : HOut :=
  let rd := bits w 7 5
  let rs1 := bits w 15 5
  let rs2 := bits w 20 5
  match bits w 25 7, bits w 12 3 with
  | 0, 0 => x.tpush 0 rd rs1
  | 0, 1 => x.tpush 1 rd rs1
  | 0, 2 => x.tpush 2 rd rs1
  | 0, 3 => x.semwait rs1 rs2
  | 1, 3 => x.semsig rs1 rs2
  | 2, 3 => x.semread rd rs1
  | 0, 4 => x.tfence rs1 busy
  | _, _ => .trap 2 w

/-! ### CSRs -/

/-- The hart a context runs on reports mhartid 4c + k (R108). -/
def Ctx.hartId (x : Ctx) : Nat := match x.place with | .resident c k => 4 * c.val + k.val | .out => 0

/-- A machine-mode CSR: mhartid (R108), and those of Zicsr's machine mode (R107; log 11). -/
def Ctx.machineCsr (x : Ctx) (n : Nat) : Option Word :=
  match n with
  | 0xF14 => some (BitVec.ofNat 64 x.hartId)
  | 0xF11 => some 0
  | 0xF12 => some 0
  | 0xF13 => some 0
  | 0x300 => some x.hart.mstatus
  | 0x301 => some 0x8000000000101105
  | 0x304 => some x.hart.mie
  | 0x305 => some x.hart.mtvec
  | 0x340 => some x.hart.mscratch
  | 0x341 => some x.hart.mepc
  | 0x342 => some x.hart.mcause
  | 0x343 => some x.hart.mtval
  | 0x344 => some 0
  | _ => none

/-- A CSR as the hart's mode reads it (R108, R110). -/
def Ctx.csr (x : Ctx) (n now : Nat) : Option Word :=
  match n with
  | 0x8C0 => some (x.hart.kfpflags.setWidth 64)
  | 0x8C1 => some x.hart.kseed
  | 0x8C2 => some (x.hart.kturn.setWidth 64)
  | 0x8C3 => some (BitVec.ofNat 64 (x.num.toNat + x.part.val * 65536))
  | 0xC01 => some (BitVec.ofNat 64 now)
  | _ => if x.hart.mode = .machine then x.machineCsr n else none

/-- A CSR write: kfpflags in either mode; in machine mode also kseed, kturn and the machine CSRs (R110). None where the
CSR does not let itself be written. -/
def Ctx.setCsr (x : Ctx) (n : Nat) (v : Word) : Option Ctx :=
  let h := x.hart
  if n = 0x8C0 then some { x with hart := { h with kfpflags := v.setWidth 5 } }
  else if h.mode = .user then none
  else
    match n with
    | 0x8C1 => some { x with hart := { h with kseed := v } }
    | 0x8C2 => some { x with hart := { h with kturn := v.setWidth 48 } }
    | 0x300 =>
      let mpp := if bits v.toNat 11 2 % 3 = 0 then v &&& 0x1800 else h.mstatus &&& 0x1800
      some { x with hart := { h with mstatus := (v &&& 0x88) ||| mpp } }
    | 0x301 => some x
    | 0x304 => some { x with hart := { h with mie := v &&& 0x888 } }
    | 0x305 => some { x with hart := { h with mtvec := v &&& ~~~ 2 } }
    | 0x340 => some { x with hart := { h with mscratch := v } }
    | 0x341 => some { x with hart := { h with mepc := v &&& ~~~ 1 } }
    | 0x342 => some { x with hart := { h with mcause := v } }
    | 0x343 => some { x with hart := { h with mtval := v } }
    | 0x344 => some x
    | _ => none

/-- Zicsr instructions (R107, R110). -/
def Ctx.csrOp (x : Ctx) (w now : Nat) : HOut :=
  let n := bits w 20 12
  let f3 := bits w 12 3
  let src := if 4 ≤ f3 then BitVec.ofNat 64 (bits w 15 5) else x.x (bits w 15 5)
  match x.csr n now with
  | none => .trap 2 w
  | some old =>
    if f3 % 4 = 0 then .trap 2 w
    else
      let new := match f3 % 4 with
        | 1 => src
        | 2 => old ||| src
        | _ => old &&& ~~~ src
      match (if f3 % 4 = 1 ∨ bits w 15 5 ≠ 0 then x.setCsr n new else some x) with
      | none => .trap 2 w
      | some x => .next ((x.setX (bits w 7 5) old).adv 4)

/-- MRET in machine mode: the hart returns to the mode and the pc that its trap saved (R107; log 11). -/
def Ctx.mret (x : Ctx) (w : Nat) : HOut :=
  let h := x.hart
  if h.mode = .user then .trap 2 w
  else .next { x with hart := { h with
    pc := h.mepc, mode := if h.mstatus &&& 0x1800 = 0 then .user else .machine
    mstatus := ((h.mstatus >>> 4) &&& 8) ||| 0x80 } }

/-- LR, SC and the AMOs (A extension). A misaligned address raises an address-misaligned exception. -/
def Ctx.atomic (x : Ctx) (w : Nat) : HOut :=
  let f3 := bits w 12 3
  let f5 := bits w 27 5
  let rd := bits w 7 5
  let a := (x.x (bits w 15 5)).toNat
  let src := (x.x (bits w 20 5)).toNat
  let n := 2 ^ f3
  if f3 ≠ 2 ∧ f3 ≠ 3 then .trap 2 w
  else if f5 = 0x02 then
    if bits w 20 5 ≠ 0 then .trap 2 w
    else if a % n ≠ 0 then .trap 4 a
    else match x.load a n with
      | none => .trap 5 a
      | some v => .next ({ (x.setX rd (extendLoad f3 v)) with
          hart := { (x.setX rd (extendLoad f3 v)).hart with reservation := some a } }.adv 4)
  else if f5 = 0x03 then
    if a % n ≠ 0 then .trap 6 a
    else
      let ok := decide (x.hart.reservation = some a)
      let y := { x with hart := { x.hart with reservation := none } }
      if ok then
        match y.store a n src with
        | none => .trap 7 a
        | some z => .next ((z.setX rd 0).adv 4)
      else if (x.load a n).isNone then .trap 7 a
      else .next ((y.setX rd 1).adv 4)
  else if a % n ≠ 0 then .trap 6 a
  else match x.load a n with
    | none => .trap 7 a
    | some old =>
      match amoOp f5 (8 * n) old src with
      | none => .trap 2 w
      | some v => match x.store a n v with
        | none => .trap 7 a
        | some y => .next ((y.setX rd (extendLoad f3 old)).adv 4)

/-- A jump to an address, with the link written to rd; an odd address cannot arise. -/
def Ctx.jump (x : Ctx) (rd : Nat) (target : Word) (len : Nat) : HOut :=
  .next ((x.setX rd (x.hart.pc + BitVec.ofNat 64 len)).setPc target)

/-- Executes a 32-bit instruction that lies in len bytes (2 for a compressed one, which is expanded). -/
def Ctx.exec32 (x : Ctx) (w len now : Nat) (busy : QueueId → Bool) : HOut :=
  let rd := bits w 7 5
  let f3 := bits w 12 3
  let a := x.x (bits w 15 5)
  let b := x.x (bits w 20 5)
  let f7 := bits w 25 7
  let put := fun v => HOut.next ((x.setX rd v).adv len)
  match bits w 0 7 with
  | 0x37 => put (immU w)
  | 0x17 => put (x.hart.pc + immU w)
  | 0x6F => x.jump rd (x.hart.pc + immJ w) len
  | 0x67 => if f3 = 0 then x.jump rd ((a + immI w) &&& ~~~ 1) len else .trap 2 w
  | 0x63 =>
    match branchTaken f3 a b with
    | none => .trap 2 w
    | some true => .next (x.setPc (x.hart.pc + immB w))
    | some false => .next (x.adv len)
  | 0x03 =>
    let p := (a + immI w).toNat
    if f3 = 7 then .trap 2 w
    else match x.load p (2 ^ (f3 % 4)) with
      | none => .trap 5 p
      | some v => put (extendLoad f3 v)
  | 0x23 =>
    let p := (a + immS w).toNat
    if 4 ≤ f3 then .trap 2 w
    else match x.store p (2 ^ f3) b.toNat with
      | none => .trap 7 p
      | some y => .next (y.adv len)
  | 0x13 =>
    if f3 = 1 then (if bits w 26 6 = 0 then put (aluOp 1 false a (BitVec.ofNat 64 (bits w 20 6))) else .trap 2 w)
    else if f3 = 5 then
      (if bits w 26 6 = 0 ∨ bits w 26 6 = 16 then
        put (aluOp 5 (decide (bits w 26 6 = 16)) a (BitVec.ofNat 64 (bits w 20 6))) else .trap 2 w)
    else put (aluOp f3 false a (immI w))
  | 0x1B =>
    if f3 = 0 then (match aluOpW 0 false a (immI w) with | some v => put v | none => .trap 2 w)
    else if f7 = 0 ∨ f7 = 32 then
      (match aluOpW f3 (decide (f7 = 32)) a (BitVec.ofNat 64 (bits w 20 5)) with | some v => put v | none => .trap 2 w)
    else .trap 2 w
  | 0x33 =>
    if f7 = 1 then put (mulOp f3 a b)
    else if f7 = 0 then put (aluOp f3 false a b)
    else if f7 = 32 ∧ (f3 = 0 ∨ f3 = 5) then put (aluOp f3 true a b)
    else .trap 2 w
  | 0x3B =>
    if f7 = 1 then (match mulOpW f3 a b with | some v => put v | none => .trap 2 w)
    else if f7 = 0 ∨ (f7 = 32 ∧ (f3 = 0 ∨ f3 = 5)) then
      (match aluOpW f3 (decide (f7 = 32)) a b with | some v => put v | none => .trap 2 w)
    else .trap 2 w
  | 0x0F => if f3 = 0 ∨ f3 = 1 then .next (x.adv len) else .trap 2 w
  | 0x2F => x.atomic w
  | 0x0B => x.custom0 w busy
  | 0x73 =>
    if f3 = 0 then
      if w = 0x00000073 then .ecall
      else if w = 0x30200073 then x.mret w
      else if w = 0x00100073 then .trap 3 x.hart.pc.toNat
      else if w = 0x10500073 then .next (x.adv len)
      else .trap 2 w
    else x.csrOp w now
  | _ => .trap 2 w

/-! ### Compressed instructions (C extension) -/

/-- I, S, R, B and J formats, built for the expansions. -/
def encI (op f3 rd rs1 imm : Nat) : Nat := op + rd * 128 + f3 * 4096 + rs1 * 32768 + imm % 4096 * 1048576
def encS (f3 rs1 rs2 imm : Nat) : Nat :=
  0x23 + imm % 32 * 128 + f3 * 4096 + rs1 * 32768 + rs2 * 1048576 + imm / 32 % 128 * 33554432
def encR (op f3 f7 rd rs1 rs2 : Nat) : Nat :=
  op + rd * 128 + f3 * 4096 + rs1 * 32768 + rs2 * 1048576 + f7 * 33554432
def encB (f3 rs1 rs2 imm : Nat) : Nat :=
  0x63 + bits imm 11 1 * 128 + bits imm 1 4 * 256 + f3 * 4096 + rs1 * 32768 + rs2 * 1048576 +
    bits imm 5 6 * 33554432 + bits imm 12 1 * 2147483648
def encJ (rd imm : Nat) : Nat :=
  0x6F + rd * 128 + bits imm 12 8 * 4096 + bits imm 11 1 * 1048576 + bits imm 1 10 * 2097152 +
    bits imm 20 1 * 2147483648

/-- A field sign-extended from n bits to 32, as a number. -/
def sx (v n : Nat) : Nat := toBits (sext v n) 32

/-- The 32-bit instruction that a 16-bit one stands for; none for a reserved or illegal one. -/
def expandC (h : Nat) : Option Nat :=
  let f := bits h 13 3
  let rd := bits h 7 5
  let rs2 := bits h 2 5
  let rdp := bits h 2 3 + 8
  let rsp := bits h 7 3 + 8
  let imm6 := bits h 2 5 + bits h 12 1 * 32
  match h % 4, f with
  | 0, 0 =>
    let n := bits h 6 1 * 4 + bits h 5 1 * 8 + bits h 11 2 * 16 + bits h 7 4 * 64
    if n = 0 then none else some (encI 0x13 0 rdp 2 n)
  | 0, 2 => some (encI 0x03 2 rdp rsp (bits h 6 1 * 4 + bits h 10 3 * 8 + bits h 5 1 * 64))
  | 0, 3 => some (encI 0x03 3 rdp rsp (bits h 10 3 * 8 + bits h 5 2 * 64))
  | 0, 6 => some (encS 2 rsp rdp (bits h 6 1 * 4 + bits h 10 3 * 8 + bits h 5 1 * 64))
  | 0, 7 => some (encS 3 rsp rdp (bits h 10 3 * 8 + bits h 5 2 * 64))
  | 1, 0 => some (encI 0x13 0 rd rd (sx imm6 6))
  | 1, 1 => if rd = 0 then none else some (encI 0x1B 0 rd rd (sx imm6 6))
  | 1, 2 => some (encI 0x13 0 rd 0 (sx imm6 6))
  | 1, 3 =>
    if rd = 2 then
      let n := bits h 6 1 * 16 + bits h 2 1 * 32 + bits h 5 1 * 64 + bits h 3 2 * 128 + bits h 12 1 * 512
      if n = 0 then none else some (encI 0x13 0 2 2 (sx n 10))
    else if imm6 = 0 then none
    else some (0x37 + rd * 128 + sx imm6 6 % 1048576 * 4096)
  | 1, 4 =>
    match bits h 10 2 with
    | 0 => some (encI 0x13 5 rsp rsp imm6)
    | 1 => some (encI 0x13 5 rsp rsp (imm6 + 1024))
    | 2 => some (encI 0x13 7 rsp rsp (sx imm6 6))
    | _ =>
      match bits h 12 1, bits h 5 2 with
      | 0, 0 => some (encR 0x33 0 32 rsp rsp rdp)
      | 0, 1 => some (encR 0x33 4 0 rsp rsp rdp)
      | 0, 2 => some (encR 0x33 6 0 rsp rsp rdp)
      | 0, 3 => some (encR 0x33 7 0 rsp rsp rdp)
      | 1, 0 => some (encR 0x3B 0 32 rsp rsp rdp)
      | 1, 1 => some (encR 0x3B 0 0 rsp rsp rdp)
      | _, _ => none
  | 1, 5 =>
    some (encJ 0 (sx (bits h 3 3 * 2 + bits h 11 1 * 16 + bits h 2 1 * 32 + bits h 7 1 * 64 + bits h 6 1 * 128 +
      bits h 9 2 * 256 + bits h 8 1 * 1024 + bits h 12 1 * 2048) 12))
  | 1, 6 => some (encB 0 rsp 0 (sx (bits h 3 2 * 2 + bits h 10 2 * 8 + bits h 2 1 * 32 + bits h 5 2 * 64 + bits h 12 1 * 256) 9))
  | 1, 7 => some (encB 1 rsp 0 (sx (bits h 3 2 * 2 + bits h 10 2 * 8 + bits h 2 1 * 32 + bits h 5 2 * 64 + bits h 12 1 * 256) 9))
  | 2, 0 => some (encI 0x13 1 rd rd imm6)
  | 2, 2 => if rd = 0 then none else some (encI 0x03 2 rd 2 (bits h 4 3 * 4 + bits h 12 1 * 32 + bits h 2 2 * 64))
  | 2, 3 => if rd = 0 then none else some (encI 0x03 3 rd 2 (bits h 5 2 * 8 + bits h 12 1 * 32 + bits h 2 3 * 64))
  | 2, 4 =>
    if bits h 12 1 = 0 then
      if rs2 = 0 then (if rd = 0 then none else some (encI 0x67 0 0 rd 0)) else some (encR 0x33 0 0 rd 0 rs2)
    else if rs2 = 0 then (if rd = 0 then some 0x00100073 else some (encI 0x67 0 1 rd 0))
    else some (encR 0x33 0 0 rd rd rs2)
  | 2, 6 => some (encS 2 2 rs2 (bits h 9 4 * 4 + bits h 7 2 * 64))
  | 2, 7 => some (encS 3 2 rs2 (bits h 10 3 * 8 + bits h 7 3 * 64))
  | _, _ => none

/-- Fetches and executes one instruction in user mode (R107 to R109). -/
def Ctx.fetchExec (x : Ctx) (now : Nat) (busy : QueueId → Bool) : HOut :=
  let p := x.hart.pc.toNat
  if p % 2 = 1 then .trap 0 p
  else
    match x.load p 2 with
    | none => .trap 1 p
    | some h =>
      if h % 4 = 3 then
        match x.load (p + 2) 2 with
        | none => .trap 1 (p + 2)
        | some g => x.exec32 (h + 65536 * g) 4 now busy
      else
        match expandC h with
        | none => .trap 2 h
        | some w => x.exec32 w 2 now busy

end Sys2Proof.Machine
end

