-- ==== Sys2Proof/Machine/Collective.lean ====
section
/-! DEFINITION. Collectives (11_collectives_mapping R331 to R339): the check of a call, and the mover and
vector commands that carry it out on this seat. Which commands carry out a collective is the model's
choice within R336 and R337 (log 14). -/

namespace Sys2Proof.Machine

/-- The collective descriptor (R332). -/
def DF.op : Bf := ⟨0, 4⟩
def DF.fmt : Bf := ⟨4, 4⟩
def DF.red : Bf := ⟨8, 2⟩
def DF.sigSem : Bf := ⟨10, 5⟩
def DF.sigEn : Bf := ⟨15, 1⟩
def DF.sigInc : Bf := ⟨16, 8⟩
def DF.res0 : Bf := ⟨24, 8⟩
def DF.count : Bf := ⟨32, 32⟩
def DF.srcLine : Bf := ⟨64, 35⟩
def DF.res1 : Bf := ⟨99, 29⟩
def DF.dstLine : Bf := ⟨128, 35⟩
def DF.res2 : Bf := ⟨163, 29⟩
def DF.scratch : Bf := ⟨192, 24⟩
def DF.scratchSize : Bf := ⟨216, 8⟩
def DF.root : Bf := ⟨224, 16⟩
def DF.comm : Bf := ⟨240, 16⟩
def DF.tag : Bf := ⟨256, 16⟩
def DF.res3 : Bf := ⟨272, 240⟩

/-- A call's parameters: the descriptor, the ranks, and the rings by rank (R334). -/
structure Coll where
  desc : Nat
  p : Nat
  rank : Nat
  /-- entries of the communicator, by rank -/
  entries : List Nat
  /-- bytes per message -/
  msg : Nat
deriving DecidableEq, Repr

/-- A field of the descriptor. -/
def Coll.f (x : Coll) (f : Bf) : Nat := f.get x.desc
/-- The entry of a rank. -/
def Coll.entry (x : Coll) (j : Nat) : Nat := x.entries.getD j 0
/-- The ring by which the seat reaches a rank, and whether it is set. -/
def Coll.sendRing (x : Coll) (j : Nat) : Nat × Bool := (bits (x.entry j) 0 18, bitAt (x.entry j) 18)
/-- The ring on which a rank's messages arrive. -/
def Coll.recvRing (x : Coll) (j : Nat) : Nat × Bool := (bits (x.entry j) 32 18, bitAt (x.entry j) 50)

/-- An action of the seat: buffers are the four quarters of the scratch area. -/
inductive Act where
  | load (buf addr n : Nat)
  | store (buf addr n : Nat)
  | send (buf rank n : Nat)
  | recv (buf rank n : Nat)
  /-- d = combine(a, b), of n bytes -/
  | combine (a b d n : Nat)
deriving DecidableEq, Repr

/-- Bits of an element (R121). -/
def Coll.elemBits (x : Coll) : Nat := match Fmt.ofCode (x.f DF.fmt) with | some f => f.bits | none => 8

/-- Bytes of n elements, rows packed under R33. -/
def Coll.bytes (x : Coll) (n : Nat) : Nat := (n * x.elemBits + 7) / 8

/-- K of R335: ⌈COUNT / P⌉ rounded up to a multiple of 64 B of elements. -/
def Coll.chunk (x : Coll) : Nat :=
  let k := (x.f DF.count + x.p - 1) / x.p
  let per := 512 / x.elemBits
  (k + per - 1) / per * per

/-- First element and elements of chunk c (R335). -/
def Coll.chunkOf (x : Coll) (c : Nat) : Nat × Nat :=
  let lo := c * x.chunk
  (lo, min ((c + 1) * x.chunk) (x.f DF.count) - lo)

/-- Pieces of n bytes: offset and length of each message. -/
def pieces (msg n : Nat) : List (Nat × Nat) :=
  (List.range ((n + msg - 1) / msg)).map fun i => (i * msg, min msg (n - i * msg))

/-- The first of the two parts of a node of n ranks: the largest power of two below n (R186). -/
def splitAt (n : Nat) : Nat := 2 ^ Nat.log2 (n - 1)

/-- A buffer that none of the used ones is. -/
def freeBuf (l : List Nat) : Nat := ([0, 1, 2, 3].find? fun i => !l.contains i).getD 3

/-- The seat's actions for a node over ranks [a, a + n) of a chunk, and the buffer with the node's value
where the seat is its holder (R336). -/
def treeActs (me c addr len : Nat) : Nat → Nat → Nat → List Act × Option Nat
  | 0, _, _ => ([], none)
  | fuel + 1, a, n =>
    if n ≤ 1 then (if me = a then ([.load 0 addr len], some 0) else ([], none))
    else
      let s := splitAt n
      let l := treeActs me c addr len fuel a s
      let r := treeActs me c addr len fuel (a + s) (n - s)
      let hl := a + c % s
      let hr := a + s + c % (n - s)
      let hp := a + c % n
      let before := l.1 ++ r.1
      if me = hp then
        let (lo, ra) := match l.2 with
          | some v => if me = hl then (v, []) else (freeBuf [], [Act.recv (freeBuf []) hl len])
          | none => let b := freeBuf r.2.toList; (b, [Act.recv b hl len])
        let (hi, rb) := match r.2 with
          | some v => if me = hr then (v, []) else (freeBuf [lo], [Act.recv (freeBuf [lo]) hr len])
          | none => let b := freeBuf [lo]; (b, [Act.recv b hr len])
        let dst := freeBuf [lo, hi]
        (before ++ ra ++ rb ++ [.combine lo hi dst len], some dst)
      else
        let up := (if me = hl then (match l.2 with | some v => [Act.send v hp len] | none => []) else []) ++
          (if me = hr then (match r.2 with | some v => [Act.send v hp len] | none => []) else [])
        (before ++ up, none)

/-- The other ranks, from the next one round. -/
def Coll.others (x : Coll) : List Nat := (List.range (x.p - 1)).map fun t => (x.rank + t + 1) % x.p

/-- What follows the root value of a piece of chunk c: off is its byte offset in the chunk. -/
def Coll.deliver (x : Coll) (c off len : Nat) (v : Option Nat) : List Act :=
  let dst := 64 * x.f DF.dstLine
  let at_ := dst + x.bytes (c * x.chunk) + off
  let h := c % x.p
  match x.f DF.op with
  | 2 => match v with
    | some b => [.store b (dst + off) len]
    | none => []
  | 1 => match v with
    | some b => .store b at_ len :: x.others.map fun j => .send b j len
    | none => [.recv 0 h len, .store 0 at_ len]
  | _ =>
    if x.rank = x.f DF.root then
      match v with
      | some b => [.store b at_ len]
      | none => [.recv 0 h len, .store 0 at_ len]
    else match v with
      | some b => [.send b (x.f DF.root) len]
      | none => []

/-- ALL_REDUCE, REDUCE_SCATTER and REDUCE (R335, R336). -/
def Coll.reduceActs (x : Coll) : List Act :=
  (List.range x.p).flatMap fun c =>
    let (lo, n) := x.chunkOf c
    (pieces x.msg (x.bytes n)).flatMap fun pc =>
      let t := treeActs x.rank c (64 * x.f DF.srcLine + x.bytes lo + pc.1) pc.2 14 0 x.p
      t.1 ++ x.deliver c pc.1 pc.2 t.2

/-- Bytes of a block as ALL_GATHER and ALL_TO_ALL place it: whole 64-byte lines (log 14). -/
def Coll.blockBytes (x : Coll) : Nat := (x.bytes (x.f DF.count) + 63) / 64 * 64

/-- ALL_GATHER, BROADCAST and ALL_TO_ALL (R337). -/
def Coll.copyActs (x : Coll) : List Act :=
  let src := 64 * x.f DF.srcLine
  let dst := 64 * x.f DF.dstLine
  let me := x.rank
  let blk := x.blockBytes
  (pieces x.msg (x.bytes (x.f DF.count))).flatMap fun pc =>
    let o := pc.1
    let n := pc.2
    match x.f DF.op with
    | 3 => [.load 0 (src + o) n, .store 0 (dst + me * blk + o) n] ++
        (List.range (x.p - 1)).flatMap fun t =>
          let j := (me + t + 1) % x.p
          let i := (me + x.p - t - 1) % x.p
          [.send 0 j n, .recv 1 i n, .store 1 (dst + i * blk + o) n]
    | 4 =>
      if me = x.f DF.root then
        [.load 0 (src + o) n, .store 0 (dst + o) n] ++ x.others.map fun j => .send 0 j n
      else [.recv 0 (x.f DF.root) n, .store 0 (dst + o) n]
    | _ => [.load 0 (src + me * blk + o) n, .store 0 (dst + me * blk + o) n] ++
        (List.range (x.p - 1)).flatMap fun t =>
          let j := (me + t + 1) % x.p
          let i := (me + x.p - t - 1) % x.p
          [.load 0 (src + j * blk + o) n, .send 0 j n, .recv 1 i n, .store 1 (dst + i * blk + o) n]

/-- BARRIER (R337): the seat's messages up the tree toward rank 0. -/
def barrierUp (me : Nat) : Nat → Nat → Nat → List Act
  | 0, _, _ => []
  | fuel + 1, a, n =>
    if n ≤ 1 then []
    else
      let s := splitAt n
      barrierUp me fuel a s ++ barrierUp me fuel (a + s) (n - s) ++
        (if me = a then [.recv 0 (a + s) 64] else if me = a + s then [.send 0 a 64] else [])

/-- And back down. -/
def barrierDown (me : Nat) : Nat → Nat → Nat → List Act
  | 0, _, _ => []
  | fuel + 1, a, n =>
    if n ≤ 1 then []
    else
      let s := splitAt n
      (if me = a then [Act.send 0 (a + s) 64] else if me = a + s then [.recv 0 a 64] else []) ++
        barrierDown me fuel a s ++ barrierDown me fuel (a + s) (n - s)

/-- The seat's actions (R333 to R337). -/
def Coll.acts (x : Coll) : List Act :=
  match x.f DF.op with
  | 1 => x.reduceActs
  | 2 => x.reduceActs
  | 5 => x.reduceActs
  | 7 => barrierUp x.rank 14 0 x.p ++ barrierDown x.rank 14 0 x.p
  | _ => x.copyActs

/-- The rings that the actions use, with whether each is set, and whether it sends. -/
def Coll.ringsUsed (x : Coll) : List (Nat × Bool × Bool) :=
  x.acts.filterMap fun a => match a with
    | .send _ j _ => some ((x.sendRing j).1, (x.sendRing j).2, true)
    | .recv _ j _ => some ((x.recvRing j).1, (x.recvRing j).2, false)
    | _ => none

/-! ### Commands -/

/-- A word with fields set. -/
def packWord (l : List (Bf × Nat)) : BitVec 512 := BitVec.ofNat 512 (l.foldl (fun w f => f.1.put f.2 w) 0)

/-- Window offset of a buffer. -/
def Coll.buf (x : Coll) (i : Nat) : Nat := x.f DF.scratch + i * (x.f DF.scratchSize * 16384)

/-- Fields of a mover command that moves n bytes at a buffer. -/
def Coll.moverWord (x : Coll) (op b n : Nat) (more : List (Bf × Nat)) : List (Bf × Nat) :=
  [(CF.op, op), (CF.tag, x.f DF.tag), (MF.spdAddr, x.buf b), (MF.rowBytesM1, n - 1)] ++ more

/-- A vector operand of one row at a buffer. -/
def Coll.operand (x : Coll) (lo b n : Nat) : List (Bf × Nat) :=
  [(⟨lo, 24⟩, x.buf b), (⟨lo + 24, 4⟩, x.f DF.fmt), (⟨lo + 28, 16⟩, n * 8 / x.elemBits - 1)]

/-- The vector operation of a reduction (R336). -/
def Coll.combineOp (x : Coll) : Nat :=
  if x.f DF.fmt = 8 then 0x28 else if x.f DF.red = 1 then 0x14 else if x.f DF.red = 2 then 0x15 else 0x10

/-- Commands so far, what semaphores 30 and 31 come to, and whether a vector command has been pushed that
no mover command waits for. -/
structure Sched2 where
  cmds : List (QueueId × BitVec 512) := []
  c30 : Nat
  c31 : Nat
  open_ : Bool := false
deriving DecidableEq, Repr

/-- The wait of a mover command for the latest vector command. -/
def Sched2.waits (s : Sched2) : List (Bf × Nat) :=
  if s.open_ then [(CF.waitSem, 31), (CF.waitEn, 1), (CF.waitValue, s.c31 % 65536)] else []

/-- Adds a mover command. -/
def Sched2.mover (s : Sched2) (l : List (Bf × Nat)) : Sched2 :=
  { s with cmds := s.cmds ++ [(2, packWord (l ++ s.waits))], open_ := false }

/-- The commands of an action. -/
def Coll.lower (x : Coll) (s : Sched2) (a : Act) : Sched2 :=
  match a with
  | .load b addr n => s.mover (x.moverWord 0x41 b n [(MF.memLine, addr / 64)])
  | .store b addr n => s.mover (x.moverWord 0x42 b n [(MF.memLine, addr / 64)])
  | .send b j n => s.mover (x.moverWord 0x45 b n [(MF.ring, (x.sendRing j).1)])
  | .recv b j n => s.mover (x.moverWord 0x46 b n [(MF.ring, (x.recvRing j).1)])
  | .combine p q e n =>
    let s := s.mover [(CF.op, 0), (CF.tag, x.f DF.tag), (CF.sigSem, 30), (CF.sigEn, 1), (CF.sigInc, 1)]
    let w := packWord ([(CF.op, x.combineOp), (CF.tag, x.f DF.tag), (CF.waitSem, 30), (CF.waitEn, 1),
      (CF.waitValue, (s.c30 + 1) % 65536), (CF.sigSem, 31), (CF.sigEn, 1), (CF.sigInc, 1)] ++
      x.operand 128 e n ++ x.operand 256 p n ++ x.operand 384 q n)
    { cmds := s.cmds ++ [(1, w)], c30 := s.c30 + 1, c31 := s.c31 + 1, open_ := true }

/-- The whole schedule: the actions, and the signal of the seat's completion (R331). -/
def Coll.schedule (x : Coll) (c30 c31 : Nat) : Sched2 :=
  let s := x.acts.foldl x.lower { c30 := c30, c31 := c31 }
  if x.f DF.sigEn = 1 then
    s.mover [(CF.op, 0), (CF.tag, x.f DF.tag), (CF.sigSem, x.f DF.sigSem), (CF.sigEn, 1), (CF.sigInc, x.f DF.sigInc)]
  else s

/-! ### The call -/

/-- A reserved code or field, or a misaligned address (R331, R332). -/
def descBad (a v : Nat) : Bool :=
  let op := DF.op.get v
  let fmt := DF.fmt.get v
  decide (a % 64 ≠ 0) || decide (op = 0) || decide (8 ≤ op) || decide (DF.red.get v = 3) ||
    (decide (12 ≤ fmt) && decide (fmt ≤ 14)) || decide (30 ≤ DF.sigSem.get v) || decide (DF.res0.get v ≠ 0) ||
    decide (DF.res1.get v ≠ 0) || decide (DF.res2.get v ≠ 0) || decide (DF.res3.get v ≠ 0) ||
    decide (DF.scratch.get v % 64 ≠ 0) || decide (DF.comm.get v % 64 ≠ 0)

/-- FMT or RED is not allowed for OP (R333). -/
def fmtBad (v : Nat) : Bool :=
  let op := DF.op.get v
  let fmt := DF.fmt.get v
  if op = 1 ∨ op = 2 ∨ op = 5 then
    decide (fmt < 5) || decide (9 < fmt) || (decide (fmt = 8) && decide (DF.red.get v ≠ 0))
  else decide (fmt = 15)

/-- Payload capacity of a ring (R322, R324). -/
def Dev.ringCapacity (d : Dev) (r : Nat) (sends : Bool) : Nat :=
  2 ^ (if sends && decide (d.rf r RF.kind = 2) then d.rf r RF.peerSlotLog else d.rf r RF.slotLog) - 64

/-- The call of a context with the descriptor at a user address: the code of R331 that it returns, or its
parameters. The order in which the codes are tested is the model's (log 14): the descriptor's own fields, FORMAT, P and
RANK and ROOT, the communicator's reserved fields, its rings, and the scratch area. -/
def checkCall (d : Dev) (c : CoreId) (k : SlotId) (x : Ctx) (a : Nat) : Except Nat Coll :=
  if a < dataBase ∨ dataBase + winBytes < a + 64 then .error 1
  else
    let v := bNat x.dmem (a - dataBase) 64
    if descBad a v then .error 1
    else if fmtBad v then .error 3
    else
      let co := DF.comm.get v
      let h := bNat x.dmem co 64
      let p := bits h 0 16
      let r := bits h 16 16
      if p = 0 ∨ 4096 < p ∨ p ≤ r ∨ winBytes < co + 64 + 8 * p then .error 2
      else if (DF.op.get v = 4 ∨ DF.op.get v = 5) ∧ p ≤ DF.root.get v then .error 2
      else
        let es := (List.range p).map fun j => bNat x.dmem (co + 64 + 8 * j) 8
        if bits h 32 480 ≠ 0 ∨ (es.any fun e => decide (bits e 19 13 ≠ 0) || decide (bits e 51 13 ≠ 0)) then .error 1
        else
        let q : Coll := { desc := v, p := p, rank := r, entries := es, msg := 65536 }
        let used := q.ringsUsed
        if used.any fun u => !u.2.1 then .error 2
        else if DF.scratchSize.get v < 2 ∨ !d.inWindow c k (DF.scratch.get v) (DF.scratchSize.get v * 65536) then .error 4
        else
          let cap := used.foldl (fun m u => min m (d.ringCapacity u.1 u.2.2)) (min 65536 (DF.scratchSize.get v * 16384))
          .ok { q with msg := max 64 (cap / 64 * 64) }

/-- Notes the mover command that a collective is about to push (R339), with those of a BARRIER that still wait (R343).
No more than 128 of them are outstanding: 64 in the queue, and 8 in flight. -/
def Ctx.noteCall (x : Ctx) (q : QueueId) : Ctx :=
  if q = 2 then
    { x with
      collCmds := (x.sq.next :: x.collCmds).take 128
      barriers := (x.barriers.filter fun n => x.sq.cmds.any fun c => decide (c.seq = n)) ++
        if x.collOp = 7 then [x.sq.next] else [] }
  else x

/-- Pushes a schedule as far as the queues have room (R331). -/
def Ctx.pushSchedule : List (QueueId × BitVec 512) → Ctx → Ctx
  | [], x => { x with schedule := [] }
  | (q, w) :: r, x =>
    if x.full q then { x with schedule := (q, w) :: r } else Ctx.pushSchedule r ((x.noteCall q).push q 0 w)

/-- The call goes on: the rest of the schedule is pushed as room comes; at its end it returns 0 in a0. -/
def Ctx.continueCall (x : Ctx) : Ctx :=
  let y := Ctx.pushSchedule x.schedule x
  if y.schedule.isEmpty then ({ y with wait := none }.setX 10 0).adv 4
  else { y with wait := some .collective }

/-- A call that passes its checks: its schedule is laid out and pushed (R331). -/
def Ctx.beginCall (x : Ctx) (q : Coll) : Ctx :=
  let s := q.schedule x.coll30 x.coll31
  Ctx.continueCall { x with schedule := s.cmds, coll30 := s.c30, coll31 := s.c31, collOp := DF.op.get q.desc }

/-- ECALL with 0x4B43 in a7 (R331). -/
def collectiveCall (d : Dev) (c : CoreId) (k : SlotId) (x : Ctx) : Ctx :=
  match checkCall d c k x (x.x 10).toNat with
  | .error n => (x.setX 10 (BitVec.ofNat 64 n)).adv 4
  | .ok q => x.beginCall q

end Sys2Proof.Machine
end

