-- ==== Sys2Proof/Machine/Hart.lean ====
section
/-! DEFINITION. The control processor (04_core_engines R107 to R115, R139): which hart issues, its
instruction, the end of a wait, its exceptions (09_partitions_serving R257), and the call of a
collective (11_collectives_mapping R331). -/

namespace Sys2Proof.Machine

/-- A core stands still: it is fenced, being cleared, in reset, or without power (R160, R410, R422). -/
def Dev.coreStill (d : Dev) (c : CoreId) : Bool :=
  (d.core c).fenced || (d.core c).clearing.isSome || decide (d.power.phase = .asleep) ||
    decide (d.resetDomain 0x01 c.val ≠ 0)

/-- The context of a slot whose hart may fetch: resident, not stopped, held, halted or being swapped
(R139, R140, R144, R255, R257). -/
def Dev.fetching (d : Dev) (c : CoreId) (k : SlotId) : Option Ctx :=
  match d.slotCtx c k with
  | none => none
  | some y =>
    if d.mayIssue c k y && !bitAt (d.fld F.CORE_CTL_HALT c.val) k.val && !d.coreStill c then some y else none

/-- The hart of a slot is runnable: it may fetch and its wait, if any, has come about (R108, R115). -/
def Dev.hartReady (d : Dev) (c : CoreId) (k : SlotId) : Bool :=
  match d.fetching c k with
  | none => false
  | some y => y.waitOver fun q => (d.core c).executing k q

/-- The hart that round robin serves next (R108, R191). -/
def Dev.hartPick (d : Dev) (c : CoreId) : Option SlotId :=
  (arbPick (d.core c).arb.hart fun i => d.hartReady c (slotOf i)).map slotOf

/-- The turn goes past a hart that was served (R108, R191). -/
def Dev.hartServed (d : Dev) (c : CoreId) (k : SlotId) : Dev :=
  d.modCore c fun x => { x with arb := { x.arb with hart := arbNext k.val } }

/-- A context whose hart takes an exception (R107, R257): machine mode, with mstatus, mepc, mcause and mtval set. What
its runtime then does there is its command's effect (log 11). -/
def Ctx.trapped (y : Ctx) (cause tval : Nat) : Ctx :=
  { y with hart := { y.hart with
    mode := .machine
    mstatus := ((y.hart.mstatus &&& 8) <<< 4) ||| (if y.hart.mode = .user then 0 else 0x1800)
    mepc := y.hart.pc, mcause := BitVec.ofNat 64 cause
    mtval := BitVec.ofNat 64 tval } }

/-- What follows an instruction: the context goes on; an exception stops it (R257); an ECALL with 0x4B43
in a7 calls a collective, and any other is an environment call, mcause 8. -/
def finishInstr (c : CoreId) (k : SlotId) (y : Ctx) (key : Nat) (o : HOut) (d : Dev) : Dev :=
  let d := d.hartServed c k
  let fault := fun (cause tval : Nat) => (d.setCtx key (y.trapped cause tval)).contextFault key cause tval
  match o with
  | .next z => d.setCtx key z
  | .trap cause tval => fault cause tval
  | .ecall => if (y.x 17).toNat = 0x4B43 then d.setCtx key (collectiveCall d c k y) else fault 8 0

/-- The end of a wait: the waiting instruction completes (R113, R115, R331). -/
def Ctx.endWait (y : Ctx) : Ctx :=
  match y.wait with
  | none => y
  | some (.push q rd word) => ({ y with wait := none }.push q rd.toNat word).adv 4
  | some .collective => y.continueCall
  | some _ => { y with wait := none }.adv 4

/-- The hart of a slot issues: f is the instruction it executes when it is not in a wait. -/
def issueHart (c : CoreId) (k : SlotId) (f : Ctx → HOut) (d : Dev) : Dev :=
  if d.hartPick c = some k then
    match (d.core c).slotKey k, d.slotCtx c k with
    | some key, some y => finishInstr c k y key (if y.wait.isSome then .next y.endWait else f y) d
    | _, _ => d
  else d

/-- HART_INSTRUCTION. The hart that round robin picks executes the instruction at its pc (R107 to R109). -/
def hartInstruction (c : CoreId) (d : Dev) : Dev :=
  match d.hartPick c with
  | none => d
  | some k => issueHart c k (fun y => y.fetchExec d.now fun q => (d.core c).executing k q) d

/-- An instruction of the tensor-issue extension, executed by the hart of a slot whose turn it is and
which is in no wait (R113). -/
def issueTensor (c : CoreId) (k : SlotId) (f : Ctx → HOut) (d : Dev) : Dev :=
  match d.slotCtx c k with
  | none => d
  | some y => if y.wait.isSome then d else issueHart c k f d

/-- The descriptor of a collective call: a7 holds 0x4B43 and a0 its address (R331, R332). -/
def Ctx.callOp (y : Ctx) : Option Nat :=
  let a := (y.x 10).toNat
  if (y.x 17).toNat ≠ 0x4B43 ∨ a < dataBase ∨ dataBase + winBytes < a + 64 then none
  else some (DF.op.get (bNat y.dmem (a - dataBase) 64))

/-- A collective: the hart of the slot executes ECALL with a descriptor of the operation op (R331). -/
def callCollective (op : Nat) (c : CoreId) (k : SlotId) (d : Dev) : Dev :=
  match d.slotCtx c k with
  | none => d
  | some y => if y.callOp = some op then issueTensor c k (fun _ => .ecall) d else d

end Sys2Proof.Machine
end

