-- ==== Sys2Proof/Machine/HartExec.lean ====
section
/-! DEFINITION. The commands of the control processors as steps of the block (04_core_engines R108 to R115,
11_collectives_mapping R331). -/

namespace Sys2Proof.Machine

/-- HART_INSTRUCTION (R108). -/
def execHartInstruction (c : CoreId) (s : State) : Host.Outcome State Fault Refusal :=
  .next (s.run fun m d => afterCore m c false (hartInstruction c d))

/-- TPUSH.M (R113). -/
def execTpushM (c : CoreId) (k : SlotId) (rd rs1 : BitVec 5) (s : State) : Host.Outcome State Fault Refusal :=
  .next (s.run fun m d => afterCore m c false (issueTensor c k (fun y => y.tpush 0 rd.toNat rs1.toNat) d))

/-- TPUSH.V (R113). -/
def execTpushV (c : CoreId) (k : SlotId) (rd rs1 : BitVec 5) (s : State) : Host.Outcome State Fault Refusal :=
  .next (s.run fun m d => afterCore m c false (issueTensor c k (fun y => y.tpush 1 rd.toNat rs1.toNat) d))

/-- TPUSH.S (R113). -/
def execTpushS (c : CoreId) (k : SlotId) (rd rs1 : BitVec 5) (s : State) : Host.Outcome State Fault Refusal :=
  .next (s.run fun m d => afterCore m c false (issueTensor c k (fun y => y.tpush 2 rd.toNat rs1.toNat) d))

/-- SEMWAIT (R113, R115). -/
def execSemwait (c : CoreId) (k : SlotId) (rs1 rs2 : BitVec 5) (s : State) : Host.Outcome State Fault Refusal :=
  .next (s.run fun m d => afterCore m c false (issueTensor c k (fun y => y.semwait rs1.toNat rs2.toNat) d))

/-- SEMSIG (R113). -/
def execSemsig (c : CoreId) (k : SlotId) (rs1 rs2 : BitVec 5) (s : State) : Host.Outcome State Fault Refusal :=
  .next (s.run fun m d => afterCore m c false (issueTensor c k (fun y => y.semsig rs1.toNat rs2.toNat) d))

/-- SEMREAD (R113). -/
def execSemread (c : CoreId) (k : SlotId) (rd rs1 : BitVec 5) (s : State) : Host.Outcome State Fault Refusal :=
  .next (s.run fun m d => afterCore m c false (issueTensor c k (fun y => y.semread rd.toNat rs1.toNat) d))

/-- TFENCE (R113). -/
def execTfence (c : CoreId) (k : SlotId) (rs1 : BitVec 5) (s : State) : Host.Outcome State Fault Refusal :=
  .next (s.run fun m d => afterCore m c false
    (issueTensor c k (fun y => y.tfence rs1.toNat fun q => (d.core c).executing k q) d))

/-- ALL_REDUCE (R336). -/
def execAllReduce (c : CoreId) (k : SlotId) (s : State) : Host.Outcome State Fault Refusal :=
  .next (s.run fun m d => afterCore m c false (callCollective 1 c k d))

/-- REDUCE_SCATTER (R336). -/
def execReduceScatter (c : CoreId) (k : SlotId) (s : State) : Host.Outcome State Fault Refusal :=
  .next (s.run fun m d => afterCore m c false (callCollective 2 c k d))

/-- ALL_GATHER (R337). -/
def execAllGather (c : CoreId) (k : SlotId) (s : State) : Host.Outcome State Fault Refusal :=
  .next (s.run fun m d => afterCore m c false (callCollective 3 c k d))

/-- BROADCAST (R337). -/
def execBroadcast (c : CoreId) (k : SlotId) (s : State) : Host.Outcome State Fault Refusal :=
  .next (s.run fun m d => afterCore m c false (callCollective 4 c k d))

/-- REDUCE (R336). -/
def execReduce (c : CoreId) (k : SlotId) (s : State) : Host.Outcome State Fault Refusal :=
  .next (s.run fun m d => afterCore m c false (callCollective 5 c k d))

/-- ALL_TO_ALL (R337). -/
def execAllToAll (c : CoreId) (k : SlotId) (s : State) : Host.Outcome State Fault Refusal :=
  .next (s.run fun m d => afterCore m c false (callCollective 6 c k d))

/-- BARRIER (R337). -/
def execBarrier (c : CoreId) (k : SlotId) (s : State) : Host.Outcome State Fault Refusal :=
  .next (s.run fun m d => afterCore m c false (callCollective 7 c k d))

end Sys2Proof.Machine
end

