-- ==== Sys2Proof/Machine/HostExec.lean ====
section
/-! DEFINITION. The host port: DCP, RoCE and IEEE 1588 (12_host_port), as steps of the block. -/

namespace Sys2Proof.Machine

/-- DCP_OPEN (R354). -/
def execDcpOpen (pkt : OpenPacket) (s : State) : Host.Outcome State Fault Refusal :=
  .next (s.run fun _ d => dcpOpen pkt d)

/-- DCP_NOP (R359). -/
def execDcpNop (h : ReqHead) (s : State) : Host.Outcome State Fault Refusal :=
  .next (s.run fun m d => afterAll m (takeRequest m 1 h none d))

/-- REG_READ (R359). -/
def execRegRead (h : ReqHead) (o : DcpOp) (s : State) : Host.Outcome State Fault Refusal :=
  .next (s.run fun m d => afterAll m (takeRequest m 2 h (some o) d))

/-- REG_WRITE (R359). -/
def execRegWrite (h : ReqHead) (o : DcpOp) (s : State) : Host.Outcome State Fault Refusal :=
  .next (s.run fun m d => afterAll m (takeRequest m 3 h (some o) d))

/-- MEM_READ (R359). -/
def execMemRead (h : ReqHead) (o : DcpOp) (s : State) : Host.Outcome State Fault Refusal :=
  .next (s.run fun m d => afterAll m (takeRequest m 4 h (some o) d))

/-- MEM_WRITE (R360). -/
def execMemWrite (h : ReqHead) (o : DcpOp) (s : State) : Host.Outcome State Fault Refusal :=
  .next (s.run fun m d => afterAll m (takeRequest m 5 h (some o) d))

/-- DOORBELL (R362). -/
def execDoorbell (h : ReqHead) (o : DcpOp) (s : State) : Host.Outcome State Fault Refusal :=
  .next (s.run fun m d => afterAll m (takeRequest m 6 h (some o) d))

/-- CONSUME (R362). -/
def execConsume (h : ReqHead) (o : DcpOp) (s : State) : Host.Outcome State Fault Refusal :=
  .next (s.run fun m d => afterAll m (takeRequest m 7 h (some o) d))

/-- SUBSCRIBE (R363). -/
def execSubscribe (h : ReqHead) (o : DcpOp) (s : State) : Host.Outcome State Fault Refusal :=
  .next (s.run fun m d => afterAll m (takeRequest m 8 h (some o) d))

/-- DCP_CLOSE (R356). -/
def execDcpClose (h : ReqHead) (s : State) : Host.Outcome State Fault Refusal :=
  .next (s.run fun m d => afterAll m (takeRequest m 9 h none d))

/-- HELD_REQUEST_EXPIRY (R361). -/
def execHeldRequestExpiry (session : BitVec 32) (s : State) : Host.Outcome State Fault Refusal :=
  .next (s.run fun _ d => heldRequestExpiry session.toNat d)

/-- SESSION_IDLE_EXPIRY (R356). -/
def execSessionIdleExpiry (session : BitVec 32) (s : State) : Host.Outcome State Fault Refusal :=
  .next (s.run fun _ d => sessionIdleExpiry session.toNat d)

/-- NOTIFY_SEND (R363). -/
def execNotifySend (session : BitVec 32) (ring : RingId) (s : State) : Host.Outcome State Fault Refusal :=
  .next (s.run fun _ d => notifySend session.toNat ring.toNat d)

/-- RDMA_WRITE (R364). -/
def execRdmaWrite (pkt : RocePacket) (s : State) : Host.Outcome State Fault Refusal :=
  .next (s.run fun m d => afterAll m (rdmaWrite m pkt d))

/-- RDMA_READ (R364). -/
def execRdmaRead (pkt : RocePacket) (s : State) : Host.Outcome State Fault Refusal :=
  .next (s.run fun m d => afterAll m (rdmaRead m pkt d))

/-- SEND (R364). -/
def execSend (pkt : RocePacket) (s : State) : Host.Outcome State Fault Refusal :=
  .next (s.run fun m d => afterAll m (roceSend m pkt d))

/-- READ_RESPONSE (R364). -/
def execReadResponse (r : RoceResponse) (s : State) : Host.Outcome State Fault Refusal :=
  .next (s.run fun m d => afterAll m (readResponse m r d))

/-- ACK_TIMEOUT (R365). -/
def execAckTimeout (qp : RingId) (s : State) : Host.Outcome State Fault Refusal :=
  .next (s.run fun m d => afterAll m (ackTimeout qp.toNat d))

/-- CNP_RECEIVE (R366). -/
def execCnpReceive (qp : RingId) (s : State) : Host.Outcome State Fault Refusal :=
  .next (s.run fun _ d => cnpReceive qp.toNat d)

/-- ALPHA_DECAY (R366). -/
def execAlphaDecay (qp : RingId) (s : State) : Host.Outcome State Fault Refusal :=
  .next (s.run fun _ d => alphaDecay qp.toNat d)

/-- RATE_INCREASE (R366). -/
def execRateIncrease (qp : RingId) (s : State) : Host.Outcome State Fault Refusal :=
  .next (s.run fun _ d => rateIncrease qp.toNat d)

/-- PAUSE_FRAME (R366). -/
def execPauseFrame (prio : BitVec 3) (on : Bool) (s : State) : Host.Outcome State Fault Refusal :=
  .next (s.run fun _ d => pauseFrame prio.toNat on d)

/-- NEIGHBOUR_REQUEST (R350). -/
def execNeighbourRequest (q : NeighbourFrame) (s : State) : Host.Outcome State Fault Refusal :=
  .next (s.run fun _ d => neighbourRequest q d)

/-- PTP_MESSAGE (R367). -/
def execPtpMessage (m_ : PtpMessage) (s : State) : Host.Outcome State Fault Refusal :=
  .next (s.run fun _ d => ptpMessage m_ d)

/-- PTP_HOLDOVER (R367). -/
def execPtpHoldover (s : State) : Host.Outcome State Fault Refusal :=
  .next (s.run fun _ d => ptpHoldover d)

/-- HOST_CTL_WRITE (R350). -/
def execHostCtlWrite (w : Path) (v : BitVec 32) (s : State) : Host.Outcome State Fault Refusal :=
  .next (s.run fun m d => doWrite m w (F.HOST_CTL_EN.addr 0 0) (v.toNat) d)

/-- HOST_LINK_UP (R350). -/
def execHostLinkUp (s : State) : Host.Outcome State Fault Refusal :=
  .next (s.run fun _ d => hostLinkUp d)

/-- HOST_LINK_DOWN (R371). -/
def execHostLinkDown (s : State) : Host.Outcome State Fault Refusal :=
  .next (s.run fun _ d => hostLinkDown d)

/-- CAGE_INSERT (R493). -/
def execCageInsert (s : State) : Host.Outcome State Fault Refusal :=
  .next (s.run fun _ d => cageInsert d)

/-- CAGE_REMOVE (R493). -/
def execCageRemove (s : State) : Host.Outcome State Fault Refusal :=
  .next (s.run fun _ d => cageRemove d)

/-- HOST_PEER_IDX (R370). -/
def execHostPeerIdx (w : Path) (v : BitVec 32) (s : State) : Host.Outcome State Fault Refusal :=
  .next (s.run fun m d => doWrite m w (F.HOST_PEER_IDX_INDEX.addr 0 0) (v.toNat) d)

/-- HOST_PEER_MAC (R370). -/
def execHostPeerMac (w : Path) (v : BitVec 64) (s : State) : Host.Outcome State Fault Refusal :=
  .next (s.run fun m d => doWrite m w (F.HOST_PEER_MAC_MAC.addr 0 0) (v.toNat) d)

end Sys2Proof.Machine
end

