-- ==== Sys2Proof/Machine/HubExec.lean ====
section
/-! DEFINITION. Security, firmware, positions, the hourglass unit, the journal, time, start-up and plain register writes
(15_security_firmware, 16_management_banker, 17_register_pages, 18_physical_startup), as steps of the block. -/

namespace Sys2Proof.Machine

/-- The bits of HGU_CTL that a write of WAKE or SHUTDOWN keeps. -/
def Dev.hguKept (d : Dev) : Nat := (d.word (F.HGU_CTL_WAKE.addr 0 0)).toNat / 4 * 4

/-- WRITE (R440). -/
def execWrite (w : Path) (comp : Fin 7) (s : State) : Host.Outcome State Fault Refusal :=
  .next (s.run fun m d => doWrite m w (F.SEC_FW_CMD_OP.addr 0 0) (1 + 16 * comp.val) d)

/-- STAGE_IMAGE (R440). -/
def execStageImage (w : Path) (comp : Fin 7) (s : State) : Host.Outcome State Fault Refusal :=
  .next (s.run fun m d => doWrite m w (F.SEC_FW_CMD_OP.addr 0 0) (2 + 16 * comp.val) d)

/-- DISCARD (R440). -/
def execDiscard (w : Path) (comp : Fin 7) (s : State) : Host.Outcome State Fault Refusal :=
  .next (s.run fun m d => doWrite m w (F.SEC_FW_CMD_OP.addr 0 0) (3 + 16 * comp.val) d)

/-- FW_COMMIT (R440). -/
def execFwCommit (w : Path) (comp : Fin 7) (s : State) : Host.Outcome State Fault Refusal :=
  .next (s.run fun m d => doWrite m w (F.SEC_FW_CMD_OP.addr 0 0) (4 + 16 * comp.val) d)

/-- SEC_FW_SLOT_IDX (R450). -/
def execSecFwSlotIdx (w : Path) (v : BitVec 32) (s : State) : Host.Outcome State Fault Refusal :=
  .next (s.run fun m d => doWrite m w (F.SEC_FW_SLOT_IDX_COMPONENT.addr 0 0) (v.toNat) d)

/-- SEC_COUNTER_IDX (R450). -/
def execSecCounterIdx (w : Path) (v : BitVec 32) (s : State) : Host.Outcome State Fault Refusal :=
  .next (s.run fun m d => doWrite m w (F.SEC_COUNTER_IDX_COUNTER.addr 0 0) (v.toNat) d)

/-- REPORT (R434). -/
def execReport (w : Path) (s : State) : Host.Outcome State Fault Refusal :=
  .next (s.run fun m d => doWrite m w (F.SEC_ATTEST_CMD_OP.addr 0 0) (1) d)

/-- EXTEND (R433). -/
def execExtend (w : Path) (index : BitVec 4) (s : State) : Host.Outcome State Fault Refusal :=
  .next (s.run fun m d => doWrite m w (F.SEC_ATTEST_CMD_OP.addr 0 0) (2 + 4 * index.toNat) d)

/-- ENTROPY_HEALTH_FAIL (R432). -/
def execEntropyHealthFail (s : State) : Host.Outcome State Fault Refusal :=
  .next (s.run fun m d => pumpAll m (entropyHealthFail m d))

/-- STORE (R446). -/
def execStore (w : Path) (slot : BitVec 3) (source : BitVec 22) (s : State) : Host.Outcome State Fault Refusal :=
  .next (s.run fun m d => doWrite m w (F.CFG_CMD_OP.addr 0 0) (1 + 8 * slot.toNat + 64 * source.toNat) d)

/-- ACTIVATE (R446). -/
def execActivate (w : Path) (slot : BitVec 3) (s : State) : Host.Outcome State Fault Refusal :=
  .next (s.run fun m d => doWrite m w (F.CFG_CMD_OP.addr 0 0) (2 + 8 * slot.toNat + 64 * 0) d)

/-- SETTLE (R446). -/
def execSettle (w : Path) (s : State) : Host.Outcome State Fault Refusal :=
  .next (s.run fun m d => doWrite m w (F.CFG_CMD_OP.addr 0 0) (3 + 8 * 0 + 64 * 0) d)

/-- TAKE_BACK (R446). -/
def execTakeBack (w : Path) (s : State) : Host.Outcome State Fault Refusal :=
  .next (s.run fun m d => doWrite m w (F.CFG_CMD_OP.addr 0 0) (4 + 8 * 0 + 64 * 0) d)

/-- ERASE (R446). -/
def execErase (w : Path) (slot : BitVec 3) (s : State) : Host.Outcome State Fault Refusal :=
  .next (s.run fun m d => doWrite m w (F.CFG_CMD_OP.addr 0 0) (5 + 8 * slot.toNat + 64 * 0) d)

/-- CFG_SLOT_IDX (R451). -/
def execCfgSlotIdx (w : Path) (v : BitVec 32) (s : State) : Host.Outcome State Fault Refusal :=
  .next (s.run fun m d => doWrite m w (F.CFG_SLOT_IDX_SLOT.addr 0 0) (v.toNat) d)

/-- TRIAL_EXPIRY (R448). -/
def execTrialExpiry (s : State) : Host.Outcome State Fault Refusal :=
  .next (s.run fun m d => afterAll m (trialExpiry m d))

/-- HGU_SAMPLE (R459). -/
def execHguSample (readings : List (Option (BitVec 16))) (s : State) : Host.Outcome State Fault Refusal :=
  .next (s.run fun m d => hguSample m readings d)

/-- WAKE (R471). -/
def execWake (w : Path) (s : State) : Host.Outcome State Fault Refusal :=
  .next (s.run fun m d => doWrite m w (F.HGU_CTL_WAKE.addr 0 0) (1 + d.hguKept) d)

/-- SHUTDOWN (R471). -/
def execShutdown (w : Path) (s : State) : Host.Outcome State Fault Refusal :=
  .next (s.run fun m d => doWrite m w (F.HGU_CTL_SHUTDOWN.addr 0 0) (2 + d.hguKept) d)

/-- HGU_SENSOR_IDX (R471). -/
def execHguSensorIdx (w : Path) (v : BitVec 32) (s : State) : Host.Outcome State Fault Refusal :=
  .next (s.run fun m d => doWrite m w (F.HGU_SENSOR_IDX_SENSOR.addr 0 0) (v.toNat) d)

/-- TELEMETRY_NOTIFY (R461). -/
def execTelemetryNotify (s : State) : Host.Outcome State Fault Refusal :=
  .next (s.run fun _ d => telemetryNotify d)

/-- I3C_ENTDAA (R455). -/
def execI3cEntdaa (addr : BitVec 7) (s : State) : Host.Outcome State Fault Refusal :=
  .next (s.run fun _ d => i3cEntdaa addr d)

/-- I3C_PRIVATE_READ (R455). -/
def execI3cPrivateRead (len : Nat) (s : State) : Host.Outcome State Fault Refusal :=
  .next (s.run fun _ d => i3cPrivateRead len d)

/-- I3C_WAKE (R455). -/
def execI3cWake (s : State) : Host.Outcome State Fault Refusal :=
  .next (s.run fun m d => if d.i3cTakes then wakeUp m d else d)

/-- I3C_SHUTDOWN (R455). -/
def execI3cShutdown (s : State) : Host.Outcome State Fault Refusal :=
  .next (s.run fun _ d => if d.i3cTakes then shutDown d else d)

/-- JNL_READ_IDX (R472). -/
def execJnlReadIdx (w : Path) (v : BitVec 32) (s : State) : Host.Outcome State Fault Refusal :=
  .next (s.run fun m d => doWrite m w (F.JNL_READ_IDX_ENTRY.addr 0 0) (v.toNat) d)

/-- TIME_SET (R474). -/
def execTimeSet (w : Path) (v : BitVec 64) (s : State) : Host.Outcome State Fault Refusal :=
  .next (s.run fun m d => doWrite m w (F.TIME_SET_NS.addr 0 0) (v.toNat) d)

/-- AUX_POWER_UP (R498). -/
def execAuxPowerUp (s : State) : Host.Outcome State Fault Refusal :=
  .next (s.run fun _ d => auxPowerUp d)

/-- AUX_POWER_LOSS (R501). -/
def execAuxPowerLoss (s : State) : Host.Outcome State Fault Refusal :=
  .next (s.run fun _ d => auxPowerLoss d)

/-- MAIN_PRESENT (R498). -/
def execMainPresent (s : State) : Host.Outcome State Fault Refusal :=
  .next (s.run fun m d => mainPresent m d)

/-- MAIN_POWER_LOSS (R503). -/
def execMainPowerLoss (s : State) : Host.Outcome State Fault Refusal :=
  .next (s.run fun _ d => mainPowerLoss d)

/-- PHY_RESET_RELEASE (R494). -/
def execPhyResetRelease (s : State) : Host.Outcome State Fault Refusal :=
  .next (s.run fun _ d => phyResetRelease d)

/-- REGISTER_WRITE (R8). -/
def execRegisterWrite (w : Path) (addr : BitVec 32) (v : BitVec 64) (s : State) : Host.Outcome State Fault Refusal :=
  .next (s.run fun m d => doWrite m w addr.toNat v.toNat d)

/-- MANAGEMENT_LINK_CHANGE (R471). -/
def execManagementLinkChange (n : Fin 2) (up : Bool) (s : State) : Host.Outcome State Fault Refusal :=
  .next (s.run fun _ d => managementLinkChange n up d)

/-- BOUNDARY_SCAN (R455). -/
def execBoundaryScan (op : TapOp) (s : State) : Host.Outcome State Fault Refusal :=
  .next (s.run fun _ d => boundaryScan op d)

end Sys2Proof.Machine
end

