-- ==== Sys2Proof/Machine/MapExec.lean ====
section
/-! DEFINITION. Extent map commands and the Yepen stacks (08_memory_extents), as steps of the block. -/

namespace Sys2Proof.Machine

/-- The end of an extent's clearing, with the command whose last extent it is (R233, R236). -/
def clearingDone (m : Mem) (e : Nat) (d : Dev) : Dev :=
  eventEnds m (0x1000 + e / 131072) (fun h d => (d, if xmapCleared d h then some 0 else none)) (d.endClear e)

/-- ALLOCATE (R235). -/
def execAllocate (w : Path) (d_ : DieId) (index : BitVec 17) (countM1 : BitVec 12) (s : State)
    : Host.Outcome State Fault Refusal :=
  .next (s.run fun m d => doWrite m w (F.XMAP_CMD_OP.addr d_.val 0) (1 + 16 * index.toNat + 2 ^ 21 * countM1.toNat) d)

/-- FREE (R235). -/
def execFree (w : Path) (d_ : DieId) (index : BitVec 17) (countM1 : BitVec 12) (s : State)
    : Host.Outcome State Fault Refusal :=
  .next (s.run fun m d => doWrite m w (F.XMAP_CMD_OP.addr d_.val 0) (2 + 16 * index.toNat + 2 ^ 21 * countM1.toNat) d)

/-- LOAD_BEGIN (R235). -/
def execLoadBegin (w : Path) (d_ : DieId) (index : BitVec 17) (countM1 : BitVec 12) (s : State)
    : Host.Outcome State Fault Refusal :=
  .next (s.run fun m d => doWrite m w (F.XMAP_CMD_OP.addr d_.val 0) (3 + 16 * index.toNat + 2 ^ 21 * countM1.toNat) d)

/-- LOAD_END (R245). -/
def execLoadEnd (w : Path) (d_ : DieId) (index : BitVec 17) (countM1 : BitVec 12) (s : State)
    : Host.Outcome State Fault Refusal :=
  .next (s.run fun m d => doWrite m w (F.XMAP_CMD_OP.addr d_.val 0) (4 + 16 * index.toNat + 2 ^ 21 * countM1.toNat) d)

/-- FREEZE (R235). -/
def execFreeze (w : Path) (d_ : DieId) (index : BitVec 17) (countM1 : BitVec 12) (s : State)
    : Host.Outcome State Fault Refusal :=
  .next (s.run fun m d => doWrite m w (F.XMAP_CMD_OP.addr d_.val 0) (5 + 16 * index.toNat + 2 ^ 21 * countM1.toNat) d)

/-- THAW (R235). -/
def execThaw (w : Path) (d_ : DieId) (index : BitVec 17) (countM1 : BitVec 12) (s : State)
    : Host.Outcome State Fault Refusal :=
  .next (s.run fun m d => doWrite m w (F.XMAP_CMD_OP.addr d_.val 0) (6 + 16 * index.toNat + 2 ^ 21 * countM1.toNat) d)

/-- SET_GEN (R235). -/
def execSetGen (w : Path) (d_ : DieId) (index : BitVec 17) (countM1 : BitVec 12) (s : State)
    : Host.Outcome State Fault Refusal :=
  .next (s.run fun m d => doWrite m w (F.XMAP_CMD_OP.addr d_.val 0) (7 + 16 * index.toNat + 2 ^ 21 * countM1.toNat) d)

/-- RETIRE (R235). -/
def execRetire (w : Path) (d_ : DieId) (index : BitVec 17) (countM1 : BitVec 12) (s : State)
    : Host.Outcome State Fault Refusal :=
  .next (s.run fun m d => doWrite m w (F.XMAP_CMD_OP.addr d_.val 0) (8 + 16 * index.toNat + 2 ^ 21 * countM1.toNat) d)

/-- XMAP_WAIT_END (R236). -/
def execXmapWaitEnd (d_ : DieId) (s : State) : Host.Outcome State Fault Refusal :=
  .next (s.run fun m d => afterAll m (eventEnds m (0x1000 + d_.val) (fun h d => let (d, r) := xmapWaitEnd m h d; (d.updateGens, r)) d))

/-- XMAP_BUSY_TIMEOUT (R236). -/
def execXmapBusyTimeout (d_ : DieId) (s : State) : Host.Outcome State Fault Refusal :=
  .next (s.run fun m d => afterAll m (eventEnds m (0x1000 + d_.val) xmapTimeout d))

/-- CLEARING_DONE (R233). -/
def execClearingDone (ext : ExtentId) (s : State) : Host.Outcome State Fault Refusal :=
  .next (s.run fun m d => afterAll m (clearingDone m ext.toNat d))

/-- XMAP_READ_IDX (R251). -/
def execXmapReadIdx (w : Path) (d_ : DieId) (index : BitVec 17) (s : State) : Host.Outcome State Fault Refusal :=
  .next (s.run fun m d => doWrite m w (F.XMAP_READ_IDX_INDEX.addr d_.val 0) (index.toNat) d)

/-- PATROL_READ (R241). -/
def execPatrolRead (k : StackId) (s : State) : Host.Outcome State Fault Refusal :=
  .next (s.run fun m d => afterAll m (patrolRead m k d))

/-- STACK_AUTO_IDLE (R247). -/
def execStackAutoIdle (k : StackId) (s : State) : Host.Outcome State Fault Refusal :=
  .next (s.run fun _ d => stackAutoIdle k d)

/-- SELF_REFRESH_ENTRY (R247). -/
def execSelfRefreshEntry (k : StackId) (s : State) : Host.Outcome State Fault Refusal :=
  .next (s.run fun _ d => selfRefreshEntry k d)

/-- STACK_POWER_EXIT (R247). -/
def execStackPowerExit (k : StackId) (s : State) : Host.Outcome State Fault Refusal :=
  .next (s.run fun _ d => stackPowerExit k d)

/-- STACK_TEMP_SAMPLE (R248). -/
def execStackTempSample (k : StackId) (temps : List (BitVec 8)) (logic : BitVec 8) (s : State)
    : Host.Outcome State Fault Refusal :=
  .next (s.run fun _ d => stackTempSample k temps logic d)

/-- STACK_FW_WATCHDOG (R243). -/
def execStackFwWatchdog (k : StackId) (s : State) : Host.Outcome State Fault Refusal :=
  .next (s.run fun m d => afterAll m (stackFwWatchdog m k d))

end Sys2Proof.Machine
end

