-- ==== Sys2Proof/Machine/MatrixExec.lean ====
section
/-! DEFINITION. The commands of the matrix unit as steps of the block: the unit's own change of
Matrix.lean, then the bookkeeping of the core's contexts (09_partitions_serving R258, R259). -/

namespace Sys2Proof.Machine

/-- MATRIX_PASS (R124). -/
def execMatrixPass (c : CoreId) (k : SlotId) (s : State) : Host.Outcome State Fault Refusal :=
  .next (s.run fun m d => afterCore m c false (matrixPass c k d))

/-- TILE_LOAD (R123). -/
def execTileLoad (c : CoreId) (k : SlotId) (s : State) : Host.Outcome State Fault Refusal :=
  .next (s.run fun m d => afterCore m c false (tileLoad c k d))

/-- TILE_LOAD_DONE (R63). -/
def execTileLoadDone (c : CoreId) (s : State) : Host.Outcome State Fault Refusal :=
  .next (s.run fun m d => afterCore m c false (tileLoadDone c d))

/-- PASS_COMPLETE (R117). -/
def execPassComplete (c : CoreId) (s : State) : Host.Outcome State Fault Refusal :=
  .next (s.run fun m d => afterCore m c false (passComplete c d))

/-- GROUP_DRAIN_START (R80). -/
def execGroupDrainStart (c : CoreId) (g : GroupId) (s : State) : Host.Outcome State Fault Refusal :=
  .next (s.run fun m d => afterCore m c false (groupDrainStart c g d))

/-- GROUP_DRAIN_END (R80). -/
def execGroupDrainEnd (c : CoreId) (g : GroupId) (s : State) : Host.Outcome State Fault Refusal :=
  .next (s.run fun m d => afterCore m c false (groupDrainEnd c g d))

/-- OUTER_PRODUCT_DRAIN_START (R72). -/
def execOuterProductDrainStart (c : CoreId) (s : State) : Host.Outcome State Fault Refusal :=
  .next (s.run fun m d => afterCore m c false (outerProductDrainStart c d))

/-- OUTER_PRODUCT_DRAIN_END (R72). -/
def execOuterProductDrainEnd (c : CoreId) (s : State) : Host.Outcome State Fault Refusal :=
  .next (s.run fun m d => afterCore m c false (outerProductDrainEnd c d))

/-- HOLDER_CHANGE (R126). -/
def execHolderChange (c : CoreId) (s : State) : Host.Outcome State Fault Refusal :=
  .next (s.run fun m d => afterCore m c false (holderChange c d))

/-- HOLDER_CHANGE_DONE (R126). -/
def execHolderChangeDone (c : CoreId) (s : State) : Host.Outcome State Fault Refusal :=
  .next (s.run fun m d => afterCore m c false (holderChangeDone c d))

/-- NOP (R120). -/
def execNop (c : CoreId) (k : SlotId) (q : QueueId) (s : State) : Host.Outcome State Fault Refusal :=
  .next (s.run fun m d => afterCore m c false (nop m c k q d))

end Sys2Proof.Machine
end

