-- ==== Sys2Proof/Machine/MoverExec.lean ====
section
/-! DEFINITION. The commands of the stream mover as steps of the block: the mover's own change of
Mover.lean, then the bookkeeping of the core's contexts (09_partitions_serving R258, R259). -/

namespace Sys2Proof.Machine

/-- MCOPY (R168). -/
def execMcopy (c : CoreId) (k : SlotId) (s : State) : Host.Outcome State Fault Refusal :=
  .next (s.run fun m d => afterCore m c false (moverIssue .copy m c k d))

/-- MLOAD (R169). -/
def execMload (c : CoreId) (k : SlotId) (s : State) : Host.Outcome State Fault Refusal :=
  .next (s.run fun m d => afterCore m c false (moverIssue .load m c k d))

/-- MSTORE (R169). -/
def execMstore (c : CoreId) (k : SlotId) (s : State) : Host.Outcome State Fault Refusal :=
  .next (s.run fun m d => afterCore m c false (moverIssue .store m c k d))

/-- MGATHER (R168). -/
def execMgather (c : CoreId) (k : SlotId) (s : State) : Host.Outcome State Fault Refusal :=
  .next (s.run fun m d => afterCore m c false (moverIssue .gather m c k d))

/-- MSCATTER (R173). -/
def execMscatter (c : CoreId) (k : SlotId) (s : State) : Host.Outcome State Fault Refusal :=
  .next (s.run fun m d => afterCore m c false (moverIssue .scatter m c k d))

/-- MSEND (R324). -/
def execMsend (c : CoreId) (k : SlotId) (s : State) : Host.Outcome State Fault Refusal :=
  .next (s.run fun m d => afterCore m c false (moverIssue .send m c k d))

/-- MRECV (R325). -/
def execMrecv (c : CoreId) (k : SlotId) (s : State) : Host.Outcome State Fault Refusal :=
  .next (s.run fun m d => afterCore m c false (moverIssue .recv m c k d))

/-- ACFSAVE (R163). -/
def execAcfsave (c : CoreId) (k : SlotId) (s : State) : Host.Outcome State Fault Refusal :=
  .next (s.run fun m d => afterCore m c false (moverIssue .acfsave m c k d))

/-- ACFLOAD (R164). -/
def execAcfload (c : CoreId) (k : SlotId) (s : State) : Host.Outcome State Fault Refusal :=
  .next (s.run fun m d => afterCore m c false (moverIssue .acfload m c k d))

/-- MOVER_COMPLETE (R171). -/
def execMoverComplete (c : CoreId) (k : SlotId) (s : State) : Host.Outcome State Fault Refusal :=
  .next (s.run fun m d => afterAll m (moverComplete m c k d))

/-- The line whose error completion ends a command (R240): the first that fails in the row; where none is known to, the
row's first line, which fails from then on. -/
def Dev.failedLine (d : Dev) (c : CoreId) (p : PartId) (x : MovExec) (o : MOp) (row : Nat) : Nat :=
  let r := x.cmd.f MF.ring
  let g := match o, (d.moveRanges c p x o)[row]? with
    | .recv, _ => (d.slotAddr r x.slotNo, 2 ^ d.rf r RF.slotLog)
    | .send, _ => (d.slotAddr r x.slotNo, 64 + x.cmd.mrows * x.cmd.rowBytes)
    | _, some g => g
    | _, none => (64 * x.cmd.f MF.memLine, 1)
  let reads := decide (o = .load) || decide (o = .gather) || decide (o = .recv)
  (if reads then d.firstBad g.1 g.2 else d.firstCut g.1 g.2).getD (g.1 / 64 % 2 ^ 35)

/-- MOVER_ERROR, with the fault source that codes MEMORY and SRAM raise (R159, R174, R240). -/
def moverFault (m : Mem) (c : CoreId) (k : SlotId) (code : BitVec 4) (row : Nat) (d : Dev) : Dev :=
  match (d.core c).oldestMove k, d.slotCtx c k with
  | some x, some y =>
    match MOp.ofCode (x.cmd.f CF.op) with
    | none => d
    | some o =>
      if !errorHolds m d c y.part x o code.toNat row then d
      else
        let e := moverError m c k code row d
        if code = 2 then
          let line := d.failedLine c y.part x o row
          raiseLine m (some line) (some y.part) (e.failLine line)
        else if code = 5 then raiseOwn m (16 * c.val + 3) none (some y.part) (e.count F.SPD_ECC_COUNT_UNCORRECTED 1 c.val)
        else e
  | _, _ => d

/-- MOVER_ERROR (R174). -/
def execMoverError (c : CoreId) (k : SlotId) (code : BitVec 4) (row : Nat) (s : State) :
    Host.Outcome State Fault Refusal :=
  .next (s.run fun m d => afterAll m (moverFault m c k code row d))

end Sys2Proof.Machine
end

