-- ==== Sys2Proof/Machine/PartExec.lean ====
section
/-! DEFINITION. Partitions, contexts, serving and generations (09_partitions_serving), as steps of the block. -/

namespace Sys2Proof.Machine

/-- PART_CREATE (R254). -/
def execPartCreate (w : Path) (p : PartId) (s : State) : Host.Outcome State Fault Refusal :=
  .next (s.run fun m d => doWrite m w (F.PART_CMD_OP.addr p.val 0) (1 + 16 * 0 + 2 ^ 12 * 0) d)

/-- PART_DELETE (R254). -/
def execPartDelete (w : Path) (p : PartId) (s : State) : Host.Outcome State Fault Refusal :=
  .next (s.run fun m d => doWrite m w (F.PART_CMD_OP.addr p.val 0) (2 + 16 * 0 + 2 ^ 12 * 0) d)

/-- ADD_CORE (R254). -/
def execAddCore (w : Path) (p : PartId) (core : BitVec 8) (s : State) : Host.Outcome State Fault Refusal :=
  .next (s.run fun m d => doWrite m w (F.PART_CMD_OP.addr p.val 0) (3 + 16 * core.toNat + 2 ^ 12 * 0) d)

/-- REMOVE_CORE (R254). -/
def execRemoveCore (w : Path) (p : PartId) (core : BitVec 8) (s : State) : Host.Outcome State Fault Refusal :=
  .next (s.run fun m d => doWrite m w (F.PART_CMD_OP.addr p.val 0) (4 + 16 * core.toNat + 2 ^ 12 * 0) d)

/-- LEND (R261). -/
def execLend (w : Path) (p : PartId) (core : BitVec 8) (target : BitVec 6) (s : State) : Host.Outcome State Fault Refusal :=
  .next (s.run fun m d => doWrite m w (F.PART_CMD_OP.addr p.val 0) (5 + 16 * core.toNat + 2 ^ 12 * target.toNat) d)

/-- RECALL (R262). -/
def execRecallCore (w : Path) (p : PartId) (core : BitVec 8) (s : State) : Host.Outcome State Fault Refusal :=
  .next (s.run fun m d => doWrite m w (F.PART_CMD_OP.addr p.val 0) (6 + 16 * core.toNat + 2 ^ 12 * 0) d)

/-- RECALL_FORCED (R262). -/
def execRecallForced (p : PartId) (core : CoreId) (s : State) : Host.Outcome State Fault Refusal :=
  .next (s.run fun m d => afterAll m (recallForced m p core d))

/-- HOLD (R254). -/
def execHold (w : Path) (p : PartId) (s : State) : Host.Outcome State Fault Refusal :=
  .next (s.run fun m d => doWrite m w (F.PART_CMD_OP.addr p.val 0) (7 + 16 * 0 + 2 ^ 12 * 0) d)

/-- HOLD_REACHED (R255). -/
def execHoldReached (p : PartId) (s : State) : Host.Outcome State Fault Refusal :=
  .next (s.run fun m d => afterAll m (holdReached p d))

/-- RELEASE (R254). -/
def execRelease (w : Path) (p : PartId) (s : State) : Host.Outcome State Fault Refusal :=
  .next (s.run fun m d => doWrite m w (F.PART_CMD_OP.addr p.val 0) (8 + 16 * 0 + 2 ^ 12 * 0) d)

/-- CTX_CREATE (R256). -/
def execCtxCreate (w : Path) (p : PartId) (ctx : BitVec 16) (core : BitVec 8) (ext : ExtentId) (s : State)
    : Host.Outcome State Fault Refusal :=
  .next (s.run fun m d => doWrite m w (F.PART_CTX_CMD_OP.addr p.val 0) (1 + 8 * ctx.toNat + 2 ^ 19 * core.toNat + 2 ^ 27 * ext.toNat) d)

/-- DESTROY (R256). -/
def execDestroy (w : Path) (p : PartId) (ctx : BitVec 16) (s : State) : Host.Outcome State Fault Refusal :=
  .next (s.run fun m d => doWrite m w (F.PART_CTX_CMD_OP.addr p.val 0) (2 + 8 * ctx.toNat + 2 ^ 19 * 0 + 2 ^ 27 * 0) d)

/-- REHOME (R256). -/
def execRehome (w : Path) (p : PartId) (ctx : BitVec 16) (core : BitVec 8) (s : State) : Host.Outcome State Fault Refusal :=
  .next (s.run fun m d => doWrite m w (F.PART_CTX_CMD_OP.addr p.val 0) (3 + 8 * ctx.toNat + 2 ^ 19 * core.toNat + 2 ^ 27 * 0) d)

/-- CTX_WAKE (R256). -/
def execCtxWake (w : Path) (p : PartId) (ctx : BitVec 16) (s : State) : Host.Outcome State Fault Refusal :=
  .next (s.run fun m d => doWrite m w (F.PART_CTX_CMD_OP.addr p.val 0) (4 + 8 * ctx.toNat + 2 ^ 19 * 0 + 2 ^ 27 * 0) d)

/-- STEP_COMPOSE (R269). -/
def execStepCompose (p : PartId) (s : State) : Host.Outcome State Fault Refusal :=
  .next (s.run fun m d => afterAll m (stepCompose m p d))

/-- OLD_GEN_LIMIT_EXPIRY (R277). -/
def execOldGenLimitExpiry (p : PartId) (s : State) : Host.Outcome State Fault Refusal :=
  .next (s.run fun m d => afterAll m (oldGenLimitExpiry p d))

/-- STAGE (R273). -/
def execStage (w : Path) (p : PartId) (gen : BitVec 24) (s : State) : Host.Outcome State Fault Refusal :=
  .next (s.run fun m d => doWrite m w (F.GEN_CMD_OP.addr p.val 0) (1 + 8 * gen.toNat) d)

/-- CASTLE (R273). -/
def execCastle (w : Path) (p : PartId) (gen : BitVec 24) (s : State) : Host.Outcome State Fault Refusal :=
  .next (s.run fun m d => doWrite m w (F.GEN_CMD_OP.addr p.val 0) (2 + 8 * gen.toNat) d)

/-- ABANDON (R273). -/
def execAbandon (w : Path) (p : PartId) (gen : BitVec 24) (s : State) : Host.Outcome State Fault Refusal :=
  .next (s.run fun m d => doWrite m w (F.GEN_CMD_OP.addr p.val 0) (3 + 8 * gen.toNat) d)

/-- GENERATION_FREE_RETRY (R274). -/
def execGenerationFreeRetry (p : PartId) (s : State) : Host.Outcome State Fault Refusal :=
  .next (s.run fun m d => afterAll m (generationFreeRetry p d))

/-- SHARD_READ (R278). -/
def execShardRead (p : PartId) (shard : Nat) (s : State) : Host.Outcome State Fault Refusal :=
  .next (s.run fun m d => afterAll m (shardRead p shard d))

/-- SHARD_TIMEOUT (R281). -/
def execShardTimeout (p : PartId) (shard : Nat) (s : State) : Host.Outcome State Fault Refusal :=
  .next (s.run fun m d => afterAll m (shardTimeout p shard d))

/-- PARTITION_MOVE (R264). -/
def execPartitionMove (p : PartId) (target : DeviceId) (s : State) : Host.Outcome State Fault Refusal :=
  .next (s.run fun m d => afterAll m (partitionMove m p target.toNat d))

end Sys2Proof.Machine
end

