-- ==== Sys2Proof/Machine/PowerExec.lean ====
section
/-! DEFINITION. Power, clocks and thermal control (13_power_clocks), as steps of the block. -/

namespace Sys2Proof.Machine

/-- MAIN_INPUT_SAMPLE (R372). -/
def execMainInputSample (mv : BitVec 16) (s : State) : Host.Outcome State Fault Refusal :=
  .next (s.run fun _ d => mainInputSample mv.toNat d)

/-- SET_POINT_CHANGE (R375). -/
def execSetPointChange (d_ : DieId) (s : State) : Host.Outcome State Fault Refusal :=
  .next (s.run fun _ d => setPointChange d_.val d)

/-- PLL_SETTLED (R375). -/
def execPllSettled (d_ : DieId) (s : State) : Host.Outcome State Fault Refusal :=
  .next (s.run fun _ d => pllSettled d_.val d)

/-- DEFERRED_SWITCH (R376). -/
def execDeferredSwitch (d_ : DieId) (s : State) : Host.Outcome State Fault Refusal :=
  .next (s.run fun _ d => deferredSwitch d_.val d)

/-- DROOP_TRIP (R378). -/
def execDroopTrip (c : CoreId) (s : State) : Host.Outcome State Fault Refusal :=
  .next (s.run fun _ d => droopTrip c d)

/-- DROOP_RELEASE (R378). -/
def execDroopRelease (d_ : DieId) (s : State) : Host.Outcome State Fault Refusal :=
  .next (s.run fun _ d => droopRelease d_.val d)

/-- CAP_EVALUATION (R381). -/
def execCapEvaluation (measured : BitVec 16) (s : State) : Host.Outcome State Fault Refusal :=
  .next (s.run fun _ d => capEvaluation measured.toNat d)

/-- CAP_UNMET (R382). -/
def execCapUnmet (s : State) : Host.Outcome State Fault Refusal :=
  .next (s.run fun m d => afterAll m (capUnmet m d))

/-- THERMAL_SAMPLE (R385). -/
def execThermalSample (temps : List (Option (BitVec 8))) (s : State) : Host.Outcome State Fault Refusal :=
  .next (s.run fun m d => afterAll m (thermalSample m temps d))

/-- THERMAL_TRIP (R386). -/
def execThermalTrip (s : State) : Host.Outcome State Fault Refusal :=
  .next (s.run fun _ d => thermalTrip d)

/-- PACE_NOTICE_SEND (R388). -/
def execPaceNoticeSend (p : PartId) (s : State) : Host.Outcome State Fault Refusal :=
  .next (s.run fun m d => paceNoticeSend m p d)

/-- PACE_NOTICE_REPEAT (R388). -/
def execPaceNoticeRepeat (p : PartId) (s : State) : Host.Outcome State Fault Refusal :=
  .next (s.run fun m d => paceNoticeRepeat m p d)

/-- RELEASE_NOTICE_SEND (R388). -/
def execReleaseNoticeSend (p : PartId) (s : State) : Host.Outcome State Fault Refusal :=
  .next (s.run fun m d => releaseNoticeSend m p d)

/-- PACE_NOTICE_RECEIVE (R391). -/
def execPaceNoticeReceive (n : PaceNotice) (s : State) : Host.Outcome State Fault Refusal :=
  .next (s.run fun m d => paceNoticeReceive m n d)

/-- PACE_NOTICE_EXPIRY (R391). -/
def execPaceNoticeExpiry (device : DeviceId) (job : BitVec 16) (s : State) : Host.Outcome State Fault Refusal :=
  .next (s.run fun m d => paceNoticeExpiry m device.toNat job.toNat d)

/-- ENERGY_ESTIMATE (R393). -/
def execEnergyEstimate (charges : List (BitVec 6 × Account × BitVec 64)) (s : State) : Host.Outcome State Fault Refusal :=
  .next (s.run fun _ d => energyEstimate charges d)

/-- ENERGY_RECONCILE (R394). -/
def execEnergyReconcile (measured : List (BitVec 32)) (s : State) : Host.Outcome State Fault Refusal :=
  .next (s.run fun _ d => energyReconcile measured d)

/-- PWR_RAIL_IDX (R396). -/
def execPwrRailIdx (w : Path) (v : BitVec 32) (s : State) : Host.Outcome State Fault Refusal :=
  .next (s.run fun m d => doWrite m w (F.PWR_RAIL_IDX_RAIL.addr 0 0) (v.toNat) d)

/-- PWR_RING_IDX (R396). -/
def execPwrRingIdx (w : Path) (v : BitVec 32) (s : State) : Host.Outcome State Fault Refusal :=
  .next (s.run fun m d => doWrite m w (F.PWR_RING_IDX_RING.addr 0 0) (v.toNat) d)

/-- THM_IDX (R398). -/
def execThmIdx (w : Path) (v : BitVec 32) (s : State) : Host.Outcome State Fault Refusal :=
  .next (s.run fun m d => doWrite m w (F.THM_IDX_SENSOR.addr 0 0) (v.toNat) d)

end Sys2Proof.Machine
end

