-- ==== Sys2Proof/Machine/RingExec.lean ====
section
/-! DEFINITION. Rings (11_collectives_mapping), as steps of the block. -/

namespace Sys2Proof.Machine

/-- RING_CREDIT_RETURN (R328). -/
def execRingCreditReturn (r : RingId) (s : State) : Host.Outcome State Fault Refusal :=
  .next (s.run fun m d => afterAll m (ringCreditReturn r.toNat d))

/-- RING_ALLOCATE (R347). -/
def execRingAllocate (w : Path) (ring : RingId) (s : State) : Host.Outcome State Fault Refusal :=
  .next (s.run fun m d => doWrite m w (F.RING_CMD_OP.addr 0 0) (1 + 8 * ring.toNat) d)

/-- RING_FREE (R347). -/
def execRingFree (w : Path) (ring : RingId) (s : State) : Host.Outcome State Fault Refusal :=
  .next (s.run fun m d => doWrite m w (F.RING_CMD_OP.addr 0 0) (2 + 8 * ring.toNat) d)

/-- RING_FREE_TIMEOUT (R347). -/
def execRingFreeTimeout (s : State) : Host.Outcome State Fault Refusal :=
  .next (s.run fun m d => afterAll m (eventEnds m 0x1200 (fun h d => (d, ringFreeTimeout h d)) d))

/-- RING_RESET (R347). -/
def execRingReset (w : Path) (ring : RingId) (s : State) : Host.Outcome State Fault Refusal :=
  .next (s.run fun m d => doWrite m w (F.RING_CMD_OP.addr 0 0) (3 + 8 * ring.toNat) d)

/-- RETARGET (R347). -/
def execRetarget (w : Path) (ring : RingId) (s : State) : Host.Outcome State Fault Refusal :=
  .next (s.run fun m d => doWrite m w (F.RING_CMD_OP.addr 0 0) (4 + 8 * ring.toNat) d)

/-- RING_READ_IDX (R348). -/
def execRingReadIdx (w : Path) (ring : RingId) (s : State) : Host.Outcome State Fault Refusal :=
  .next (s.run fun m d => doWrite m w (F.RING_READ_IDX_RING.addr 0 0) (ring.toNat) d)

/-- TURN_SCOPED_TIMEOUT (R330). -/
def execTurnScopedTimeout (job : BitVec 16) (s : State) : Host.Outcome State Fault Refusal :=
  .next (s.run fun m d => afterAll m (turnScopedTimeout m job.toNat d))

end Sys2Proof.Machine
end

