-- ==== Sys2Proof/Machine/TurnExec.lean ====
section
/-! DEFINITION. Turns, the banker role and its messages (07_training_support, 14_faults_recovery, 16_management_banker), as steps of the block. -/

namespace Sys2Proof.Machine

/-- READY_REPORT_SEND (R219). -/
def execReadyReportSend (job : BitVec 16) (s : State) : Host.Outcome State Fault Refusal :=
  .next (s.run fun m d => readyReportSend m job.toNat d)

/-- READY_REPEAT (R219). -/
def execReadyRepeat (job : BitVec 16) (s : State) : Host.Outcome State Fault Refusal :=
  .next (s.run fun m d => readyRepeat m job.toNat d)

/-- READY (R220). -/
def execReady (m_ : BankerMsg) (s : State) : Host.Outcome State Fault Refusal :=
  .next (s.run fun _ d => takeMsg 0x12 m_ (bankReady m_) d)

/-- DECISION (R220). -/
def execDecision (m_ : BankerMsg) (s : State) : Host.Outcome State Fault Refusal :=
  .next (s.run fun _ d => takeMsg 0x19 m_ (bankDecision m_) d)

/-- ACK (R466). -/
def execAck (m_ : BankerMsg) (s : State) : Host.Outcome State Fault Refusal :=
  .next (s.run fun _ d => takeMsg 0x1A m_ (bankAck m_) d)

/-- COMMIT (R220). -/
def execCommit (m_ : BankerMsg) (s : State) : Host.Outcome State Fault Refusal :=
  .next (s.run fun m d => afterAll m (takeMsg 0x13 m_ (commitApply m m_.job.toNat m_.turn.toNat m_.f0.toNat) d))

/-- READY_LIMIT_EXPIRY (R220). -/
def execReadyLimitExpiry (job : BitVec 16) (s : State) : Host.Outcome State Fault Refusal :=
  .next (s.run fun _ d => readyLimitExpiry job.toNat d)

/-- TURN_LIMIT_EXPIRY (R220). -/
def execTurnLimitExpiry (job : BitVec 16) (s : State) : Host.Outcome State Fault Refusal :=
  .next (s.run fun _ d => turnLimitExpiry job.toNat d)

/-- FAILURE_REPORT (R415). -/
def execFailureReport (m_ : BankerMsg) (s : State) : Host.Outcome State Fault Refusal :=
  .next (s.run fun m d => takeMsg 0x14 m_ (failureReport m m_) d)

/-- FAILURE_NOTICE (R417). -/
def execFailureNotice (m_ : BankerMsg) (s : State) : Host.Outcome State Fault Refusal :=
  .next (s.run fun m d => afterAll m (takeMsg 0x15 m_ (failureApply m m_.job.toNat m_.turn.toNat) d))

/-- QUIESCE_REPORT_SEND (R417). -/
def execQuiesceReportSend (job : BitVec 16) (s : State) : Host.Outcome State Fault Refusal :=
  .next (s.run fun m d => quiesceReportSend m job.toNat d)

/-- QUIESCED (R416). -/
def execQuiesced (m_ : BankerMsg) (s : State) : Host.Outcome State Fault Refusal :=
  .next (s.run fun _ d => takeMsg 0x16 m_ (bankQuiesced m_) d)

/-- QUIESCE_TIMEOUT (R416). -/
def execQuiesceTimeout (job : BitVec 16) (s : State) : Host.Outcome State Fault Refusal :=
  .next (s.run fun _ d => quiesceTimeout job.toNat d)

/-- REPLAY (R418). -/
def execReplay (m_ : BankerMsg) (s : State) : Host.Outcome State Fault Refusal :=
  .next (s.run fun m d => afterAll m (takeMsg 0x17 m_ (replayApply m m_.job.toNat m_.turn.toNat) d))

/-- SPARE_SUBSTITUTION (R425). -/
def execSpareSubstitution (job : BitVec 16) (failed spare : DeviceId) (s : State) : Host.Outcome State Fault Refusal :=
  .next (s.run fun m d => afterAll m (spareSubstitution m job.toNat failed.toNat spare.toNat d))

/-- PARTNER (R312). -/
def execPartner (m_ : BankerMsg) (s : State) : Host.Outcome State Fault Refusal :=
  .next (s.run fun _ d => takeMsg 0x18 m_ (bankPartner m_) d)

/-- JOB_END (R465). -/
def execJobEnd (m_ : BankerMsg) (s : State) : Host.Outcome State Fault Refusal :=
  .next (s.run fun m d => afterAll m (takeMsg 0x1B m_ (jobEndApply m m_.job.toNat) d))

/-- ANNOUNCE (R466). -/
def execAnnounce (m_ : BankerMsg) (s : State) : Host.Outcome State Fault Refusal :=
  .next (s.run fun _ d => takeMsg 0x10 m_ (bankAnnounce m_) d)

/-- HEARTBEAT (R467). -/
def execHeartbeat (m_ : BankerMsg) (s : State) : Host.Outcome State Fault Refusal :=
  .next (s.run fun _ d => takeMsg 0x11 m_ (bankHeartbeat m_) d)

/-- CANDIDATE_ANNOUNCE (R466). -/
def execCandidateAnnounce (s : State) : Host.Outcome State Fault Refusal :=
  .next (s.run fun _ d => candidateAnnounce d)

/-- ELECTION_TIMEOUT (R466). -/
def execElectionTimeout (s : State) : Host.Outcome State Fault Refusal :=
  .next (s.run fun _ d => electionTimeout d)

/-- HEARTBEAT_SEND (R467). -/
def execHeartbeatSend (s : State) : Host.Outcome State Fault Refusal :=
  .next (s.run fun _ d => heartbeatSend d)

/-- HEARTBEAT_MISS (R467). -/
def execHeartbeatMiss (device : DeviceId) (s : State) : Host.Outcome State Fault Refusal :=
  .next (s.run fun _ d => heartbeatMiss device.toNat d)

/-- BNK_MEMBER_IDX (R473). -/
def execBnkMemberIdx (w : Path) (v : BitVec 32) (s : State) : Host.Outcome State Fault Refusal :=
  .next (s.run fun m d => doWrite m w (F.BNK_MEMBER_IDX_INDEX.addr 0 0) (v.toNat) d)

/-- BNK_MEMBER (R473). -/
def execBnkMember (w : Path) (v : BitVec 64) (s : State) : Host.Outcome State Fault Refusal :=
  .next (s.run fun m d => doWrite m w (F.BNK_MEMBER_ADMIT.addr 0 0) (v.toNat) d)

end Sys2Proof.Machine
end

