-- ==== Sys2Proof/Machine/VectorExec.lean ====
section
/-! DEFINITION. The commands of the vector engine as steps of the block: the engine's own change of
Vector.lean, then the bookkeeping of the core's contexts (09_partitions_serving R258, R259). -/

namespace Sys2Proof.Machine

/-- VADD (R132). -/
def execVadd (c : CoreId) (k : SlotId) (s : State) : Host.Outcome State Fault Refusal :=
  .next (s.run fun m d => afterCore m c false (vectorIssue .add c k d))

/-- VSUB (R132). -/
def execVsub (c : CoreId) (k : SlotId) (s : State) : Host.Outcome State Fault Refusal :=
  .next (s.run fun m d => afterCore m c false (vectorIssue .sub c k d))

/-- VMUL (R132). -/
def execVmul (c : CoreId) (k : SlotId) (s : State) : Host.Outcome State Fault Refusal :=
  .next (s.run fun m d => afterCore m c false (vectorIssue .mul c k d))

/-- VFMA (R132). -/
def execVfma (c : CoreId) (k : SlotId) (s : State) : Host.Outcome State Fault Refusal :=
  .next (s.run fun m d => afterCore m c false (vectorIssue .fma c k d))

/-- VMAX (R57). -/
def execVmax (c : CoreId) (k : SlotId) (s : State) : Host.Outcome State Fault Refusal :=
  .next (s.run fun m d => afterCore m c false (vectorIssue .max c k d))

/-- VMIN (R57). -/
def execVmin (c : CoreId) (k : SlotId) (s : State) : Host.Outcome State Fault Refusal :=
  .next (s.run fun m d => afterCore m c false (vectorIssue .min c k d))

/-- VCMP (R56). -/
def execVcmp (c : CoreId) (k : SlotId) (s : State) : Host.Outcome State Fault Refusal :=
  .next (s.run fun m d => afterCore m c false (vectorIssue .cmp c k d))

/-- VSEL (R129). -/
def execVsel (c : CoreId) (k : SlotId) (s : State) : Host.Outcome State Fault Refusal :=
  .next (s.run fun m d => afterCore m c false (vectorIssue .sel c k d))

/-- VCVT (R132). -/
def execVcvt (c : CoreId) (k : SlotId) (s : State) : Host.Outcome State Fault Refusal :=
  .next (s.run fun m d => afterCore m c false (vectorIssue .cvt c k d))

/-- VDIV (R132). -/
def execVdiv (c : CoreId) (k : SlotId) (s : State) : Host.Outcome State Fault Refusal :=
  .next (s.run fun m d => afterCore m c false (vectorIssue .div c k d))

/-- VSQRT (R132). -/
def execVsqrt (c : CoreId) (k : SlotId) (s : State) : Host.Outcome State Fault Refusal :=
  .next (s.run fun m d => afterCore m c false (vectorIssue .sqrt c k d))

/-- VFUNC (R133). -/
def execVfunc (c : CoreId) (k : SlotId) (s : State) : Host.Outcome State Fault Refusal :=
  .next (s.run fun m d => afterCore m c false (vectorIssue .func c k d))

/-- VRED (R133). -/
def execVred (c : CoreId) (k : SlotId) (s : State) : Host.Outcome State Fault Refusal :=
  .next (s.run fun m d => afterCore m c false (vectorIssue .red c k d))

/-- VDACT (R137). -/
def execVdact (c : CoreId) (k : SlotId) (s : State) : Host.Outcome State Fault Refusal :=
  .next (s.run fun m d => afterCore m c false (vectorIssue .dact c k d))

/-- VDPRE (R138). -/
def execVdpre (c : CoreId) (k : SlotId) (s : State) : Host.Outcome State Fault Refusal :=
  .next (s.run fun m d => afterCore m c false (vectorIssue .dpre c k d))

/-- LADD (R134). -/
def execLadd (c : CoreId) (k : SlotId) (s : State) : Host.Outcome State Fault Refusal :=
  .next (s.run fun m d => afterCore m c false (vectorIssue .ladd c k d))

/-- LRED (R134). -/
def execLred (c : CoreId) (k : SlotId) (s : State) : Host.Outcome State Fault Refusal :=
  .next (s.run fun m d => afterCore m c false (vectorIssue .lred c k d))

/-- LCVT (R135). -/
def execLcvt (c : CoreId) (k : SlotId) (s : State) : Host.Outcome State Fault Refusal :=
  .next (s.run fun m d => afterCore m c false (vectorIssue .lcvt c k d))

/-- VSPLIT (R136). -/
def execVsplit (c : CoreId) (k : SlotId) (s : State) : Host.Outcome State Fault Refusal :=
  .next (s.run fun m d => afterCore m c false (vectorIssue .split c k d))

/-- VECTOR_COMPLETE (R117). -/
def execVectorComplete (c : CoreId) (s : State) : Host.Outcome State Fault Refusal :=
  .next (s.run fun m d => afterCore m c false (vectorComplete c d))

end Sys2Proof.Machine
end

