-- ==== Sys2Proof/Machine/Dispatch.lean ====
section
/-! DEFINITION. Which meaning each command has: one direct call for each constructor of Instr. -/

namespace Sys2Proof.Machine

def exec (i : Instr) (s : State) : Host.Outcome State Fault Refusal :=
  match i with
  | .hartInstruction c => Sys2Proof.Machine.execHartInstruction c s
  | .tpushM c k rd rs1 => Sys2Proof.Machine.execTpushM c k rd rs1 s
  | .tpushV c k rd rs1 => Sys2Proof.Machine.execTpushV c k rd rs1 s
  | .tpushS c k rd rs1 => Sys2Proof.Machine.execTpushS c k rd rs1 s
  | .semwait c k rs1 rs2 => Sys2Proof.Machine.execSemwait c k rs1 rs2 s
  | .semsig c k rs1 rs2 => Sys2Proof.Machine.execSemsig c k rs1 rs2 s
  | .semread c k rd rs1 => Sys2Proof.Machine.execSemread c k rd rs1 s
  | .tfence c k rs1 => Sys2Proof.Machine.execTfence c k rs1 s
  | .nop c k q => Sys2Proof.Machine.execNop c k q s
  | .matrixPass c k => Sys2Proof.Machine.execMatrixPass c k s
  | .tileLoad c k => Sys2Proof.Machine.execTileLoad c k s
  | .tileLoadDone c => Sys2Proof.Machine.execTileLoadDone c s
  | .passComplete c => Sys2Proof.Machine.execPassComplete c s
  | .groupDrainStart c g => Sys2Proof.Machine.execGroupDrainStart c g s
  | .groupDrainEnd c g => Sys2Proof.Machine.execGroupDrainEnd c g s
  | .outerProductDrainStart c => Sys2Proof.Machine.execOuterProductDrainStart c s
  | .outerProductDrainEnd c => Sys2Proof.Machine.execOuterProductDrainEnd c s
  | .holderChange c => Sys2Proof.Machine.execHolderChange c s
  | .holderChangeDone c => Sys2Proof.Machine.execHolderChangeDone c s
  | .vadd c k => Sys2Proof.Machine.execVadd c k s
  | .vsub c k => Sys2Proof.Machine.execVsub c k s
  | .vmul c k => Sys2Proof.Machine.execVmul c k s
  | .vfma c k => Sys2Proof.Machine.execVfma c k s
  | .vmax c k => Sys2Proof.Machine.execVmax c k s
  | .vmin c k => Sys2Proof.Machine.execVmin c k s
  | .vcmp c k => Sys2Proof.Machine.execVcmp c k s
  | .vsel c k => Sys2Proof.Machine.execVsel c k s
  | .vcvt c k => Sys2Proof.Machine.execVcvt c k s
  | .vdiv c k => Sys2Proof.Machine.execVdiv c k s
  | .vsqrt c k => Sys2Proof.Machine.execVsqrt c k s
  | .vfunc c k => Sys2Proof.Machine.execVfunc c k s
  | .vred c k => Sys2Proof.Machine.execVred c k s
  | .vdact c k => Sys2Proof.Machine.execVdact c k s
  | .vdpre c k => Sys2Proof.Machine.execVdpre c k s
  | .ladd c k => Sys2Proof.Machine.execLadd c k s
  | .lred c k => Sys2Proof.Machine.execLred c k s
  | .lcvt c k => Sys2Proof.Machine.execLcvt c k s
  | .vsplit c k => Sys2Proof.Machine.execVsplit c k s
  | .vectorComplete c => Sys2Proof.Machine.execVectorComplete c s
  | .mcopy c k => Sys2Proof.Machine.execMcopy c k s
  | .mload c k => Sys2Proof.Machine.execMload c k s
  | .mstore c k => Sys2Proof.Machine.execMstore c k s
  | .mgather c k => Sys2Proof.Machine.execMgather c k s
  | .mscatter c k => Sys2Proof.Machine.execMscatter c k s
  | .msend c k => Sys2Proof.Machine.execMsend c k s
  | .mrecv c k => Sys2Proof.Machine.execMrecv c k s
  | .acfsave c k => Sys2Proof.Machine.execAcfsave c k s
  | .acfload c k => Sys2Proof.Machine.execAcfload c k s
  | .moverComplete c k => Sys2Proof.Machine.execMoverComplete c k s
  | .moverError c k code row => Sys2Proof.Machine.execMoverError c k code row s
  | .coreResume w c mask => Sys2Proof.Machine.execCoreResume w c mask s
  | .coreHalt w c mask => Sys2Proof.Machine.execCoreHalt w c mask s
  | .swapOut w c k ext => Sys2Proof.Machine.execSwapOut w c k ext s
  | .swapIn w c k ext => Sys2Proof.Machine.execSwapIn w c k ext s
  | .swapOutDone c => Sys2Proof.Machine.execSwapOutDone c s
  | .swapInDone c => Sys2Proof.Machine.execSwapInDone c s
  | .koHoldEnd c => Sys2Proof.Machine.execKoHoldEnd c s
  | .aryHold w c hold => Sys2Proof.Machine.execAryHold w c hold s
  | .aryClrCounts w c => Sys2Proof.Machine.execAryClrCounts w c s
  | .vecClrCounts w c => Sys2Proof.Machine.execVecClrCounts w c s
  | .movResume w c mask => Sys2Proof.Machine.execMovResume w c mask s
  | .scratchpadInitDone c => Sys2Proof.Machine.execScratchpadInitDone c s
  | .allocate w d index countM1 => Sys2Proof.Machine.execAllocate w d index countM1 s
  | .free w d index countM1 => Sys2Proof.Machine.execFree w d index countM1 s
  | .loadBegin w d index countM1 => Sys2Proof.Machine.execLoadBegin w d index countM1 s
  | .loadEnd w d index countM1 => Sys2Proof.Machine.execLoadEnd w d index countM1 s
  | .freeze w d index countM1 => Sys2Proof.Machine.execFreeze w d index countM1 s
  | .thaw w d index countM1 => Sys2Proof.Machine.execThaw w d index countM1 s
  | .setGen w d index countM1 => Sys2Proof.Machine.execSetGen w d index countM1 s
  | .retire w d index countM1 => Sys2Proof.Machine.execRetire w d index countM1 s
  | .xmapWaitEnd d => Sys2Proof.Machine.execXmapWaitEnd d s
  | .xmapBusyTimeout d => Sys2Proof.Machine.execXmapBusyTimeout d s
  | .clearingDone ext => Sys2Proof.Machine.execClearingDone ext s
  | .xmapReadIdx w d index => Sys2Proof.Machine.execXmapReadIdx w d index s
  | .patrolRead k => Sys2Proof.Machine.execPatrolRead k s
  | .stackAutoIdle k => Sys2Proof.Machine.execStackAutoIdle k s
  | .selfRefreshEntry k => Sys2Proof.Machine.execSelfRefreshEntry k s
  | .stackPowerExit k => Sys2Proof.Machine.execStackPowerExit k s
  | .stackTempSample k temps logic => Sys2Proof.Machine.execStackTempSample k temps logic s
  | .stackFwWatchdog k => Sys2Proof.Machine.execStackFwWatchdog k s
  | .partCreate w p => Sys2Proof.Machine.execPartCreate w p s
  | .partDelete w p => Sys2Proof.Machine.execPartDelete w p s
  | .addCore w p core => Sys2Proof.Machine.execAddCore w p core s
  | .removeCore w p core => Sys2Proof.Machine.execRemoveCore w p core s
  | .lend w p core target => Sys2Proof.Machine.execLend w p core target s
  | .recallCore w p core => Sys2Proof.Machine.execRecallCore w p core s
  | .recallForced p core => Sys2Proof.Machine.execRecallForced p core s
  | .hold w p => Sys2Proof.Machine.execHold w p s
  | .holdReached p => Sys2Proof.Machine.execHoldReached p s
  | .release w p => Sys2Proof.Machine.execRelease w p s
  | .ctxCreate w p ctx core ext => Sys2Proof.Machine.execCtxCreate w p ctx core ext s
  | .destroy w p ctx => Sys2Proof.Machine.execDestroy w p ctx s
  | .rehome w p ctx core => Sys2Proof.Machine.execRehome w p ctx core s
  | .ctxWake w p ctx => Sys2Proof.Machine.execCtxWake w p ctx s
  | .stepCompose p => Sys2Proof.Machine.execStepCompose p s
  | .oldGenLimitExpiry p => Sys2Proof.Machine.execOldGenLimitExpiry p s
  | .stage w p gen => Sys2Proof.Machine.execStage w p gen s
  | .castle w p gen => Sys2Proof.Machine.execCastle w p gen s
  | .abandon w p gen => Sys2Proof.Machine.execAbandon w p gen s
  | .generationFreeRetry p => Sys2Proof.Machine.execGenerationFreeRetry p s
  | .shardRead p shard => Sys2Proof.Machine.execShardRead p shard s
  | .shardTimeout p shard => Sys2Proof.Machine.execShardTimeout p shard s
  | .partitionMove p target => Sys2Proof.Machine.execPartitionMove p target s
  | .plCtlWrite w n v => Sys2Proof.Machine.execPlCtlWrite w n v s
  | .trainDone n lanes => Sys2Proof.Machine.execTrainDone n lanes s
  | .trainTimeout n => Sys2Proof.Machine.execTrainTimeout n s
  | .checkExchange n device port mode digest => Sys2Proof.Machine.execCheckExchange n device port mode digest s
  | .checkTimeout n => Sys2Proof.Machine.execCheckTimeout n s
  | .downRetrain n => Sys2Proof.Machine.execDownRetrain n s
  | .lightLoss n => Sys2Proof.Machine.execLightLoss n s
  | .lightReturn n => Sys2Proof.Machine.execLightReturn n s
  | .flitReceive n flit => Sys2Proof.Machine.execFlitReceive n flit s
  | .flitSend n => Sys2Proof.Machine.execFlitSend n s
  | .packetForward arrival pkt => Sys2Proof.Machine.execPacketForward arrival pkt s
  | .ringMessagePacket pkt => Sys2Proof.Machine.execRingMessagePacket pkt s
  | .bulkWritePacket pkt => Sys2Proof.Machine.execBulkWritePacket pkt s
  | .writeAckPacket pkt => Sys2Proof.Machine.execWriteAckPacket pkt s
  | .errorNoticePacket pkt => Sys2Proof.Machine.execErrorNoticePacket pkt s
  | .beaconSend n => Sys2Proof.Machine.execBeaconSend n s
  | .beaconReceive n b => Sys2Proof.Machine.execBeaconReceive n b s
  | .beaconTimeout n => Sys2Proof.Machine.execBeaconTimeout n s
  | .heldPacketDiscard => Sys2Proof.Machine.execHeldPacketDiscard s
  | .flowFailed src job => Sys2Proof.Machine.execFlowFailed src job s
  | .shareTableWrite w n j v => Sys2Proof.Machine.execShareTableWrite w n j v s
  | .fabCtlWrite w v => Sys2Proof.Machine.execFabCtlWrite w v s
  | .fabRtIdx w v => Sys2Proof.Machine.execFabRtIdx w v s
  | .fabRtData w v => Sys2Proof.Machine.execFabRtData w v s
  | .ringCreditReturn r => Sys2Proof.Machine.execRingCreditReturn r s
  | .mirrorSend ext => Sys2Proof.Machine.execMirrorSend ext s
  | .ringAllocate w ring => Sys2Proof.Machine.execRingAllocate w ring s
  | .ringFree w ring => Sys2Proof.Machine.execRingFree w ring s
  | .ringFreeTimeout => Sys2Proof.Machine.execRingFreeTimeout s
  | .ringReset w ring => Sys2Proof.Machine.execRingReset w ring s
  | .retarget w ring => Sys2Proof.Machine.execRetarget w ring s
  | .ringReadIdx w ring => Sys2Proof.Machine.execRingReadIdx w ring s
  | .turnScopedTimeout job => Sys2Proof.Machine.execTurnScopedTimeout job s
  | .allReduce c k => Sys2Proof.Machine.execAllReduce c k s
  | .reduceScatter c k => Sys2Proof.Machine.execReduceScatter c k s
  | .allGather c k => Sys2Proof.Machine.execAllGather c k s
  | .broadcast c k => Sys2Proof.Machine.execBroadcast c k s
  | .reduce c k => Sys2Proof.Machine.execReduce c k s
  | .allToAll c k => Sys2Proof.Machine.execAllToAll c k s
  | .barrier c k => Sys2Proof.Machine.execBarrier c k s
  | .dcpOpen pkt => Sys2Proof.Machine.execDcpOpen pkt s
  | .dcpNop h => Sys2Proof.Machine.execDcpNop h s
  | .regRead h o => Sys2Proof.Machine.execRegRead h o s
  | .regWrite h o => Sys2Proof.Machine.execRegWrite h o s
  | .memRead h o => Sys2Proof.Machine.execMemRead h o s
  | .memWrite h o => Sys2Proof.Machine.execMemWrite h o s
  | .doorbell h o => Sys2Proof.Machine.execDoorbell h o s
  | .consume h o => Sys2Proof.Machine.execConsume h o s
  | .subscribe h o => Sys2Proof.Machine.execSubscribe h o s
  | .dcpClose h => Sys2Proof.Machine.execDcpClose h s
  | .heldRequestExpiry session => Sys2Proof.Machine.execHeldRequestExpiry session s
  | .sessionIdleExpiry session => Sys2Proof.Machine.execSessionIdleExpiry session s
  | .notifySend session ring => Sys2Proof.Machine.execNotifySend session ring s
  | .rdmaWrite pkt => Sys2Proof.Machine.execRdmaWrite pkt s
  | .rdmaRead pkt => Sys2Proof.Machine.execRdmaRead pkt s
  | .send pkt => Sys2Proof.Machine.execSend pkt s
  | .readResponse r => Sys2Proof.Machine.execReadResponse r s
  | .ackTimeout qp => Sys2Proof.Machine.execAckTimeout qp s
  | .cnpReceive qp => Sys2Proof.Machine.execCnpReceive qp s
  | .alphaDecay qp => Sys2Proof.Machine.execAlphaDecay qp s
  | .rateIncrease qp => Sys2Proof.Machine.execRateIncrease qp s
  | .pauseFrame prio on => Sys2Proof.Machine.execPauseFrame prio on s
  | .neighbourRequest q => Sys2Proof.Machine.execNeighbourRequest q s
  | .ptpMessage m => Sys2Proof.Machine.execPtpMessage m s
  | .ptpHoldover => Sys2Proof.Machine.execPtpHoldover s
  | .hostCtlWrite w v => Sys2Proof.Machine.execHostCtlWrite w v s
  | .hostLinkUp => Sys2Proof.Machine.execHostLinkUp s
  | .cageInsert => Sys2Proof.Machine.execCageInsert s
  | .cageRemove => Sys2Proof.Machine.execCageRemove s
  | .hostPeerIdx w v => Sys2Proof.Machine.execHostPeerIdx w v s
  | .hostPeerMac w v => Sys2Proof.Machine.execHostPeerMac w v s
  | .mainInputSample mv => Sys2Proof.Machine.execMainInputSample mv s
  | .setPointChange d => Sys2Proof.Machine.execSetPointChange d s
  | .pllSettled d => Sys2Proof.Machine.execPllSettled d s
  | .droopTrip c => Sys2Proof.Machine.execDroopTrip c s
  | .droopRelease d => Sys2Proof.Machine.execDroopRelease d s
  | .capEvaluation measured => Sys2Proof.Machine.execCapEvaluation measured s
  | .capUnmet => Sys2Proof.Machine.execCapUnmet s
  | .thermalSample temps => Sys2Proof.Machine.execThermalSample temps s
  | .thermalTrip => Sys2Proof.Machine.execThermalTrip s
  | .paceNoticeSend p => Sys2Proof.Machine.execPaceNoticeSend p s
  | .paceNoticeRepeat p => Sys2Proof.Machine.execPaceNoticeRepeat p s
  | .releaseNoticeSend p => Sys2Proof.Machine.execReleaseNoticeSend p s
  | .paceNoticeReceive n => Sys2Proof.Machine.execPaceNoticeReceive n s
  | .paceNoticeExpiry device job => Sys2Proof.Machine.execPaceNoticeExpiry device job s
  | .energyEstimate charges => Sys2Proof.Machine.execEnergyEstimate charges s
  | .energyReconcile measured => Sys2Proof.Machine.execEnergyReconcile measured s
  | .pwrRailIdx w v => Sys2Proof.Machine.execPwrRailIdx w v s
  | .pwrRingIdx w v => Sys2Proof.Machine.execPwrRingIdx w v s
  | .thmIdx w v => Sys2Proof.Machine.execThmIdx w v s
  | .faultRaise src code detail req => Sys2Proof.Machine.execFaultRaise src code detail req s
  | .wireFault src => Sys2Proof.Machine.execWireFault src s
  | .force w => Sys2Proof.Machine.execForce w s
  | .forceWire w => Sys2Proof.Machine.execForceWire w s
  | .fltSrcIdx w v => Sys2Proof.Machine.execFltSrcIdx w v s
  | .fltLogIdx w v => Sys2Proof.Machine.execFltLogIdx w v s
  | .fltDumpIdx w v => Sys2Proof.Machine.execFltDumpIdx w v s
  | .domainReset w v => Sys2Proof.Machine.execDomainReset w v s
  | .resetDone => Sys2Proof.Machine.execResetDone s
  | .hourglassTimerExpiry c unit => Sys2Proof.Machine.execHourglassTimerExpiry c unit s
  | .stalemateDetected p => Sys2Proof.Machine.execStalemateDetected p s
  | .fence w core => Sys2Proof.Machine.execFence w core s
  | .clear w core => Sys2Proof.Machine.execClear w core s
  | .readyReportSend job => Sys2Proof.Machine.execReadyReportSend job s
  | .readyRepeat job => Sys2Proof.Machine.execReadyRepeat job s
  | .ready m => Sys2Proof.Machine.execReady m s
  | .decision m => Sys2Proof.Machine.execDecision m s
  | .ack m => Sys2Proof.Machine.execAck m s
  | .commit m => Sys2Proof.Machine.execCommit m s
  | .readyLimitExpiry job => Sys2Proof.Machine.execReadyLimitExpiry job s
  | .turnLimitExpiry job => Sys2Proof.Machine.execTurnLimitExpiry job s
  | .failureReport m => Sys2Proof.Machine.execFailureReport m s
  | .failureNotice m => Sys2Proof.Machine.execFailureNotice m s
  | .quiesceReportSend job => Sys2Proof.Machine.execQuiesceReportSend job s
  | .quiesced m => Sys2Proof.Machine.execQuiesced m s
  | .quiesceTimeout job => Sys2Proof.Machine.execQuiesceTimeout job s
  | .replay m => Sys2Proof.Machine.execReplay m s
  | .spareSubstitution job failed spare => Sys2Proof.Machine.execSpareSubstitution job failed spare s
  | .partner m => Sys2Proof.Machine.execPartner m s
  | .jobEnd m => Sys2Proof.Machine.execJobEnd m s
  | .announce m => Sys2Proof.Machine.execAnnounce m s
  | .heartbeat m => Sys2Proof.Machine.execHeartbeat m s
  | .candidateAnnounce => Sys2Proof.Machine.execCandidateAnnounce s
  | .electionTimeout => Sys2Proof.Machine.execElectionTimeout s
  | .heartbeatSend => Sys2Proof.Machine.execHeartbeatSend s
  | .heartbeatMiss device => Sys2Proof.Machine.execHeartbeatMiss device s
  | .bnkMemberIdx w v => Sys2Proof.Machine.execBnkMemberIdx w v s
  | .bnkMember w v => Sys2Proof.Machine.execBnkMember w v s
  | .write w comp => Sys2Proof.Machine.execWrite w comp s
  | .stageImage w comp => Sys2Proof.Machine.execStageImage w comp s
  | .discard w comp => Sys2Proof.Machine.execDiscard w comp s
  | .fwCommit w comp => Sys2Proof.Machine.execFwCommit w comp s
  | .secFwSlotIdx w v => Sys2Proof.Machine.execSecFwSlotIdx w v s
  | .secCounterIdx w v => Sys2Proof.Machine.execSecCounterIdx w v s
  | .report w => Sys2Proof.Machine.execReport w s
  | .extend w index => Sys2Proof.Machine.execExtend w index s
  | .entropyHealthFail => Sys2Proof.Machine.execEntropyHealthFail s
  | .store w slot source => Sys2Proof.Machine.execStore w slot source s
  | .activate w slot => Sys2Proof.Machine.execActivate w slot s
  | .settle w => Sys2Proof.Machine.execSettle w s
  | .takeBack w => Sys2Proof.Machine.execTakeBack w s
  | .erase w slot => Sys2Proof.Machine.execErase w slot s
  | .cfgSlotIdx w v => Sys2Proof.Machine.execCfgSlotIdx w v s
  | .trialExpiry => Sys2Proof.Machine.execTrialExpiry s
  | .hguSample readings => Sys2Proof.Machine.execHguSample readings s
  | .wake w => Sys2Proof.Machine.execWake w s
  | .shutdown w => Sys2Proof.Machine.execShutdown w s
  | .hguSensorIdx w v => Sys2Proof.Machine.execHguSensorIdx w v s
  | .telemetryNotify => Sys2Proof.Machine.execTelemetryNotify s
  | .i3cEntdaa addr => Sys2Proof.Machine.execI3cEntdaa addr s
  | .i3cPrivateRead len => Sys2Proof.Machine.execI3cPrivateRead len s
  | .i3cWake => Sys2Proof.Machine.execI3cWake s
  | .i3cShutdown => Sys2Proof.Machine.execI3cShutdown s
  | .jnlReadIdx w v => Sys2Proof.Machine.execJnlReadIdx w v s
  | .timeSet w v => Sys2Proof.Machine.execTimeSet w v s
  | .auxPowerUp => Sys2Proof.Machine.execAuxPowerUp s
  | .auxPowerLoss => Sys2Proof.Machine.execAuxPowerLoss s
  | .mainPresent => Sys2Proof.Machine.execMainPresent s
  | .mainPowerLoss => Sys2Proof.Machine.execMainPowerLoss s
  | .phyResetRelease => Sys2Proof.Machine.execPhyResetRelease s
  | .registerWrite w addr v => Sys2Proof.Machine.execRegisterWrite w addr v s
  | .deferredSwitch d => Sys2Proof.Machine.execDeferredSwitch d s
  | .hostLinkDown => Sys2Proof.Machine.execHostLinkDown s
  | .managementLinkChange n up => Sys2Proof.Machine.execManagementLinkChange n up s
  | .boundaryScan op => Sys2Proof.Machine.execBoundaryScan op s

end Sys2Proof.Machine
end

