-- ==== Sys2Proof/Machine/Step.lean ====
section
/-! DEFINITION. One step of the block: it takes the command at the front of its queue and answers
exec's outcome; on an empty queue it idles for 1 ns of device time. -/

namespace Sys2Proof.Machine

/-- One step. DESIGN CHOICE: on an empty queue 1 ns of device time passes (log 9). -/
def step (s : State) : Host.Outcome State Fault Refusal :=
  match s.pending with
  | [] => .next (s.run tick)
  | c :: r => exec c { s with pending := r }

/-- s with the command that a word spells at the front of its queue; no word spells one. -/
def State.withFetchWord (s : State) (nbits w : Nat) : State :=
  match decodeTableWord nbits w with
  | some c => { s with pending := c :: s.pending }
  | none => s

end Sys2Proof.Machine
end

