-- ==== Sys2Proof/WellFormed.lean ====
section
/-! DEFINITION. Which commands are well formed: what the spec fixes about a command's operands beyond their types. A
command that is not well formed is one that no sender and no cause can give. -/

namespace Sys2Proof

/-- An operation's code is that of its row (12_host_port R359). -/
def DcpOp.is (o : DcpOp) (code : Nat) : Bool := decide (o.op.toNat = code)

/-- A packet has 1 to 4,096 bytes of payload (10_pyrol_link_fabric R295). -/
def Packet.sized (p : Packet) : Bool := decide (1 ≤ p.payload.length) && decide (p.payload.length ≤ 4096)

/-- A packet is of a kind (10_pyrol_link_fabric R297). -/
def Packet.is (p : Packet) (kind : Nat) : Bool := p.sized && decide (p.pkind.toNat = kind)

/-- The body of a flit is bytes 16 to 251 (10_pyrol_link_fabric R291). -/
def Flit.sized (f : Flit) : Bool := decide (f.body.length = 236)

/-- Checks of a command's operands. -/
def Instr.wf : Instr → Bool
  | .moverError _ _ code _ => decide (1 ≤ code.toNat) && decide (code.toNat ≤ 5)
  | .stackTempSample _ temps _ => decide (temps.length = 16)
  | .thermalSample temps => decide (temps.length = 164)
  | .hguSample readings => decide (readings.length = 256)
  | .energyReconcile measured => decide (measured.length = 15)
  | .energyEstimate charges => charges.all fun c => decide (c.1.toNat < 14)
  | .trainDone _ lanes => decide lanes.Nodup
  | .flitReceive _ f => f.sized
  | .packetForward _ p => p.sized
  | .ringMessagePacket p => p.is 0
  | .bulkWritePacket p => p.is 1
  | .writeAckPacket p => p.is 2
  | .errorNoticePacket p => p.is 3
  | .regRead _ o => o.is 2
  | .regWrite _ o => o.is 3
  | .memRead _ o => o.is 4
  | .memWrite _ o => o.is 5
  | .doorbell _ o => o.is 6
  | .consume _ o => o.is 7
  | .subscribe _ o => o.is 8
  | _ => true

end Sys2Proof
end

