-- ==== Sys2Proof/Safety.lean ====
section
/-! DEFINITION. The terms that claims are stated in: what a good state is, when the device is quiet, what it means that a
command completes, and which register write a command stands for. -/

namespace Sys2Proof.Machine

/-- What holds of the state between commands: memory is in its canonical form, and every store has been applied. -/
def State.Inv (s : State) : Prop := memWf s.mem = true ∧ s.dev.stores = []

/-- No store is pending and no command of a command register runs or waits (R483). -/
def State.Quiet (s : State) : Prop := s.dev.stores = [] ∧ s.dev.pageCmds = []

/-! ### What follows a command

After a command's own effect the block does some bookkeeping: contexts are stamped, a swap may begin, a stall may be
counted or an event posted (R257 to R260), and a register write is journalled (R462). -/

/-- The device without what bookkeeping touches. -/
def Dev.rest (d : Dev) : Dev := { d with regs := [], rings := [], stores := [], ctxs := [], cores := [], ecc := { d.ecc with met := [] } }

/-- A core without the swap that runs on it and those that follow. -/
def Core.calm (x : Core) : Core := { x with swap := none, nextIn := none, waiting := [] }

/-- A context without its scheduling stamps. -/
def Ctx.calm (x : Ctx) : Ctx := { x with sched := {} }

/-- The words of the register file that bookkeeping writes: the journal's page, RING_ERR, CORE_c_STATUS (SWAP_ERR), PART_p_SCHED
and PART_p_EVENTS. -/
def bookWord (a : Nat) : Prop :=
  a / 2 ^ 24 = 0x53 ∨ a = F.RING_ERR_VALID.addr 0 0 ∨ (∃ c : CoreId, a = F.CORE_STATUS_SWAP_ERR.addr c.val 0) ∨ (∃ p : PartId, a = F.PART_SCHED_KO_STALLS.addr p.val 0) ∨
    ∃ p : PartId, a = F.PART_EVENTS_LOST_COUNT.addr p.val 0

/-- A byte that bookkeeping may store to: of the buffer of a partition's event ring (one record past its end included),
or of the journal's extent. -/
def bookByte (d : Dev) (a : Nat) : Prop :=
  (journalBase ≤ a ∧ a < journalBase + extentSize) ∨ ∃ p : PartId,
    64 * d.rf (d.fld F.PART_RINGS_EVENT_RING p.val) RF.bufLine ≤ a ∧
    a < 64 * d.rf (d.fld F.PART_RINGS_EVENT_RING p.val) RF.bufLine +
      2 ^ d.rf (d.fld F.PART_RINGS_EVENT_RING p.val) RF.slotsLog * 2 ^ d.rf (d.fld F.PART_RINGS_EVENT_RING p.val) RF.slotLog + 96

/-- A field of a ring's context that bookkeeping leaves: all but ERROR, PRODUCED and CONSUMED. -/
def ringKept (f : Bf) : Prop := f.lo + f.width ≤ RF.error.lo ∨ (RF.error.lo < f.lo ∧ f.lo + f.width ≤ RF.produced.lo)

/-- e is d after bookkeeping: nothing else has changed. -/
structure Settled (d e : Dev) : Prop where
  rest : e.rest = d.rest
  core : ∀ c, (e.core c).calm = (d.core c).calm
  ctx : ∀ k, (e.ctx? k).map Ctx.calm = (d.ctx? k).map Ctx.calm
  word : ∀ a, ¬ bookWord a → e.word a = d.word a
  ring : ∀ r (f : Bf), ringKept f → e.rf r f = d.rf r f
  byte : ∀ m a, ¬ bookByte d a → byteUnder e.stores m a = byteUnder d.stores m a

/-- The state after a command whose effect is e, with no bookkeeping. -/
def State.become (s : State) (e : Dev) : State := { s with dev := e.heal, mem := applyStores e.stores s.mem }

/-- The state after a command: the device is e but for the bookkeeping, and memory has its stores. -/
def State.Follows (s t : State) (e : Dev) : Prop := ∃ f, Settled e f ∧ t = s.become f

/-- A command whose effect is e completes. -/
def Does (i : Instr) (s : State) (e : Dev) : Prop := ∃ t, exec i s = .next t ∧ s.Follows t e

/-- A command's effect is exactly e. -/
def Becomes (i : Instr) (s : State) (e : Dev) : Prop := exec i s = .next (s.become e)

/-- A command's effect is e and then the bookkeeping of every core; commands of pages that can go on then do. -/
def After (i : Instr) (s : State) (e : Dev) : Prop := Becomes i s (afterAll s.mem e)

/-- A command's effect is e and then the bookkeeping of a core; commands of pages that can go on then do. -/
def AfterOn (i : Instr) (s : State) (c : CoreId) (e : Dev) : Prop := Becomes i s (afterCore s.mem c false e)

/-! ### Commands of the command registers (R483) -/

/-- The command as it runs from a stamp. -/
def PageCmd.started (c : PageCmd) (now : Nat) : PageCmd := { c with began := some now }

/-- BUSY of a command register. -/
def PageCmd.busyFld (c : PageCmd) : Fld := (pageStatusOf c.page c.op).1.busy
/-- RESULT of a command register. -/
def PageCmd.resultFld (c : PageCmd) : Fld := (pageStatusOf c.page c.op).1.result

/-- The device when a command has just begun on an idle page. -/
def Dev.begun (d : Dev) (c : PageCmd) : Dev :=
  { d.setPfld c.path c.busyFld 1 (c.page % 256) with pageCmds := [c.started d.now] }

/-- The device when the command that began has ended with a result. -/
def Dev.ended (d : Dev) (c : PageCmd) (r : Nat) : Dev :=
  ({ d with pageCmds := [] }.setPfld c.path c.busyFld 0 (c.page % 256)).setPfld c.path c.resultFld r (c.page % 256)

/-- The command of a write to XMAP_k_CMD (R251). -/
def xmapCmd (d : Dev) (w : Path) (k : DieId) (op : Nat) (index : BitVec 17) (n : BitVec 12) : PageCmd :=
  ⟨w, 0x1000 + k.val, op, index.toNat, n.toNat, 0, d.pfld w F.XMAP_ARG0_ENTRY k.val, d.pfld w F.XMAP_ARG1_EXPECTED k.val, 0, none, false⟩

/-- The command of a write to RING_CMD (R348). -/
def ringCmd (d : Dev) (w : Path) (op : Nat) (ring : RingId) : PageCmd :=
  ⟨w, 0x1200, op, ring.toNat, 0, 0, d.pfld w F.RING_ARG_WORD 0 0, d.pfld w F.RING_ARG_WORD 0 1, d.pfld w F.RING_ARG_WORD 0 2, none, false⟩

/-- The command of a write to PART_p_CMD (R283). -/
def partCmd (w : Path) (p : PartId) (op core target : Nat) : PageCmd := ⟨w, 0x3000 + p.val, op, core, target, 0, 0, 0, 0, none, false⟩

/-- The command of a write to PART_p_CTX_CMD (R283). -/
def ctxCmd (d : Dev) (w : Path) (p : PartId) (op : Nat) (ctx : BitVec 16) (core ext : Nat) : PageCmd :=
  ⟨w, 0x3000 + p.val, 256 + op, ctx.toNat, core, ext, d.pfld w F.PART_CTX_ARG_ADDR p.val, 0, 0, none, false⟩

/-- The command of a write to GEN_p_CMD (R285). -/
def genCmd (d : Dev) (w : Path) (p : PartId) (op : Nat) (gen : BitVec 24) : PageCmd :=
  ⟨w, 0x3200 + p.val, op, gen.toNat, 0, 0, d.pfld w F.GEN_ARG_MANIFEST p.val, 0, 0, none, false⟩

/-- The command of a write to FLT_FENCE_CMD (R428). -/
def fenceCmd (w : Path) (op core : Nat) : PageCmd := ⟨w, 0x4800, op, core, 0, 0, 0, 0, 0, none, false⟩

/-- The command of a write to SEC_FW_CMD (R450). -/
def fwCmd (d : Dev) (w : Path) (op comp : Nat) : PageCmd :=
  ⟨w, 0x5100, op, comp, 0, 0, d.pfld w F.SEC_FW_ARG_SRC_OFFSET, d.pfld w F.SEC_FW_ARG_LENGTH, d.pfld w F.SEC_FW_ARG_DST_OFFSET, none, false⟩

/-- The command of a write to SEC_ATTEST_CMD (R450). -/
def attestCmd (w : Path) (op index : Nat) : PageCmd := ⟨w, 0x5100, 256 + op, index, 0, 0, 0, 0, 0, none, false⟩

/-- The command of a write to CFG_CMD (R451). -/
def positionCmd (w : Path) (op slot source : Nat) : PageCmd := ⟨w, 0x5200, op, slot, source, 0, 0, 0, 0, none, false⟩

/-! ### Register writes -/

/-- The address of a register: block code, instance and offset (R475). -/
def page (code inst off : Nat) : Nat := code * 2 ^ 24 + inst * 2 ^ 16 + off

/-- The register write that a command stands for: path, address and value; none for the others. -/
def writeOf (i : Instr) (d : Dev) : Option (Path × Nat × Nat) :=
  match i with
  | .coreResume w c mask => some (w, page 0x01 c.val 0x0100, mask.toNat + 16 * d.fld F.CORE_CTL_HALT c.val)
  | .coreHalt w c mask => some (w, page 0x01 c.val 0x0100, 16 * mask.toNat)
  | .swapOut w c k ext => some (w, page 0x01 c.val 0x0110, k.val + 8 * ext.toNat)
  | .swapIn w c k ext => some (w, page 0x01 c.val 0x0110, k.val + 4 + 8 * ext.toNat)
  | .aryHold w c hold => some (w, page 0x02 c.val 0x0100, b2n hold)
  | .aryClrCounts w c => some (w, page 0x02 c.val 0x0100, 2 + d.fld F.ARY_CTL_HOLD c.val)
  | .vecClrCounts w c => some (w, page 0x03 c.val 0x0100, 1)
  | .movResume w c mask => some (w, page 0x06 c.val 0x0100, mask.toNat)
  | .allocate w k index countM1 => some (w, page 0x10 k.val 0x0100, 1 + 16 * index.toNat + 2 ^ 21 * countM1.toNat)
  | .free w k index countM1 => some (w, page 0x10 k.val 0x0100, 2 + 16 * index.toNat + 2 ^ 21 * countM1.toNat)
  | .loadBegin w k index countM1 => some (w, page 0x10 k.val 0x0100, 3 + 16 * index.toNat + 2 ^ 21 * countM1.toNat)
  | .loadEnd w k index countM1 => some (w, page 0x10 k.val 0x0100, 4 + 16 * index.toNat + 2 ^ 21 * countM1.toNat)
  | .freeze w k index countM1 => some (w, page 0x10 k.val 0x0100, 5 + 16 * index.toNat + 2 ^ 21 * countM1.toNat)
  | .thaw w k index countM1 => some (w, page 0x10 k.val 0x0100, 6 + 16 * index.toNat + 2 ^ 21 * countM1.toNat)
  | .setGen w k index countM1 => some (w, page 0x10 k.val 0x0100, 7 + 16 * index.toNat + 2 ^ 21 * countM1.toNat)
  | .retire w k index countM1 => some (w, page 0x10 k.val 0x0100, 8 + 16 * index.toNat + 2 ^ 21 * countM1.toNat)
  | .xmapReadIdx w k index => some (w, page 0x10 k.val 0x0120, index.toNat)
  | .partCreate w p => some (w, page 0x30 p.val 0x0100, 1)
  | .partDelete w p => some (w, page 0x30 p.val 0x0100, 2)
  | .addCore w p core => some (w, page 0x30 p.val 0x0100, 3 + 16 * core.toNat)
  | .removeCore w p core => some (w, page 0x30 p.val 0x0100, 4 + 16 * core.toNat)
  | .lend w p core target => some (w, page 0x30 p.val 0x0100, 5 + 16 * core.toNat + 2 ^ 12 * target.toNat)
  | .recallCore w p core => some (w, page 0x30 p.val 0x0100, 6 + 16 * core.toNat)
  | .hold w p => some (w, page 0x30 p.val 0x0100, 7)
  | .release w p => some (w, page 0x30 p.val 0x0100, 8)
  | .ctxCreate w p ctx core ext => some (w, page 0x30 p.val 0x0160, 1 + 8 * ctx.toNat + 2 ^ 19 * core.toNat + 2 ^ 27 * ext.toNat)
  | .destroy w p ctx => some (w, page 0x30 p.val 0x0160, 2 + 8 * ctx.toNat)
  | .rehome w p ctx core => some (w, page 0x30 p.val 0x0160, 3 + 8 * ctx.toNat + 2 ^ 19 * core.toNat)
  | .ctxWake w p ctx => some (w, page 0x30 p.val 0x0160, 4 + 8 * ctx.toNat)
  | .stage w p gen => some (w, page 0x32 p.val 0x0100, 1 + 8 * gen.toNat)
  | .castle w p gen => some (w, page 0x32 p.val 0x0100, 2 + 8 * gen.toNat)
  | .abandon w p gen => some (w, page 0x32 p.val 0x0100, 3 + 8 * gen.toNat)
  | .plCtlWrite w n v => some (w, page 0x20 n.val 0x0100, v.toNat)
  | .shareTableWrite w n i v => some (w, page 0x20 n.val (0x0200 + 8 * i.val), v.toNat)
  | .fabCtlWrite w v => some (w, page 0x21 0 0x0100, v.toNat)
  | .fabRtIdx w v => some (w, page 0x21 0 0x0110, v.toNat)
  | .fabRtData w v => some (w, page 0x21 0 0x0118, v.toNat)
  | .ringAllocate w ring => some (w, page 0x12 0 0x0100, 1 + 8 * ring.toNat)
  | .ringFree w ring => some (w, page 0x12 0 0x0100, 2 + 8 * ring.toNat)
  | .ringReset w ring => some (w, page 0x12 0 0x0100, 3 + 8 * ring.toNat)
  | .retarget w ring => some (w, page 0x12 0 0x0100, 4 + 8 * ring.toNat)
  | .ringReadIdx w ring => some (w, page 0x12 0 0x0130, ring.toNat)
  | .hostCtlWrite w v => some (w, page 0x28 0 0x0100, v.toNat)
  | .hostPeerIdx w v => some (w, page 0x28 0 0x0158, v.toNat)
  | .hostPeerMac w v => some (w, page 0x28 0 0x0170, v.toNat)
  | .pwrRailIdx w v => some (w, page 0x40 0 0x0130, v.toNat)
  | .pwrRingIdx w v => some (w, page 0x40 0 0x0160, v.toNat)
  | .thmIdx w v => some (w, page 0x42 0 0x0118, v.toNat)
  | .force w => some (w, page 0x48 0 0x0118, d.srcClass (d.pfld w F.FLT_SRC_IDX_SOURCE) % 16 + 2 ^ 5)
  | .forceWire w => some (w, page 0x48 0 0x0118, d.srcClass (d.pfld w F.FLT_SRC_IDX_SOURCE) % 16 + 2 ^ 6)
  | .fltSrcIdx w v => some (w, page 0x48 0 0x0110, v.toNat)
  | .fltLogIdx w v => some (w, page 0x48 0 0x0138, v.toNat)
  | .fltDumpIdx w v => some (w, page 0x48 0 0x0198, v.toNat)
  | .domainReset w v => some (w, page 0x48 0 0x0170, v.toNat)
  | .fence w core => some (w, page 0x48 0 0x0178, 1 + 4 * core.toNat)
  | .clear w core => some (w, page 0x48 0 0x0178, 2 + 4 * core.toNat)
  | .bnkMemberIdx w v => some (w, page 0x54 0 0x0138, v.toNat)
  | .bnkMember w v => some (w, page 0x54 0 0x0140, v.toNat)
  | .write w comp => some (w, page 0x51 0 0x0118, 1 + 16 * comp.val)
  | .stageImage w comp => some (w, page 0x51 0 0x0118, 2 + 16 * comp.val)
  | .discard w comp => some (w, page 0x51 0 0x0118, 3 + 16 * comp.val)
  | .fwCommit w comp => some (w, page 0x51 0 0x0118, 4 + 16 * comp.val)
  | .secFwSlotIdx w v => some (w, page 0x51 0 0x0130, v.toNat)
  | .secCounterIdx w v => some (w, page 0x51 0 0x0140, v.toNat)
  | .report w => some (w, page 0x51 0 0x0150, 1)
  | .extend w index => some (w, page 0x51 0 0x0150, 2 + 4 * index.toNat)
  | .store w slot source => some (w, page 0x52 0 0x0100, 1 + 8 * slot.toNat + 64 * source.toNat)
  | .activate w slot => some (w, page 0x52 0 0x0100, 2 + 8 * slot.toNat)
  | .settle w => some (w, page 0x52 0 0x0100, 3)
  | .takeBack w => some (w, page 0x52 0 0x0100, 4)
  | .erase w slot => some (w, page 0x52 0 0x0100, 5 + 8 * slot.toNat)
  | .cfgSlotIdx w v => some (w, page 0x52 0 0x0120, v.toNat)
  | .wake w => some (w, page 0x50 0 0x0100, 1 + d.hguKept)
  | .shutdown w => some (w, page 0x50 0 0x0100, 2 + d.hguKept)
  | .hguSensorIdx w v => some (w, page 0x50 0 0x0110, v.toNat)
  | .jnlReadIdx w v => some (w, page 0x53 0 0x0118, v.toNat)
  | .timeSet w v => some (w, page 0x55 0 0x0110, v.toNat)
  | .registerWrite w addr v => some (w, addr.toNat, v.toNat)
  | _ => none

/-- The device is quiet and takes the register write that a command stands for. -/
def State.Takes (s : State) (i : Instr) : Prop :=
  s.Quiet ∧ ∃ w a v, writeOf i s.dev = some (w, a, v) ∧ s.dev.writeAns w a v = .ok

/-- The number under which a banker message of a code is taken (R465): its boot count and SEQ, or, for a copy from the
fabric, its SEQ under the highest boot count taken; each plus 1. -/
def Dev.msgNumber (d : Dev) (code : Nat) (x : BankerMsg) : Nat :=
  match x.via with
  | .fabric => tGet 0 d.bank.taken (x.device.toNat * 256 + code) / 2 ^ 32 * 2 ^ 32 + x.seq.toNat + 1
  | .mgmt _ => x.bootCount.toNat * 2 ^ 32 + x.seq.toNat + 1

/-- The device takes a banker message (R465): every copy from the fabric, and a copy from the management network whose
tag is right and whose number is above the highest taken. -/
def Dev.isNew (d : Dev) (code : Nat) (x : BankerMsg) : Prop :=
  d.hubOn = true ∧ (x.via = .fabric ∨ (x.tagOk = true ∧ tGet 0 d.bank.taken (x.device.toNat * 256 + code) < d.msgNumber code x))

/-- The device with a banker message's number recorded. -/
def Dev.noted (d : Dev) (code : Nat) (x : BankerMsg) : Dev :=
  let key := x.device.toNat * 256 + code
  { d with bank := { d.bank with taken := tPut key (max (tGet 0 d.bank.taken key) (d.msgNumber code x)) d.bank.taken } }

/-- A command that is a write of a core's register has the effect e, then the bookkeeping of that core, the journal's
entry and the bookkeeping of every core. -/
def WroteOn (i : Instr) (s : State) (c : CoreId) (e : Dev) : Prop :=
  ∃ w a v, writeOf i s.dev = some (w, a, v) ∧
    Becomes i s (afterAll s.mem (regWrite s.mem w a v (fun _ => settle s.mem c false e) s.dev))

end Sys2Proof.Machine
end

