-- ==== Sys2Proof/Certificates/Slice0/Obligations.lean ====
section
/-! DEFINITION. The statements about the block that are to be proved, family by family. Each docstring names the rules of
spec/ that the statement rests on. -/

open Sys2Proof Sys2Proof.Machine

/-- For every command and state: with the command at the front of the queue, a step is exec of that command on the
state with the rest of the queue. (R483) -/
def Obligations.StepRunsFront : Prop :=
  ∀ (s : State) (c : Instr) (r : List Instr), s.pending = c :: r → step s = exec c { s with pending := r }

/-- On an empty queue a step changes nothing without auxiliary power; with auxiliary power, the main rails off and no
slew left it adds 1 to the time base and changes nothing else. The length of the tick is the model's choice (log 9).
(R474, R498) -/
def Obligations.IdleStepTicks : Prop :=
  ∀ (s : State), s.pending = [] → s.dev.stores = [] →
  (s.dev.power.auxOn = false → step s = .next s) ∧
  (s.dev.power.auxOn = true → s.dev.power.phase = .asleep → s.dev.power.slewLeft = 0 →
    step s = .next { s with dev := s.dev.setPower { s.dev.power with raw := s.dev.power.raw + 1 } })

/-- After reset memory is in its canonical form, no store is pending and no command waits. (R498) -/
def Obligations.ResetMeetsInv : Prop := State.reset.Inv ∧ State.reset.pending = []

/-- From every state whose memory is in canonical form (addresses strictly rising, no byte equal to what an unlisted
address reads as) and that has no pending store, a step that answers a next state answers one that meets the same.
(R226, R475) -/
def Obligations.StepKeepsInv : Prop := ∀ (s t : State), s.Inv → step s = .next t → t.Inv

/-- For every command and every state exec answers a next state, in which the queue is as it was, no store is pending,
and memory is in canonical form where it was before. (98_reader) -/
def Obligations.CommandsComplete : Prop :=
  ∀ (i : Instr) (s : State), ∃ t, exec i s = .next t ∧ t.pending = s.pending ∧ t.dev.stores = [] ∧
    (memWf s.mem = true → memWf t.mem = true)

/-- A row that stands for a register write which the device takes has exactly that write's effect; then the journal
takes its entry and the bookkeeping of R257 to R260 follows. (R475, R482, R462) -/
def Obligations.WriteRowsWrite : Prop :=
  ∀ (i : Instr) (s : State) (w : Path) (a v : Nat), s.dev.stores = [] → writeOf i s.dev = some (w, a, v) →
    s.dev.writeAns w a v = .ok →
    After i s (journalWrite s.mem w a v (s.dev.readWord w a) ((writeEffect s.mem w a v s.dev).readWord w a)
      (writeEffect s.mem w a v s.dev))

/-- A row that stands for a register write which the device answers with ADDRESS, DENIED or RESET leaves the whole
state as it was. (R475, R482, R485) -/
def Obligations.RefusedWritesChangeNothing : Prop :=
  ∀ (i : Instr) (s : State) (w : Path) (a v : Nat), s.dev.stores = [] → writeOf i s.dev = some (w, a, v) →
    s.dev.writeAns w a v ≠ .ok → exec i s = .next s

/-- With no command on a page, what follows a command changes nothing but stamps of contexts, a swap that begins,
SWAP_ERR, KO_STALLS, the counters of events, one record of an event ring and the journal; the bookkeeping of one core
and the journal alone change no more than that in every state. (R257, R258, R259, R260, R462) -/
def Obligations.BookkeepingSettles : Prop :=
  (∀ (m : Mem) (d : Dev), d.pageCmds = [] → Settled d (afterAll m d)) ∧
  (∀ (m : Mem) (d : Dev) (c : CoreId) (b : Bool), d.pageCmds = [] → Settled d (afterCore m c b d)) ∧
  (∀ (m : Mem) (d : Dev) (c : CoreId) (b : Bool), Settled d (settle m c b d)) ∧
  (∀ (m : Mem) (w : Path) (a v old new : Nat) (d : Dev), Settled d (journalWrite m w a v old new d))

/-- With a hart picked, HART_INSTRUCTION completes with exactly this: a hart in no wait executes the instruction at
its pc, an exception stops its context with mepc, mcause and mtval saved, and a wait that has come about ends; the
pointer goes past the slot. (R108, R109, R115, R257) -/
def Obligations.HartsRun : Prop :=
  ∀ (s : State) (c : CoreId) (k : SlotId) (key : Nat) (y : Ctx),
  let d := s.dev
  let busy := fun q => (d.core c).executing k q
  d.stores = [] → (d.core c).slotKey k = some key → d.ctx? key = some y → d.hartPick c = some k →
  (∀ z, y.wait = none → y.fetchExec d.now busy = .next z →
    AfterOn (.hartInstruction c) s c ((d.hartServed c k).setCtx key z)) ∧
  (∀ cause tval, y.wait = none → y.fetchExec d.now busy = .trap cause tval → AfterOn (.hartInstruction c) s c
    (((d.hartServed c k).setCtx key (y.trapped cause tval)).contextFault key cause tval)) ∧
  (y.wait.isSome = true → AfterOn (.hartInstruction c) s c ((d.hartServed c k).setCtx key y.endWait))

/-- TPUSH of each queue appends the 64-byte command and returns its sequence number, waits on a full queue, and traps
on a misaligned address; SEMWAIT goes on or waits; SEMSIG adds; SEMREAD reads; TFENCE goes on when the selected queues
are empty and idle, and else waits. (R112, R113, R115) -/
def Obligations.TensorInstructionsAct : Prop :=
  ∀ (s : State) (c : CoreId) (k : SlotId) (key : Nat) (y : Ctx) (rd rs1 rs2 : BitVec 5),
  let d := s.dev
  let busy := fun q => (d.core c).executing k q
  let went := fun (z : Ctx) => (d.hartServed c k).setCtx key z
  let a := (y.x rs1.toNat).toNat
  let n := a % 32
  let v := (y.x rs2.toNat).setWidth 16
  let sel := (y.x rs1.toNat).setWidth 3
  let word := BitVec.ofNat 512 (bNat y.dmem (a - dataBase) 64)
  d.stores = [] → (d.core c).slotKey k = some key → d.ctx? key = some y → d.hartPick c = some k → y.wait = none →
  (∀ q i, (q, i) ∈ [((0 : QueueId), Instr.tpushM c k rd rs1), (1, .tpushV c k rd rs1), (2, .tpushS c k rd rs1)] →
    (a % 64 = 0 → dataBase ≤ a → a + 64 ≤ dataBase + winBytes → (y.queue q).cmds.length < 64 →
      AfterOn i s c (went ((y.push q rd.toNat word).adv 4))) ∧
    (a % 64 = 0 → dataBase ≤ a → a + 64 ≤ dataBase + winBytes → 64 ≤ (y.queue q).cmds.length →
      AfterOn i s c (went { y with wait := some (.push q rd word) })) ∧
    (a % 64 ≠ 0 → AfterOn i s c ((went (y.trapped 4 a)).contextFault key 4 a))) ∧
  (semOk (y.sem n) v = true → AfterOn (.semwait c k rs1 rs2) s c (went (y.adv 4))) ∧
  (semOk (y.sem n) v = false →
    AfterOn (.semwait c k rs1 rs2) s c (went { y with wait := some (.sem (BitVec.ofNat 5 n) v) })) ∧
  AfterOn (.semsig c k rs1 rs2) s c (went ((y.signal n v).adv 4)) ∧
  AfterOn (.semread c k rd rs1) s c (went ((y.setX rd.toNat ((y.sem n).setWidth 64)).adv 4)) ∧
  ((∀ q : QueueId, sel.getLsbD q.val = true → (y.queue q).cmds = [] ∧ busy q = false) →
    AfterOn (.tfence c k rs1) s c (went (y.adv 4))) ∧
  (∀ q : QueueId, sel.getLsbD q.val = true → ((y.queue q).cmds ≠ [] ∨ busy q = true) →
    AfterOn (.tfence c k rs1) s c (went { y with wait := some (.fence sel) }))

/-- For each of the seven collectives: a call whose checks fail returns their code in a0 and advances the pc; a call
that passes lays out its schedule of commands and pushes it as far as the queues have room. (R331, R336, R337) -/
def Obligations.CollectivesCall : Prop :=
  ∀ (s : State) (c : CoreId) (k : SlotId) (key : Nat) (y : Ctx) (op : Nat) (i : Instr),
  let d := s.dev
  let e := d.hartServed c k
  d.stores = [] → (d.core c).slotKey k = some key → d.ctx? key = some y → d.hartPick c = some k → y.wait = none →
  (op, i) ∈ [(1, Instr.allReduce c k), (2, .reduceScatter c k), (3, .allGather c k), (4, .broadcast c k), (5, .reduce c k),
    (6, .allToAll c k), (7, .barrier c k)] → y.callOp = some op →
  (∀ n, checkCall e c k y (y.x 10).toNat = .error n → AfterOn i s c (e.setCtx key ((y.setX 10 (BitVec.ofNat 64 n)).adv 4))) ∧
  (∀ q, checkCall e c k y (y.x 10).toNat = .ok q → AfterOn i s c (e.setCtx key (y.beginCall q)))

/-- A write of CORE_c_CTL sets HALT and resumes the slots named; ARY_c_CTL sets HOLD or clears the array counters;
VEC_c_CTL clears the vector counters; MOV_c_CTL resumes the mover queues named. Nothing else changes but by
bookkeeping. (R144, R101, R151, R179) -/
def Obligations.CoreControlsAct : Prop :=
  ∀ (s : State) (w : Path) (c : CoreId) (mask : BitVec 4) (hold : Bool),
  (s.Takes (.coreHalt w c mask) → Does (.coreHalt w c mask) s (s.dev.setFld F.CORE_CTL_HALT mask.toNat c.val)) ∧
  (s.Takes (.coreResume w c mask) → Does (.coreResume w c mask) s ((List.range 4).foldl (fun d i =>
    if mask.getLsbD i then (d.modSlot c (slotOf i) Ctx.resume).setWord (F.CORE_ERR_OP.addr c.val i) 0 else d)
      (s.dev.setFld F.CORE_CTL_HALT (s.dev.fld F.CORE_CTL_HALT c.val) c.val))) ∧
  (s.Takes (.movResume w c mask) → Does (.movResume w c mask) s ((List.range 4).foldl (fun d i =>
    if mask.getLsbD i then (d.modSlot c (slotOf i) fun y => y.setQueue 2 { y.queue 2 with failed := false }).setWord
      (F.MOV_ERR_OP.addr c.val i) 0 else d) s.dev)) ∧
  (s.Takes (.aryHold w c hold) → Does (.aryHold w c hold) s (s.dev.setFld F.ARY_CTL_HOLD (b2n hold) c.val)) ∧
  (s.Takes (.aryClrCounts w c) → Does (.aryClrCounts w c) s
    ((((((s.dev.setFld F.ARY_CTL_HOLD (s.dev.fld F.ARY_CTL_HOLD c.val) c.val).setFld F.ARY_RANGE_COUNT_COUNT 0 c.val).setFld
      F.ARY_FLUSH_COUNT_COUNT 0 c.val).setFld F.ARY_ABOVE_COUNT_COUNT 0 c.val).setFld F.ARY_BUSY_CYCLES_CYCLES 0 c.val).setFld
      F.ARY_SWITCH_CYCLES_CYCLES 0 c.val)) ∧
  (s.Takes (.vecClrCounts w c) → Does (.vecClrCounts w c) s
    ((s.dev.setFld F.VEC_INVCVT_COUNT_COUNT 0 c.val).setFld F.VEC_RANGE_COUNT_COUNT 0 c.val))

/-- SWAP_OUT of an occupied slot into an EXTENT that the swap engine may write, and SWAP_IN of an image of the core
into a free slot whose window fits, begin the swap when it may begin and none waits, and wait otherwise; a slot that
swaps, an empty or occupied slot, an EXTENT that may not be written, or an image that is not there sets SWAP_ERR. A
core that swaps, clears, is fenced or has a plan lets no swap begin, and a swap that runs is kept by all bookkeeping.
(R140, R141, R146, R232, R260) -/
def Obligations.SwapsBegin : Prop :=
  ∀ (s : State) (w : Path) (c : CoreId) (k : SlotId) (ext : ExtentId),
  let d := s.dev
  let x := d.core c
  let out := fun key => (⟨k, false, ext.toNat, key⟩ : Swap)
  let inn := fun key => (⟨k, true, ext.toNat, key⟩ : Swap)
  let onCore := fun (i : Instr) (y : Core) => ∃ e, WroteOn i s c e ∧ e = { d with cores := e.cores } ∧
    ∀ c', e.core c' = if c = c' then y else d.core c'
  let starts := fun (i : Instr) (r : Swap) => onCore i { x with swap := some r }
  let waits := fun (i : Instr) (r : Swap) => onCore i { x with waiting := x.waiting ++ [r] }
  let refused := d.setFld F.CORE_STATUS_SWAP_ERR 1 c.val
  let idle := ∀ v ∈ x.waiting, d.swapMay c v = false
  (s.Takes (.swapOut w c k ext) →
    (x.swapping k = true ∨ x.slotKey k = none → WroteOn (.swapOut w c k ext) s c refused) ∧
    (∀ key y, x.slotKey k = some key → d.ctx? key = some y →
      (d.swapAccess y.part ext.toNat true = false → WroteOn (.swapOut w c k ext) s c refused) ∧
      (x.swapping k = false → d.swapAccess y.part ext.toNat true = true →
        (x.waiting = [] → d.swapMay c (out key) = true → starts (.swapOut w c k ext) (out key)) ∧
        (idle → d.swapMay c (out key) = false → waits (.swapOut w c k ext) (out key))))) ∧
  (s.Takes (.swapIn w c k ext) →
    (x.swapping k = true ∨ (x.slotKey k).isSome = true ∨ d.imageAt c ext.toNat = none →
      WroteOn (.swapIn w c k ext) s c refused) ∧
    (∀ key y, x.swapping k = false → x.slotKey k = none → d.imageAt c ext.toNat = some key → d.ctx? key = some y →
      (x.waiting = [] → d.swapMay c (inn key) = true → y.ext = ext.toNat → d.windowFits c k y = true →
        starts (.swapIn w c k ext) (inn key)) ∧
      (idle → d.swapMay c (inn key) = false → waits (.swapIn w c k ext) (inn key)))) ∧
  (∀ r, (x.swap.isSome = true ∨ x.clearing.isSome = true ∨ x.fenced = true ∨ x.plan.isSome = true → d.swapMay c r = false)) ∧
  (∀ m b c' r e, (Dev.core e c).swap = some r → ((settle m c' b e).core c).swap = some r)

/-- When no command of the slot executes, SWAP_OUT_DONE saves the context, writes its image and frees what it held on
the core; SWAP_IN_DONE restores the context into its slot when its groups can be placed. The next swap follows. While
the extents of the image do not permit the access the swap goes on. (R140, R141, R199, R232) -/
def Obligations.SwapsEnd : Prop :=
  ∀ (s : State) (c : CoreId) (w : Swap) (y : Ctx),
  let d := s.dev
  let x := d.core c
  let out := d.swappedOut c w y
  d.stores = [] → x.swap = some w →
  (w.dirIn = false → x.executingAny w.slot = false → x.changing w.slot = false → d.slotCtx c w.slot = some y →
    (d.swapAccess y.part w.ext true = false → Becomes (.swapOutDone c) s (swapEvent s.mem c d d)) ∧
    (d.swapAccess y.part w.ext true = true →
      Becomes (.swapOutDone c) s (swapEvent s.mem c (out.swapEnded c w.slot) d) ∧
      (x.plan = none → out.swapEnded c w.slot = out.nextSwap c w.slot) ∧
      out.ctx? w.ctx = some { savedCtx d c w.slot y with ext := w.ext } ∧ out.core c = x.release w.slot)) ∧
  (w.dirIn = true → d.ctx? w.ctx = some y →
    (x.plan = none → placeCtx x w.slot y = none ∨ d.swapAccess y.part y.ext false = false →
      Becomes (.swapInDone c) s (swapEvent s.mem c d d)) ∧
    (∀ z, placeCtx x w.slot y = some z → d.swapAccess y.part y.ext false = true →
      let inn := d.swappedIn c w y z
      Becomes (.swapInDone c) s (swapEvent s.mem c (inn.swapEnded c w.slot) d) ∧
      inn.ctx? w.ctx = some (restoredCtx d c w.slot y) ∧ (inn.core c).slots = tPut w.slot.val w.ctx z.slots ∧
      (inn.core c).swap = none))

/-- KO_HOLD_END ends the holds that are over and a scheduling decision follows; SCRATCHPAD_INIT_DONE, once the cycles
have passed, clears INIT_BUSY and brings about what was planned for the core, with the command that waited for it.
(R160, R253, R260) -/
def Obligations.HoldsAndClearingsEnd : Prop :=
  ∀ (s : State) (c : CoreId),
  let d := s.dev
  let x := d.core c
  let cleared := (d.modCore c fun x => { x with clearing := none }).setFld F.SPD_STATUS_INIT_BUSY 0 c.val
  let ended := fun (y : Ctx) =>
    (decide (0 < y.sched.koIn) && decide (y.sched.koIn ≤ d.now)) || (decide (0 < y.sched.koOut) && decide (y.sched.koOut ≤ d.now))
  d.stores = [] →
  (∀ key y, (d.homedOn c).find? (fun e => ended e.2) = some (key, y) →
    Becomes (.koHoldEnd c) s (afterCore s.mem c true (d.setCtx key { y with sched := { y.sched with
      koIn := if y.sched.koIn ≤ d.now then 0 else y.sched.koIn
      koOut := if y.sched.koOut ≤ d.now then 0 else y.sched.koOut } }))) ∧
  (∀ n, x.clearing = some n → n ≤ d.cycle c →
    (x.plan = none → Becomes (.scratchpadInitDone c) s (afterCore s.mem c true cleared)) ∧
    (∀ pl, x.plan = some pl → pl.page x = none →
      Becomes (.scratchpadInitDone c) s (afterCore s.mem c true (cleared.planDone c pl))) ∧
    (∀ pl p, x.plan = some pl → pl.page x = some p → Becomes (.scratchpadInitDone c) s
      (eventEnds s.mem (0x3000 + p.val) (coreMoved c) (afterCore s.mem c true (cleared.planDone c pl)))))

/-- FREE, FREEZE, THAW, SET_GEN and RETIRE whose checks pass act on every extent that they name, the states of
generations follow, and the command ends with RESULT 0. (R235, R251, R483) -/
def Obligations.MapCommandsEnd : Prop :=
  ∀ (s : State) (w : Path) (k : DieId) (index : BitVec 17) (n : BitVec 12),
  let d := s.dev
  let c := fun op => xmapCmd d w k op index n
  (s.Takes (.free w k index n) → xmapCheck d (c 2) = none → xmapWaits d (c 2) = false →
    Does (.free w k index n) s (((c 2).named.foldl Dev.freeExtent (d.begun (c 2))).updateGens.ended (c 2) 0)) ∧
  (s.Takes (.freeze w k index n) → xmapCheck d (c 5) = none → xmapWaits d (c 5) = false →
    Does (.freeze w k index n) s (((c 5).named.foldl (fun d e => d.setXf e XF.state 4) (d.begun (c 5))).updateGens.ended (c 5) 0)) ∧
  (s.Takes (.thaw w k index n) → xmapCheck d (c 6) = none →
    Does (.thaw w k index n) s (((c 6).named.foldl (fun d e => d.setXf e XF.state 3) (d.begun (c 6))).updateGens.ended (c 6) 0)) ∧
  (s.Takes (.setGen w k index n) → xmapCheck d (c 7) = none →
    Does (.setGen w k index n) s
      (((c 7).named.foldl (fun d e => d.setXf e XF.gen (XF.gen.get (c 7).arg0)) (d.begun (c 7))).updateGens.ended (c 7) 0)) ∧
  (s.Takes (.retire w k index n) → xmapCheck d (c 8) = none →
    Does (.retire w k index n) s (((c 8).named.foldl Dev.retire (d.begun (c 8))).updateGens.ended (c 8) 0))

/-- FREE and RETIRE with a check that fails at a position end with its result and FAIL_INDEX, and change no entry.
(R235, R483) -/
def Obligations.MapChecksRefuse : Prop :=
  ∀ (s : State) (w : Path) (k : DieId) (index : BitVec 17) (n : BitVec 12) (i r : Nat),
  let d := s.dev
  let c := fun op => xmapCmd d w k op index n
  (s.Takes (.free w k index n) → xmapCheck d (c 2) = some (i, r) →
    Does (.free w k index n) s (((d.begun (c 2)).setPfld w F.XMAP_STATUS_FAIL_INDEX (index.toNat + i) k.val).updateGens.ended (c 2) r)) ∧
  (s.Takes (.retire w k index n) → xmapCheck d (c 8) = some (i, r) →
    Does (.retire w k index n) s (((d.begun (c 8)).setPfld w F.XMAP_STATUS_FAIL_INDEX (index.toNat + i) k.val).updateGens.ended (c 8) r))

/-- ALLOCATE of single extents and of pairs, and LOAD_BEGIN, whose checks pass start the clearing of every extent that
they name, mark the command as applied and stay BUSY. (R233, R235) -/
def Obligations.MapCommandsClear : Prop :=
  ∀ (s : State) (w : Path) (k : DieId) (index : BitVec 17) (n : BitVec 12),
  let d := s.dev
  let c := fun op => xmapCmd d w k op index n
  let runs := fun op => (d.begun (c op)).markApplied (c op).page
  (s.Takes (.allocate w k index n) → xmapCheck d (c 1) = none → (c 1).pairs = false →
    Does (.allocate w k index n) s ((List.range (n.toNat + 1)).foldl (fun d i =>
      d.allocExtent (c 1).arg0 ((c 1).first + i) (XF.member.get (c 1).arg0) (XF.partner.get (c 1).arg0)) (runs 1)).updateGens) ∧
  (s.Takes (.allocate w k index n) → xmapCheck d (c 1) = none → (c 1).pairs = true →
    Does (.allocate w k index n) s ((List.range (n.toNat + 1)).foldl (fun d i =>
      (d.allocExtent (c 1).arg0 ((c 1).first + i) 0 (XF.partner.get (c 1).arg0 + i)).allocExtent (c 1).arg0
        (XF.partner.get (c 1).arg0 + i) 1 ((c 1).first + i)) (runs 1)).updateGens) ∧
  (s.Takes (.loadBegin w k index n) → xmapCheck d (c 3) = none → xmapWaits d (c 3) = false →
    Does (.loadBegin w k index n) s
      ((c 3).named.foldl (fun d e => d.beginClear e (d.xf e XF.digestMode)) (runs 3)).updateGens) ∧
  (∀ op x, x ∈ (runs op).pageCmds → x.page = (c op).page → x.began.isSome = true → x.applied = true)

/-- LOAD_END makes each extent VALID whose digest is off or matches, also one whose digest differed before; an extent
whose digest differs raises the stack's source, counts, and the command ends with the result for a digest failure and
the first such position. (R235, R245) -/
def Obligations.LoadEndChecksDigest : Prop :=
  ∀ (s : State) (w : Path) (k : DieId) (index : BitVec 17) (n : BitVec 12) (m : Mem) (e want : Nat),
  let d := s.dev
  let c := xmapCmd d w k 4 index n
  let r := loadEnd s.mem c (d.begun c)
  let got := if d.xf e XF.digest = 3 then d.xf e XF.value else d.finished e
  let f := (d.setXf e XF.value got).setDigests (tDel e d.digests)
  (s.Takes (.loadEnd w k index n) → xmapCheck d c = none → xmapWaits d c = false → r.2 = [] →
    Does (.loadEnd w k index n) s (r.1.updateGens.finish c.page 0)) ∧
  (∀ i l, s.Takes (.loadEnd w k index n) → xmapCheck d c = none → xmapWaits d c = false → r.2 = i :: l →
    Does (.loadEnd w k index n) s ((c.fail i r.1).updateGens.finish c.page 5)) ∧
  (d.xf e XF.digest ≠ 1 → d.xf e XF.digest ≠ 3 → loadEndExtent m e want d = (d.setXf e XF.state 3, false)) ∧
  (d.xf e XF.digest = 1 ∨ d.xf e XF.digest = 3 → got = want →
    loadEndExtent m e want d = ((f.setXf e XF.digest 2).setXf e XF.state 3, false)) ∧
  (d.xf e XF.digest = 1 ∨ d.xf e XF.digest = 3 → got ≠ want → ∃ p : PartId, loadEndExtent m e want d =
    (raiseOwn m (2304 + 8 * (e / 16384) + 3) none (some p)
      ((f.setXf e XF.digest 3).count F.XMAP_DIGEST_FAILS_COUNT 1 (e / 131072)), true))

/-- The end of the accesses that a command waits for lets it act, and a LOAD_BEGIN start its clearing; 10 ms of
waiting ends a command that has changed nothing with BUSY_TIMEOUT and the first busy position; the end of the clearing
of its last extent ends a command that has been applied. (R233, R236) -/
def Obligations.MapCommandsGoOn : Prop :=
  ∀ (s : State) (k : DieId) (c : PageCmd) (t : Nat) (x : ExtentId),
  let d := s.dev
  d.stores = [] → d.pageCmds = [c.started t] → c.page = 0x1000 + k.val → d.pathOpen c.path = true →
  (c.op = 2 → c.applied = false → xmapWaits d c = false →
    Does (.xmapWaitEnd k) s ((c.named.foldl Dev.freeExtent d).updateGens.ended c 0)) ∧
  (c.op = 3 → c.applied = false → xmapWaits d c = false → Does (.xmapWaitEnd k) s
    ((c.named.foldl (fun d e => d.beginClear e (d.xf e XF.digestMode)) (d.markApplied c.page)).updateGens)) ∧
  (c.op = 5 → c.applied = false → xmapWaits d c = false →
    Does (.xmapWaitEnd k) s ((c.named.foldl (fun d e => d.setXf e XF.state 4) d).updateGens.ended c 0)) ∧
  (c.op ∈ [2, 3, 4, 5] → c.applied = false → xmapWaits d c = true → t + 10000000 < d.now →
    Does (.xmapBusyTimeout k) s ((c.fail (((List.range c.entries).find? fun i => d.extentBusy (c.first + i)).getD 0) d).ended c 3)) ∧
  (c.applied = true → x.toNat / 131072 = k.val → d.xf x.toNat XF.state = 1 →
    (c.named.all fun e => decide ((d.endClear x.toNat).xf e XF.state ≠ 1)) = true →
    Does (.clearingDone x) s ((d.endClear x.toNat).ended c 0))

/-- Auto idle, self refresh and exit set PSTATE; a temperature sample sets the maximum, the hot die, the refresh rate
and the throttle with their hysteresis; the watchdog clears FW_OK and raises the stack's source; a patrol read
advances its position, writes a line that is corrected back right, and counts and raises one that is uncorrectable.
(R239, R240, R241, R243, R247, R248) -/
def Obligations.StacksAct : Prop :=
  ∀ (s : State) (k : StackId) (temps : List (BitVec 8)) (logic : BitVec 8),
  let d := s.dev
  let hot := (temps.map BitVec.toNat).foldl max 0
  d.stores = [] → d.stackOn k.val = true →
  (d.fld F.STK_STATUS_PSTATE k.val = 0 → d.stackBusy k.val = false → d.fld F.STK_CTL_TARGET k.val = 0 →
    d.fld F.STK_CTL_AUTO_IDLE k.val = 1 → tGet 0 d.stackUse k.val + 1000 ≤ d.now →
    Becomes (.stackAutoIdle k) s (d.setFld F.STK_STATUS_PSTATE 1 k.val)) ∧
  (d.stackBusy k.val = false → Becomes (.selfRefreshEntry k) s (d.setFld F.STK_STATUS_PSTATE 2 k.val)) ∧
  Becomes (.stackPowerExit k) s (d.setFld F.STK_STATUS_PSTATE 0 k.val) ∧
  (temps.length = 16 → d.fld F.STK_STATUS_FW_OK k.val = 1 →
    Becomes (.stackTempSample k temps logic) s
      (((((d.setFld F.STK_TEMP_DRAM_MAX hot k.val).setFld F.STK_TEMP_LOGIC logic.toNat k.val).setFld F.STK_TEMP_HOT_DIE
        ((temps.map BitVec.toNat).findIdx fun x => decide (x = hot)) k.val).setFld F.STK_STATUS_REFRESH_2X
        (b2n (hysteresis 85 82 hot (d.flag F.STK_STATUS_REFRESH_2X k.val))) k.val).setFld F.STK_STATUS_THROTTLE
        (b2n (hysteresis 95 92 hot (d.flag F.STK_STATUS_THROTTLE k.val))) k.val)) ∧
  (d.pageCmds = [] → Does (.stackFwWatchdog k) s
    (raiseOwn s.mem (2304 + 8 * k.val + 5) none none (d.setFld F.STK_STATUS_FW_OK 0 k.val))) ∧
  (d.pageCmds = [] → d.fld F.STK_PATROL_PERIOD k.val ≠ 0 → d.fld F.STK_STATUS_PSTATE k.val ≠ 2 →
    d.fld F.STK_STATUS_FW_OK k.val = 1 →
    let n := tGet 0 d.patrol k.val
    let line := k.val * 2 ^ 30 + n % 2 ^ 30
    let e := stackFirmware s.mem (patrolLine s.mem line d)
    (e.fld F.STK_PATROL_RECHECK k.val = 0 ∨ line % 65536 ≠ 65535 → (n + 1) % 2 ^ 30 ≠ 0 → Does (.patrolRead k) s
      (((e.setPatrol (tSet 0 k.val (n + 1) e.patrol)).setFld F.STK_PATROL_POS_EXTENT ((n + 1) % 2 ^ 30 / 65536) k.val).setFld
        F.STK_PATROL_POS_PASSES (min ((n + 1) / 2 ^ 30) 65535) k.val)) ∧
    (tFind line d.ecc.wrong = none → patrolLine s.mem line d = d) ∧
    (∀ x, tFind line d.ecc.wrong = some x → d.flash.corrects line x = true →
      tFind line (patrolLine s.mem line d).ecc.wrong = none) ∧
    (∀ x, tFind line d.ecc.wrong = some x → d.flash.corrects line x = false → patrolLine s.mem line d =
      raiseOwn s.mem (2304 + 8 * stackOf line) (some (badDetail line)) (d.extentOwner (line / 65536)) (d.noteBad line)))

/-- CREATE, DELETE, ADD_CORE, REMOVE_CORE, LEND, RECALL, HOLD and RELEASE under the conditions of their rules: state,
turn, serving state and turn's generation of the partition, the plan of a core, or the result of the check that fails.
(R254, R255, R261, R262) -/
def Obligations.PartitionCommandsAct : Prop :=
  ∀ (s : State) (w : Path) (p t : PartId) (c : CoreId) (n : BitVec 8) (u : BitVec 6), n.toNat = c.val → u.toNat = t.val →
  let d := s.dev
  let q := fun op => partCmd w p op 0 0
  let k := fun op => partCmd w p op c.val 0
  let l := partCmd w p 5 c.val t.val
  let st := d.pstate p
  let r := ((d.begun (q 8)).setFld F.PART_STATUS_STATE 1 p.val).setPlainHold (d.plainHold.filter fun x => decide (x ≠ p))
  (s.Takes (.partCreate w p) → st = 0 → Does (.partCreate w p) s
    (((((d.begun (q 1)).setFld F.PART_STATUS_STATE 1 p.val).setFld F.PART_TURN_TURN 0 p.val).setServing
      (tDel p.val d.serving)).ended (q 1) 0)) ∧
  (s.Takes (.partCreate w p) → st ≠ 0 → Does (.partCreate w p) s ((d.begun (q 1)).ended (q 1) 2)) ∧
  (s.Takes (.partDelete w p) → st = 1 ∨ st = 3 → d.partEmpty p = true →
    Does (.partDelete w p) s ((partDelete p (d.begun (q 2))).finish (q 2).page 0)) ∧
  (s.Takes (.partDelete w p) → st = 1 ∨ st = 3 → d.partEmpty p = false → Does (.partDelete w p) s ((d.begun (q 2)).ended (q 2) 5)) ∧
  (s.Takes (.addCore w p n) → st = 1 ∨ st = 3 → d.idleCore c = true →
    Does (.addCore w p n) s ((d.begun (k 3)).beginPlan c (.add p))) ∧
  (s.Takes (.removeCore w p n) → (d.core c).owner = some p → (d.core c).home = some p → (d.core c).fenced = false →
    Does (.removeCore w p n) s ((d.begun (k 4)).beginPlan c .idle)) ∧
  (s.Takes (.lend w p n u) → st = 3 → (d.core c).owner = some p → (d.core c).home = some p → (d.core c).fenced = false →
    d.pstate t = 1 → t ≠ p → Does (.lend w p n u) s ((d.begun l).beginPlan c (.lend t))) ∧
  (s.Takes (.recallCore w p n) → (d.core c).home = some p → (d.core c).owner ≠ some p → (d.core c).owner ≠ none →
    (d.core c).fenced = false → Does (.recallCore w p n) s (d.begun (k 6))) ∧
  (s.Takes (.hold w p) → st = 1 → isPlain s.mem d p = false →
    Does (.hold w p) s (((d.begun (q 7)).setFld F.PART_STATUS_STATE 2 p.val).ended (q 7) 0)) ∧
  (s.Takes (.release w p) → st = 3 → Does (.release w p) s
    ({ r with turnGen := tSet 0 p.val (if partJob s.mem r p = 0 then 0 else r.fld F.GEN_LIVE_GEN p.val) r.turnGen }.ended (q 8) 0))

/-- CREATE, DESTROY, REHOME and WAKE of a context under the conditions of R256, with their effects and results. (R256) -/
def Obligations.ContextCommandsAct : Prop :=
  ∀ (s : State) (w : Path) (p : PartId) (num : BitVec 16) (c : CoreId) (n : BitVec 8) (e : ExtentId), n.toNat = c.val →
  let d := s.dev
  let k := fun op a b => ctxCmd d w p op num a b
  let key := ctxKey p num
  let a := (k 1 0 0).arg0
  let y := namedImage (memRead s.mem d a creationBytes) p num.toNat
  let b := (((((d.begun (k 1 c.val e.toNat)).countStk false a creationBytes).store (e.toNat * extentSize) y).store
    (e.toNat * extentSize + entryOffset) y).countStk true (e.toNat * extentSize) creationBytes).countStk true
    (e.toNat * extentSize + entryOffset) creationBytes
  (s.Takes (.ctxCreate w p num n e) → d.ctx? key = none → (d.core c).owner = some p →
    d.swapAccess p e.toNat true = true →
    a + creationBytes ≤ 2 ^ 41 → d.validData p.val a creationBytes = true → d.badRead a creationBytes = false →
    imageOk (memRead s.mem d a creationBytes) = true →
    Does (.ctxCreate w p num n e) s ((b.setCtx key
      (({ num := num, part := p, home := c, ext := e.toNat, entryExt := e.toNat } : Ctx).restore y (b.seedOf p) (b.turnOf p)).created).finish
      (0x3000 + p.val) 0)) ∧
  (∀ x, s.Takes (.destroy w p num) → d.ctx? key = some x → d.swapOf key = none → x.place = .out →
    Does (.destroy w p num) s ((((d.begun (k 2 0 0)).setCtx key { x with sched := { x.sched with dying := true } }).dropCtx key).ended
      (k 2 0 0) 0)) ∧
  (∀ x, s.Takes (.rehome w p num n) → d.ctx? key = some x → d.swapOf key = none → x.place = .out → (d.core c).owner = some p →
    Does (.rehome w p num n) s ((((d.begun (k 3 c.val 0)).unplanSwap key).setCtx key { x with home := c, sched := { x.sched with refused := false } }).ended
      (k 3 c.val 0) 0)) ∧
  (∀ x, s.Takes (.ctxWake w p num) → d.ctx? key = some x → d.swapOf key = none → x.place = .out →
    Does (.ctxWake w p num) s (((d.begun (k 4 0 0)).setCtx key
      { x with sched := { x.sched with runnable := true, refused := false } }).ended (k 4 0 0) 0)) ∧
  (s.Takes (.ctxWake w p num) → d.ctx? key = none → Does (.ctxWake w p num) s ((d.begun (k 4 0 0)).ended (k 4 0 0) 2))

/-- STAGE, CASTLE and ABANDON under the conditions of R273, with their effects and results. (R273, R276) -/
def Obligations.GenerationCommandsAct : Prop :=
  ∀ (s : State) (w : Path) (p : PartId) (g : BitVec 24) (i : Nat),
  let d := s.dev
  let k := fun op => genCmd d w p op g
  (∀ l e, s.Takes (.stage w p g) → g ≠ 0 → d.genEntry p g.toNat = none →
    (List.range 8).find? (fun j => decide (d.fld F.GEN_ENTRY_STATE p.val j = 0)) = some i →
    manifest s.mem d p (k 1).arg0 g.toNat = some l →
    l.shards.foldlM (fun d x => d.allocShard p l x) ((((d.begun (k 1)).setFld F.GEN_ENTRY_GEN g.toNat p.val i).setGenState p i 1).setLoads (tPut (loadKey p i) l d.loads)) = some e →
    Does (.stage w p g) s ((e.updateGen p i).finish (k 1).page 0)) ∧
  (s.Takes (.castle w p g) → d.genEntry p g.toNat = some i → d.fld F.GEN_ENTRY_STATE p.val i = 2 →
    Does (.castle w p g) s (((d.begun (k 2)).setCastling (tPut p.val g.toNat d.castling)).ended (k 2) 0)) ∧
  (s.Takes (.castle w p g) → d.genEntry p g.toNat = some i → d.fld F.GEN_ENTRY_STATE p.val i ≠ 2 →
    Does (.castle w p g) s ((d.begun (k 2)).ended (k 2) 3)) ∧
  (s.Takes (.castle w p g) → d.genEntry p g.toNat = none → Does (.castle w p g) s ((d.begun (k 2)).ended (k 2) 2)) ∧
  (∀ e, s.Takes (.abandon w p g) → d.genEntry p g.toNat = some i → d.fld F.GEN_ENTRY_STATE p.val i ∈ [1, 2, 5] →
    ((((d.begun (k 3)).setLoads (tDel (loadKey p i) d.loads)).setGenState p i 5).freeGen p i) = (e, true) →
    Does (.abandon w p g) s (e.finish (k 3).page 0))

/-- STORE, ACTIVATE, SETTLE, TAKE_BACK and ERASE of positions, REPORT and EXTEND, under their conditions, with their
effects and results. (R433, R434, R446) -/
def Obligations.PositionCommandsAct : Prop :=
  ∀ (s : State) (w : Path) (j : BitVec 3) (src : BitVec 22),
  let d := s.dev
  let k := fun op n m => positionCmd w op n m
  let n := j.toNat
  let x := d.position n
  let len := posLength (memRead s.mem d (stagingBase + src.toNat) 256)
  let l := memRead s.mem d (stagingBase + src.toNat) len
  (s.Takes (.store w j src) → x.state ∈ [0, 1, 5] → src.toNat + len ≤ 4194304 → 256 ≤ len → len ≤ 524288 →
    positionFormat l = true → positionCheckOk l = true →
    Does (.store w j src) s (((d.begun (k 1 n src.toNat)).setPosition n ⟨1, l⟩).ended (k 1 n src.toNat) 0)) ∧
  (s.Takes (.activate w j) → d.positionIn 3 = none → x.state = 1 → positionCheckOk x.data = true →
    Does (.activate w j) s ((applyPosition s.mem d.positionInForce
      ((((((d.begun (k 2 n 0)).setPosState (d.positionIn 4) 1).setPosState d.inForce 4).setPosState (some n) 3).setFld
        F.CFG_DEADLINE_TIME (d.now + 1000000000 * d.fld F.CFG_SETTLE_SECONDS)).showActive)).finish 0x5200 0)) ∧
  (∀ i, s.Takes (.settle w) → d.positionIn 3 = some i → d.now < d.fld F.CFG_DEADLINE_TIME →
    Does (.settle w) s ((((((d.begun (k 3 0 0)).setPosState (some i) 2).setFld F.CFG_DEADLINE_TIME 0).showActive).extendM 7
      ((((d.begun (k 3 0 0)).setPosState (some i) 2).setFld F.CFG_DEADLINE_TIME 0).showActive).checkInForce).ended (k 3 0 0) 0)) ∧
  (∀ i, s.Takes (.takeBack w) → d.positionIn 4 = some i →
    Does (.takeBack w) s ((takeBack s.mem (d.begun (k 4 0 0))).finish 0x5200
      (if ((takeBack s.mem (d.begun (k 4 0 0))).position i).state = 5 then 3 else 0))) ∧
  (s.Takes (.erase w j) → x.state = 1 ∨ x.state = 5 →
    Does (.erase w j) s (((d.begun (k 5 n 0)).setPosition n {}).ended (k 5 n 0) 0))

/-- ALLOCATE, FREE, RESET and RETARGET of a ring under the conditions of R347: the ring context as written, dropped,
emptied, or pointed elsewhere with the flows of its job cleared, with RESULT 0; FREE of a ring that a mover command
uses stays BUSY, and RING_FREE_TIMEOUT ends it with RESULT 6 once 10 ms have passed. (R347, R348) -/
def Obligations.RingCommandsEnd : Prop :=
  (∀ (s : State) (w : Path) (r : RingId),
   let d := s.dev
   let n := r.toNat
   let c := fun op => ringCmd d w op r
   let x := RF.error.put 0 (c 1).context
   (s.Takes (.ringAllocate w r) → d.rf n RF.kind = 0 → contextOk x = true → d.fld F.PART_STATUS_STATE (RF.owner.get x) = 1 →
     d.contextBuffer x = true → RF.kind.get x ≠ 3 →
     Does (.ringAllocate w r) s
       (((d.begun (c 1)).newRing n x).ended (c 1) 0)) ∧
   (s.Takes (.ringFree w r) → d.rf n RF.kind ≠ 0 → d.ringBusy n = false → d.rf n RF.kind ≠ 4 →
     Does (.ringFree w r) s (((d.begun (c 2)).dropRing n).ended (c 2) 0)) ∧
   (∀ k, s.Takes (.ringFree w r) → d.rf n RF.kind ≠ 0 →
     ((d.core k).mover.any fun y => decide (y.cmd.f CF.op = 0x45 ∨ y.cmd.f CF.op = 0x46) && decide (y.cmd.f MF.ring = n)) = true →
     Does (.ringFree w r) s (d.begun (c 2))) ∧
   (s.Takes (.ringReset w r) → d.rf n RF.kind = 1 ∨ d.rf n RF.kind = 2 →
     Does (.ringReset w r) s ((ringClear s.mem n (d.begun (c 3))).ended (c 3) 0)) ∧
   (s.Takes (.retarget w r) → d.rf n RF.kind = 2 ∨ (d.rf n RF.kind = 1 ∧ d.rf n RF.remote = 1) →
     d.fld F.PART_STATUS_STATE (partOf (d.rf n RF.owner)).val = 3 ∨ d.quiescedFor s.mem (partOf (d.rf n RF.owner)) = true →
     Does (.retarget w r) s (((((d.begun (c 4)).setRf n RF.peerDevice (RF.peerDevice.get (c 4).context)).setRf n RF.peerRing
       (RF.peerRing.get (c 4).context)).clearFlows (d.rf n RF.job)).ended (c 4) 0))) ∧
  (∀ (s : State) (c : PageCmd) (t : Nat),
   let d := s.dev
   d.stores = [] → d.pageCmds = [c.started t] → c.page = 0x1200 → d.pathOpen c.path = true → c.op = 2 → d.ringBusy c.a = true →
   (t + 10000000 ≤ d.now → Does .ringFreeTimeout s (d.ended c 6)) ∧
   (d.now < t + 10000000 → After .ringFreeTimeout s d))

/-- FENCE of a core fences it and fails the turns of the training partitions that it serves; CLEAR takes it off the
map; a core number outside the device is answered with its result. (R422, R423, R428) -/
def Obligations.FenceCommandsEnd : Prop :=
  ∀ (s : State) (w : Path) (c : CoreId) (n : BitVec 8), n.toNat = c.val →
  let d := s.dev
  (s.Takes (.fence w n) → (d.core c).fenced = false → 
    Does (.fence w n) s ((fenceCommand s.mem c (d.begun (fenceCmd w 1 c.val))).finish 0x4800 0)) ∧
  (s.Takes (.fence w n) → (d.core c).fenced = true →
    Does (.fence w n) s ((d.begun (fenceCmd w 1 c.val)).ended (fenceCmd w 1 c.val) 0)) ∧
  (s.Takes (.clear w n) → Does (.clear w n) s
    (((d.begun (fenceCmd w 2 c.val)).setFlash { d.flash with fence := d.flash.fence.filter fun x => decide (x ≠ c.val) }).ended
      (fenceCmd w 2 c.val) 0))

/-- WRITE, STAGE, DISCARD and COMMIT of a component end at once with the effect and the result of R440. (R440, R450) -/
def Obligations.FirmwareCommandsEnd : Prop :=
  ∀ (s : State) (w : Path) (k : Fin 7) (j : BitVec 4),
  let d := s.dev
  let c := fun op => fwCmd d w op k.val
  let slot := d.inactive k.val
  let x := d.fwSlot k.val slot
  let n := (c 1).arg1
  let b := d.begun (attestCmd w 1 0)
  let b' := d.begun (attestCmd w 2 j.toNat)
  (s.Takes (.write w k) → n ≠ 0 → (c 1).arg0 + n ≤ 4194304 → 4096 * (c 1).arg2 + n ≤ slotBytes k.val →
    Does (.write w k) s (((d.begun (c 1)).setFwSlot k.val slot
      { (if (c 1).arg2 = 0 then { state := 1 } else x : FwSlot) with
        data := bWrite (4096 * (c 1).arg2) (memRead s.mem d (stagingBase + (c 1).arg0) n)
          (if (c 1).arg2 = 0 then [] else x.data) }).ended (c 1) 0)) ∧
  (s.Takes (.stageImage w k) → x.state = 1 → (∀ e, e < 7 → d.slotIn e 2 = none) →
    Does (.stageImage w k) s (((d.begun (c 2)).setFwSlot k.val slot { x with state := 2 }).ended (c 2) 0)) ∧
  (s.Takes (.discard w k) → x.state = 1 ∨ x.state = 2 ∨ x.state = 5 →
    Does (.discard w k) s (((d.begun (c 3)).setFwSlot k.val slot {}).ended (c 3) 0)) ∧
  (∀ a, s.Takes (.fwCommit w k) → d.slotIn k.val 3 = some a → d.power.phase = .running → d.fld (bootFields k.val).1 = a →
    Does (.fwCommit w k) s (((d.begun (c 4)).setFlash { d.flash with
      counters := tSet 0 k.val (max (d.counter k.val) ((d.fwSlot k.val a).svn k.val)) d.flash.counters }).ended (c 4) 0)) ∧
  (s.Takes (.report w) → Does (.report w) s
    ((b.store (16383 * extentSize) (b.reportBody w ++ (List.range 4627).map (Config.signature (b.reportBody w)))).ended
      (attestCmd w 1 0) 0)) ∧
  (s.Takes (.extend w j) → 8 ≤ j.toNat → Does (.extend w j) s
    ((b'.extendM j.toNat (b'.nonce w)).ended (attestCmd w 2 j.toNat) 0)) ∧
  (s.Takes (.extend w j) → j.toNat < 8 → Does (.extend w j) s (b'.ended (attestCmd w 2 j.toNat) 2))

/-- A write of each of the sixteen index registers sets its fields and takes the snapshot of the entry for the path
that wrote it. (R251, R348, R318, R370, R396, R398, R427, R473, R450, R451, R471, R472) -/
def Obligations.SnapshotsTaken : Prop :=
  ∀ (s : State) (w : Path) (k : DieId) (e : BitVec 17) (r : RingId) (v : BitVec 32),
  let d := s.dev
  let n := v.toNat
  (s.Takes (.xmapReadIdx w k e) → Does (.xmapReadIdx w k e) s
    ((d.writeFields w (page 0x10 k.val 0x0120) e.toNat).xmapSnapshot w k.val e.toNat)) ∧
  (s.Takes (.ringReadIdx w r) → Does (.ringReadIdx w r) s ((d.writeFields w (page 0x12 0 0x0130) r.toNat).ringSnapshot w r.toNat)) ∧
  (s.Takes (.fabRtIdx w v) → Does (.fabRtIdx w v) s ((d.writeFields w (page 0x21 0 0x0110) n).routeSnapshot w n)) ∧
  (s.Takes (.hostPeerIdx w v) → Does (.hostPeerIdx w v) s ((d.writeFields w (page 0x28 0 0x0158) n).peerSnapshot w n)) ∧
  (s.Takes (.pwrRailIdx w v) → Does (.pwrRailIdx w v) s ((d.writeFields w (page 0x40 0 0x0130) n).railSnapshot w (n % 16))) ∧
  (s.Takes (.pwrRingIdx w v) → Does (.pwrRingIdx w v) s ((d.writeFields w (page 0x40 0 0x0160) n).pipSnapshot w (n % 2 ^ 18))) ∧
  (s.Takes (.thmIdx w v) → Does (.thmIdx w v) s ((d.writeFields w (page 0x42 0 0x0118) n).thermalSnapshot w (n % 256))) ∧
  (s.Takes (.fltSrcIdx w v) → Does (.fltSrcIdx w v) s (d.writeFields w (page 0x48 0 0x0110) n)) ∧
  (s.Takes (.fltLogIdx w v) → Does (.fltLogIdx w v) s ((d.writeFields w (page 0x48 0 0x0138) n).logSnapshot w n)) ∧
  (s.Takes (.fltDumpIdx w v) → Does (.fltDumpIdx w v) s ((d.writeFields w (page 0x48 0 0x0198) n).dumpSnapshot w n)) ∧
  (s.Takes (.bnkMemberIdx w v) → Does (.bnkMemberIdx w v) s ((d.writeFields w (page 0x54 0 0x0138) n).memberSnapshot w n)) ∧
  (s.Takes (.secFwSlotIdx w v) → Does (.secFwSlotIdx w v) s
    ((d.writeFields w (page 0x51 0 0x0130) n).slotSnapshot w (n % 8) (n / 8 % 2))) ∧
  (s.Takes (.secCounterIdx w v) → Does (.secCounterIdx w v) s ((d.writeFields w (page 0x51 0 0x0140) n).counterSnapshot w n)) ∧
  (s.Takes (.cfgSlotIdx w v) → Does (.cfgSlotIdx w v) s ((d.writeFields w (page 0x52 0 0x0120) n).positionSnapshot w n)) ∧
  (s.Takes (.hguSensorIdx w v) → Does (.hguSensorIdx w v) s ((d.writeFields w (page 0x50 0 0x0110) n).sensorSnapshot w n)) ∧
  (s.Takes (.jnlReadIdx w v) → Does (.jnlReadIdx w v) s ((d.writeFields w (page 0x53 0 0x0118) n).journalSnapshot s.mem w n))

/-- A write of a route entry, a share, a peer, a member, the port and fabric and host controls, the time base (with
the oscillator as its source) and FLT_RESET has the effect of its rule, and nothing else changes but by bookkeeping.
(R318, R308, R370, R473, R289, R304, R350, R474, R411) -/
def Obligations.ControlWritesAct : Prop :=
  ∀ (s : State) (w : Path) (n : PortId) (i : Fin 32) (v : BitVec 32) (x : BitVec 64),
  let d := s.dev
  (s.Takes (.fabRtData w x) → Does (.fabRtData w x) s (routeWrite s.mem w x.toNat d)) ∧
  (s.Takes (.shareTableWrite w n i x) → Does (.shareTableWrite w n i x) s (shareWrite n i.val x.toNat d)) ∧
  (s.Takes (.hostPeerMac w x) → Does (.hostPeerMac w x) s (d.peerWrite w x.toNat)) ∧
  (s.Takes (.bnkMember w x) → Does (.bnkMember w x) s (d.memberWrite w x.toNat)) ∧
  (s.Takes (.plCtlWrite w n v) → Does (.plCtlWrite w n v) s (plCtl s.mem n v.toNat d)) ∧
  (s.Takes (.fabCtlWrite w x) → Does (.fabCtlWrite w x) s (fabCtl s.mem x.toNat d)) ∧
  (s.Takes (.hostCtlWrite w v) → Does (.hostCtlWrite w v) s (hostCtl v.toNat d)) ∧
  (s.Takes (.timeSet w x) → d.fld F.TIME_STATUS_SOURCE = 0 → Does (.timeSet w x) s
    ((d.count F.TIME_STATUS_STEPS 1).setPower { d.power with
      raw := x.toNat, last := max d.power.last d.now, slewLeft := 0, slewPhase := 0 })) ∧
  (s.Takes (.timeSet w x) → d.fld F.TIME_STATUS_SOURCE ≠ 0 → Does (.timeSet w x) s d) ∧
  (∀ c, s.Takes (.domainReset w v) → coreOf (bits v.toNat 3 8) = some c →
    Does (.domainReset w v) s (d.startReset (bits v.toNat 0 3) c (!bitAt v.toNat 11) 0)) ∧
  (s.Takes (.domainReset w v) → coreOf (bits v.toNat 3 8) = none → bits v.toNat 0 3 ≠ 1 →
    Does (.domainReset w v) s (d.startReset (bits v.toNat 0 3) 0 (!bitAt v.toNat 11) 0)) ∧
  (s.Takes (.domainReset w v) → coreOf (bits v.toNat 3 8) = none → bits v.toNat 0 3 = 1 → Does (.domainReset w v) s d)

/-- WAKE of a sleeping module with its input present starts it, and is refused while a shutdown rule is active;
SHUTDOWN turns the main rails off; either does nothing where it does not apply. (R471, R499, R501) -/
def Obligations.WakeAndShutdown : Prop :=
  ∀ (s : State) (w : Path),
  let up := s.dev.writeFields w (page 0x50 0 0x0100) (1 + s.dev.hguKept)
  let down := s.dev.writeFields w (page 0x50 0 0x0100) (2 + s.dev.hguKept)
  (s.Takes (.wake w) → s.dev.power.phase = .asleep → s.dev.power.auxOn = true → up.shutRule = false →
    up.flag F.HGU_STATUS_MAIN_PRESENT = true → up.flag F.HGU_STATUS_PUF_FAIL = false →
    Does (.wake w) s (startUp s.mem up)) ∧
  (s.Takes (.wake w) → s.dev.power.phase = .asleep → s.dev.power.auxOn = true → up.shutRule = true →
    Does (.wake w) s (up.setFld F.HGU_STATUS_WAKE_REFUSED 1)) ∧
  (s.Takes (.wake w) → s.dev.power.phase ≠ .asleep → Does (.wake w) s up) ∧
  (s.Takes (.shutdown w) → s.dev.power.phase ≠ .asleep → Does (.shutdown w) s down.mainOff) ∧
  (s.Takes (.shutdown w) → s.dev.power.phase = .asleep → Does (.shutdown w) s down)

/-- FORCE and FORCE_WIRE raise the selected source, in the error state or as a wire fault, while DICE_EN is set.
(R403, R428) -/
def Obligations.ForcedFaults : Prop :=
  ∀ (s : State) (w : Path),
  let src := s.dev.pfld w F.FLT_SRC_IDX_SOURCE
  let d := (s.dev.srcCfg w (s.dev.srcClass src % 16)).draw.2.draw.2
  s.dev.flag F.FLT_CTL_DICE_EN = true →
  (s.Takes (.force w) → ∃ detail, Does (.force w) s (raiseFault s.mem src 0xFF detail true false none d)) ∧
  (s.Takes (.forceWire w) → ∃ code detail, Does (.forceWire w) s (raiseFault s.mem src code detail true true none d))

/-- REGISTER_WRITE of a register that has no further effect sets its fields under their access codes. (R8, R475) -/
def Obligations.PlainWritesAct : Prop :=
  ∀ (s : State) (w : Path) (a : BitVec 32) (v : BitVec 64), s.Takes (.registerWrite w a v) →
  commandOf w a.toNat v.toNat s.dev = none →
  a.toNat ∉ [page 0x48 0 0x170, page 0x48 0 0x118, page 0x50 0 0x100, page 0x55 0 0x110] →
  Does (.registerWrite w a v) s (writeSimple s.mem w a.toNat v.toNat s.dev)

/-- Every INT8 encoding decodes to the one integer from -128 to 127 that agrees with it modulo 256, and every INT4
encoding to the one from -8 to 7 modulo 16; each such integer has an encoding; no encoding is a negative zero, an
infinity or a NaN. (R31) -/
def Obligations.IntegersDecode : Prop :=
  (∀ n, ∃ x : Int, decodeVal .int8 n = Val.ofInt x ∧ -128 ≤ x ∧ x ≤ 127 ∧ x % 256 = n % 256) ∧
  (∀ n, ∃ x : Int, decodeVal .int4 n = Val.ofInt x ∧ -8 ≤ x ∧ x ≤ 7 ∧ x % 16 = n % 16) ∧
  (∀ x : Int, -128 ≤ x → x ≤ 127 → ∃ n < 256, decodeVal .int8 n = Val.ofInt x) ∧
  (∀ x : Int, -8 ≤ x → x ≤ 7 → ∃ n < 16, decodeVal .int4 n = Val.ofInt x) ∧
  ∀ n s e, ∀ f ∈ [Fmt.int8, .int4], decodeVal f n ≠ .fin true 0 e ∧ decodeVal f n ≠ .inf s ∧ decodeVal f n ≠ .nan

/-- Bits [7:0] of an E8M0 encoding from 0 to 254 decode to 2 to the power of the encoding less 127, and 255 to NaN; no
encoding is negative, a zero or an infinity. (R32) -/
def Obligations.ScalesDecode : Prop :=
  ∀ n : Nat, (n % 256 ≤ 254 → decodeVal .e8m0 n = .fin false 1 ((n % 256 : Nat) - 127)) ∧
    (n % 256 = 255 → decodeVal .e8m0 n = .nan) ∧
    ∀ m e s, decodeVal .e8m0 n ≠ .fin true m e ∧ decodeVal .e8m0 n ≠ .fin s 0 e ∧ decodeVal .e8m0 n ≠ .inf s

/-- For every list of bytes the checksum is the reflected remainder under the polynomial 0x1EDC6F41, begun at
0xFFFFFFFF and inverted at the end; that of the nine ASCII digits 1 to 9 is 0xE3069283; a flit is sealed with the
checksum of its bytes 0 to 251. (R292) -/
def Obligations.FlitCrc : Prop :=
  let reflect := fun (w x : Nat) => (List.range w).foldl (fun y i => y + b2n (x.testBit i) * 2 ^ (w - 1 - i)) 0
  let shift := fun (r : Nat) => if r.testBit 31 then (2 * r % 2 ^ 32) ^^^ 0x1EDC6F41 else 2 * r
  let byte := fun (r : Nat) (b : Byte) => (shift^[8]) (r ^^^ (reflect 8 b.toNat * 2 ^ 24))
  (∀ l : List Byte, crc32c l = reflect 32 (l.foldl byte 0xFFFFFFFF) ^^^ 0xFFFFFFFF) ∧
  crc32c [0x31, 0x32, 0x33, 0x34, 0x35, 0x36, 0x37, 0x38, 0x39] = 0xE3069283 ∧
  (∀ f : Flit, (flitCovered f).length = 252 ∧ (sealFlit f).crc.toNat = crc32c (flitCovered f)) ∧
  ∀ f : Flit, f.body.length = 236 → flitCovered f = (leBytes 16 (f.fseq.toNat + f.ack.toNat * 2 ^ 16 + b2n f.nak * 2 ^ 32 +
    f.fkind.toNat * 2 ^ 33 + f.vset.toNat * 2 ^ 36 + f.vc.toNat * 2 ^ 42 + f.crVset.toNat * 2 ^ 43 + f.crVc.toNat * 2 ^ 49 +
    f.crCount.toNat * 2 ^ 50)) ++ f.body

/-- A MESSAGE ring and a SEND ring have room under the rule, for every state; and an MSEND that the mover accepts, of
a ring without error whose buffer is whole, enters the mover with the message number PRODUCED, PRODUCED advances by
one modulo 2^32, and for a MESSAGE ring the number names its slot. (R323) -/
def Obligations.RingsHaveRoom : Prop :=
  (∀ (d : Dev) (r : Nat), d.rf r RF.kind = 1 →
    (d.ringRoom r = true ↔ ((d.rf r RF.produced : Int) - d.rf r RF.consumed) % 2 ^ 32 < 2 ^ d.rf r RF.slotsLog)) ∧
  (∀ (d : Dev) (r : Nat), d.rf r RF.kind = 2 →
    (d.ringRoom r = true ↔ ((d.rf r RF.produced : Int) - d.rf r RF.consumed) % 2 ^ 32 < 2 ^ d.rf r RF.peerSlotsLog)) ∧
  ∀ (s : State) (c : CoreId) (k : SlotId) (y : Ctx) (cmd : Cmd),
  let d := s.dev
  let r := cmd.f MF.ring
  d.stores = [] → moverTurn s.mem d c k = true → d.head c k 2 = some (y, cmd) → cmd.f CF.op = MOp.send.code → cmd.f CF.res = 0 →
  moverVerdict s.mem d c k y.part .send cmd = .accept → d.rf r RF.error = 0 → (d.rf r RF.kind = 1 → d.bufferOk r = true) →
  ∃ e x, AfterOn (.msend c k) s c e ∧ x ∈ (e.core c).mover ∧ x.slot = k ∧ x.cmd = cmd ∧ x.doomed = false ∧
    x.slotNo = d.rf r RF.produced ∧ e.rf r RF.produced = (d.rf r RF.produced + 1) % 2 ^ 32 ∧
    (d.rf r RF.kind = 1 → e.slotAddr r x.slotNo =
      64 * d.rf r RF.bufLine + d.rf r RF.produced % 2 ^ d.rf r RF.slotsLog * 2 ^ d.rf r RF.slotLog)

/-- MATRIX_PASS that the array can take and that is not held issues or is rejected by its verdict, waits while it is
held or the array cannot take it, and is rejected at once by its fields; TILE_LOAD issues into a free shadow tile, or
is rejected for its window or its format; NOP of each queue completes in its turn; a command of another queue is
rejected for its opcode. Nothing else changes but by bookkeeping. (R116, R119, R120, R123, R153) -/
def Obligations.MatrixCommandsIssue : Prop :=
  ∀ (s : State) (c : CoreId) (k : SlotId) (q : QueueId) (y : Ctx) (cmd : Cmd) (key : Nat),
  let d := s.dev
  let x := d.core c
  let op := cmd.f CF.op
  d.stores = [] → cmd.f CF.res = 0 → x.slotKey k = some key →
  (∀ a, x.serves k = true → d.head c k 0 = some (y, cmd) → op = 1 → passArgs cmd = .ok a →
    let free := d.flag F.ARY_CTL_HOLD c.val = false ∧ x.takesPass a.mode a.wide (d.cycle c) = true
    (free → passVerdict d c k key cmd a = .accept → AfterOn (.matrixPass c k) s c (d.issuePass c k cmd a)) ∧
    (∀ r, free → passVerdict d c k key cmd a = .reject r → AfterOn (.matrixPass c k) s c (d.rejectHead c k 0 r)) ∧
    (¬ free ∨ passVerdict d c k key cmd a = .wait → AfterOn (.matrixPass c k) s c d)) ∧
  (∀ r, x.serves k = true → d.head c k 0 = some (y, cmd) → op = 1 → passArgs cmd = .error r →
    AfterOn (.matrixPass c k) s c (d.rejectHead c k 0 r)) ∧
  (∀ f, x.serves k = true → d.head c k 0 = some (y, cmd) → op = 2 → cmd.f TF.res0 = 0 → cmd.f TF.res1 = 0 →
    Fmt.ofCode (cmd.f TF.wFmt) = some f →
    (tileFmtBad (cmd.f TF.wFmt) (cmd.f TF.wMx == 1) = false →
      d.rangesOk c k (tileRanges cmd f ++ tileScaleRanges cmd) = true → x.tileLoad = none → x.edgeHeld = false →
      x.lastPass = none ∨ x.firstIssue < d.cycle c →
      AfterOn (.tileLoad c k) s c (d.issueTileLoad c k key cmd f)) ∧
    (tileFmtBad (cmd.f TF.wFmt) (cmd.f TF.wMx == 1) = false →
      d.rangesOk c k (tileRanges cmd f ++ tileScaleRanges cmd) = false →
      AfterOn (.tileLoad c k) s c (d.rejectHead c k 0 rWindow)) ∧
    (tileFmtBad (cmd.f TF.wFmt) (cmd.f TF.wMx == 1) = true → cmd.f TF.wFmt < 12 →
      AfterOn (.tileLoad c k) s c (d.rejectHead c k 0 rFormat))) ∧
  (nopTurn s.mem d c k q = true → d.head c k q = some (y, cmd) → op = 0 →
    AfterOn (.nop c k q) s c ((d.modCore c fun x => { x with arb := x.arb.granted q k }).modCtx key fun y =>
      (y.popHead q).complete cmd)) ∧
  (x.serves k = true → d.head c k 0 = some (y, cmd) → op ≠ 0 → opQueue op ≠ some 0 →
    AfterOn (.matrixPass c k) s c (d.rejectHead c k 0 rOpcode))

/-- A tile load and a pass end at their cycle; the drain of a group, and of the outer product, starts when it is
ready, frees the group from the cycle after its last row enters the epilogue, takes its cycles and ends; the unit goes
to the next holder that arbitration picks, when the last pass, the tile load and the cells leave it free, and the
change ends with the tiles of the new holder and its cycles counted. (R63, R80, R81, R117, R123, R126, R149) -/
def Obligations.MatrixEventsAct : Prop :=
  (∀ (s : State) (c : CoreId) (g : GroupId),
   let d := s.dev
   let x := d.core c
   d.stores = [] →
   (∀ t, x.tileLoad = some t → t.due ≤ d.cycle c → AfterOn (.tileLoadDone c) s c
     (((d.modCore c fun x => { x with tileLoad := none, shadow := some t.tile, shadowFresh := true }).modSlot c t.slot
       fun y => y.complete t.cmd).restartTimer c 0)) ∧
   (∀ p l, x.passes = p :: l → p.edge = false → p.due ≤ d.cycle c → AfterOn (.passComplete c) s c (d.finishPass c p l)) ∧
   (∀ cl, (x.group g).closing = some cl → cl.ready = true → cl.startAt ≤ d.cycle c →
     let gr := x.group g
     let w := widthOf gr.width
     let n := (if gr.long then 8 else 32) * gr.count * epiRowCycles cl.epi (512 / w) w
     AfterOn (.groupDrainStart c g) s c (d.setCore c { x.setGroup g { gr with closing := none, freeAt := some (d.cycle c + n) } with
       drains := x.drains ++ [⟨g, gr, cl, d.cycle c + n - 1 + 12⟩] })) ∧
   (∀ y, x.drainOf g = some y → y.endAt ≤ d.cycle c → AfterOn (.groupDrainEnd c g) s c (d.drainGroup c y)) ∧
   (∀ cl, x.op.closing = some cl → cl.ready = true → x.opDrain = none → cl.startAt < d.cycle c →
     let n := 128 * epiRowCycles cl.epi 1 (opWidth x.op.cls)
     AfterOn (.outerProductDrainStart c) s c (d.setCore c { x with
       op := {}
       opDrain := some ⟨x.op, cl, d.cycle c + n - 1 + 15⟩
       cellsFreeFrom := d.cycle c + n
       cellSpans := x.cellSpans ++ [(d.cycle c, d.cycle c + n)] })) ∧
   (∀ y, x.opDrain = some y → y.endAt ≤ d.cycle c → AfterOn (.outerProductDrainEnd c) s c (d.drainOuter c y))) ∧
  (∀ (s : State) (c : CoreId) (i : Nat) (ch : HolderChange) (y : Ctx),
   let d := s.dev
   let x := d.core c
   let left := match x.lastPass with | none => d.cycle c | some l => l.lastIssue + (if l.wide then 383 else 639)
   let load := match x.tileLoad with | some t => t.due | none => d.cycle c
   d.stores = [] →
   (x.change = none → x.edgeHeld = false → d.holderGives c = true →
     arbPick x.arb.matrix (fun i => d.matrixReady c (slotOf i) && decide (x.holder ≠ some (slotOf i))) = some i →
     d.slotCtx c (slotOf i) = some y →
     AfterOn (.holderChange c) s c (d.setCore c { x with
       change := some ⟨slotOf i, d.cycle c, max (d.cycle c) (max left (max load x.cellsFreeFrom)) +
         (if x.holder.isSome then 132 else 0) + (if y.loadedTile then 66 else 0)⟩
       arb := { x.arb with matrix := arbNext i } })) ∧
   (∀ h, x.holder = some h → d.matrixReady c h = true → AfterOn (.holderChange c) s c d) ∧
   (x.change = some ch → ch.endAt ≤ d.cycle c → x.tileLoad = none → (d.tilesOut c).slotCtx c ch.next = some y →
     AfterOn (.holderChangeDone c) s c (((d.tilesOut c).setCore c { x with
       holder := some ch.next, change := none, active := y.tiles.1, shadow := y.tiles.2, shadowFresh := y.tilesFresh
       lastPass := none }).count F.CORE_HOLDER_CYCLES_CYCLES (ch.endAt - ch.startAt) c.val)))

/-- Each of the 19 vector commands at the head of its queue, in its turn, issues with its computed writes, flags and
cycles, or is rejected with the code of its verdict; VECTOR_COMPLETE applies the writes, counts and flags when its
cycle comes. (R116, R117, R119, R122, R127, R131) -/
def Obligations.VectorCommandsAct : Prop :=
  (∀ (s : State) (c : CoreId) (k : SlotId) (y : Ctx) (cmd : Cmd) (i : Instr) (op : VOp),
   let d := s.dev
   (i, op) ∈ [(Instr.vadd c k, VOp.add), (.vsub c k, .sub), (.vmul c k, .mul), (.vfma c k, .fma), (.vmax c k, .max),
     (.vmin c k, .min), (.vcmp c k, .cmp), (.vsel c k, .sel), (.vcvt c k, .cvt), (.vdiv c k, .div), (.vsqrt c k, .sqrt),
     (.vfunc c k, .func), (.vred c k, .red), (.vdact c k, .dact), (.vdpre c k, .dpre), (.ladd c k, .ladd),
     (.lred c k, .lred), (.lcvt c k, .lcvt), (.vsplit c k, .split)] →
   d.stores = [] → d.vectorTurn c k = true → d.head c k 1 = some (y, cmd) → cmd.f CF.op = op.code → cmd.f CF.res = 0 →
   (vecVerdict d c k op cmd = .accept →
     let o := vecCompute d c k op cmd
     let n := vecCycles op cmd
     let e := (d.startTimer c 1 false).modSlot c k fun y => y.popHead 1
     AfterOn i s c (e.modCore c fun x => { x with
       vec := some ⟨k, cmd, o.writes, o.flags, o.invalids, o.ranges, e.cycle c + n⟩
       arb := { x.arb with vector := arbNext k.val } })) ∧
   (∀ r, vecVerdict d c k op cmd = .reject r → AfterOn i s c (d.rejectHead c k 1 r))) ∧
  (∀ (s : State) (c : CoreId) (v : VecExec),
   let d := s.dev
   d.stores = [] → (d.core c).vec = some v → v.due ≤ d.cycle c →
   let e := ((d.modCore c fun x => { x with vec := none, spd := applyWrites v.writes x.spd }).count
     F.VEC_INVCVT_COUNT_COUNT v.invalids c.val).count F.VEC_RANGE_COUNT_COUNT v.ranges c.val
   AfterOn (.vectorComplete c) s c ((e.modSlot c v.slot fun y =>
     { y.complete v.cmd with hart := { y.hart with kfpflags := orFlags y.hart.kfpflags v.flags } }).restartTimer c 1))

/-- Each of the nine mover commands at the head of its queue, in its turn, issues with explicit effects, is rejected
or waits by its verdict; the oldest command of a slot completes with the effect of its opcode once its cycles have
passed and its lines and indexes are sound, or ends in error with its code, which MOV_ERR holds when it is free, posts
event 2, raises the stack's source for code 2 and the core's for code 5, and fails the turn for these codes and for a
command of a collective. (R116, R119, R139, R170, R172, R174) -/
def Obligations.MoverCommandsAct : Prop :=
  (∀ (s : State) (c : CoreId) (k : SlotId) (y : Ctx) (cmd : Cmd) (i : Instr) (o : MOp),
   let d := s.dev
   (i, o) ∈ [(Instr.mcopy c k, MOp.copy), (.mload c k, .load), (.mstore c k, .store), (.mgather c k, .gather),
     (.mscatter c k, .scatter), (.msend c k, .send), (.mrecv c k, .recv), (.acfsave c k, .acfsave), (.acfload c k, .acfload)] →
   d.stores = [] → moverTurn s.mem d c k = true → d.head c k 2 = some (y, cmd) → cmd.f CF.op = o.code → cmd.f CF.res = 0 →
   let r := cmd.f MF.ring
   let g := cmd.f MF.group
   let count := if o = .acfsave then ((d.core c).group g).count else if o = .acfload then bits (d.groupImage c k (cmd.f MF.auxAddr)) 4 5 else 0
   let enters := fun (e : Dev) (n : Nat) (doomed : Bool) =>
     ((e.startTimer c 2 (!(e.core c).mover.isEmpty)).modSlot c k fun y => y.popHead 2).modCore c fun z =>
       let z := { z with
         mover := z.mover ++ [{ slot := k, cmd := cmd, slotNo := n, turn := e.turnOf y.part, doomed := doomed
                                due := e.cycle c + o.cycles cmd count }]
         arb := { z.arb with mover := arbNext k.val } }
       match o with
       | .acfsave => z.setGroup g { z.group g with st := .draining }
       | .acfload => z.setGroup g (loadedGroup k cmd (d.groupImage c k (cmd.f MF.auxAddr)))
       | _ => z
   let whole := d.rf r RF.kind = 1 → d.bufferOk r = true
   (moverVerdict s.mem d c k y.part o cmd = .accept →
     (o ≠ .send → o ≠ .recv → AfterOn i s c (enters d 0 false)) ∧
     (o = .send → d.rf r RF.error = 0 → whole →
       AfterOn i s c (enters (d.setRf r RF.produced (d.rf r RF.produced + 1)) (d.rf r RF.produced) false)) ∧
     (o = .recv → d.rf r RF.error = 0 → whole →
       AfterOn i s c (enters (d.setRing r { d.ring r with recvPtr := (c.val + 1) % 144 }) (d.nextRecv r) false)) ∧
     (o = .send ∨ o = .recv → d.rf r RF.error = 1 → whole → AfterOn i s c (enters d 0 true)) ∧
     AfterOn i s c (issueMover s.mem c k y.part o cmd d)) ∧
   (∀ r, moverVerdict s.mem d c k y.part o cmd = .reject r → AfterOn i s c (d.rejectHead c k 2 r)) ∧
   (moverVerdict s.mem d c k y.part o cmd = .wait → AfterOn i s c d)) ∧
  (∀ (s : State) (c : CoreId) (k : SlotId) (x : MovExec) (y : Ctx) (o : MOp) (code : BitVec 4) (row : Nat),
   let d := s.dev
   d.stores = [] → (d.core c).oldestMove k = some x → d.slotCtx c k = some y → MOp.ofCode (x.cmd.f CF.op) = some o →
   let p := y.part
   let cmd := x.cmd
   let clean := ∀ r, r ∈ d.moveRanges c p x o → d.readFails r.1 r.2 = false ∧ d.badWrite r.1 r.2 = false
   let moved := moverEffect s.mem c p x o d
   (canComplete s.mem d c p x o = true → After (.moverComplete c k) s
     (((moved.modCore c fun z => { z with mover := z.mover.erase x }).modSlot c k fun z => z.complete x.cmd).restartTimer c 2)) ∧
   (o ∈ [.copy, .acfsave, .acfload] → x.due ≤ d.cycle c → canComplete s.mem d c p x o = true) ∧
   (o ∈ [.load, .store] → x.due ≤ d.cycle c → clean → canComplete s.mem d c p x o = true) ∧
   (o ∈ [.gather, .scatter] → x.due ≤ d.cycle c → clean → d.badIndex c p x o = none → canComplete s.mem d c p x o = true) ∧
   (o = .copy → moved = (cmd.spdRows.zip (d.readRanges c x.slot cmd.auxRows)).foldl (fun d z => d.winWrite c x.slot z.1.1 z.2) d) ∧
   (o = .load → (moved.core c).spd = (cmd.spdRows.zip cmd.memRows).foldl (fun t z =>
     bWrite (d.winBase c x.slot + z.1.1) (memRead s.mem d z.2.1 cmd.rowBytes) t) (d.core c).spd ∧ moved.stores = []) ∧
   (o = .store → moved.stores = ((cmd.spdRows.zip cmd.memRows).map fun z => Store.bytes z.2.1 (d.winRead c x.slot z.1.1 cmd.rowBytes)).reverse ∧
     (moved.core c).spd = (d.core c).spd) ∧
   (o = .gather → moved = indexedRows s.mem c x.slot p cmd false cmd.mrows d) ∧
   (o = .scatter → moved = indexedRows s.mem c x.slot p cmd true cmd.mrows d) ∧
   (errorHolds s.mem d c p x o code.toNat row = true →
     let e := ((((partialRows s.mem c p x o code.toNat row d).modCore c fun z => { z with mover := z.mover.erase x }).modSlot
       c k fun z => z.setQueue 2 { z.queue 2 with failed := true }).restartTimer c 2)
     let f := if e.flag F.MOV_ERR_VALID c.val k.val then e
       else ((((e.setFld F.MOV_ERR_OP (x.cmd.f CF.op) c.val k.val).setFld F.MOV_ERR_CODE code.toNat c.val k.val).setFld
         F.MOV_ERR_VALID 1 c.val k.val).setFld F.MOV_ERR_SEQ x.cmd.seq.toNat c.val k.val).setFld F.MOV_ERR_TAG
         (x.cmd.f CF.tag) c.val k.val
     let g := f.postEvent p 2 c.val ((f.word (F.MOV_ERR_OP.addr c.val k.val)).toNat + k.val * 2 ^ 64)
     let h := if code = 2 ∨ code = 5 ∨ x.cmd.seq ∈ y.collCmds then failJobTurn s.mem p 8 g else g
     let line := d.failedLine c p x o row
     (code ≠ 2 → code ≠ 5 → After (.moverError c k code row) s h) ∧
     (code = 2 → After (.moverError c k code row) s (raiseLine s.mem (some line) (some p) (h.failLine line))) ∧
     (code = 5 → After (.moverError c k code row) s
       (raiseOwn s.mem (16 * c.val + 3) none (some p) (h.count F.SPD_ECC_COUNT_UNCORRECTED 1 c.val)))))

/-- What training with the words sent in CHECK, its limit, the check exchange, its limit, CHECK words on an UP port,
100 ms in DOWN, loss and return of light, and 1 ms without a beacon do to the state of a port, with the cause that it
records. (R289, R290, R304, R306, R312) -/
def Obligations.PortsTrain : Prop :=
  ∀ (s : State) (n : PortId) (lanes : List (Fin 16)) (device : DeviceId) (port : BitVec 4) (mode : BitVec 2) (digest : BitVec 64),
  let d := s.dev
  let half := d.flag F.PL_CTL_HALF_ONLY n.val
  let e := ((d.setFld F.PL_PARTNER_DEVICE device.toNat n.val).setFld F.PL_PARTNER_PORT port.toNat n.val).setFld F.PL_PARTNER_VALID 1 n.val
  d.stores = [] → d.fabricOn = true →
  (∀ w, d.portState n = 1 → laneSet half lanes = some w →
    let f := (d.portEnter n 2).setFld F.PL_STATUS_WIDTH w n.val
    After (.trainDone n lanes) s (f.send (.check n d.deviceId (d.fld F.FAB_CTL_MODE) (BitVec.ofNat 64 (d.shareDigest n))))) ∧
  (d.portState n = 1 → laneSet half lanes = none → After (.trainDone n lanes) s (portDown s.mem n 6 d)) ∧
  (d.portState n = 1 → (d.port n).since + 20000000 ≤ d.now → After (.trainTimeout n) s (portDown s.mem n 6 d)) ∧
  (d.portState n = 3 → After (.checkExchange n device port mode digest) s (portDown s.mem n 5 d)) ∧
  (d.portState n = 2 → digest.toNat ≠ e.shareDigest n →
    After (.checkExchange n device port mode digest) s (portDown s.mem n 9 e)) ∧
  (d.portState n = 2 → digest.toNat = e.shareDigest n → mode.toNat ≠ e.fld F.FAB_CTL_MODE →
    After (.checkExchange n device port mode digest) s (portDown s.mem n 8 e)) ∧
  (d.portState n = 2 → digest.toNat = e.shareDigest n → mode.toNat = e.fld F.FAB_CTL_MODE → e.fld F.FAB_CTL_MODE = 0 →
    (device.toNat ≠ e.fld F.PL_EXPECT_DEVICE n.val ∨ port.toNat ≠ e.fld F.PL_EXPECT_PORT n.val) →
    After (.checkExchange n device port mode digest) s (portDown s.mem n 7 e)) ∧
  (d.portState n = 2 → digest.toNat = e.shareDigest n → mode.toNat = e.fld F.FAB_CTL_MODE →
    (e.fld F.FAB_CTL_MODE = 0 → device.toNat = e.fld F.PL_EXPECT_DEVICE n.val ∧ port.toNat = e.fld F.PL_EXPECT_PORT n.val) →
    let u := (e.portEnter n 3).setFld F.PL_STATUS_SHARE_PENDING 0 n.val
    let x : Port := { since := u.now, share := u.shareRegs n, sentAt := u.now, heardAt := u.now }
    After (.checkExchange n device port mode digest) s (retryHeld s.mem (u.setPort n { x with credits := x.fullCredits }))) ∧
  (d.portState n = 2 → (d.port n).since + 1000000 ≤ d.now →
    After (.checkTimeout n) s (portDown s.mem n ((Config.fresh d.draw.1).toNat % 16) d.draw.2)) ∧
  (d.portState n = 4 → d.flag F.PL_CTL_EN n.val = true → (d.port n).since + 100000000 ≤ d.now →
    Becomes (.downRetrain n) s (d.portEnter n 1)) ∧
  (d.portState n ≠ 0 → d.portState n ≠ 4 → After (.lightLoss n) s (portDown s.mem n 1 (d.modPort n fun x => { x with dark := true }))) ∧
  (d.portState n = 4 → After (.lightLoss n) s (d.modPort n fun x => { x with dark := true })) ∧
  (d.portState n = 4 → d.flag F.PL_CTL_EN n.val = true → (d.port n).dark = true →
    Becomes (.lightReturn n) s ((d.modPort n fun x => { x with dark := false }).portEnter n 1)) ∧
  (d.portState n = 3 → (d.port n).heardAt + 1000000 ≤ d.now → After (.beaconTimeout n) s (portDown s.mem n 4 d))

/-- A flit with a right CRC and the expected FSEQ is taken; any other is discarded and sets NAK once for a loss, a
wrong CRC counts CRC failures and, where its codeword was uncorrectable, FEC_UNCORR, of which 64 within 1 ms take the
port down; the sixteenth discard of one FSEQ takes the port down; a port sends again what was asked for, else a new
flit or an idle one; beacons are flits of the system set that carry device, port, hops, times and the digest of
shares. (R287, R292, R293, R294, R305, R306, R307, R313, R314, R315) -/
def Obligations.FlitsCrossLinks : Prop :=
  (∀ (s : State) (n : PortId) (f : Flit) (r : List Flit),
   let d := s.dev
   let x := d.port n
   let good := f.crc.toNat = crc32c (flitCovered f)
   let e := if good then d else badFlit s.mem n d
   let y := e.port n
   let mine := f.fseq.toNat = y.rxSeq
   let nak := e.modPort n fun x => { x with nak := x.nak || !x.losing || decide mine, losing := true, discards := if mine then x.discards + 1 else x.discards }
   let c := d.count F.PL_ERR_COUNT_CRC_FAIL 1 n.val
   let l := c.now :: (c.port n).uncorr.filter fun t => decide (c.now < t + 1000000)
   let u := (c.draw.2.count F.PL_ERR_COUNT_FEC_UNCORR 1 n.val).modPort n fun x => { x with uncorr := l }
   d.stores = [] → d.fabricOn = true → d.portState n = 3 →
   (good → f.fkind = 0 → After (.flitReceive n f) s (d.takeControl n f)) ∧
   (good → f.fkind ≠ 0 → f.fseq.toNat = x.rxSeq → After (.flitReceive n f) s ((d.takeControl n f).takeBody n f)) ∧
   (¬ good ∨ (f.fkind ≠ 0 ∧ f.fseq.toNat ≠ x.rxSeq) → e.portState n = 3 →
     (¬ mine → y.discards < 16 → After (.flitReceive n f) s nak) ∧
     (mine → y.discards < 15 → After (.flitReceive n f) s nak) ∧
     (mine → 15 ≤ y.discards → After (.flitReceive n f) s (portDown s.mem n 3 nak))) ∧
   (¬ good → e.portState n ≠ 3 → After (.flitReceive n f) s e) ∧
   ((Config.fresh c.freeCtr).getLsbD 0 = false → badFlit s.mem n d = c.draw.2) ∧
   ((Config.fresh c.freeCtr).getLsbD 0 = true → l.length < 64 → badFlit s.mem n d = u) ∧
   ((Config.fresh c.freeCtr).getLsbD 0 = true → 64 ≤ l.length → badFlit s.mem n d = portDown s.mem n 2 u) ∧
   (x.resend = f :: r →
     let g := x.again f
     let y := { x with nak := false, resend := r, replay := x.replay.map fun (h : Flit) => if h.fseq = f.fseq then g else h }
     Becomes (.flitSend n) s (((d.setPort n { y with system := (decide (f.vset = 0) :: y.system).take 255, slot := (y.slot + 1) % 8 }).send
       (.flit n g)).count F.PL_FLITS_TX_FLITS 1 n.val)) ∧
   (x.resend = [] → x.replay.length < 4096 → (x.ready 0 = none ∨ 4 ≤ (x.system.filter fun b => b).length) →
     (d.fld F.PWR_LEVELS_LINK_LEVEL ≤ x.slot ∨ x.nextSet = none) →
     Becomes (.flitSend n) s ((d.setPort n { x.paid with system := (false :: x.paid.system).take 255, slot := (x.paid.slot + 1) % 8 }).send
       (.flit n (x.stamp idleFlit 0)))) ∧
   (∀ o g l, x.resend = [] → x.replay.length < 4096 → x.ready 0 = some o → (x.system.filter fun b => b).length < 4 → o.flits = g :: l →
     let y := (x.sendNew o g).1
     Becomes (.flitSend n) s (((d.setPort n { y with system := (decide (o.set = 0) :: y.system).take 255, slot := (y.slot + 1) % 8 }).send
       (.flit n (x.sendNew o g).2)).count F.PL_FLITS_TX_FLITS 1 n.val))) ∧
  (∀ (s : State) (n : PortId) (b : Beacon),
   let d := s.dev
   let i := fun (x : BitVec 64) => (x.toNat : Int)
   let off := ((i b.t2 - i b.t1) - (i b.t4 - i b.t3)) / 2
   let delay := ((i b.t2 - i b.t1) + (i b.t4 - i b.t3)) / 2
   let e := ((((d.modPort n fun x => { x with heardAt := d.now, hops := b.hops.toNat }).applyShare n b.pendingDigest).setFld
     F.PL_DELAY_DELAY (delay.toNat % 2 ^ 24) n.val).chooseTime)
   d.stores = [] → d.fabricOn = true → d.portState n = 3 →
   (∀ f l, (d.port n).sentAt + 100000 ≤ d.now → (d.port n).beaconSlot = true → packetFlits (d.beaconPacket n) 0 0 = f :: l →
     let x := d.port n
     let o : OutPacket := { pkt := d.beaconPacket n, set := 0, vc := 0, flits := [f] }
     let z := Port.sendNew { x with out := o :: x.out, sentAt := d.now, told := BitVec.ofNat 64 (d.shareDigest n) } o f
     Becomes (.beaconSend n) s (((d.setPort n { z.1 with system := (true :: z.1.system).take 255, slot := (z.1.slot + 1) % 8 }).send
       (.flit n z.2)).count F.PL_FLITS_TX_FLITS 1 n.val)) ∧
   ((d.beaconPacket n).payload = leBytes 4 d.deviceId ++ leBytes 4 n.val ++ leBytes 8 (d.shareDigest n) ++
     leBytes 8 (d.fld F.FAB_TIME_SYNC_HOPS) ++ leBytes 8 d.now ++ leBytes 8 (d.port n).heardAt) ∧
   (e.timePort = some n → e.flag F.FAB_TIME_SYNC_ROOT = false →
     Becomes (.beaconReceive n b) s ((e.setFld F.FAB_TIME_SYNC_OFFSET (offset32 off)).correctTime (-off))) ∧
   (e.timePort ≠ some n ∨ e.flag F.FAB_TIME_SYNC_ROOT = true → Becomes (.beaconReceive n b) s e))

/-- A packet for this device goes to its inbox, where a control packet takes effect at once; one to another device
goes out by its route into the set of its job, is held where the route is held, or is dropped and counted where there
is no route or no share; a packet in transit leaves its buffer and its flits are counted; a packet held for 5 ms is
answered with an error notice. (R297, R301, R303, R309, R311) -/
def Obligations.PacketsGoOn : Prop :=
  ∀ (s : State) (n : PortId) (p : Packet),
  let d := s.dev
  let e : Dev := { d with egress := d.egress.erase p }
  let old := d.held.filter fun h => decide (h.since + 5000000 ≤ d.now)
  let goes := fun (x : Dev) => After (.packetForward none p) s (takeControls s.mem x)
  d.stores = [] →
  (d.fabricOn = true → p ∈ d.egress → p.dst.toNat = d.deviceId → goes { e with inbox := e.inbox ++ [(none, p)] }) ∧
  (d.fabricOn = true → p ∈ d.egress → d.route p 0 = .noRoute → goes ((e.count F.FAB_DROPS_NO_ROUTE 1).errorNotice p false)) ∧
  (d.fabricOn = true → p ∈ d.egress → d.route p 0 = .hold →
    goes { e with held := e.held ++ [({ pkt := p, vc := 0, since := d.now } : HeldPacket)] }) ∧
  (∀ v k, d.fabricOn = true → p ∈ d.egress → d.route p 0 = .out n v → (d.port n).setOf p = some k →
    goes (e.modPort n fun x => { x with
      out := x.out ++ [({ pkt := p, set := k, vc := v, flits := packetFlits p k v, came := 0 } : OutPacket)] })) ∧
  (∀ v, d.fabricOn = true → p ∈ d.egress → d.route p 0 = .out n v → (d.port n).setOf p = none →
    goes (raiseOwn s.mem (2816 + 16 * (n.val / 4) + 4) none none ((e.count F.FAB_DROPS_NO_SHARE 1).errorNotice p false))) ∧
  (d.fabricOn = true → p.dst.toNat = d.deviceId →
    let u := d.leaveTransit n p
    After (.packetForward (some n) p) s (takeControls s.mem { u with inbox := u.inbox ++ [(some n, p)] })) ∧
  (d.fabricOn = true → p.dst.toNat ≠ d.deviceId →
    let u := (d.leaveTransit n p).count F.FAB_TRANSIT_FLITS_FLITS (packetFlits p 0 0).length
    After (.packetForward (some n) p) s (takeControls s.mem (dispatchPacket s.mem p (d.transitKey n p % 2) u.now u (some n)))) ∧
  (∀ m (x : Dev), (∀ q ∈ x.inbox, q.2.pkind ≠ 4) → takeControls m x = x) ∧
  Becomes .heldPacketDiscard s (old.foldl (fun d h => d.errorNotice h.pkt true)
    { d with held := d.held.filter fun h => decide (d.now < h.since + 5000000) })

/-- A packet in order takes effect and frees those that wait behind it; a repeated one is counted; an early one waits
where there is room; an error notice fails the rings and the job it names. A message enters its ring, a credit moves
CONSUMED, a bulk write stores its bytes and its last packet is acknowledged unless a packet of the transfer was
refused, an acknowledgement takes the transfer it answers off the list, a write that cuts an uncorrectable line raises
its source, and a message or write that is not allowed is an error. (R218, R240, R297, R298, R299, R322, R326, R329) -/
def Obligations.PacketsArrive : Prop :=
  (∀ (s : State) (p : Packet) (i : Instr) (kind : Nat),
   let d := s.dev
   let key := flowKey p.src.toNat p.job.toNat
   let e : Dev := { d with inbox := match d.inbox.find? fun x => decide (x.2 = p) with | some x => d.inbox.erase x | none => d.inbox }
   let f : FlowIn := tGet {} e.flowIn key
   let ahead := (p.flowSeq.toNat + 2 ^ 32 - f.next) % 2 ^ 32
   d.stores = [] → d.fabricOn = true → p.dst.toNat = d.deviceId → p.pkind.toNat = kind →
   ((i, kind) ∈ [(Instr.ringMessagePacket p, 0), (.bulkWritePacket p, 1), (.writeAckPacket p, 2)] →
     (d.memoryDown = true → After i s (e.errorNotice p false)) ∧
     (d.memoryDown = false → tFind key e.flowIn ≠ none → ahead = 0 → After i s (deliverHeld s.mem key f.held.length
       (deliverPacket s.mem p { e with flowIn := tPut key { f with next := (f.next + 1) % 2 ^ 32 } e.flowIn }))) ∧
     (d.memoryDown = false → tFind key e.flowIn ≠ none → 2 ^ 31 ≤ ahead → After i s (e.count F.FAB_DROPS_DUP 1)) ∧
     (d.memoryDown = false → tFind key e.flowIn ≠ none → 0 < ahead → ahead < 2 ^ 31 →
       f.held.any (fun h => decide (h.pkt.flowSeq = p.flowSeq)) = false →
       e.reorderBytes (d.arrivalDie p) + 32 + p.payload.length ≤ 1048576 →
       After i s { e with flowIn := tPut key { f with
         held := f.held ++ [({ pkt := p, die := d.arrivalDie p, at_ := e.now } : EarlyPacket)] } e.flowIn })) ∧
   (kind = 3 → d.memoryDown = false → After (.errorNoticePacket p) s
     (failJob s.mem p.job.toNat 8 (failRings s.mem p.src.toNat p.job.toNat true (moveFails s.mem p.job.toNat e))))) ∧
  (∀ (m : Mem) (p : Packet) (d : Dev),
   let r := p.ring.toNat
   let a := p.addr.toNat
   let n := p.payload.length
   let cr := KF.seq.get p.kindData.toNat
   let no := (d.setRefused p (!p.last)).errorNotice p false
   let wr := accumulate m a n ((d.store a p.payload).countStk true a n)
   (p.pkind.toNat = 0 → d.rf r RF.error = 1 → deliverPacket m p d = d) ∧
   (p.pkind.toNat = 0 → d.rf r RF.error ≠ 1 → d.fromPeer r p = false →
     deliverPacket m p d = (ringError m r 2 p.src.toNat d).errorNotice p false) ∧
   (p.pkind.toNat = 0 → d.rf r RF.error ≠ 1 → d.fromPeer r p = true → KF.credit.get p.kindData.toNat = 1 →
     (d.rf r RF.produced + 2 ^ 32 - cr) % 2 ^ 32 < 2 ^ 31 → deliverPacket m p d = d.setRf r RF.consumed cr) ∧
   (p.pkind.toNat = 0 → d.rf r RF.error ≠ 1 → d.fromPeer r p = true → KF.credit.get p.kindData.toNat = 1 →
     2 ^ 31 ≤ (d.rf r RF.produced + 2 ^ 32 - cr) % 2 ^ 32 →
     deliverPacket m p d = (ringError m r 6 p.src.toNat d).errorNotice p false) ∧
   (∀ c, p.pkind.toNat = 0 → d.rf r RF.error ≠ 1 → d.fromPeer r p = true → KF.credit.get p.kindData.toNat ≠ 1 →
     messageCause d r p = some c → deliverPacket m p d = (ringError m r c p.src.toNat d).errorNotice p false) ∧
   (p.pkind.toNat = 0 → d.rf r RF.error ≠ 1 → d.fromPeer r p = true → KF.credit.get p.kindData.toNat ≠ 1 →
     messageCause d r p = none → messageCut d r p = none → deliverPacket m p d = takeMessage r p d) ∧
   (∀ b k, p.pkind.toNat = 0 → d.rf r RF.error ≠ 1 → d.fromPeer r p = true → KF.credit.get p.kindData.toNat ≠ 1 →
     messageCause d r p = none → messageCut d r p = some (b, k) →
     deliverPacket m p d = raiseCut m b k (some (partOf (d.rf r RF.owner))) (d.errorNotice p false)) ∧
   (p.pkind.toNat = 1 → (a % 64 ≠ 0 ∨ 2 ^ 41 < a + n ∨ (extentsOf a n).all d.bulkWrites = false) → deliverPacket m p d = no) ∧
   (p.pkind.toNat = 1 → a % 64 = 0 → a + n ≤ 2 ^ 41 → (extentsOf a n).all d.bulkWrites = true → d.badWrite a n = true →
     deliverPacket m p d = raiseCut m a n (d.extentOwner (extentOf a)) no) ∧
   (p.pkind.toNat = 1 → a % 64 = 0 → a + n ≤ 2 ^ 41 → (extentsOf a n).all d.bulkWrites = true → d.badWrite a n = false →
     d.shardAt a = none → p.last = false → deliverPacket m p d = wr) ∧
   (p.pkind.toNat = 1 → a % 64 = 0 → a + n ≤ 2 ^ 41 → (extentsOf a n).all d.bulkWrites = true → d.badWrite a n = false →
     d.shardAt a = none → p.last = true → (tGet {} d.flowIn (flowKey p.src.toNat p.job.toNat)).refused = true →
     deliverPacket m p d = wr.setRefused p false) ∧
   (p.pkind.toNat = 1 → a % 64 = 0 → a + n ≤ 2 ^ 41 → (extentsOf a n).all d.bulkWrites = true → d.badWrite a n = false →
     d.shardAt a = none → p.last = true → (tGet {} d.flowIn (flowKey p.src.toNat p.job.toNat)).refused = false →
     (wr.xf (extentOf a) XF.kind ≠ 4 ∨ wr.xf (extentOf a) XF.state ≠ 3 ∨ wr.arrived.contains (extentOf a) = true) →
     deliverPacket m p d = wr.emitFlow p.src.toNat p.job.toNat 2 0 a 0 true [0]) ∧
   (p.pkind.toNat = 2 → deliverPacket m p d = (d.moveAcked p.src.toNat a).modJob p.job.toNat
     fun x => { x with unacked := x.unacked.erase (p.src.toNat, a) }))

/-- A gap in a flow that lasts 5 ms fails the flow and its job; a ring returns credit when a quarter of its slots have
been consumed; the rings of a job that do not drain within 10 ms fail the turn; a written shadow extent is sent to the
buddy of the device, or fails the turn where a line of it is uncorrectable; a pod of one mirrors nothing. (R28, R217,
R218, R311, R328, R329, R330) -/
def Obligations.FlowsAndMirrors : Prop :=
  ∀ (s : State) (src : DeviceId) (job : BitVec 16) (f : FlowIn) (h : EarlyPacket) (r : RingId) (ext : ExtentId),
  let d := s.dev
  let key := flowKey src.toNat job.toNat
  let c := d.rf r.toNat RF.consumed
  let adv := (c + 2 ^ 32 - (d.ring r.toNat).returned) % 2 ^ 32
  let ps := jobParts s.mem d job.toNat
  let e := ext.toNat
  let j := partJob s.mem d (partOf (d.xf e XF.owner))
  d.stores = [] →
  (tFind key d.flowIn = some f → (f.held.find? fun h => decide (h.at_ + 5000000 ≤ d.now)) = some h →
    After (.flowFailed src job) s (failJob s.mem job.toNat 8 (failRings s.mem src.toNat job.toNat false
      (({ d with flowIn := tPut key { f with held := [] } d.flowIn } : Dev).errorNotice h.pkt true)))) ∧
  (d.rf r.toNat RF.kind = 1 → d.rf r.toNat RF.remote = 1 → adv ≠ 0 → 2 ^ d.rf r.toNat RF.slotsLog ≤ 4 * adv →
    let u := d.emitFlow (d.rf r.toNat RF.peerDevice) (d.rf r.toNat RF.job) 0 (d.rf r.toNat RF.peerRing) 0 (c + 2 ^ 52) true (List.replicate 64 0)
    After (.ringCreditReturn r) s (u.setRing r.toNat { u.ring r.toNat with returned := c, advancedAt := none })) ∧
  (job.toNat ≠ 0 → d.hubOn = true → ps ≠ [] →
    (∀ p ∈ ps, ∃ t, tFind p.val d.stillSince = some t ∧ t + 10000000 ≤ d.now) → (d.job job.toNat).failed = false →
    ringsDrained s.mem d job.toNat = false → After (.turnScopedTimeout job) s (failJob s.mem job.toNat 8 d)) ∧
  (∀ b, d.buddy j = some b → j ≠ 0 → d.xf e XF.kind = 3 → d.xf e XF.state = 3 → d.isLive e = false → e ∈ d.unsent →
    d.extentBusy e = false → d.fabricOn = true →
    let u : Dev := { d with unsent := d.unsent.filter fun x => decide (x ≠ e) }
    (d.badRead (e * extentSize) extentSize = false →
      After (.mirrorSend ext) s ((sendExtent s.mem b j e (d.mirrorOf j e) u).modJob j
        fun x => { x with unacked := x.unacked ++ [(b, lastPacket (d.mirrorOf j e))] })) ∧
    (d.badRead (e * extentSize) extentSize = true →
      After (.mirrorSend ext) s (failJob s.mem j 8 (raiseBad s.mem (e * extentSize) extentSize (d.extentOwner e) u)))) ∧
  (d.podOfOne = true → After (.mirrorSend ext) s d)

/-- HOLD_REACHED, RECALL_FORCED and PARTITION_MOVE in each of its stages, from a job that is HELD to the freeing at
the source or the abandoning of the move; the freeing of generations, the limit and the next read of a shard that
loads, and the limit of an old generation. (R255, R262, R263, R264, R265, R274, R277, R278, R281) -/
def Obligations.PartitionEventsAct : Prop :=
  (∀ (s : State) (p b : PartId) (c : CoreId) (limit e : Nat) (target : DeviceId),
   let d := s.dev
   let gone := fun (u : Dev) => ((u.postEvent p 13 c.val b.val).postEvent b 13 c.val b.val).beginPlan c .giveBack
   let still := (d.ownedCores p).any fun c => (d.core c).plan.isSome || (d.core c).swap.isSome
   d.stores = [] →
   (d.pstate p = 2 → p ∈ d.plainHold → d.partExecutes p = false → After (.holdReached p) s (d.setFld F.PART_STATUS_STATE 3 p.val)) ∧
   (d.recallOf p = some (c, b, limit) → limit ≤ d.now → d.isServing b = true →
     After (.recallForced p c) s (gone (d.abandonStep b))) ∧
   (d.recallOf p = some (c, b, limit) → limit ≤ d.now → d.isServing b = false →
     After (.recallForced p c) s (gone (failJobTurn s.mem b 8 d))) ∧
   (d.hubOn = true → target.toNat = d.deviceId → d.pstate p = 0 →
     After (.partitionMove p target) s ((d.setFld F.PART_STATUS_STATE 3 p.val).setFld F.PART_TURN_TURN 0 p.val)) ∧
   (d.hubOn = true → target.toNat = d.deviceId → d.pstate p = 3 →
     After (.partitionMove p target) s (d.setFld F.PART_STATUS_STATE 4 p.val)) ∧
   (d.hubOn = true → target.toNat = d.deviceId → d.pstate p = 4 → tFind p.val d.moves = none →
     After (.partitionMove p target) s (d.setFld F.PART_STATUS_STATE 3 p.val)) ∧
   (d.hubOn = true → target.toNat ≠ d.deviceId → d.pstate p = 3 → tFind p.val d.moves = none → jobHeld s.mem d p = true →
     let u : Dev := { d.setFld F.PART_STATUS_STATE 4 p.val with moves := tPut p.val { target := target.toNat } d.moves }
     After (.partitionMove p target) s ((u.ownedCores p).foldl (fun d c => d.beginPlan c .empty) u)) ∧
   (d.hubOn = true → target.toNat ≠ d.deviceId → d.pstate p = 3 → tFind p.val d.moves = none → jobHeld s.mem d p = false →
     After (.partitionMove p target) s d) ∧
   (∀ x, d.hubOn = true → target.toNat ≠ d.deviceId → d.pstate p = 4 → tFind p.val d.moves = some x → x.target = target.toNat →
     let j := partJob s.mem d p
     let go := fun (u : Dev) => After (.partitionMove p target) s (settleAll s.mem u)
     let bad := (d.ownedExtents p).find? fun e => d.readFails (e * extentSize) extentSize
     (x.stage = 0 → still = true → go d) ∧
     (x.stage = 0 → still = false → bad = some e →
       go ((raiseBad s.mem (e * extentSize) extentSize (some p) (d.abandonMove p)).sendItem target.toNat j .abandon 0 [0])) ∧
     (x.stage = 0 → still = false → bad = none →
       let u := sendExtents s.mem p target.toNat j d
       go { u with moves := tPut p.val { x with stage := 1, waiting := (d.ownedExtents p).map lastPacket } u.moves }) ∧
     (x.stage = 1 → x.waiting ≠ [] → go d) ∧
     (x.stage = 1 → x.waiting = [] →
       let u := sendRest p target.toNat j d
       go { u with moves := tPut p.val { x with stage := 2 } u.moves }) ∧
     (2 ≤ x.stage → go (endMove p d)))) ∧
  (∀ (s : State) (p : PartId) (n i : Nat) (l : GenLoad) (x : Shard) (t : Nat),
   let d := s.dev
   let limit := d.fld F.SEQ_POLICY_OLD_GEN_LIMIT p.val
   d.stores = [] →
   After (.generationFreeRetry p) s (d.drainGens p) ∧
   (d.loadingShard p n = some (i, l, x) → x.lastAt + 1000000000 * d.fld F.GEN_LOADCFG_TIMEOUT p.val ≤ d.now →
     After (.shardTimeout p n) s (shardFails p i x d)) ∧
   (d.readShard p n = some (i, l, x) → x.reading = false → x.published = false → x.count ≠ 0 → n % l.group = l.member →
     (∀ j < x.count, d.xf (x.ext + j) XF.state = 2 ∨ d.xf (x.ext + j) XF.state = 3) → d.hostOn = true → d.memoryDown = false →
     d.ringMine p.val x.qp = true → d.rf x.qp RF.kind = 3 → d.rf x.qp RF.qstate = 3 → (d.qp x.qp).read = none →
     After (.shardRead p n) s (askShard x.qp { part := p, entry := i, shard := n, off := 0 } x (beginShard (loadKey p i) l.gen x d))) ∧
   (∀ y, (d.serve p.val).castled = [(n, t)] → (d.serve p.val).oldDue = [] → 0 < limit → t + 1000000 * limit ≤ d.now →
     y = d.modServe p (fun z => { z with oldDue := [n] }) → After (.oldGenLimitExpiry p) s y) ∧
   ((d.serve p.val).castled.all (fun g => !d.oldLimit p g.1) = true → After (.oldGenLimitExpiry p) s d))

/-- STEP_COMPOSE takes the commands of the sequence ring and composes a step when the partition may; a step in
progress stays; a ring without its buffer goes to ERROR and an area that cannot be written raises its source; and each
sequence command has its effect on its sequence entry, or is counted and reported as bad. (R268, R269, R270, R271,
R272) -/
def Obligations.StepsCompose : Prop :=
  (∀ (s : State) (p : PartId) (r q : Nat),
   let d := s.dev
   let u := takeCommands s.mem p r (d.ringFill r) d
   let ready := fun (v : Dev) => v.pstate p ≠ 3 ∧ v.pstate p ≠ 4 ∧ (v.serve p.val).step = none ∧ v.areasOk p = true ∧
     v.pageTokens p ≠ 0 ∧ v.rf q RF.pHub = 1 ∧ v.ringRoom q = true
   let area := fun (v : Dev) => v.fld F.SEQ_AREA_STEP_EXTENT p.val * extentSize + 1048576 * ((v.serve p.val).next % 2)
   let slot := fun (v : Dev) => v.slotAddr q (v.rf q RF.produced) + 64
   let publish := fun (v : Dev) =>
     (v.bufferOk q = true → v.badWrite (area v) 1048576 = false → v.badWrite (slot v) 8 = false →
       After (.stepCompose p) s (compose p q v)) ∧
     (v.bufferOk q = true → v.badWrite (area v) 1048576 = true →
       After (.stepCompose p) s (raiseCut s.mem (area v) 1048576 (some p) v)) ∧
     (v.bufferOk q = false → After (.stepCompose p) s (ringError s.mem q 5 0 v))
   d.stores = [] → d.isServing p = true → d.pstate p ≠ 0 →
   (d.hubRing p F.PART_RINGS_SEQ_RING 1 = some r → d.rf r RF.consumer = 1 → d.bufferOk r = true →
     u.hubRing p F.PART_RINGS_STEP_RING 2 = some q → ready u → publish u) ∧
   (d.hubRing p F.PART_RINGS_SEQ_RING 1 = some r → d.rf r RF.consumer = 1 → d.bufferOk r = true →
     (u.serve p.val).step.isSome = true → After (.stepCompose p) s u) ∧
   (d.hubRing p F.PART_RINGS_SEQ_RING 1 = none → d.hubRing p F.PART_RINGS_STEP_RING 2 = some q → ready d → publish d)) ∧
  (∀ (p : PartId) (r : Nat) (d : Dev) (n : Nat) (runs : List StepRun),
   let i := CR.seq.get r
   let op := CR.op.get r
   (op = 1 → d.seqBase p ≤ i → i < d.seqBase p + d.seqCount p → d.sq i QF.state = 0 → CR.len.get r ≠ 0 → d.pageTokens p ≠ 0 →
     d.pagesFor p (CR.len.get r) ≤ 4096 →
     let e := seqCommand p r d
     (∀ j, j ≠ i → tGet 0 e.seqs j = tGet 0 d.seqs j) ∧ { e with seqs := d.seqs } = d ∧ e.sq i QF.state = 1 ∧
       e.sq i QF.part = p.val ∧ e.sq i QF.prio = CR.prio.get r ∧ e.sq i QF.promptLen = CR.len.get r ∧
       e.sq i QF.promptAddr = CR.addr.get r ∧ e.sq i QF.joinTime = d.now % 2 ^ 64 ∧ e.sq i QF.pos = 0 ∧ e.sq i QF.gen = 0) ∧
   (op = 1 → (i < d.seqBase p ∨ d.seqBase p + d.seqCount p ≤ i ∨ d.sq i QF.state ≠ 0) →
     seqCommand p r d = (d.count F.SEQ_COUNTS_BAD_CMDS 1 p.val).postEvent p 10 i 1) ∧
   (op = 1 → d.seqBase p ≤ i → i < d.seqBase p + d.seqCount p → d.sq i QF.state = 0 →
     (CR.len.get r = 0 ∨ 4096 < d.pagesFor p (CR.len.get r)) →
     seqCommand p r d = (d.count F.SEQ_COUNTS_BAD_CMDS 1 p.val).postEvent p 10 i 2) ∧
   (op = 2 → d.seqBase p ≤ i → i < d.seqBase p + d.seqCount p → d.sq i QF.state ≠ 0 → seqCommand p r d = d.setSq i QF.state 4) ∧
   (op = 3 → d.seqBase p ≤ i → i < d.seqBase p + d.seqCount p → d.sq i QF.state ≠ 0 →
     seqCommand p r d = d.setSq i QF.prio (CR.prio.get r)) ∧
   (op = 4 → (d.serve p.val).step = some (n, runs) → CR.step.get r = n → seqCommand p r d = stepEnds p runs d) ∧
   (op = 4 → (d.serve p.val).step = none → seqCommand p r d = d.count F.SEQ_COUNTS_BAD_CMDS 1 p.val) ∧
   ((op = 0 ∨ 4 < op) → seqCommand p r d = (d.count F.SEQ_COUNTS_BAD_CMDS 1 p.val).postEvent p 10 i 3))

/-- Each of the nine requests is dropped without its port, its VLAN, its session or the header and tag that the
session asks for; one in order is executed with those that wait behind it, one up to 63 ahead waits, a repeated one is
answered from the cache, any other counts; and each operation that is executed has its effect and the status of its
checks. (R350, R352, R358, R359, R360, R361, R368) -/
def Obligations.RequestsTaken : Prop :=
  (∀ (s : State) (h : ReqHead) (o : DcpOp) (i : Instr) (code : Nat) (op : Option DcpOp) (x : Session) (r : Reply),
   let d := s.dev
   let n := h.session.toNat
   let u := d.heard h
   let v := u.modSession n fun y => { y with lastAt := u.now, port := h.port, peer := h.source }
   let q : HeldReq := ⟨code, h, op, v.now⟩
   let ahead := (h.seq - x.next).toNat
   let behind := (x.next - h.seq).toNat
   let comes := d.portServes h.port = true ∧ d.frameTaken h.port h.source = true
   let right := h.magic = 0x4443 ∧ h.version = 1 ∧ h.type = 3 ∧ h.tagOk = true ∧ ((x.port = .host) ↔ (h.port = .host))
   (i, code, op) ∈ [(Instr.dcpNop h, 1, none), (.regRead h o, 2, some o), (.regWrite h o, 3, some o), (.memRead h o, 4, some o),
     (.memWrite h o, 5, some o), (.doorbell h o, 6, some o), (.consume h o, 7, some o), (.subscribe h o, 8, some o),
     (.dcpClose h, 9, none)] →
   d.stores = [] →
   (¬ comes → After i s d) ∧
   (comes → tFind n u.sessions = none → After i s u.unheard) ∧
   (comes → tFind n u.sessions = some x → ¬ right → After i s u.unheard) ∧
   (comes → tFind n u.sessions = some x → right →
     (ahead = 0 → After i s (execHeld s.mem n x.held.length (execRequest s.mem n q v))) ∧
     (0 < ahead → ahead ≤ 63 → tFind h.seq.toNat x.held = none → After i s
       (v.modSession n fun y => { y with held := tPut h.seq.toNat q y.held })) ∧
     (0 < ahead → ahead ≤ 63 → tFind h.seq.toNat x.held ≠ none → After i s v) ∧
     (63 < ahead → behind ≤ 64 → tFind h.seq.toNat x.cache = some r → After i s (v.respond n h.seq.toNat r)) ∧
     (63 < ahead → behind ≤ 64 → tFind h.seq.toNat x.cache = none → After i s v) ∧
     (63 < ahead → 64 < behind → v.hguAlone = false → After i s (v.count F.HOST_ERR_DCP_SEQ 1)))) ∧
  (∀ (m : Mem) (n code : Nat) (x : Session) (h : ReqHead) (o : DcpOp) (d : Dev),
   let a := o.addr.toNat
   let k := o.count.toNat
   let r := o.ring.toNat
   let run := runOp m n code x h o d
   let ends := fun (st : Nat) (data : List Byte) (e : Dev) => run.1 = e.draw.2 ∧ run.2.status = st ∧ run.2.data = data
   (h.reservedZero = false ∨ o.op.toNat ≠ code → ends 6 [] d) ∧
   (h.reservedZero = true → o.op.toNat = code →
     (code = 1 ∨ code = 9 → h.length.toNat = 40 → ends 0 [] d) ∧
     (code = 1 ∨ code = 9 → h.length.toNat ≠ 40 → ends 8 [] d) ∧
     (code = 2 → sized h o 1 1000 0 = true → run = (d, readWords (sessionPath n x) d a 0 k [])) ∧
     (code = 2 → sized h o 1 1000 0 = false → ends 8 [] d) ∧
     (code = 3 → sized h o 1 1000 (8 * k) = true →
       run = writeWords m (sessionPath n x) ((List.range k).map fun i => (o.data.drop (8 * i)).take 8) a 0 d) ∧
     (code = 4 → sized h o 1 4096 0 = true → d.memStatus x.scope a k false = 0 → ends 0 (memRead m d a k) (d.countStk false a k)) ∧
     (code = 4 → sized h o 1 4096 0 = true → d.memStatus x.scope a k false ≠ 0 → d.memStatus x.scope a k false ≠ 7 →
       ends (d.memStatus x.scope a k false) [] d) ∧
     (code = 4 → sized h o 1 4096 0 = true → d.memStatus x.scope a k false = 7 → ends 7 [] (raiseBad m a k (scopePart x.scope) d)) ∧
     (code = 5 → sized h o 1 8064 k = true → d.memStatus x.scope a k true = 0 →
       ends 0 [] (accumulate m a k ((d.store a o.data).countStk true a k))) ∧
     (code = 5 → sized h o 1 8064 k = true → d.memStatus x.scope a k true ≠ 0 → d.memStatus x.scope a k true ≠ 7 →
       ends (d.memStatus x.scope a k true) [] d) ∧
     (code = 5 → sized h o 1 8064 k = true → d.memStatus x.scope a k true = 7 →
       ends 7 [] (raiseCut m a k (scopePart x.scope) d)) ∧
     (code = 6 ∨ code = 7 → d.memoryDown = true → ends 5 [] d) ∧
     (code = 6 ∨ code = 7 → d.memoryDown = false → d.hguAlone = false → d.ringInScope x.scope r = false → ends 1 [] d) ∧
     (code = 6 → d.memoryDown = false → d.hguAlone = false → d.ringInScope x.scope r = true → d.rf r RF.kind = 1 → d.rf r RF.pHost = 1 →
       sized h o 1 (d.slotCapacity r) 0 = true → a % 2 ^ 32 = d.rf r RF.produced → d.ringRoom r = true → d.rf r RF.error ≠ 1 →
       d.bufferOk r = true →
       let e := (d.claim r).2
       let p := e.slotAddr r (d.claim r).1
       ends 0 [] ((e.store p (slotHeader k (d.claim r).1 (e.turnOf (partOf (d.rf r RF.owner))) e.deviceId true false)).countStk true p 64)) ∧
     (code = 7 → d.memoryDown = false → d.hguAlone = false → d.ringInScope x.scope r = true → sized h o 0 (2 ^ 32) 0 = true →
       d.rf r RF.kind = 1 → d.rf r RF.consumer = 2 → a % 2 ^ 32 = d.rf r RF.consumed → d.rf r RF.error ≠ 1 → ringVisible m d r = true →
       d.bufferOk r = true → ends 0 [] (d.consumeAt m r (d.rf r RF.consumed))) ∧
     (code = 8 → sized h o 0 1 0 = true → x.port ≠ .host → o.addr = 1 →
       ends 0 [] (d.modSession n fun y => { y with telemetry := decide (o.count = 1), lastTelemetry := d.now })) ∧
     (code = 8 → sized h o 0 1 0 = true → x.port = .host → d.memoryDown = false → d.hguAlone = false → d.ringInScope x.scope r = true →
       d.rf r RF.kind = 1 ∨ d.rf r RF.kind = 2 →
       ends 0 [] (d.modSession n fun y => { y with
         subs := if o.count ≠ 1 then tDel r y.subs else if (tFind r y.subs).isSome then y.subs else tPut r (d.ringCounts r) y.subs }))))

/-- OPEN is answered with a new session, whose keys come from the shared secret, the OPEN and the device's nonce, or
with the code of its refusal; an idle session is closed; held requests expire after 100 ms; a notice of a subscribed
ring is sent when its counts have changed and the gap has passed, and not before. (R353, R354, R356, R361, R363) -/
def Obligations.SessionsOpenAndEnd : Prop :=
  ∀ (s : State) (o : OpenPacket) (n : BitVec 32) (r : RingId) (x : Session) (c : Nat),
  let d := s.dev
  let u := d.openFrames o.port
  let num := u.draw.2.freeSession (Config.fresh u.draw.1).toNat
  let nonce := deviceNonce u.draw.1
  let keys := sha3 ((List.range 32).map (Config.sharedSecret o.ciphertext) ++ sha3 (openBody o) ++ nonce)
  let sent := fun (type : Nat) (v : BitVec 32) (l : List Byte) => Sent.dcp o.port o.source (d.frameTag o.port) type v 0 0 l
  let comes := d.portServes o.port = true ∧ d.frameTaken o.port o.source = true
  let right := o.magic = 0x4443 ∧ o.version = 1
  let y : Session := { port := o.port, scope := .device, key := o.keyIndex, ring := 0, peer := o.source, toDevice := keys.take 32
                       toHost := keys.drop 32, lastAt := u.draw.2.now, byHgu := u.draw.2.hguAlone }
  let w := fun (z : Session) => u.draw.2.setSession num z
  let answer := sent 2 (BitVec.ofNat 32 num) (openAck o num nonce)
  d.stores = [] →
  (∀ k, comes → right → d.openRefusal o = some k → Becomes (.dcpOpen o) s (u.send (sent 6 0 (leBytes 4 k)))) ∧
  (comes → right → d.openRefusal o = none → o.scope = 0xFF → Becomes (.dcpOpen o) s ((w y).send answer)) ∧
  (∀ (p : PartId), comes → right → d.openRefusal o = none → o.scope.toNat = p.val →
    let ring := BitVec.ofNat 18 o.ring.toNat
    Becomes (.dcpOpen o) s ((((w { y with scope := .partition p, ring := ring }).setRf ring.toNat RF.session num).setRf
      ring.toNat RF.nextSeq 0).send answer)) ∧
  (comes → ¬ right → Becomes (.dcpOpen o) s d.unheard) ∧
  (¬ comes → Becomes (.dcpOpen o) s d) ∧
  (d.openRefusal o = none → o.scope = 0xFF ∨ ∃ p : PartId, o.scope.toNat = p.val) ∧
  (tFind n.toNat d.sessions = some x → x.lastAt + 1000000000 * d.fld F.HOST_DCP_IDLE ≤ d.now →
    Becomes (.sessionIdleExpiry n) s (d.closeSession n.toNat)) ∧
  (tFind n.toNat d.sessions = some x → Becomes (.heldRequestExpiry n) s
    (d.setSession n.toNat { x with held := x.held.filter fun e => decide (d.now < e.2.at_ + 100000000) })) ∧
  (tFind n.toNat d.sessions = some x → tFind r.toNat x.subs = some c → d.ringCounts r.toNat ≠ c → d.portOn = true →
    (∀ t, tFind r.toNat x.heard = some t → t + 1000 * d.fld F.HOST_DCP_NOTIFY_GAP ≤ d.now) →
    Becomes (.notifySend n r) s ((d.setSession n.toNat { x with
      subs := tPut r.toNat (d.ringCounts r.toNat) x.subs, heard := tPut r.toNat d.now x.heard }).notify
      n.toNat (leBytes 4 r.toNat ++ leBytes 8 (d.ringCounts r.toNat)))) ∧
  (∀ t, tFind n.toNat d.sessions = some x → tFind r.toNat x.heard = some t → d.now < t + 1000 * d.fld F.HOST_DCP_NOTIFY_GAP →
    Becomes (.notifySend n r) s d)

/-- RDMA WRITE and SEND, of one packet or of several, and RDMA READ in order are served or answered with their error
or with receiver-not-ready, and a packet out of order is acknowledged again or refused; a response feeds the shard
that loads, a receiver-not-ready answer and a timeout ask again or end in error; CNPs, decay, increase and pause act
on the rate of a queue pair. (R364, R365, R366, R368, R278, R281) -/
def Obligations.RdmaActs : Prop :=
  (∀ (s : State) (p : RocePacket) (r : Nat),
   let d := s.dev
   let n := p.data.length
   let psn := p.psn.toNat
   let e := d.countFrame false n
   let ends := p.place = .only ∨ p.place = .last
   let x := e.writeMsg r p
   let fits := e.packetFits r false p = true ∧ (ends → n = x.left) ∧ (¬ ends → n < x.left)
   let may := e.rdmaOk r x.rkey x.addr (checkedBytes p x) true
   let k := max 1 ((p.length.toNat + e.mtu r - 1) / e.mtu r)
   let reads := readPieces s.mem r psn p.va.toNat (e.mtu r) p.length.toNat (List.range k)
   let q := e.rf r RF.recvRing
   let y := e.sendMsg r p
   let takes := e.packetFits r true p = true ∧ e.rf r RF.recvEn = 1 ∧ e.rf q RF.kind = 1 ∧ e.rf q RF.owner = e.rf r RF.owner ∧
     e.rf q RF.pHost = 1 ∧ y.bytes.length ≤ e.slotCapacity q ∧ y.bytes ≠ []
   let room := e.ringRoom q = true ∧ e.rf q RF.error ≠ 1
   let slot := e.slotAddr q (e.rf q RF.produced)
   let ahead := (psn + 2 ^ 24 - e.rf r RF.recvPsn) % 2 ^ 24
   let next := fun (u : Dev) => u.setRf r RF.recvPsn (psnAdd (u.rf r RF.recvPsn) 1)
   let again := ((e.setQp r { e.qp r with msg := none }).setRf r RF.recvPsn y.psn).sendRoce r 6 y.psn []
   d.stores = [] → d.hostOn = true → d.frameTaken .host p.source = true → d.memoryDown = false → d.qpOf p.qpn.toNat = some r →
   (d.rf r RF.qstate = 2 ∨ d.rf r RF.qstate = 3) → p.ce = false →
   (ahead = 0 →
     (¬ fits → After (.rdmaWrite p) s (qpNak r 1 psn e)) ∧
     (fits → may = false → After (.rdmaWrite p) s (qpNak r 2 psn e)) ∧
     (fits → may = true → e.badWrite x.addr n = true →
       After (.rdmaWrite p) s (raiseCut s.mem x.addr n (some (partOf (e.rf r RF.owner))) (qpNak r 3 psn e))) ∧
     (fits → may = true → e.badWrite x.addr n = false → ends →
       let u := accumulate s.mem x.addr n ((e.store x.addr p.data).countStk true x.addr n)
       After (.rdmaWrite p) s ((next (u.setQp r { u.qp r with msg := none })).sendRoce r 1 psn [])) ∧
     (fits → may = true → e.badWrite x.addr n = false → ¬ ends →
       let u := accumulate s.mem x.addr n ((e.store x.addr p.data).countStk true x.addr n)
       After (.rdmaWrite p) s ((next (u.setQp r { u.qp r with
         msg := some { x with addr := x.addr + n, left := x.left - n } })).sendRoce r 1 psn [])) ∧
     ((e.qp r).msg = none → e.rdmaOk r p.rkey.toNat p.va.toNat p.length.toNat false = true →
       After (.rdmaRead p) s (reads (e.setRf r RF.recvPsn (psnAdd (e.rf r RF.recvPsn) k)))) ∧
     ((e.qp r).msg = none → e.rdmaOk r p.rkey.toNat p.va.toNat p.length.toNat false = false → After (.rdmaRead p) s (qpNak r 2 psn e)) ∧
     ((e.qp r).msg ≠ none → After (.rdmaRead p) s (qpNak r 1 psn e)) ∧
     (¬ takes → After (.send p) s (qpNak r 1 psn e)) ∧
     (takes → ¬ room → After (.send p) s again) ∧
     (takes → room → ¬ ends → After (.send p) s (next (e.setQp r { e.qp r with msg := some y }))) ∧
     (takes → room → ends → e.bufferOk q = true → e.badWrite slot (64 + y.bytes.length) = false →
       let u := (e.produce q (e.turnOf (partOf (e.rf q RF.owner))) y.bytes).countStk true slot (64 + y.bytes.length)
       After (.send p) s ((next (u.setQp r { u.qp r with msg := none })).sendRoce r 1 psn [])) ∧
     (takes → room → ends → e.bufferOk q = true → e.badWrite slot (64 + y.bytes.length) = true →
       After (.send p) s (raiseCut s.mem slot (64 + y.bytes.length) (some (partOf (e.rf r RF.owner))) (qpNak r 3 psn e)))) ∧
   (0 < ahead →
     (2 ^ 23 ≤ ahead → After (.rdmaWrite p) s (e.sendRoce r 1 psn []) ∧ After (.send p) s (e.sendRoce r 1 psn [])) ∧
     (2 ^ 23 ≤ ahead → (e.qp r).msg = none → e.rdmaOk r p.rkey.toNat p.va.toNat p.length.toNat false = true →
       After (.rdmaRead p) s (reads e)) ∧
     (ahead < 2 ^ 23 → ∀ i ∈ [Instr.rdmaWrite p, .rdmaRead p, .send p], After i s (e.sendRoce r 2 (e.rf r RF.recvPsn) [0])))) ∧
  (∀ (s : State) (x : RoceResponse) (r : Nat) (rd : QpRead) (q : RingId) (i : Nat) (l : GenLoad) (h : Shard),
   let d := s.dev
   let e := d.countFrame false x.data.length
   let want := min extentSize (h.count * extentSize - rd.off)
   let got := rd.got + x.data.length
   let ask := fun (r : Nat) (o : QpRead) (u : Dev) =>
     let v := u.sendRoce r 4 (psnAdd (u.rf r RF.sendPsn) (o.got / u.mtu r)) (beBytes 8 (h.remote + o.off + o.got) ++
       beBytes 4 h.rkey ++ beBytes 4 (min extentSize (h.count * extentSize - o.off) - o.got))
     v.setQp r { v.qp r with read := some { o with at_ := v.now } }
   let comes := d.hostOn = true ∧ d.frameTaken .host x.source = true ∧ d.qpOf x.qpn.toNat = some r ∧ (d.qp r).read = some rd
   d.stores = [] →
   (comes → x.answer = .nak → After (.readResponse x) s (qpError r e)) ∧
   (comes → x.answer = .rnr → e.rf r RF.rnrRetry ≠ 7 → e.rf r RF.rnrRetry ≤ rd.rnr → After (.readResponse x) s (qpError r e)) ∧
   (comes → x.answer = .rnr → (e.rf r RF.rnrRetry = 7 ∨ rd.rnr < e.rf r RF.rnrRetry) → e.readShard rd.part rd.shard = some (i, l, h) →
     After (.readResponse x) s (ask r { rd with rnr := rd.rnr + 1 } e)) ∧
   (comes → x.answer = .data → x.psn.toNat ≠ psnAdd (e.rf r RF.sendPsn) (rd.got / e.mtu r) → After (.readResponse x) s e) ∧
   (comes → x.answer = .data → x.psn.toNat = psnAdd (e.rf r RF.sendPsn) (rd.got / e.mtu r) →
     e.readShard rd.part rd.shard = some (i, l, h) → (x.data.length ≠ min (e.mtu r) (want - rd.got) ∨ x.last ≠ decide (got = want)) →
     After (.readResponse x) s (qpError r e)) ∧
   (comes → x.answer = .data → x.psn.toNat = psnAdd (e.rf r RF.sendPsn) (rd.got / e.mtu r) →
     e.readShard rd.part rd.shard = some (i, l, h) → x.data.length = min (e.mtu r) (want - rd.got) → x.last = decide (got = want) →
     got < want →
     After (.readResponse x) s (shardArrives s.mem rd.part i l h (rd.off + rd.got) x.data
       (e.setQp r { e.qp r with read := some { rd with got := got, at_ := e.now, tries := 0, rnr := 0 } }))) ∧
   ((d.qp q.toNat).read = some rd → d.hostOn = true → rd.at_ + 4096 * 2 ^ d.rf q.toNat RF.ackTimeout ≤ d.now →
     d.rf q.toNat RF.retryCnt ≤ rd.tries → After (.ackTimeout q) s (qpError q.toNat d)) ∧
   ((d.qp q.toNat).read = some rd → d.hostOn = true → rd.at_ + 4096 * 2 ^ d.rf q.toNat RF.ackTimeout ≤ d.now →
     rd.tries < d.rf q.toNat RF.retryCnt → d.readShard rd.part rd.shard = some (i, l, h) →
     After (.ackTimeout q) s (ask q.toNat { rd with tries := rd.tries + 1 } d))) ∧
  (∀ (s : State) (q : RingId) (prio : BitVec 3) (on : Bool),
   let d := s.dev
   let r := q.toNat
   let line := if d.fld F.HOST_STATUS_SPEED = 1 then 8000 else 16000
   let rate := d.rf r RF.rate
   let g := d.fld F.HOST_CC_G
   let lower := fun (x : Nat) => max (d.fld F.HOST_CC_MIN_RATE) (min x line)
   d.stores = [] → d.hostOn = true →
   (d.rf r RF.kind = 3 →
     let u := ((d.countFrame false 0).count F.HOST_ERR_CNP_RX 1).setQp r
       { d.qp r with target := rate, cnpAt := d.now, decayAt := d.now, raiseAt := d.now }
     Becomes (.cnpReceive q) s ((u.setRf r RF.rate (u.clampRate (rate - rate * u.rf r RF.alpha / 131072))).setRf r RF.alpha
       (min 65535 (u.rf r RF.alpha * (256 - u.fld F.HOST_CC_G) / 256 + 256 * u.fld F.HOST_CC_G)))) ∧
   (d.rf r RF.kind = 3 → (d.qp r).decayAt + 55000 ≤ d.now →
     let u := d.setRf r RF.alpha (d.rf r RF.alpha * (256 - g) / 256)
     Becomes (.alphaDecay q) s (u.setQp r { d.qp r with decayAt := d.now })) ∧
   (d.rf r RF.kind = 3 → (d.qp r).raiseAt + 1000 * d.fld F.HOST_CC_T_INC ≤ d.now →
     let u := d.setRf r RF.rate (lower ((rate + (d.qp r).target) / 2))
     Becomes (.rateIncrease q) s (u.setQp r { d.qp r with raiseAt := d.now })) ∧
   (d.flag F.HOST_NET_PFC_EN = true → prio.toNat = d.fld F.HOST_NET_PFC_PRIO →
     Becomes (.pauseFrame prio on) s { d.countFrame false 0 with paused := on }) ∧
   (prio.toNat ≠ d.fld F.HOST_NET_PFC_PRIO → Becomes (.pauseFrame prio on) s d))

/-- Neighbour requests are answered for the address that they ask for when it is set and the frame is of the VLAN; an
IEEE 1588 message of the domain sets the offset and corrects the time base, and 10 s without one set HOLDOVER; link,
cage and management link follow their events. (R350, R367, R471, R492, R493) -/
def Obligations.HostPortLinks : Prop :=
  ∀ (s : State) (k : NeighbourFrame) (x : PtpMessage) (n : Fin 2) (up : Bool),
  let d := s.dev
  let v4 := d.fld F.HOST_IP4_ADDR
  let v6 := d.fld F.HOST_IP6_LO_ADDR + 2 ^ 64 * d.fld F.HOST_IP6_HI_ADDR
  let own := match k.kind with
    | .arp => v4 ≠ 0 ∧ k.asked.toNat = 0xFFFF * 2 ^ 32 + v4
    | .icmpEcho => v4 ≠ 0 ∧ k.asked.toNat = 0xFFFF * 2 ^ 32 + v4
    | _ => v6 ≠ 0 ∧ k.asked.toNat = v6
  d.stores = [] →
  (d.portOn = true → d.flag F.HOST_STATUS_LINK = true → d.frameTaken .host k.source = true → own →
    Becomes (.neighbourRequest k) s (((d.countFrame false 0).countFrame true 0).send (.neighbour k.kind k.source (d.frameTag .host)))) ∧
  (¬ own → Becomes (.neighbourRequest k) s d) ∧
  (d.frameTaken .host k.source = false → Becomes (.neighbourRequest k) s d) ∧
  (d.portOn = true → d.flag F.HOST_STATUS_LINK = true → x.sync = true → x.domain.toNat = d.fld F.HOST_PTP_DOMAIN →
    let e := ((d.setFld F.HOST_PTP_HOLDOVER 0).setFld F.HOST_PTP_OFFSET (offset32 x.offset)).rootTime false
    let f := if e.flag F.FAB_TIME_SYNC_ROOT then e.correctTime (-x.offset) else e
    Becomes (.ptpMessage x) s { f.countFrame false 0 with ptpAt := f.now }) ∧
  (d.portOn = true → d.flag F.HOST_PTP_HOLDOVER = false → d.ptpAt + 10000000000 ≤ d.now →
    Becomes .ptpHoldover s ((d.setFld F.HOST_PTP_HOLDOVER 1).rootTime true)) ∧
  (d.portOn = true → d.flag F.HOST_CTL_EN = true → d.power.cagePresent = true →
    Becomes .hostLinkUp s ((d.setFld F.HOST_STATUS_LINK 1).setFld F.HOST_STATUS_SPEED (d.fld F.HOST_CTL_SPEED))) ∧
  (d.power.cagePresent = false → Becomes .hostLinkUp s d) ∧
  (d.portOn = true → Becomes .hostLinkDown s (d.setFld F.HOST_STATUS_LINK 0)) ∧
  Becomes .cageInsert s (d.setPower { d.power with cagePresent := true }) ∧
  Becomes .cageRemove s (hostLinkDown (d.setPower { d.power with cagePresent := false })) ∧
  Becomes (.managementLinkChange n up) s (d.setFld F.HGU_MGT_STATUS_LINK
    (b2n (up && d.power.auxOn && d.power.phyRstN && d.flag F.HGU_MGT_CFG_EN 0 n.val)) 0 n.val)

/-- A set point change starts a switch of the other PLL, is deferred while droop blocks an increase, turns or ends;
PLL_SETTLED switches or holds; DEFERRED_SWITCH follows when droop has cleared; DROOP_TRIP and DROOP_RELEASE set and
clear the mark. (R374, R375, R376, R378) -/
def Obligations.ClocksFollowSetPoints : Prop :=
  ∀ (s : State) (k : DieId) (c : CoreId) (g t : Nat),
  let d := s.dev
  let x := d.clock k.val
  let cur := d.fld F.CLK_STATUS_CURRENT k.val
  let want := (d.target k.val).1
  let start := d.setClock k.val { x with change := some (want, d.now + 20000), held := false, deferred := false }
  let u := d.setClock k.val { x with change := none, held := false, deferred := false }
  let switched := ((u.setFld F.CLK_STATUS_CURRENT g k.val).setFld F.CLK_STATUS_PLL (1 - u.fld F.CLK_STATUS_PLL k.val) k.val).count
    F.CLK_CHANGES_CHANGES 1 k.val
  d.stores = [] → d.controllerOn = true →
  (x.change = none → want = cur → Becomes (.setPointChange k) s (d.setClock k.val { x with deferred := false })) ∧
  (x.change = none → want < cur → Becomes (.setPointChange k) s start) ∧
  (x.change = none → cur < want → d.droopBlocks k.val = false → Becomes (.setPointChange k) s start) ∧
  (x.change = none → cur < want → d.droopBlocks k.val = true → x.deferred = false →
    Becomes (.setPointChange k) s ((d.setClock k.val { x with deferred := true }).count F.CLK_CHANGES_DEFERRED 1 k.val)) ∧
  (x.change = some (g, t) → want = g → Becomes (.setPointChange k) s d) ∧
  (x.change = some (g, t) → g ≤ cur → want < cur → want ≠ g → Becomes (.setPointChange k) s start) ∧
  (x.change = some (g, t) → cur < g → want ≠ g → want ≠ cur → Becomes (.setPointChange k) s start) ∧
  (x.change = some (g, t) → cur < g → want = cur → Becomes (.setPointChange k) s (d.setClock k.val { x with change := none, held := false })) ∧
  (x.change = some (g, t) → t ≤ d.now → x.held = false → g ≤ cur ∨ d.droopBlocks k.val = false → Becomes (.pllSettled k) s switched) ∧
  (x.change = some (g, t) → t ≤ d.now → x.held = false → cur < g → d.droopBlocks k.val = true →
    Becomes (.pllSettled k) s ((d.setClock k.val { x with held := true }).count F.CLK_CHANGES_DEFERRED 1 k.val)) ∧
  (x.change = some (g, t) → x.held = true → d.droopBlocks k.val = false → Becomes (.deferredSwitch k) s switched) ∧
  Becomes (.droopTrip c) s ((d.setFld F.CLK_STATUS_DROOP 1 (dieOf c)).count F.CLK_DROOP_EVENTS 1 (dieOf c)) ∧
  (d.flag F.CLK_STATUS_DROOP k.val = true → Becomes (.droopRelease k) s
    ((d.setFld F.CLK_STATUS_DROOP 0 k.val).setClock k.val { x with clearFrom := some x.cycles }))

/-- A sample of the main input sets its stamps and its low mark, and switches the module off after 20 us out of range;
a cap evaluation cuts the classes from the lowest or raises one, marks OVER, and after 10 ms at the floor CAP_UNMET
raises its source; estimates are collected and reconciled with what is measured. (R372, R373, R379, R380, R381, R382,
R392, R393, R394) -/
def Obligations.InputCapsAndEnergy : Prop :=
  (∀ (s : State) (mv w : BitVec 16) (t : Nat),
   let d := s.dev
   let v := mv.toNat
   let ok := decide (40000 ≤ v) && decide (v ≤ 58000)
   let since := fun (c : Bool) (o : Option Nat) => if c then some (o.getD d.now) else none
   let e := d.setPower { d.power with
     mainMv := v, okSince := since ok d.power.okSince, lowSince := since (decide (v < 36000)) d.power.lowSince
     highSince := since (decide (60000 < v)) d.power.highSince }
   let f := if ok then e else e.setFld F.HGU_STATUS_MAIN_PRESENT 0
   let h := (f.setFld F.PWR_INPUT_MAIN_MV v).setFld F.PWR_STATUS_INPUT_LOW (b2n (decide (36000 ≤ v) && decide (v < 40000)))
   let excess := d.excess w.toNat
   let a := d.takePower w.toNat
   let b := if 0 < excess then (a.classOrder.reverse.foldl (fun s c => cutClass c 128 s.2 s.1) (a, excess)).1
     else raiseOne (-excess) a.classOrder a
   d.stores = [] →
   (d.power.auxOn = true → d.power.phase = .asleep → Becomes (.mainInputSample mv) s f) ∧
   (d.power.auxOn = true → d.power.phase ≠ .asleep → 36000 ≤ v → v ≤ 60000 → Becomes (.mainInputSample mv) s h) ∧
   (d.power.auxOn = true → d.power.phase ≠ .asleep → v < 36000 → d.power.lowSince = some t → t + 20000 ≤ d.now →
     Becomes (.mainInputSample mv) s h.mainOff) ∧
   (d.power.auxOn = true → d.power.phase ≠ .asleep → 60000 < v → d.power.highSince = some t → t + 20000 ≤ d.now →
     Becomes (.mainInputSample mv) s h.mainOff) ∧
   (d.controllerOn = true → 0 < excess → b.allFloor = true → Becomes (.capEvaluation w) s
     ((b.setFloor (some (b.floorSince.getD b.now))).setFld F.PWR_STATUS_OVER (b2n b.anyCut))) ∧
   (d.controllerOn = true → (excess ≤ 0 ∨ b.allFloor = false) → Becomes (.capEvaluation w) s
     ((b.setFloor none).setFld F.PWR_STATUS_OVER (b2n b.anyCut))) ∧
   (d.controllerOn = true → d.floorSince = some t → t + 10000000 ≤ d.now →
     After .capUnmet s (raiseOwn s.mem 2952 none none (d.setFld F.PWR_STATUS_UNMET 1)))) ∧
  (∀ (s : State) (charges : List (BitVec 6 × Account × BitVec 64)) (measured : List (BitVec 32)) (n : BitVec 32),
   let d := s.dev
   let e := ((measured.take 14).zipIdx).foldl (fun d x => reconcileRail x.2 x.1.toNat d) d
   d.stores = [] → d.controllerOn = true →
   Becomes (.energyEstimate charges) s { d with
     charges := d.charges ++ (charges.filter fun c => decide (c.1.toNat < 14)).map fun c => ⟨c.1.toNat, c.2.1, c.2.2.toNat⟩ } ∧
   (measured[14]? = some n → Becomes (.energyReconcile measured) s { e.charge .device n.toNat with charges := [] }) ∧
   (measured.length ≤ 14 → Becomes (.energyReconcile measured) s { e with charges := [] }))

/-- A sample throttles or releases each die with its hysteresis and raises the thermal source at 105 degrees, and 100
ms of it turn the rails off; a throttled job sends pace notices, repeats them, and sends a release once calm; a notice
that is newer is taken and expires after 5 ms. (R377, R383, R385, R386, R387, R388, R391) -/
def Obligations.ThermalsAndPaces : Prop :=
  (∀ (s : State) (temps : List (Option (BitVec 8))) (n : Nat × Nat),
   let d := s.dev
   let a := d.takeTemps temps
   let was := a.fld F.THM_STATUS_HOT
   let b := [0, 1, 2, 3].foldl (fun d k => thermalDie (bitAt was k) k d) a
   d.stores = [] → d.controllerOn = true →
   (b.hottest 0 144 < 105 → let e := opticsHot s.mem b.showTemps
     e.hottest 144 20 < 105 → After (.thermalSample temps) s e) ∧
   (b.hottest 0 144 < 105 → let e := opticsHot s.mem b.showTemps
     105 ≤ e.hottest 144 20 → After (.thermalSample temps) s (raiseOwn s.mem 2954 none none e)) ∧
   (105 ≤ b.hottest 0 144 → After (.thermalSample temps) s (raiseOwn s.mem 2954 none none (opticsHot s.mem b.thermalLimit.showTemps))) ∧
   (n ∈ d.hotSince → n.2 + 100000000 ≤ d.now → Becomes .thermalTrip s (d.setFld F.THM_STATUS_TRIPPED 1).mainOff) ∧
   ((∀ e ∈ d.hotSince, d.now < e.2 + 100000000) → Becomes .thermalTrip s d)) ∧
  (∀ (s : State) (p : PartId) (n : PaceNotice) (dev : DeviceId) (job : BitVec 16) (t : Nat) (r : PaceIn),
   let d := s.dev
   let j := partJob s.mem d p
   let x := tGet {} d.pace j
   let key := n.device.toNat * 2 ^ 16 + n.job.toNat
   let old := dev.toNat * 2 ^ 16 + job.toNat
   let slow := jobThrottled s.mem d j
   d.stores = [] →
   (paces s.mem d p = true → slow = true → x.active = false → Becomes (.paceNoticeSend p) s (sendPace s.mem j false d)) ∧
   (paces s.mem d p = true → slow = true → x.active = true → x.rate ≠ jobRate s.mem d j → x.sentAt + 100000 ≤ d.now →
     Becomes (.paceNoticeSend p) s (sendPace s.mem j false d)) ∧
   (paces s.mem d p = true → slow = true → x.active = true → x.sentAt + 1000000 ≤ d.now →
     Becomes (.paceNoticeRepeat p) s (sendPace s.mem j false d)) ∧
   (paces s.mem d p = true → slow = false → x.active = true → x.calmSince = some t → t + 1000000 ≤ d.now →
     Becomes (.releaseNoticeSend p) s (sendPace s.mem j true d)) ∧
   (paces s.mem d p = false → ∀ i ∈ [Instr.paceNoticeSend p, .paceNoticeRepeat p, .releaseNoticeSend p], Becomes i s d) ∧
   (d.controllerOn = true → d.fabricOn = true → n.device.toNat ∈ paceTable s.mem d n.job.toNat → tFind key d.paceIn = none →
     Becomes (.paceNoticeReceive n) s (updatePace s.mem { d with
       paceIn := tPut key ⟨n.seq.toNat, n.rate.toNat, d.now, !n.release⟩ d.paceIn })) ∧
   (d.controllerOn = true → d.fabricOn = true → n.device.toNat ∈ paceTable s.mem d n.job.toNat → tFind key d.paceIn = some r →
     0 < (n.seq.toNat + 2 ^ 32 - r.seq) % 2 ^ 32 → (n.seq.toNat + 2 ^ 32 - r.seq) % 2 ^ 32 < 2 ^ 31 →
     Becomes (.paceNoticeReceive n) s (updatePace s.mem { d with
       paceIn := tPut key ⟨n.seq.toNat, n.rate.toNat, d.now, !n.release⟩ d.paceIn })) ∧
   (tFind key d.paceIn = some r → 2 ^ 31 ≤ (n.seq.toNat + 2 ^ 32 - r.seq) % 2 ^ 32 → Becomes (.paceNoticeReceive n) s d) ∧
   (tFind old d.paceIn = some r → r.inForce = true → r.at_ + 5000000 ≤ d.now → Becomes (.paceNoticeExpiry dev job) s
     (updatePace s.mem { d with paceIn := tPut old { r with inForce := false } d.paceIn })))

/-- The device reports ready once and repeats it each millisecond; a commit moves the partitions of its turn on, but
for the last turn number, and counts elsewhere; a failure notice stops the job and a replay starts it again from its
entry images with its flows cleared; quiesced is reported once; the end of a job holds its partitions. A message that
is not new changes nothing. (R219, R220, R330, R345, R416, R417, R418, R465) -/
def Obligations.JobsRun : Prop :=
  ∀ (s : State) (j : BitVec 16) (x : BankerMsg) (t : Nat),
  let d := s.dev
  let r := d.job j.toNat
  let parts := jobParts s.mem d j.toNat
  let u := parts.foldl (fun d p => d.publishStrag p r) d
  let worst := parts.foldl (fun n p => max n (u.fld F.PART_STRAG_INDEX p.val)) 0
  let report := (u.modJob j.toNat fun y => { y with readyAt := some u.now }).sendBanker (some u.activeBanker) 0x12 j.toNat
    (jobTurn s.mem u j.toNat) (worst + b2n r.throttled * 2 ^ 32) (b2n (castlingStaged s.mem u j.toNat)) 0
  let job := x.job.toNat
  let n := x.turn.toNat
  d.stores = [] →
  (d.hubOn = true → turnReady s.mem d j.toNat = true → r.readyAt = none → parts ≠ [] → Becomes (.readyReportSend j) s report) ∧
  (d.hubOn = true → r.readyAt = some t → t + 1000000 ≤ d.now → Becomes (.readyRepeat j) s report) ∧
  (turnReady s.mem d j.toNat = false → Becomes (.readyReportSend j) s d) ∧
  (r.readyAt = none → Becomes (.readyRepeat j) s d) ∧
  (d.hubOn = true → r.stopped = true → r.quiesced = false → d.quiet s.mem j.toNat = true → Becomes (.quiesceReportSend j) s
    ((d.modJob j.toNat fun y => { y with quiesced := true }).sendBanker (some d.activeBanker) 0x16 j.toNat
      (jobTurn s.mem d j.toNat) 0 0 0)) ∧
  (r.stopped = false ∨ r.quiesced = true → Becomes (.quiesceReportSend j) s d) ∧
  (d.isNew 0x13 x → let e := d.noted 0x13 x
    let ps := jobParts s.mem e job
    let v := ps.foldl (commitPart s.mem n x.f0.toNat) e
    ((∃ p ∈ ps, e.turnOf p = n) → n + 1 ≠ 2 ^ 48 → After (.commit x) s
      (settleAll s.mem ({ v with jobs := tSet {} job { attemptAt := v.now } v.jobs } : Dev).joinPod)) ∧
    ((∀ p ∈ ps, e.turnOf p ≠ n) ∨ n + 1 = 2 ^ 48 → After (.commit x) s v)) ∧
  (∀ (d : Dev) p k, d.turnOf p ≠ n ∨ n + 1 = 2 ^ 48 → commitPart s.mem n k d p = d.count F.PART_TURN_IGNORED 1 p.val) ∧
  (d.isNew 0x15 x → let e := d.noted 0x15 x
    let ps := (jobParts s.mem e job).filter fun p => decide (e.turnOf p = n)
    let v : Dev := (e.ctxs.filter fun c => ps.contains c.2.part).foldl (fun d c => d.modCtx c.1 Ctx.discard) e
    let w := resetTurnRings s.mem job { v with failHold := (v.failHold ++ ps).dedup }
    (ps = [] → After (.failureNotice x) s e) ∧
    (ps ≠ [] → After (.failureNotice x) s ((ps.foldl (fun d p => Dev.dropTurn p (d.postEvent p 4 0 n)) w).modJob job fun y => { y with
      failed := true, stopped := true, quiesced := false, readyAt := none, unacked := [] }))) ∧
  (d.isNew 0x17 x → let e := d.noted 0x17 x
    let ps := (jobParts s.mem e job).filter fun p => decide (e.turnOf p = n)
    (ps = [] ∨ (e.job job).stopped = false → After (.replay x) s e) ∧
    (ps ≠ [] → (e.job job).stopped = true →
      let v := ps.foldl (fun d p => beginTurn s.mem p (restartPart s.mem p n d)) ((resetTurnRings s.mem job e).clearFlows job)
      let cs := ps.flatMap v.ownedCores
      After (.replay x) s (settleAll s.mem (({ v with
        failHold := v.failHold.filter fun p => !ps.contains p
        idleSpan := v.idleSpan.filter fun y => !cs.any fun c => decide (c.val = y.1)
        idleMark := v.idleMark.filter fun y => !cs.any fun c => decide (c.val = y.1)
        stillSince := v.stillSince.filter fun y => !ps.any fun p => decide (p.val = y.1)
        jobs := tSet {} job { attemptAt := v.now } v.jobs } : Dev).count F.FLT_COUNTS_REPLAYS 1)))) ∧
  (d.isNew 0x1B x → let e := d.noted 0x1B x
    let ps := jobParts s.mem e job
    let v := ps.foldl (fun d p => Dev.dropTurn p ((d.setFld F.PART_STATUS_STATE 3 p.val).postEvent p 4 0 (d.turnOf p))) e
    After (.jobEnd x) s { v with plainHold := (v.plainHold ++ ps).dedup, jobs := tSet {} job { attemptAt := v.now } v.jobs }) ∧
  (∀ i k, (i, k) ∈ [(Instr.commit x, 0x13), (.failureNotice x, 0x15), (.replay x, 0x17), (.jobEnd x, 0x1B)] →
    ¬ d.isNew k x → After i s d)

/-- Ready reports are collected and the last one decides the turn, or ends the job at the last turn number; the
standby records decisions and its acknowledgement releases them; limits and failure reports declare a failure, which
ends a job of a pod of one unless fencing was cured; quiesced devices bring about the replay, and those that do not
answer are failed; a spare takes a failed device's place, and every device that the failed one had to do with sends it
what it is to hold; partner reports are kept. (R28, R220, R221, R312, R415, R416, R421, R425, R465) -/
def Obligations.BankersDecide : Prop :=
  ∀ (s : State) (x : BankerMsg) (j : BitVec 16) (a b : DeviceId) (k : Decision) (t : Nat),
  let d := s.dev
  let n := x.turn.toNat
  let job := x.job.toNat
  let dev := x.device.toNat
  let y := d.bankJob j.toNat
  d.stores = [] →
  (d.isNew 0x12 x → let e := d.noted 0x12 x
    let z := e.bankJob job
    let has := z.decision.bind fun v => if v.turn = n then some v else none
    (e.banks = false → Becomes (.ready x) s e) ∧
    (e.banks = true → has = none → n < z.turn → Becomes (.ready x) s e) ∧
    (e.banks = true → has = none → z.turn ≤ n →
      let z0 : BankJob := if z.turn < n then { z with turn := n, ready := [], firstAt := none, since := e.now, attempts := 0 } else z
      let z' := { z0 with ready := tPut dev (x.f0.toNat, x.f1.toNat) z0.ready, firstAt := some (z0.firstAt.getD e.now) }
      let u := e.setBankJob job z'
      ((∃ v ∈ u.jobDevices job, tFind v z'.ready = none) → Becomes (.ready x) s u) ∧
      ((∀ v ∈ u.jobDevices job, tFind v z'.ready ≠ none) → n + 1 ≠ 2 ^ 48 → Becomes (.ready x) s
        (u.decide_ job ⟨n, true, b2n (z'.ready.all fun r => decide (r.2.2 = 1)), none⟩)) ∧
      ((∀ v ∈ u.jobDevices job, tFind v z'.ready ≠ none) → n + 1 = 2 ^ 48 → Becomes (.ready x) s (u.endJob job))) ∧
    (e.banks = true → z.decision = some k → k.turn = n → k.awaits ≠ none → Becomes (.ready x) s e) ∧
    (e.banks = true → z.decision = some k → k.turn = n → k.awaits = none → k.commit = true →
      Becomes (.ready x) s (e.sendBanker (some x.device) 0x13 job n k.castle 0 0)) ∧
    (e.banks = true → z.decision = some k → k.turn = n → k.awaits = none → k.commit = false → z.failedAt ≠ none →
      Becomes (.ready x) s (e.sendBanker (some x.device) 0x15 job n 0 0 0))) ∧
  (d.isNew 0x19 x → let e := d.noted 0x19 x
    let known := (e.role = 3 ∨ e.role = 2) ∧ e.fld F.BNK_STATUS_ACTIVE = dev
    (¬ known → Becomes (.decision x) s (e.sendBanker (some x.device) 0x1A job n x.seq.toNat 1 0)) ∧
    (known → let u := (e.setRole 3).setStandby (some e.deviceId)
      Becomes (.decision x) s (({ u with bank := { u.bank with
        heardAt := u.now, decisions := tPut job ⟨n, decide (x.f0 = 1), x.f1.toNat, none⟩ u.bank.decisions } } : Dev).sendBanker
          (some x.device) 0x1A job n x.seq.toNat 0 0))) ∧
  (d.isNew 0x1A x → let e := d.noted 0x1A x
    (e.role = 1 → x.f1 = 0 → Becomes (.ack x) s (e.follow dev (max x.epoch.toNat (e.fld F.BNK_EPOCH_EPOCH)))) ∧
    (e.role = 1 → x.f1 ≠ 0 → Becomes (.ack x) s e) ∧
    (∀ i z, e.role = 4 → x.f1 = 0 → e.flag F.BNK_STATUS_STANDBY_VALID = true → e.fld F.BNK_STATUS_STANDBY = dev →
      e.bank.jobs.find? (fun r => decide (r.2.decision.bind (fun y => y.awaits) = some x.f0.toNat)) = some (i, z) →
      z.decision = some k → Becomes (.ack x) s (e.releaseDecision i k)) ∧
    (e.role = 3 → e.fld F.BNK_STATUS_ACTIVE = dev → Becomes (.ack x) s
      { e with bank := { e.bank with heardAt := e.now, lostAt := none } })) ∧
  (y.firstAt = some t → d.hubOn = true → d.banks = true → y.waits = false →
    (t + 1000000 * d.fld F.BNK_READY_LIMIT_MS ≤ d.now → Becomes (.readyLimitExpiry j) s (d.declareFailure j.toNat)) ∧
    (d.now < t + 1000000 * d.fld F.BNK_READY_LIMIT_MS → Becomes (.readyLimitExpiry j) s d)) ∧
  (d.hubOn = true → d.banks = true → tFind j.toNat d.bank.jobs ≠ none → y.waits = false → y.failedAt = none →
    (y.since + 1000000 * max 1 (d.fld F.BNK_TURN_LIMIT_MS) ≤ d.now → Becomes (.turnLimitExpiry j) s (d.declareFailure j.toNat)) ∧
    (d.now < y.since + 1000000 * max 1 (d.fld F.BNK_TURN_LIMIT_MS) → Becomes (.turnLimitExpiry j) s d)) ∧
  (∀ (d : Dev) i, d.podOfOne = true → d.declareFailure i = d.endJob i) ∧
  (∀ (d : Dev) i cured, (d.podOfOne = false ∨ cured = true) → (d.bankJob i).failedAt = none → (d.bankJob i).decision = none →
    d.declareFailure i cured = d.decide_ i ⟨(d.bankJob i).turn, false, 0, none⟩) ∧
  (∀ (d : Dev) i v, (d.role ≠ 4 ∨ d.flag F.BNK_STATUS_STANDBY_VALID = false) → d.decide_ i v = d.sendDecision i v) ∧
  (∀ (d : Dev) i v, d.role = 4 → d.flag F.BNK_STATUS_STANDBY_VALID = true →
    let u := d.sendBanker (some (BitVec.ofNat 20 (d.fld F.BNK_STATUS_STANDBY))) 0x19 i v.turn (if v.commit then 1 else 2) v.castle 0
    d.decide_ i v = u.setBankJob i { u.bankJob i with decision := some { v with awaits := some (tGet 0 d.bankSeq 0x19) } }) ∧
  (d.isNew 0x14 x → let e := d.noted 0x14 x
    let u := if 5 ≤ x.f0.toNat ∧ x.f0.toNat ≤ 7 then e.failMember dev else e
    let z := u.bankJob job
    let z0 : BankJob := if z.turn < n then { z with turn := n, ready := [], firstAt := none, since := u.now, attempts := 0 } else z
    let v := u.setBankJob job z0
    let cured := fencingCured s.mem x v
    (e.banks = false → Becomes (.failureReport x) s e) ∧
    (e.banks = true → z0.decision = none → Becomes (.failureReport x) s (v.declareFailure job cured)) ∧
    (e.banks = true → z0.decision = some k → k.commit = true → k.turn = n → k.awaits = none →
      Becomes (.failureReport x) s ((v.sendJob 0x13 job n k.castle).declareFailure job cured)) ∧
    (e.banks = true → z0.decision = some k → (k.commit = false ∨ k.turn ≠ n ∨ k.awaits ≠ none) →
      Becomes (.failureReport x) s (v.declareFailure job cured))) ∧
  (d.isNew 0x16 x → let e := d.noted 0x16 x
    let z := e.bankJob job
    (e.banks = true → z.failedAt ≠ none → z.turn = n → Becomes (.quiesced x) s
      ((e.setBankJob job { z with quiesced := z.quiesced ++ [dev] }).checkQuiet job)) ∧
    (z.failedAt = none ∨ z.turn ≠ n → Becomes (.quiesced x) s e)) ∧
  (y.failedAt = some t → d.hubOn = true → d.banks = true →
    (t + 1000000000 ≤ d.now → Becomes (.quiesceTimeout j) s
      (((d.jobDevices j.toNat).filter fun v => !y.quiesced.contains v).foldl Dev.failMember d)) ∧
    (d.now < t + 1000000000 → Becomes (.quiesceTimeout j) s d)) ∧
  (d.hubOn = true → d.role = 4 → a.toNat ∈ d.jobDevices j.toNat → (d.member (podIndex a.toNat)).state = 2 →
    (d.member (podIndex b.toNat)).spare = true → (d.member (podIndex b.toNat)).state = 1 → tFind j.toNat d.bank.jobs ≠ none →
    let e := d.declareFailure j.toNat
    let z := e.bankJob j.toNat
    let u := restoreTo s.mem j.toNat a.toNat b.toNat (e.setBankJob j.toNat { z with quiesced := z.quiesced ++ [b.toNat] })
    (tFind j.toNat e.bank.jobs = none → After (.spareSubstitution j a b) s e) ∧
    (tFind j.toNat e.bank.jobs ≠ none → After (.spareSubstitution j a b) s
      ((u.modMember (podIndex b.toNat) fun r => { r with state := 3 }).checkQuiet j.toNat))) ∧
  (d.hubOn = true → d.role = 4 → d.substitutes j.toNat a.toNat b.toNat = false → After (.spareSubstitution j a b) s d) ∧
  (d.hubOn = true → d.role ≠ 4 → a.toNat ∈ d.jobDevices j.toNat →
    After (.spareSubstitution j a b) s (restoreTo s.mem j.toNat a.toNat b.toNat d)) ∧
  (d.hubOn = true → d.role ≠ 4 → a.toNat ∉ d.jobDevices j.toNat → After (.spareSubstitution j a b) s d) ∧
  (d.isNew 0x18 x → let e := d.noted 0x18 x
    e.banks = true → Becomes (.partner x) s { e with bank := { e.bank with
      reports := tPut (dev * 16 + x.f0.toNat % 16) x.f1.toNat e.bank.reports } }) ∧
  (∀ i c, (i, c) ∈ [(Instr.ready x, 0x12), (.decision x, 0x19), (.ack x, 0x1A), (.failureReport x, 0x14), (.quiesced x, 0x16),
    (.partner x, 0x18)] → ¬ d.isNew c x → Becomes i s d)

/-- Announcements name candidates, a standby and an active banker, which is followed by its epoch and rank; heartbeats
are answered, sent and missed, with the roles that follow. (R466, R467, R468, R421) -/
def Obligations.BankersElected : Prop :=
  ∀ (s : State) (x : BankerMsg) (a : DeviceId) (t : Nat),
  let d := s.dev
  let dev := x.device.toNat
  let who := a.toNat
  let span := 1000000 * d.fld F.BNK_TIMING_ELECT_MS
  let miss := 1000000 * d.fld F.BNK_TIMING_HB_MS * d.fld F.BNK_TIMING_MISS
  d.stores = [] →
  (d.isNew 0x10 x → (d.noted 0x10 x).samePod dev = true →
    let o := d.noted 0x10 x
    let e : Dev := { o with bank := { o.bank with epochHeard := max o.bank.epochHeard x.epoch.toNat } }
    let mine := e.fld F.BNK_EPOCH_EPOCH
    (x.f0.toNat = 1 → Becomes (.announce x) s (e.modMember (podIndex dev) fun y => { y with priority := some x.f1.toNat })) ∧
    (x.f0.toNat = 3 → e.role = 2 → x.epoch.toNat = mine → Becomes (.announce x) s (e.setStandby (some dev))) ∧
    (x.f0.toNat = 3 → e.role ≠ 2 ∨ x.epoch.toNat ≠ mine → Becomes (.announce x) s e) ∧
    (x.f0.toNat = 4 → e.role = 1 ∨ e.role = 5 → Becomes (.announce x) s (e.sendBanker (some x.device) 0x11 0 0 e.role 0 0)) ∧
    (x.f0.toNat = 4 → e.role = 4 → (mine < x.epoch.toNat ∨ (mine = x.epoch.toNat ∧
      outranks (x.f1.toNat, dev) (e.fld F.BNK_CTL_PRIORITY, e.deviceId) = true)) →
      Becomes (.announce x) s (e.follow dev x.epoch.toNat)) ∧
    (x.f0.toNat = 4 → e.role = 2 ∨ e.role = 3 → mine < x.epoch.toNat → Becomes (.announce x) s (e.follow dev x.epoch.toNat)) ∧
    (x.f0.toNat = 4 → e.role = 2 ∨ e.role = 3 → x.epoch.toNat ≤ mine → e.fld F.BNK_STATUS_ACTIVE = dev →
      Becomes (.announce x) s { e with bank := { e.bank with heardAt := e.now } })) ∧
  (d.isNew 0x10 x → (d.noted 0x10 x).samePod dev = false → Becomes (.announce x) s (d.noted 0x10 x)) ∧
  (d.isNew 0x11 x → let e := d.noted 0x11 x
    let admitted := (e.member (podIndex dev)).admitted
    let u := e.modMember (podIndex dev) fun y => { y with
      heardAt := e.now, state := if y.state = 0 ∨ (y.state = 2 ∧ x.f0 = 1) then 1 else y.state }
    (e.samePod dev = false → Becomes (.heartbeat x) s e) ∧
    (e.samePod dev = true → e.role = 4 → admitted = true →
      Becomes (.heartbeat x) s (u.sendBanker (some x.device) 0x1A 0 0 x.seq.toNat 0 0)) ∧
    (e.samePod dev = true → e.role = 4 → admitted = false →
      Becomes (.heartbeat x) s (e.sendBanker (some x.device) 0x1A 0 0 x.seq.toNat 1 0)) ∧
    (e.samePod dev = true → e.role ≠ 4 → e.fld F.BNK_STATUS_ACTIVE = dev →
      Becomes (.heartbeat x) s { e with bank := { e.bank with heardAt := e.now, lostAt := none } }) ∧
    (e.samePod dev = true → e.role ≠ 4 → e.fld F.BNK_STATUS_ACTIVE ≠ dev → Becomes (.heartbeat x) s e)) ∧
  (¬ d.isNew 0x10 x → Becomes (.announce x) s d) ∧
  (¬ d.isNew 0x11 x → Becomes (.heartbeat x) s d) ∧
  (d.hubOn = true → d.role = 1 → d.flag F.BNK_CTL_ELIGIBLE = true → d.bank.saidAt + 100000000 ≤ d.now →
    Becomes .candidateAnnounce s (({ d with bank := { d.bank with saidAt := d.now } } : Dev).sendBanker none 0x10 0 0 1
      (d.fld F.BNK_CTL_PRIORITY) 0)) ∧
  (d.role ≠ 1 ∨ d.flag F.BNK_CTL_ELIGIBLE = false ∨ d.now < d.bank.saidAt + 100000000 → Becomes .candidateAnnounce s d) ∧
  (d.hubOn = true → d.role = 1 → d.bank.electAt + span ≤ d.now → Becomes .electionTimeout s d.rankSelf) ∧
  (d.hubOn = true → d.role = 1 → d.now < d.bank.electAt + span → Becomes .electionTimeout s d) ∧
  (d.hubOn = true → d.role ≠ 1 → d.bank.lostAt = some t → t + span ≤ d.now → Becomes .electionTimeout s d.startElection) ∧
  (d.hubOn = true → d.role ≠ 1 → d.bank.lostAt = none → Becomes .electionTimeout s d) ∧
  (d.hubOn = true → d.bank.beatAt + 1000000 * d.fld F.BNK_TIMING_HB_MS ≤ d.now →
    let u : Dev := { d with bank := { d.bank with beatAt := d.now } }
    (d.role = 2 ∨ d.role = 3 → Becomes .heartbeatSend s (u.sendBanker
      (some (BitVec.ofNat 20 (d.fld F.BNK_STATUS_ACTIVE))) 0x11 0 0 d.role 0 0)) ∧
    (d.role = 4 → d.flag F.BNK_STATUS_STANDBY_VALID = true → Becomes .heartbeatSend s (u.sendBanker
      (some (BitVec.ofNat 20 (d.fld F.BNK_STATUS_STANDBY))) 0x11 0 0 4 0 0)) ∧
    (d.role = 4 → d.flag F.BNK_STATUS_STANDBY_VALID = false → Becomes .heartbeatSend s d)) ∧
  (d.hubOn = true → d.role = 2 → d.fld F.BNK_STATUS_ACTIVE = who → d.bank.heardAt + miss ≤ d.now → d.bank.lostAt = none →
    Becomes (.heartbeatMiss a) s { d with bank := { d.bank with lostAt := some d.now } }) ∧
  (d.hubOn = true → d.role = 3 → d.fld F.BNK_STATUS_ACTIVE = who → d.bank.heardAt + miss ≤ d.now →
    Becomes (.heartbeatMiss a) s d.takeOver) ∧
  (d.hubOn = true → d.role = 4 → d.samePod who = true →
    ((d.member (podIndex who)).state = 1 ∨ (d.member (podIndex who)).state = 3) →
    (d.member (podIndex who)).heardAt + miss ≤ d.now →
    ((d.failMember who).flag F.BNK_STATUS_STANDBY_VALID = false ∨ (d.failMember who).fld F.BNK_STATUS_STANDBY ≠ who) →
    Becomes (.heartbeatMiss a) s (d.failMember who)) ∧
  (d.hubOn = true → d.role = 4 → d.now < (d.member (podIndex who)).heardAt + miss → Becomes (.heartbeatMiss a) s d)

/-- An error, a wire fault, an hourglass timer, a stalemate and an entropy failure raise their source, which with
VALID set only takes OVERFLOW; an uncorrectable line is noted, a line whose transfers fail is kept, and uncorrectable
words of a core end the command that met them; a reset that ends runs its blocks again. The code and a detail that the
spec does not state are free values (log 5). (R159, R224, R240, R400, R401, R402, R406, R408, R409, R410, R432) -/
def Obligations.FaultsRaise : Prop :=
  ∀ (s : State) (src : Fin 4096) (code : BitVec 8) (detail : BitVec 64) (req : Option PartId) (c : CoreId) (u : Fin 3) (p : PartId)
    (r : ResetRun) (cmd : Cmd) (t : Nat),
  let d := s.dev
  let line := detail.toNat % 2 ^ 35
  let stack := 2304 ≤ src.val ∧ src.val < 2560 ∧ line / 2 ^ 30 = (src.val - 2304) / 8
  let all := fun (d : Dev) => pumpAll s.mem (settleAll s.mem d)
  let raises := fun (d : Dev) => Becomes (.faultRaise src code detail req) s
    (all (raiseFault s.mem src.val code.toNat detail.toNat false false req d))
  d.stores = [] →
  (d.power.phase ≠ .asleep →
    (stack → (src.val - 2304) % 8 = 0 → raises ((d.failLine line).noteBad line)) ∧
    (stack → (src.val - 2304) % 8 = 4 → raises { d with ecc := { d.ecc with failing := d.ecc.failing ++ [line] } }) ∧
    (stack → (src.val - 2304) % 8 ≠ 0 → (src.val - 2304) % 8 ≠ 4 → raises d) ∧
    (src.val = 16 * c.val + 3 → raises
      (((d.count F.SPD_ECC_COUNT_UNCORRECTED 1 c.val).modCore c fun x => { x with vec := none }).restartTimer c 1)) ∧
    (src.val = 16 * c.val + 4 → raises
      (((d.count F.ACF_ECC_COUNT_UNCORRECTED 1 c.val).modCore c fun x => { x with drains := x.drains.drop 1 }).restartTimer c 0)) ∧
    (src.val = 16 * c.val + 5 → raises ((d.modCore c Core.dropPass).restartTimer c 0)) ∧
    (src.val < 2304 → src.val % 16 ≠ 3 → src.val % 16 ≠ 4 → src.val % 16 ≠ 5 → raises d) ∧
    (2304 ≤ src.val → ¬ stack → src.val ≠ 2955 → raises d) ∧
    (src.val = 2955 → raises (d.setFld F.JNL_STATUS_SEAL_ERR 1)) ∧
    Becomes (.wireFault src) s (all (raiseFault s.mem src.val ((Config.fresh d.draw.1).toNat % 256)
      (Config.fresh d.draw.2.draw.1).toNat false true none d.draw.2.draw.2))) ∧
  (d.power.phase = .asleep → Becomes (.faultRaise src code detail req) s (pumpAll s.mem d) ∧
    Becomes (.wireFault src) s (pumpAll s.mem d)) ∧
  (∀ (d : Dev) w forced, assigned src.val = true → d.captureEnd ≤ d.now → d.power.phase ≠ .asleep →
    (∀ r ∈ d.power.running, r.domain ≠ 5) → (d.src src.val).valid = true →
    raiseFault s.mem src.val code.toNat detail.toNat forced w req d = (d.setSrc src.val { d.src src.val with
      overflow := true, wire := (d.src src.val).wire || w }).count F.FLT_COUNTS_WIRE_FAULTS (b2n w)) ∧
  (d.power.running = [] → After .resetDone s d) ∧
  (d.power.running.find? (fun x => decide (x.domain ≠ 1)) = some r →
    After .resetDone s (settleAll s.mem ((endReset s.mem r d).endAwaits).endAbandoned)) ∧
  (d.power.running.find? (fun x => decide (x.domain ≠ 1)) = none → d.power.running.head? = some r →
    After .resetDone s (settleAll s.mem ((endReset s.mem r d).endAwaits).endAbandoned)) ∧
  (d.hubOn = true → (d.core c).oldest u.val = some cmd → tFind u.val (d.core c).hang = some t →
    (t + 1000000 * d.fld F.FLT_HANG_LIMIT_MS ≤ d.now → Becomes (.hourglassTimerExpiry c u) s (all (raiseOwn s.mem (16 * c.val + u.val)
      (some (cmd.f CF.tag + cmd.seq.toNat * 2 ^ 16)) none (d.modCore c fun x => { x with hang := tPut u.val d.now x.hang })))) ∧
    (d.now < t + 1000000 * d.fld F.FLT_HANG_LIMIT_MS → Becomes (.hourglassTimerExpiry c u) s (pumpAll s.mem d))) ∧
  (d.hubOn = true → tFind p.val d.staleSince = some t → detectorRuns s.mem d p = true → inStalemate s.mem d p = true →
    t + 1000000 * d.fld F.FLT_STALEMATE_LIMIT_MS ≤ d.now → Becomes (.stalemateDetected p) s (all (raiseOwn s.mem (2880 + p.val) none
      (some p) { d.count F.FLT_STALEMATE_FIRED 1 with staleSince := tPut p.val d.now d.staleSince }))) ∧
  (inStalemate s.mem d p = false → Becomes (.stalemateDetected p) s (pumpAll s.mem d)) ∧
  (d.hubOn = true → Becomes .entropyHealthFail s (pumpAll s.mem (raiseOwn s.mem 2950 none none (d.setFld F.SEC_STATUS_ENTROPY_FAIL 1))))

/-- The trial window ends; the unit samples its sensors and applies its rules, and sends telemetry; the I3C and JTAG
commands act; auxiliary power comes with the unit's fields of the position that a boot would use, and goes; main power
comes and goes; the PHY leaves reset after 10 ms. Without auxiliary power nothing happens. (R9, R448, R455, R457,
R459, R460, R461, R494, R498, R501, R503) -/
def Obligations.ModuleEventsAct : Prop :=
  ∀ (s : State) (readings : List (Option (BitVec 16))) (addr : BitVec 7) (len t : Nat) (b : Bool),
  let d := s.dev
  let span := 1000000 * d.fld F.HGU_TELEM_PERIOD_MS
  let e : Dev := { d with sensors := d.sampleAll readings }
  let evs := (List.range 64).map fun i => (i, e.evalRule i)
  let wake := evs.any fun x => decide (x.2.2.1 = some .activates) && decide (e.ruf x.1 RU.action = 2)
  let f := evs.foldl (fun d x => applyRule x.1 x.2 d) e
  let up := (d.setFld F.HGU_STATUS_MAIN_PRESENT 1).setPower { d.power with firstMain := false }
  let off := (d.setFld F.HGU_STATUS_MAIN_PRESENT 0).setPower { d.power with mainMv := 0, okSince := none }
  let ir := fun (n : Nat) (d : Dev) => d.setPower { d.power with jtagIr := n }
  d.stores = [] →
  (d.hubOn = true → (d.positionIn 3).isSome = true → d.fld F.CFG_DEADLINE_TIME ≤ d.now →
    After .trialExpiry s ((takeBack s.mem d).setFld F.CFG_STATUS_TAKEN_BACK 1)) ∧
  (d.positionIn 3 = none ∨ d.now < d.fld F.CFG_DEADLINE_TIME → After .trialExpiry s d) ∧
  (d.power.auxOn = false → (∀ i ∈ [Instr.hguSample readings, .telemetryNotify, .i3cEntdaa addr, .i3cPrivateRead len, .i3cWake,
    .i3cShutdown, .auxPowerLoss, .mainPresent, .phyResetRelease, .boundaryScan .reset, .boundaryScan .idcode,
    .boundaryScan (.bypass b), .boundaryScan .boundarySample, .boundaryScan (.boundaryShift b)], Becomes i s d) ∧
    Becomes .auxPowerUp s ((d.powered true).loadFlash d.bootingPosition hguFlashWord)) ∧
  (d.power.auxOn = true →
    (wake = false → Becomes (.hguSample readings) s f) ∧
    (wake = true → Becomes (.hguSample readings) s (wakeUp s.mem f)) ∧
    (span ≠ 0 → Becomes .telemetryNotify s ((d.sessions.filter fun x => x.2.telemetry && decide (x.2.lastTelemetry + span ≤ d.now)).foldl
      (fun e x => let g := e.notify x.1 d.telemetry
        { g with sessions := tMod x.2 x.1 (fun y => { y with lastTelemetry := g.now }) g.sessions }) d)) ∧
    (span = 0 → Becomes .telemetryNotify s d) ∧
    Becomes (.i3cEntdaa addr) s (d.setPower { d.power with i3cAddr := some addr }) ∧
    (d.power.i3cAddr ≠ none → Becomes (.i3cPrivateRead len) s
      ((d.send (.i3c (d.hguPage.take len))).setPower { d.power with i3cIbi := false })) ∧
    (d.power.i3cAddr = none → ∀ i ∈ [Instr.i3cPrivateRead len, .i3cWake, .i3cShutdown], Becomes i s d) ∧
    (d.flag F.HGU_CTL_I3C_POWER = false → ∀ i ∈ [Instr.i3cWake, .i3cShutdown], Becomes i s d) ∧
    (d.power.i3cAddr ≠ none → d.flag F.HGU_CTL_I3C_POWER = true →
      (d.power.phase = .asleep → d.shutRule = false → d.flag F.HGU_STATUS_MAIN_PRESENT = true →
        d.flag F.HGU_STATUS_PUF_FAIL = false → Becomes .i3cWake s (startUp s.mem d)) ∧
      (d.power.phase = .asleep → d.shutRule = true → Becomes .i3cWake s (d.setFld F.HGU_STATUS_WAKE_REFUSED 1)) ∧
      (d.power.phase ≠ .asleep → Becomes .i3cWake s d ∧ Becomes .i3cShutdown s d.mainOff) ∧
      (d.power.phase = .asleep → Becomes .i3cShutdown s d)) ∧
    Becomes .auxPowerUp s d ∧
    Becomes .auxPowerLoss s (d.powered false) ∧
    (d.power.okSince = some t → t + 10000000 ≤ d.now → d.flag F.HGU_STATUS_MAIN_PRESENT = false →
      (d.power.firstMain = false → Becomes .mainPresent s up) ∧
      (d.power.firstMain = true → up.flag F.HGU_CTL_AUTO_ON = false → Becomes .mainPresent s up) ∧
      (d.power.firstMain = true → up.flag F.HGU_CTL_AUTO_ON = true → Becomes .mainPresent s (wakeUp s.mem up))) ∧
    (d.power.okSince = none → Becomes .mainPresent s d) ∧
    (d.power.auxSince + 10000000 ≤ d.now → Becomes .phyResetRelease s (d.setPower { d.power with phyRstN := true })) ∧
    (d.now < d.power.auxSince + 10000000 → Becomes .phyResetRelease s d) ∧
    Becomes (.boundaryScan .reset) s (ir 1 d) ∧
    Becomes (.boundaryScan .idcode) s ((ir 1 d).send (.tdo Config.idcode.toNat)) ∧
    Becomes (.boundaryScan (.bypass b)) s ((ir 0 d).send (.tdo 0)) ∧
    Becomes (.boundaryScan .boundarySample) s (ir 2 d) ∧
    Becomes (.boundaryScan (.boundaryShift b)) s ((ir 2 d.draw.2).send (.tdo ((Config.fresh d.draw.1).toNat % 2)))) ∧
  (d.power.phase = .asleep → Becomes .mainPowerLoss s off) ∧
  (d.power.phase ≠ .asleep → Becomes .mainPowerLoss s off.mainOff)
end

