-- ==== Sys2Proof/Laws/Table.lean ====
section
/-! SUPPORT. What reading a sparse table answers after each change of it, the canonical form that changes keep, and the
bits of numbers. -/

namespace Sys2Proof.Machine

variable {α : Type}

@[simp] theorem tFind_nil (k : Nat) : tFind k ([] : Table α) = none := rfl

@[simp] theorem tGet_nil (d : α) (k : Nat) : tGet d ([] : Table α) k = d := rfl

theorem tFind_tPut (k i : Nat) (v : α) (t : Table α) :
    tFind i (tPut k v t) = if k = i then some v else tFind i t := by
  induction t with
  | nil => simp [tPut, tFind]
  | cons e t ih =>
    obtain ⟨j, u⟩ := e
    unfold tPut
    split
    · simp [tFind]
    · split
      · subst_vars; by_cases h : j = i <;> simp [tFind, h]
      · rename_i h1 h2
        by_cases h : j = i
        · have : k ≠ i := by omega
          simp [tFind, h, this]
        · simp [tFind, h, ih]

@[simp] theorem tFind_tPut_self (k : Nat) (v : α) (t : Table α) : tFind k (tPut k v t) = some v := by
  simp [tFind_tPut]

theorem tFind_tPut_ne {k i : Nat} (h : k ≠ i) (v : α) (t : Table α) : tFind i (tPut k v t) = tFind i t := by
  simp [tFind_tPut, h]

theorem tFind_filter (k : Nat) (p : Nat → Bool) (t : Table α) :
    tFind k (t.filter fun e => p e.1) = if p k then tFind k t else none := by
  induction t with
  | nil => simp
  | cons e t ih =>
    obtain ⟨j, u⟩ := e
    by_cases hp : p j = true
    · rw [List.filter_cons_of_pos (by simpa using hp)]
      by_cases h : j = k
      · subst h; simp [tFind, hp]
      · simp [tFind, h, ih]
    · rw [List.filter_cons_of_neg (by simpa using hp)]
      by_cases h : j = k
      · subst h; simp [ih, hp]
      · simp [tFind, h, ih]

theorem tFind_tDel (k i : Nat) (t : Table α) : tFind i (tDel k t) = if k = i then none else tFind i t := by
  unfold tDel
  rw [tFind_filter i (fun j => decide (j ≠ k)) t]
  by_cases h : k = i
  · simp [h]
  · simp [h, Ne.symm h]

theorem tFind_tDelRange (lo n i : Nat) (t : Table α) :
    tFind i (tDelRange lo n t) = if lo ≤ i ∧ i < lo + n then none else tFind i t := by
  unfold tDelRange
  rw [tFind_filter i (fun j => !(decide (lo ≤ j) && decide (j < lo + n))) t]
  by_cases h1 : lo ≤ i <;> by_cases h2 : i < lo + n <;> simp [h1, h2]

theorem tGet_tPut (d : α) (k i : Nat) (v : α) (t : Table α) :
    tGet d (tPut k v t) i = if k = i then v else tGet d t i := by
  unfold tGet; rw [tFind_tPut]; split <;> rfl

theorem tGet_tDel (d : α) (k i : Nat) (t : Table α) : tGet d (tDel k t) i = if k = i then d else tGet d t i := by
  unfold tGet; rw [tFind_tDel]; split <;> rfl

theorem tGet_tSet [DecidableEq α] (d : α) (k i : Nat) (v : α) (t : Table α) :
    tGet d (tSet d k v t) i = if k = i then v else tGet d t i := by
  unfold tSet
  split
  · subst_vars; exact tGet_tDel _ _ _ _
  · exact tGet_tPut _ _ _ _ _

@[simp] theorem tGet_tSet_self [DecidableEq α] (d : α) (k : Nat) (v : α) (t : Table α) : tGet d (tSet d k v t) k = v := by
  simp [tGet_tSet]

theorem tGet_tSet_ne [DecidableEq α] {k i : Nat} (h : k ≠ i) (d : α) (v : α) (t : Table α) :
    tGet d (tSet d k v t) i = tGet d t i := by
  simp [tGet_tSet, h]

/-! ### The canonical form -/

theorem tRising_tPut (k : Nat) (v : α) (t : Table α) (lo : Option Nat) (hk : ∀ b, lo = some b → b < k)
    (h : tRising lo t = true) : tRising lo (tPut k v t) = true := by
  induction t generalizing lo with
  | nil => cases lo <;> simp_all [tPut, tRising]
  | cons e t ih =>
    obtain ⟨j, u⟩ := e
    simp only [tRising, Bool.and_eq_true] at h
    unfold tPut
    split
    · cases lo <;> simp_all [tRising]
    · split
      · subst_vars; simpa [tRising] using h
      · simp only [tRising, Bool.and_eq_true]
        exact ⟨h.1, ih (some j) (by intro b hb; cases hb; omega) h.2⟩

theorem tRising_mono {lo lo' : Option Nat} {t : Table α} (h : tRising lo t = true)
    (hl : ∀ b, lo' = some b → ∃ a, lo = some a ∧ b ≤ a) : tRising lo' t = true := by
  cases t with
  | nil => rfl
  | cons e t =>
    obtain ⟨j, u⟩ := e
    simp only [tRising, Bool.and_eq_true] at h ⊢
    refine ⟨?_, h.2⟩
    cases lo' with
    | none => rfl
    | some b =>
      obtain ⟨a, ha, hb⟩ := hl b rfl
      subst ha
      have := h.1
      simp at this ⊢; omega

theorem tRising_filter (p : Nat × α → Bool) (t : Table α) (lo : Option Nat) (h : tRising lo t = true) :
    tRising lo (t.filter p) = true := by
  induction t generalizing lo with
  | nil => simpa using h
  | cons e t ih =>
    obtain ⟨j, u⟩ := e
    simp only [tRising, Bool.and_eq_true] at h
    by_cases hp : p (j, u) = true
    · rw [List.filter_cons_of_pos hp]
      simp only [tRising, Bool.and_eq_true]
      exact ⟨h.1, ih _ h.2⟩
    · rw [List.filter_cons_of_neg hp]
      apply tRising_mono (ih _ h.2)
      intro b hb
      refine ⟨j, rfl, ?_⟩
      subst hb
      have := h.1
      simp at this; omega

theorem mem_tPut {k : Nat} {v : α} {t : Table α} {e : Nat × α} (h : e ∈ tPut k v t) : e = (k, v) ∨ e ∈ t := by
  induction t with
  | nil => simpa [tPut] using h
  | cons x t ih =>
    obtain ⟨j, u⟩ := x
    unfold tPut at h
    split at h
    · simpa using h
    · split at h
      · rcases List.mem_cons.1 h with h | h
        · exact .inl h
        · exact .inr (List.mem_cons_of_mem _ h)
      · rcases List.mem_cons.1 h with h | h
        · exact .inr (by simp [h])
        · rcases ih h with h | h
          · exact .inl h
          · exact .inr (List.mem_cons_of_mem _ h)

/-! ### Bits of numbers -/

theorem bits_lt (v lo w : Nat) : bits v lo w < 2 ^ w := Nat.mod_lt _ (by positivity)

theorem bits_full {v w : Nat} (h : v < 2 ^ w) : bits v 0 w = v := by simp [bits, Nat.mod_eq_of_lt h]

theorem setBits_eq (v lo w x : Nat) :
    setBits v lo w x = v % 2 ^ lo + x % 2 ^ w * 2 ^ lo + v / 2 ^ (lo + w) * 2 ^ (lo + w) := by
  unfold setBits bits
  have h1 := Nat.div_add_mod v (2 ^ lo)
  have h2 := Nat.div_add_mod (v / 2 ^ lo) (2 ^ w)
  have h3 : v / 2 ^ lo / 2 ^ w = v / 2 ^ (lo + w) := by rw [Nat.div_div_eq_div_mul, ← pow_add]
  rw [h3] at h2
  have h4 : v = v % 2 ^ lo + v / 2 ^ lo % 2 ^ w * 2 ^ lo + v / 2 ^ (lo + w) * 2 ^ (lo + w) := by
    conv_lhs => rw [← h1, ← h2]
    rw [pow_add]; ring
  omega

theorem bits_setBits_self (v lo w x : Nat) : bits (setBits v lo w x) lo w = x % 2 ^ w := by
  rw [setBits_eq]
  unfold bits
  have hlt : v % 2 ^ lo < 2 ^ lo := Nat.mod_lt _ (by positivity)
  have : (v % 2 ^ lo + x % 2 ^ w * 2 ^ lo + v / 2 ^ (lo + w) * 2 ^ (lo + w)) / 2 ^ lo =
      x % 2 ^ w + v / 2 ^ (lo + w) * 2 ^ w := by
    have e : v % 2 ^ lo + x % 2 ^ w * 2 ^ lo + v / 2 ^ (lo + w) * 2 ^ (lo + w) =
        v % 2 ^ lo + 2 ^ lo * (x % 2 ^ w + v / 2 ^ (lo + w) * 2 ^ w) := by rw [pow_add]; ring
    rw [e, Nat.add_mul_div_left _ _ (by positivity), Nat.div_eq_of_lt hlt, Nat.zero_add]
  rw [this, Nat.add_mul_mod_self_right, Nat.mod_mod]

theorem testBit_setBits (v lo w x i : Nat) : (setBits v lo w x).testBit i =
    if lo ≤ i ∧ i < lo + w then x.testBit (i - lo) else v.testBit i := by
  rw [setBits_eq]
  have e : v % 2 ^ lo + x % 2 ^ w * 2 ^ lo + v / 2 ^ (lo + w) * 2 ^ (lo + w) =
      2 ^ lo * (2 ^ w * (v / 2 ^ (lo + w)) + x % 2 ^ w) + v % 2 ^ lo := by rw [pow_add]; ring
  rw [e, Nat.testBit_two_pow_mul_add _ (Nat.mod_lt _ (by positivity)),
    Nat.testBit_two_pow_mul_add _ (Nat.mod_lt _ (by positivity))]
  by_cases h1 : i < lo
  · have : ¬ lo ≤ i := by omega
    simp [h1, this, Nat.testBit_mod_two_pow]
  · by_cases h2 : i - lo < w
    · have : lo ≤ i ∧ i < lo + w := by omega
      simp [h1, h2, this, Nat.testBit_mod_two_pow]
    · have : ¬ (lo ≤ i ∧ i < lo + w) := by omega
      rw [if_neg h1, if_neg h2, if_neg this, Nat.testBit_div_two_pow]
      congr 1; omega

theorem testBit_bits (v lo w i : Nat) : (bits v lo w).testBit i = (decide (i < w) && v.testBit (lo + i)) := by
  unfold bits
  rw [Nat.testBit_mod_two_pow, Nat.testBit_div_two_pow, Nat.add_comm]

/-- Setting a field leaves a field beside it as it was. -/
theorem bits_setBits_apart {v lo w x lo' w' : Nat} (h : lo' + w' ≤ lo ∨ lo + w ≤ lo') :
    bits (setBits v lo w x) lo' w' = bits v lo' w' := by
  apply Nat.eq_of_testBit_eq
  intro i
  rw [testBit_bits, testBit_bits, testBit_setBits]
  by_cases hi : i < w'
  · have : ¬ (lo ≤ lo' + i ∧ lo' + i < lo + w) := by omega
    simp [this]
  · simp [hi]

theorem setBits_lt {v lo w x n : Nat} (hv : v < 2 ^ n) (hn : lo + w ≤ n) : setBits v lo w x < 2 ^ n := by
  apply Nat.lt_pow_two_of_testBit
  intro i hi
  rw [testBit_setBits]
  have : ¬ (lo ≤ i ∧ i < lo + w) := by omega
  rw [if_neg this]
  exact Nat.testBit_eq_false_of_lt (lt_of_lt_of_le hv (Nat.pow_le_pow_right (by norm_num) hi))

end Sys2Proof.Machine
end

