-- ==== Sys2Proof/Laws/State.lean ====
section
/-! SUPPORT. What each setter of the device leaves as it was, field by field, and what it sets. -/

namespace Sys2Proof.Machine

variable (d : Dev)

/-! ### Dev.store -/

@[simp] theorem Dev.store_regs (a : Nat) (l : List Byte) : (d.store a l).regs = d.regs := rfl
@[simp] theorem Dev.store_pathRegs (a : Nat) (l : List Byte) : (d.store a l).pathRegs = d.pathRegs := rfl
@[simp] theorem Dev.store_freeCtr (a : Nat) (l : List Byte) : (d.store a l).freeCtr = d.freeCtr := rfl
@[simp] theorem Dev.store_sent (a : Nat) (l : List Byte) : (d.store a l).sent = d.sent := rfl
@[simp] theorem Dev.store_power (a : Nat) (l : List Byte) : (d.store a l).power = d.power := rfl
@[simp] theorem Dev.store_clocks (a : Nat) (l : List Byte) : (d.store a l).clocks = d.clocks := rfl
@[simp] theorem Dev.store_cores (a : Nat) (l : List Byte) : (d.store a l).cores = d.cores := rfl
@[simp] theorem Dev.store_ctxs (a : Nat) (l : List Byte) : (d.store a l).ctxs = d.ctxs := rfl
@[simp] theorem Dev.store_rings (a : Nat) (l : List Byte) : (d.store a l).rings = d.rings := rfl
@[simp] theorem Dev.store_xmap (a : Nat) (l : List Byte) : (d.store a l).xmap = d.xmap := rfl
@[simp] theorem Dev.store_pageCmds (a : Nat) (l : List Byte) : (d.store a l).pageCmds = d.pageCmds := rfl
@[simp] theorem Dev.store_abandoned (a : Nat) (l : List Byte) : (d.store a l).abandoned = d.abandoned := rfl
@[simp] theorem Dev.store_plainHold (a : Nat) (l : List Byte) : (d.store a l).plainHold = d.plainHold := rfl
@[simp] theorem Dev.store_failHold (a : Nat) (l : List Byte) : (d.store a l).failHold = d.failHold := rfl
@[simp] theorem Dev.store_jobs (a : Nat) (l : List Byte) : (d.store a l).jobs = d.jobs := rfl
@[simp] theorem Dev.store_bankSeq (a : Nat) (l : List Byte) : (d.store a l).bankSeq = d.bankSeq := rfl
@[simp] theorem Dev.store_seqs (a : Nat) (l : List Byte) : (d.store a l).seqs = d.seqs := rfl
@[simp] theorem Dev.store_serving (a : Nat) (l : List Byte) : (d.store a l).serving = d.serving := rfl
@[simp] theorem Dev.store_sessions (a : Nat) (l : List Byte) : (d.store a l).sessions = d.sessions := rfl
@[simp] theorem Dev.store_faults (a : Nat) (l : List Byte) : (d.store a l).faults = d.faults := rfl
@[simp] theorem Dev.store_flash (a : Nat) (l : List Byte) : (d.store a l).flash = d.flash := rfl
@[simp] theorem Dev.store_log (a : Nat) (l : List Byte) : (d.store a l).log = d.log := rfl
@[simp] theorem Dev.store_captures (a : Nat) (l : List Byte) : (d.store a l).captures = d.captures := rfl
@[simp] theorem Dev.store_captureEnd (a : Nat) (l : List Byte) : (d.store a l).captureEnd = d.captureEnd := rfl
@[simp] theorem Dev.store_dumps (a : Nat) (l : List Byte) : (d.store a l).dumps = d.dumps := rfl
@[simp] theorem Dev.store_sensors (a : Nat) (l : List Byte) : (d.store a l).sensors = d.sensors := rfl
@[simp] theorem Dev.store_rules (a : Nat) (l : List Byte) : (d.store a l).rules = d.rules := rfl
@[simp] theorem Dev.store_digests (a : Nat) (l : List Byte) : (d.store a l).digests = d.digests := rfl
@[simp] theorem Dev.store_ecc (a : Nat) (l : List Byte) : (d.store a l).ecc = d.ecc := rfl
@[simp] theorem Dev.store_patrol (a : Nat) (l : List Byte) : (d.store a l).patrol = d.patrol := rfl
@[simp] theorem Dev.store_stackUse (a : Nat) (l : List Byte) : (d.store a l).stackUse = d.stackUse := rfl
@[simp] theorem Dev.store_loads (a : Nat) (l : List Byte) : (d.store a l).loads = d.loads := rfl
@[simp] theorem Dev.store_castling (a : Nat) (l : List Byte) : (d.store a l).castling = d.castling := rfl
@[simp] theorem Dev.store_turnGen (a : Nat) (l : List Byte) : (d.store a l).turnGen = d.turnGen := rfl
@[simp] theorem Dev.store_moves (a : Nat) (l : List Byte) : (d.store a l).moves = d.moves := rfl
@[simp] theorem Dev.store_egress (a : Nat) (l : List Byte) : (d.store a l).egress = d.egress := rfl
@[simp] theorem Dev.store_flowOut (a : Nat) (l : List Byte) : (d.store a l).flowOut = d.flowOut := rfl
@[simp] theorem Dev.store_ports (a : Nat) (l : List Byte) : (d.store a l).ports = d.ports := rfl
@[simp] theorem Dev.store_routes (a : Nat) (l : List Byte) : (d.store a l).routes = d.routes := rfl
@[simp] theorem Dev.store_held (a : Nat) (l : List Byte) : (d.store a l).held = d.held := rfl
@[simp] theorem Dev.store_transit (a : Nat) (l : List Byte) : (d.store a l).transit = d.transit := rfl
@[simp] theorem Dev.store_inbox (a : Nat) (l : List Byte) : (d.store a l).inbox = d.inbox := rfl
@[simp] theorem Dev.store_flowIn (a : Nat) (l : List Byte) : (d.store a l).flowIn = d.flowIn := rfl
@[simp] theorem Dev.store_written (a : Nat) (l : List Byte) : (d.store a l).written = d.written := rfl
@[simp] theorem Dev.store_unsent (a : Nat) (l : List Byte) : (d.store a l).unsent = d.unsent := rfl
@[simp] theorem Dev.store_arrived (a : Nat) (l : List Byte) : (d.store a l).arrived = d.arrived := rfl
@[simp] theorem Dev.store_qps (a : Nat) (l : List Byte) : (d.store a l).qps = d.qps := rfl
@[simp] theorem Dev.store_peers (a : Nat) (l : List Byte) : (d.store a l).peers = d.peers := rfl
@[simp] theorem Dev.store_paused (a : Nat) (l : List Byte) : (d.store a l).paused = d.paused := rfl
@[simp] theorem Dev.store_temps (a : Nat) (l : List Byte) : (d.store a l).temps = d.temps := rfl
@[simp] theorem Dev.store_hotSince (a : Nat) (l : List Byte) : (d.store a l).hotSince = d.hotSince := rfl
@[simp] theorem Dev.store_thermAt (a : Nat) (l : List Byte) : (d.store a l).thermAt = d.thermAt := rfl
@[simp] theorem Dev.store_capSamples (a : Nat) (l : List Byte) : (d.store a l).capSamples = d.capSamples := rfl
@[simp] theorem Dev.store_floorSince (a : Nat) (l : List Byte) : (d.store a l).floorSince = d.floorSince := rfl
@[simp] theorem Dev.store_pace (a : Nat) (l : List Byte) : (d.store a l).pace = d.pace := rfl
@[simp] theorem Dev.store_paceIn (a : Nat) (l : List Byte) : (d.store a l).paceIn = d.paceIn := rfl
@[simp] theorem Dev.store_charges (a : Nat) (l : List Byte) : (d.store a l).charges = d.charges := rfl
@[simp] theorem Dev.store_ringPips (a : Nat) (l : List Byte) : (d.store a l).ringPips = d.ringPips := rfl
@[simp] theorem Dev.store_railPips (a : Nat) (l : List Byte) : (d.store a l).railPips = d.railPips := rfl
@[simp] theorem Dev.store_staleSince (a : Nat) (l : List Byte) : (d.store a l).staleSince = d.staleSince := rfl
@[simp] theorem Dev.store_idleSpan (a : Nat) (l : List Byte) : (d.store a l).idleSpan = d.idleSpan := rfl
@[simp] theorem Dev.store_stillSince (a : Nat) (l : List Byte) : (d.store a l).stillSince = d.stillSince := rfl
@[simp] theorem Dev.store_jobOf (a : Nat) (l : List Byte) : (d.store a l).jobOf = d.jobOf := rfl
@[simp] theorem Dev.store_idleMark (a : Nat) (l : List Byte) : (d.store a l).idleMark = d.idleMark := rfl
@[simp] theorem Dev.store_places (a : Nat) (l : List Byte) : (d.store a l).places = d.places := rfl
@[simp] theorem Dev.store_bank (a : Nat) (l : List Byte) : (d.store a l).bank = d.bank := rfl
@[simp] theorem Dev.store_meas (a : Nat) (l : List Byte) : (d.store a l).meas = d.meas := rfl
@[simp] theorem Dev.store_ptpAt (a : Nat) (l : List Byte) : (d.store a l).ptpAt = d.ptpAt := rfl

/-! ### Dev.clearMem -/

@[simp] theorem Dev.clearMem_regs (a n : Nat) : (d.clearMem a n).regs = d.regs := rfl
@[simp] theorem Dev.clearMem_pathRegs (a n : Nat) : (d.clearMem a n).pathRegs = d.pathRegs := rfl
@[simp] theorem Dev.clearMem_freeCtr (a n : Nat) : (d.clearMem a n).freeCtr = d.freeCtr := rfl
@[simp] theorem Dev.clearMem_sent (a n : Nat) : (d.clearMem a n).sent = d.sent := rfl
@[simp] theorem Dev.clearMem_power (a n : Nat) : (d.clearMem a n).power = d.power := rfl
@[simp] theorem Dev.clearMem_clocks (a n : Nat) : (d.clearMem a n).clocks = d.clocks := rfl
@[simp] theorem Dev.clearMem_cores (a n : Nat) : (d.clearMem a n).cores = d.cores := rfl
@[simp] theorem Dev.clearMem_ctxs (a n : Nat) : (d.clearMem a n).ctxs = d.ctxs := rfl
@[simp] theorem Dev.clearMem_rings (a n : Nat) : (d.clearMem a n).rings = d.rings := rfl
@[simp] theorem Dev.clearMem_xmap (a n : Nat) : (d.clearMem a n).xmap = d.xmap := rfl
@[simp] theorem Dev.clearMem_pageCmds (a n : Nat) : (d.clearMem a n).pageCmds = d.pageCmds := rfl
@[simp] theorem Dev.clearMem_abandoned (a n : Nat) : (d.clearMem a n).abandoned = d.abandoned := rfl
@[simp] theorem Dev.clearMem_plainHold (a n : Nat) : (d.clearMem a n).plainHold = d.plainHold := rfl
@[simp] theorem Dev.clearMem_failHold (a n : Nat) : (d.clearMem a n).failHold = d.failHold := rfl
@[simp] theorem Dev.clearMem_jobs (a n : Nat) : (d.clearMem a n).jobs = d.jobs := rfl
@[simp] theorem Dev.clearMem_bankSeq (a n : Nat) : (d.clearMem a n).bankSeq = d.bankSeq := rfl
@[simp] theorem Dev.clearMem_seqs (a n : Nat) : (d.clearMem a n).seqs = d.seqs := rfl
@[simp] theorem Dev.clearMem_serving (a n : Nat) : (d.clearMem a n).serving = d.serving := rfl
@[simp] theorem Dev.clearMem_sessions (a n : Nat) : (d.clearMem a n).sessions = d.sessions := rfl
@[simp] theorem Dev.clearMem_faults (a n : Nat) : (d.clearMem a n).faults = d.faults := rfl
@[simp] theorem Dev.clearMem_flash (a n : Nat) : (d.clearMem a n).flash = d.flash := rfl
@[simp] theorem Dev.clearMem_log (a n : Nat) : (d.clearMem a n).log = d.log := rfl
@[simp] theorem Dev.clearMem_captures (a n : Nat) : (d.clearMem a n).captures = d.captures := rfl
@[simp] theorem Dev.clearMem_captureEnd (a n : Nat) : (d.clearMem a n).captureEnd = d.captureEnd := rfl
@[simp] theorem Dev.clearMem_dumps (a n : Nat) : (d.clearMem a n).dumps = d.dumps := rfl
@[simp] theorem Dev.clearMem_sensors (a n : Nat) : (d.clearMem a n).sensors = d.sensors := rfl
@[simp] theorem Dev.clearMem_rules (a n : Nat) : (d.clearMem a n).rules = d.rules := rfl
@[simp] theorem Dev.clearMem_digests (a n : Nat) : (d.clearMem a n).digests = d.digests := rfl
@[simp] theorem Dev.clearMem_ecc (a n : Nat) : (d.clearMem a n).ecc = d.ecc := rfl
@[simp] theorem Dev.clearMem_patrol (a n : Nat) : (d.clearMem a n).patrol = d.patrol := rfl
@[simp] theorem Dev.clearMem_stackUse (a n : Nat) : (d.clearMem a n).stackUse = d.stackUse := rfl
@[simp] theorem Dev.clearMem_loads (a n : Nat) : (d.clearMem a n).loads = d.loads := rfl
@[simp] theorem Dev.clearMem_castling (a n : Nat) : (d.clearMem a n).castling = d.castling := rfl
@[simp] theorem Dev.clearMem_turnGen (a n : Nat) : (d.clearMem a n).turnGen = d.turnGen := rfl
@[simp] theorem Dev.clearMem_moves (a n : Nat) : (d.clearMem a n).moves = d.moves := rfl
@[simp] theorem Dev.clearMem_egress (a n : Nat) : (d.clearMem a n).egress = d.egress := rfl
@[simp] theorem Dev.clearMem_flowOut (a n : Nat) : (d.clearMem a n).flowOut = d.flowOut := rfl
@[simp] theorem Dev.clearMem_ports (a n : Nat) : (d.clearMem a n).ports = d.ports := rfl
@[simp] theorem Dev.clearMem_routes (a n : Nat) : (d.clearMem a n).routes = d.routes := rfl
@[simp] theorem Dev.clearMem_held (a n : Nat) : (d.clearMem a n).held = d.held := rfl
@[simp] theorem Dev.clearMem_transit (a n : Nat) : (d.clearMem a n).transit = d.transit := rfl
@[simp] theorem Dev.clearMem_inbox (a n : Nat) : (d.clearMem a n).inbox = d.inbox := rfl
@[simp] theorem Dev.clearMem_flowIn (a n : Nat) : (d.clearMem a n).flowIn = d.flowIn := rfl
@[simp] theorem Dev.clearMem_written (a n : Nat) : (d.clearMem a n).written = d.written := rfl
@[simp] theorem Dev.clearMem_unsent (a n : Nat) : (d.clearMem a n).unsent = d.unsent := rfl
@[simp] theorem Dev.clearMem_arrived (a n : Nat) : (d.clearMem a n).arrived = d.arrived := rfl
@[simp] theorem Dev.clearMem_qps (a n : Nat) : (d.clearMem a n).qps = d.qps := rfl
@[simp] theorem Dev.clearMem_peers (a n : Nat) : (d.clearMem a n).peers = d.peers := rfl
@[simp] theorem Dev.clearMem_paused (a n : Nat) : (d.clearMem a n).paused = d.paused := rfl
@[simp] theorem Dev.clearMem_temps (a n : Nat) : (d.clearMem a n).temps = d.temps := rfl
@[simp] theorem Dev.clearMem_hotSince (a n : Nat) : (d.clearMem a n).hotSince = d.hotSince := rfl
@[simp] theorem Dev.clearMem_thermAt (a n : Nat) : (d.clearMem a n).thermAt = d.thermAt := rfl
@[simp] theorem Dev.clearMem_capSamples (a n : Nat) : (d.clearMem a n).capSamples = d.capSamples := rfl
@[simp] theorem Dev.clearMem_floorSince (a n : Nat) : (d.clearMem a n).floorSince = d.floorSince := rfl
@[simp] theorem Dev.clearMem_pace (a n : Nat) : (d.clearMem a n).pace = d.pace := rfl
@[simp] theorem Dev.clearMem_paceIn (a n : Nat) : (d.clearMem a n).paceIn = d.paceIn := rfl
@[simp] theorem Dev.clearMem_charges (a n : Nat) : (d.clearMem a n).charges = d.charges := rfl
@[simp] theorem Dev.clearMem_ringPips (a n : Nat) : (d.clearMem a n).ringPips = d.ringPips := rfl
@[simp] theorem Dev.clearMem_railPips (a n : Nat) : (d.clearMem a n).railPips = d.railPips := rfl
@[simp] theorem Dev.clearMem_staleSince (a n : Nat) : (d.clearMem a n).staleSince = d.staleSince := rfl
@[simp] theorem Dev.clearMem_idleSpan (a n : Nat) : (d.clearMem a n).idleSpan = d.idleSpan := rfl
@[simp] theorem Dev.clearMem_stillSince (a n : Nat) : (d.clearMem a n).stillSince = d.stillSince := rfl
@[simp] theorem Dev.clearMem_jobOf (a n : Nat) : (d.clearMem a n).jobOf = d.jobOf := rfl
@[simp] theorem Dev.clearMem_idleMark (a n : Nat) : (d.clearMem a n).idleMark = d.idleMark := rfl
@[simp] theorem Dev.clearMem_places (a n : Nat) : (d.clearMem a n).places = d.places := rfl
@[simp] theorem Dev.clearMem_bank (a n : Nat) : (d.clearMem a n).bank = d.bank := rfl
@[simp] theorem Dev.clearMem_meas (a n : Nat) : (d.clearMem a n).meas = d.meas := rfl
@[simp] theorem Dev.clearMem_ptpAt (a n : Nat) : (d.clearMem a n).ptpAt = d.ptpAt := rfl

/-! ### Dev.send -/

@[simp] theorem Dev.send_regs (x : Sent) : (d.send x).regs = d.regs := rfl
@[simp] theorem Dev.send_pathRegs (x : Sent) : (d.send x).pathRegs = d.pathRegs := rfl
@[simp] theorem Dev.send_stores (x : Sent) : (d.send x).stores = d.stores := rfl
@[simp] theorem Dev.send_freeCtr (x : Sent) : (d.send x).freeCtr = d.freeCtr := rfl
@[simp] theorem Dev.send_power (x : Sent) : (d.send x).power = d.power := rfl
@[simp] theorem Dev.send_clocks (x : Sent) : (d.send x).clocks = d.clocks := rfl
@[simp] theorem Dev.send_cores (x : Sent) : (d.send x).cores = d.cores := rfl
@[simp] theorem Dev.send_ctxs (x : Sent) : (d.send x).ctxs = d.ctxs := rfl
@[simp] theorem Dev.send_rings (x : Sent) : (d.send x).rings = d.rings := rfl
@[simp] theorem Dev.send_xmap (x : Sent) : (d.send x).xmap = d.xmap := rfl
@[simp] theorem Dev.send_pageCmds (x : Sent) : (d.send x).pageCmds = d.pageCmds := rfl
@[simp] theorem Dev.send_abandoned (x : Sent) : (d.send x).abandoned = d.abandoned := rfl
@[simp] theorem Dev.send_plainHold (x : Sent) : (d.send x).plainHold = d.plainHold := rfl
@[simp] theorem Dev.send_failHold (x : Sent) : (d.send x).failHold = d.failHold := rfl
@[simp] theorem Dev.send_jobs (x : Sent) : (d.send x).jobs = d.jobs := rfl
@[simp] theorem Dev.send_bankSeq (x : Sent) : (d.send x).bankSeq = d.bankSeq := rfl
@[simp] theorem Dev.send_seqs (x : Sent) : (d.send x).seqs = d.seqs := rfl
@[simp] theorem Dev.send_serving (x : Sent) : (d.send x).serving = d.serving := rfl
@[simp] theorem Dev.send_sessions (x : Sent) : (d.send x).sessions = d.sessions := rfl
@[simp] theorem Dev.send_faults (x : Sent) : (d.send x).faults = d.faults := rfl
@[simp] theorem Dev.send_flash (x : Sent) : (d.send x).flash = d.flash := rfl
@[simp] theorem Dev.send_log (x : Sent) : (d.send x).log = d.log := rfl
@[simp] theorem Dev.send_captures (x : Sent) : (d.send x).captures = d.captures := rfl
@[simp] theorem Dev.send_captureEnd (x : Sent) : (d.send x).captureEnd = d.captureEnd := rfl
@[simp] theorem Dev.send_dumps (x : Sent) : (d.send x).dumps = d.dumps := rfl
@[simp] theorem Dev.send_sensors (x : Sent) : (d.send x).sensors = d.sensors := rfl
@[simp] theorem Dev.send_rules (x : Sent) : (d.send x).rules = d.rules := rfl
@[simp] theorem Dev.send_digests (x : Sent) : (d.send x).digests = d.digests := rfl
@[simp] theorem Dev.send_ecc (x : Sent) : (d.send x).ecc = d.ecc := rfl
@[simp] theorem Dev.send_patrol (x : Sent) : (d.send x).patrol = d.patrol := rfl
@[simp] theorem Dev.send_stackUse (x : Sent) : (d.send x).stackUse = d.stackUse := rfl
@[simp] theorem Dev.send_loads (x : Sent) : (d.send x).loads = d.loads := rfl
@[simp] theorem Dev.send_castling (x : Sent) : (d.send x).castling = d.castling := rfl
@[simp] theorem Dev.send_turnGen (x : Sent) : (d.send x).turnGen = d.turnGen := rfl
@[simp] theorem Dev.send_moves (x : Sent) : (d.send x).moves = d.moves := rfl
@[simp] theorem Dev.send_egress (x : Sent) : (d.send x).egress = d.egress := rfl
@[simp] theorem Dev.send_flowOut (x : Sent) : (d.send x).flowOut = d.flowOut := rfl
@[simp] theorem Dev.send_ports (x : Sent) : (d.send x).ports = d.ports := rfl
@[simp] theorem Dev.send_routes (x : Sent) : (d.send x).routes = d.routes := rfl
@[simp] theorem Dev.send_held (x : Sent) : (d.send x).held = d.held := rfl
@[simp] theorem Dev.send_transit (x : Sent) : (d.send x).transit = d.transit := rfl
@[simp] theorem Dev.send_inbox (x : Sent) : (d.send x).inbox = d.inbox := rfl
@[simp] theorem Dev.send_flowIn (x : Sent) : (d.send x).flowIn = d.flowIn := rfl
@[simp] theorem Dev.send_written (x : Sent) : (d.send x).written = d.written := rfl
@[simp] theorem Dev.send_unsent (x : Sent) : (d.send x).unsent = d.unsent := rfl
@[simp] theorem Dev.send_arrived (x : Sent) : (d.send x).arrived = d.arrived := rfl
@[simp] theorem Dev.send_qps (x : Sent) : (d.send x).qps = d.qps := rfl
@[simp] theorem Dev.send_peers (x : Sent) : (d.send x).peers = d.peers := rfl
@[simp] theorem Dev.send_paused (x : Sent) : (d.send x).paused = d.paused := rfl
@[simp] theorem Dev.send_temps (x : Sent) : (d.send x).temps = d.temps := rfl
@[simp] theorem Dev.send_hotSince (x : Sent) : (d.send x).hotSince = d.hotSince := rfl
@[simp] theorem Dev.send_thermAt (x : Sent) : (d.send x).thermAt = d.thermAt := rfl
@[simp] theorem Dev.send_capSamples (x : Sent) : (d.send x).capSamples = d.capSamples := rfl
@[simp] theorem Dev.send_floorSince (x : Sent) : (d.send x).floorSince = d.floorSince := rfl
@[simp] theorem Dev.send_pace (x : Sent) : (d.send x).pace = d.pace := rfl
@[simp] theorem Dev.send_paceIn (x : Sent) : (d.send x).paceIn = d.paceIn := rfl
@[simp] theorem Dev.send_charges (x : Sent) : (d.send x).charges = d.charges := rfl
@[simp] theorem Dev.send_ringPips (x : Sent) : (d.send x).ringPips = d.ringPips := rfl
@[simp] theorem Dev.send_railPips (x : Sent) : (d.send x).railPips = d.railPips := rfl
@[simp] theorem Dev.send_staleSince (x : Sent) : (d.send x).staleSince = d.staleSince := rfl
@[simp] theorem Dev.send_idleSpan (x : Sent) : (d.send x).idleSpan = d.idleSpan := rfl
@[simp] theorem Dev.send_stillSince (x : Sent) : (d.send x).stillSince = d.stillSince := rfl
@[simp] theorem Dev.send_jobOf (x : Sent) : (d.send x).jobOf = d.jobOf := rfl
@[simp] theorem Dev.send_idleMark (x : Sent) : (d.send x).idleMark = d.idleMark := rfl
@[simp] theorem Dev.send_places (x : Sent) : (d.send x).places = d.places := rfl
@[simp] theorem Dev.send_bank (x : Sent) : (d.send x).bank = d.bank := rfl
@[simp] theorem Dev.send_meas (x : Sent) : (d.send x).meas = d.meas := rfl
@[simp] theorem Dev.send_ptpAt (x : Sent) : (d.send x).ptpAt = d.ptpAt := rfl

/-! ### Dev.setFlash -/

@[simp] theorem Dev.setFlash_regs (x : Flash) : (d.setFlash x).regs = d.regs := rfl
@[simp] theorem Dev.setFlash_pathRegs (x : Flash) : (d.setFlash x).pathRegs = d.pathRegs := rfl
@[simp] theorem Dev.setFlash_stores (x : Flash) : (d.setFlash x).stores = d.stores := rfl
@[simp] theorem Dev.setFlash_freeCtr (x : Flash) : (d.setFlash x).freeCtr = d.freeCtr := rfl
@[simp] theorem Dev.setFlash_sent (x : Flash) : (d.setFlash x).sent = d.sent := rfl
@[simp] theorem Dev.setFlash_power (x : Flash) : (d.setFlash x).power = d.power := rfl
@[simp] theorem Dev.setFlash_clocks (x : Flash) : (d.setFlash x).clocks = d.clocks := rfl
@[simp] theorem Dev.setFlash_cores (x : Flash) : (d.setFlash x).cores = d.cores := rfl
@[simp] theorem Dev.setFlash_ctxs (x : Flash) : (d.setFlash x).ctxs = d.ctxs := rfl
@[simp] theorem Dev.setFlash_rings (x : Flash) : (d.setFlash x).rings = d.rings := rfl
@[simp] theorem Dev.setFlash_xmap (x : Flash) : (d.setFlash x).xmap = d.xmap := rfl
@[simp] theorem Dev.setFlash_pageCmds (x : Flash) : (d.setFlash x).pageCmds = d.pageCmds := rfl
@[simp] theorem Dev.setFlash_abandoned (x : Flash) : (d.setFlash x).abandoned = d.abandoned := rfl
@[simp] theorem Dev.setFlash_plainHold (x : Flash) : (d.setFlash x).plainHold = d.plainHold := rfl
@[simp] theorem Dev.setFlash_failHold (x : Flash) : (d.setFlash x).failHold = d.failHold := rfl
@[simp] theorem Dev.setFlash_jobs (x : Flash) : (d.setFlash x).jobs = d.jobs := rfl
@[simp] theorem Dev.setFlash_bankSeq (x : Flash) : (d.setFlash x).bankSeq = d.bankSeq := rfl
@[simp] theorem Dev.setFlash_seqs (x : Flash) : (d.setFlash x).seqs = d.seqs := rfl
@[simp] theorem Dev.setFlash_serving (x : Flash) : (d.setFlash x).serving = d.serving := rfl
@[simp] theorem Dev.setFlash_sessions (x : Flash) : (d.setFlash x).sessions = d.sessions := rfl
@[simp] theorem Dev.setFlash_faults (x : Flash) : (d.setFlash x).faults = d.faults := rfl
@[simp] theorem Dev.setFlash_log (x : Flash) : (d.setFlash x).log = d.log := rfl
@[simp] theorem Dev.setFlash_captures (x : Flash) : (d.setFlash x).captures = d.captures := rfl
@[simp] theorem Dev.setFlash_captureEnd (x : Flash) : (d.setFlash x).captureEnd = d.captureEnd := rfl
@[simp] theorem Dev.setFlash_dumps (x : Flash) : (d.setFlash x).dumps = d.dumps := rfl
@[simp] theorem Dev.setFlash_sensors (x : Flash) : (d.setFlash x).sensors = d.sensors := rfl
@[simp] theorem Dev.setFlash_rules (x : Flash) : (d.setFlash x).rules = d.rules := rfl
@[simp] theorem Dev.setFlash_digests (x : Flash) : (d.setFlash x).digests = d.digests := rfl
@[simp] theorem Dev.setFlash_ecc (x : Flash) : (d.setFlash x).ecc = d.ecc := rfl
@[simp] theorem Dev.setFlash_patrol (x : Flash) : (d.setFlash x).patrol = d.patrol := rfl
@[simp] theorem Dev.setFlash_stackUse (x : Flash) : (d.setFlash x).stackUse = d.stackUse := rfl
@[simp] theorem Dev.setFlash_loads (x : Flash) : (d.setFlash x).loads = d.loads := rfl
@[simp] theorem Dev.setFlash_castling (x : Flash) : (d.setFlash x).castling = d.castling := rfl
@[simp] theorem Dev.setFlash_turnGen (x : Flash) : (d.setFlash x).turnGen = d.turnGen := rfl
@[simp] theorem Dev.setFlash_moves (x : Flash) : (d.setFlash x).moves = d.moves := rfl
@[simp] theorem Dev.setFlash_egress (x : Flash) : (d.setFlash x).egress = d.egress := rfl
@[simp] theorem Dev.setFlash_flowOut (x : Flash) : (d.setFlash x).flowOut = d.flowOut := rfl
@[simp] theorem Dev.setFlash_ports (x : Flash) : (d.setFlash x).ports = d.ports := rfl
@[simp] theorem Dev.setFlash_routes (x : Flash) : (d.setFlash x).routes = d.routes := rfl
@[simp] theorem Dev.setFlash_held (x : Flash) : (d.setFlash x).held = d.held := rfl
@[simp] theorem Dev.setFlash_transit (x : Flash) : (d.setFlash x).transit = d.transit := rfl
@[simp] theorem Dev.setFlash_inbox (x : Flash) : (d.setFlash x).inbox = d.inbox := rfl
@[simp] theorem Dev.setFlash_flowIn (x : Flash) : (d.setFlash x).flowIn = d.flowIn := rfl
@[simp] theorem Dev.setFlash_written (x : Flash) : (d.setFlash x).written = d.written := rfl
@[simp] theorem Dev.setFlash_unsent (x : Flash) : (d.setFlash x).unsent = d.unsent := rfl
@[simp] theorem Dev.setFlash_arrived (x : Flash) : (d.setFlash x).arrived = d.arrived := rfl
@[simp] theorem Dev.setFlash_qps (x : Flash) : (d.setFlash x).qps = d.qps := rfl
@[simp] theorem Dev.setFlash_peers (x : Flash) : (d.setFlash x).peers = d.peers := rfl
@[simp] theorem Dev.setFlash_paused (x : Flash) : (d.setFlash x).paused = d.paused := rfl
@[simp] theorem Dev.setFlash_temps (x : Flash) : (d.setFlash x).temps = d.temps := rfl
@[simp] theorem Dev.setFlash_hotSince (x : Flash) : (d.setFlash x).hotSince = d.hotSince := rfl
@[simp] theorem Dev.setFlash_thermAt (x : Flash) : (d.setFlash x).thermAt = d.thermAt := rfl
@[simp] theorem Dev.setFlash_capSamples (x : Flash) : (d.setFlash x).capSamples = d.capSamples := rfl
@[simp] theorem Dev.setFlash_floorSince (x : Flash) : (d.setFlash x).floorSince = d.floorSince := rfl
@[simp] theorem Dev.setFlash_pace (x : Flash) : (d.setFlash x).pace = d.pace := rfl
@[simp] theorem Dev.setFlash_paceIn (x : Flash) : (d.setFlash x).paceIn = d.paceIn := rfl
@[simp] theorem Dev.setFlash_charges (x : Flash) : (d.setFlash x).charges = d.charges := rfl
@[simp] theorem Dev.setFlash_ringPips (x : Flash) : (d.setFlash x).ringPips = d.ringPips := rfl
@[simp] theorem Dev.setFlash_railPips (x : Flash) : (d.setFlash x).railPips = d.railPips := rfl
@[simp] theorem Dev.setFlash_staleSince (x : Flash) : (d.setFlash x).staleSince = d.staleSince := rfl
@[simp] theorem Dev.setFlash_idleSpan (x : Flash) : (d.setFlash x).idleSpan = d.idleSpan := rfl
@[simp] theorem Dev.setFlash_stillSince (x : Flash) : (d.setFlash x).stillSince = d.stillSince := rfl
@[simp] theorem Dev.setFlash_jobOf (x : Flash) : (d.setFlash x).jobOf = d.jobOf := rfl
@[simp] theorem Dev.setFlash_idleMark (x : Flash) : (d.setFlash x).idleMark = d.idleMark := rfl
@[simp] theorem Dev.setFlash_places (x : Flash) : (d.setFlash x).places = d.places := rfl
@[simp] theorem Dev.setFlash_bank (x : Flash) : (d.setFlash x).bank = d.bank := rfl
@[simp] theorem Dev.setFlash_meas (x : Flash) : (d.setFlash x).meas = d.meas := rfl
@[simp] theorem Dev.setFlash_ptpAt (x : Flash) : (d.setFlash x).ptpAt = d.ptpAt := rfl

/-! ### Dev.setPower -/

@[simp] theorem Dev.setPower_regs (p : Power) : (d.setPower p).regs = d.regs := rfl
@[simp] theorem Dev.setPower_pathRegs (p : Power) : (d.setPower p).pathRegs = d.pathRegs := rfl
@[simp] theorem Dev.setPower_stores (p : Power) : (d.setPower p).stores = d.stores := rfl
@[simp] theorem Dev.setPower_freeCtr (p : Power) : (d.setPower p).freeCtr = d.freeCtr := rfl
@[simp] theorem Dev.setPower_sent (p : Power) : (d.setPower p).sent = d.sent := rfl
@[simp] theorem Dev.setPower_clocks (p : Power) : (d.setPower p).clocks = d.clocks := rfl
@[simp] theorem Dev.setPower_cores (p : Power) : (d.setPower p).cores = d.cores := rfl
@[simp] theorem Dev.setPower_ctxs (p : Power) : (d.setPower p).ctxs = d.ctxs := rfl
@[simp] theorem Dev.setPower_rings (p : Power) : (d.setPower p).rings = d.rings := rfl
@[simp] theorem Dev.setPower_xmap (p : Power) : (d.setPower p).xmap = d.xmap := rfl
@[simp] theorem Dev.setPower_pageCmds (p : Power) : (d.setPower p).pageCmds = d.pageCmds := rfl
@[simp] theorem Dev.setPower_abandoned (p : Power) : (d.setPower p).abandoned = d.abandoned := rfl
@[simp] theorem Dev.setPower_plainHold (p : Power) : (d.setPower p).plainHold = d.plainHold := rfl
@[simp] theorem Dev.setPower_failHold (p : Power) : (d.setPower p).failHold = d.failHold := rfl
@[simp] theorem Dev.setPower_jobs (p : Power) : (d.setPower p).jobs = d.jobs := rfl
@[simp] theorem Dev.setPower_bankSeq (p : Power) : (d.setPower p).bankSeq = d.bankSeq := rfl
@[simp] theorem Dev.setPower_seqs (p : Power) : (d.setPower p).seqs = d.seqs := rfl
@[simp] theorem Dev.setPower_serving (p : Power) : (d.setPower p).serving = d.serving := rfl
@[simp] theorem Dev.setPower_sessions (p : Power) : (d.setPower p).sessions = d.sessions := rfl
@[simp] theorem Dev.setPower_faults (p : Power) : (d.setPower p).faults = d.faults := rfl
@[simp] theorem Dev.setPower_flash (p : Power) : (d.setPower p).flash = d.flash := rfl
@[simp] theorem Dev.setPower_log (p : Power) : (d.setPower p).log = d.log := rfl
@[simp] theorem Dev.setPower_captures (p : Power) : (d.setPower p).captures = d.captures := rfl
@[simp] theorem Dev.setPower_captureEnd (p : Power) : (d.setPower p).captureEnd = d.captureEnd := rfl
@[simp] theorem Dev.setPower_dumps (p : Power) : (d.setPower p).dumps = d.dumps := rfl
@[simp] theorem Dev.setPower_sensors (p : Power) : (d.setPower p).sensors = d.sensors := rfl
@[simp] theorem Dev.setPower_rules (p : Power) : (d.setPower p).rules = d.rules := rfl
@[simp] theorem Dev.setPower_digests (p : Power) : (d.setPower p).digests = d.digests := rfl
@[simp] theorem Dev.setPower_ecc (p : Power) : (d.setPower p).ecc = d.ecc := rfl
@[simp] theorem Dev.setPower_patrol (p : Power) : (d.setPower p).patrol = d.patrol := rfl
@[simp] theorem Dev.setPower_stackUse (p : Power) : (d.setPower p).stackUse = d.stackUse := rfl
@[simp] theorem Dev.setPower_loads (p : Power) : (d.setPower p).loads = d.loads := rfl
@[simp] theorem Dev.setPower_castling (p : Power) : (d.setPower p).castling = d.castling := rfl
@[simp] theorem Dev.setPower_turnGen (p : Power) : (d.setPower p).turnGen = d.turnGen := rfl
@[simp] theorem Dev.setPower_moves (p : Power) : (d.setPower p).moves = d.moves := rfl
@[simp] theorem Dev.setPower_egress (p : Power) : (d.setPower p).egress = d.egress := rfl
@[simp] theorem Dev.setPower_flowOut (p : Power) : (d.setPower p).flowOut = d.flowOut := rfl
@[simp] theorem Dev.setPower_ports (p : Power) : (d.setPower p).ports = d.ports := rfl
@[simp] theorem Dev.setPower_routes (p : Power) : (d.setPower p).routes = d.routes := rfl
@[simp] theorem Dev.setPower_held (p : Power) : (d.setPower p).held = d.held := rfl
@[simp] theorem Dev.setPower_transit (p : Power) : (d.setPower p).transit = d.transit := rfl
@[simp] theorem Dev.setPower_inbox (p : Power) : (d.setPower p).inbox = d.inbox := rfl
@[simp] theorem Dev.setPower_flowIn (p : Power) : (d.setPower p).flowIn = d.flowIn := rfl
@[simp] theorem Dev.setPower_written (p : Power) : (d.setPower p).written = d.written := rfl
@[simp] theorem Dev.setPower_unsent (p : Power) : (d.setPower p).unsent = d.unsent := rfl
@[simp] theorem Dev.setPower_arrived (p : Power) : (d.setPower p).arrived = d.arrived := rfl
@[simp] theorem Dev.setPower_qps (p : Power) : (d.setPower p).qps = d.qps := rfl
@[simp] theorem Dev.setPower_peers (p : Power) : (d.setPower p).peers = d.peers := rfl
@[simp] theorem Dev.setPower_paused (p : Power) : (d.setPower p).paused = d.paused := rfl
@[simp] theorem Dev.setPower_temps (p : Power) : (d.setPower p).temps = d.temps := rfl
@[simp] theorem Dev.setPower_hotSince (p : Power) : (d.setPower p).hotSince = d.hotSince := rfl
@[simp] theorem Dev.setPower_thermAt (p : Power) : (d.setPower p).thermAt = d.thermAt := rfl
@[simp] theorem Dev.setPower_capSamples (p : Power) : (d.setPower p).capSamples = d.capSamples := rfl
@[simp] theorem Dev.setPower_floorSince (p : Power) : (d.setPower p).floorSince = d.floorSince := rfl
@[simp] theorem Dev.setPower_pace (p : Power) : (d.setPower p).pace = d.pace := rfl
@[simp] theorem Dev.setPower_paceIn (p : Power) : (d.setPower p).paceIn = d.paceIn := rfl
@[simp] theorem Dev.setPower_charges (p : Power) : (d.setPower p).charges = d.charges := rfl
@[simp] theorem Dev.setPower_ringPips (p : Power) : (d.setPower p).ringPips = d.ringPips := rfl
@[simp] theorem Dev.setPower_railPips (p : Power) : (d.setPower p).railPips = d.railPips := rfl
@[simp] theorem Dev.setPower_staleSince (p : Power) : (d.setPower p).staleSince = d.staleSince := rfl
@[simp] theorem Dev.setPower_idleSpan (p : Power) : (d.setPower p).idleSpan = d.idleSpan := rfl
@[simp] theorem Dev.setPower_stillSince (p : Power) : (d.setPower p).stillSince = d.stillSince := rfl
@[simp] theorem Dev.setPower_jobOf (p : Power) : (d.setPower p).jobOf = d.jobOf := rfl
@[simp] theorem Dev.setPower_idleMark (p : Power) : (d.setPower p).idleMark = d.idleMark := rfl
@[simp] theorem Dev.setPower_places (p : Power) : (d.setPower p).places = d.places := rfl
@[simp] theorem Dev.setPower_bank (p : Power) : (d.setPower p).bank = d.bank := rfl
@[simp] theorem Dev.setPower_meas (p : Power) : (d.setPower p).meas = d.meas := rfl
@[simp] theorem Dev.setPower_ptpAt (p : Power) : (d.setPower p).ptpAt = d.ptpAt := rfl

/-! ### Dev.setClock -/

@[simp] theorem Dev.setClock_regs (k : Nat) (c : Clock) : (d.setClock k c).regs = d.regs := rfl
@[simp] theorem Dev.setClock_pathRegs (k : Nat) (c : Clock) : (d.setClock k c).pathRegs = d.pathRegs := rfl
@[simp] theorem Dev.setClock_stores (k : Nat) (c : Clock) : (d.setClock k c).stores = d.stores := rfl
@[simp] theorem Dev.setClock_freeCtr (k : Nat) (c : Clock) : (d.setClock k c).freeCtr = d.freeCtr := rfl
@[simp] theorem Dev.setClock_sent (k : Nat) (c : Clock) : (d.setClock k c).sent = d.sent := rfl
@[simp] theorem Dev.setClock_power (k : Nat) (c : Clock) : (d.setClock k c).power = d.power := rfl
@[simp] theorem Dev.setClock_cores (k : Nat) (c : Clock) : (d.setClock k c).cores = d.cores := rfl
@[simp] theorem Dev.setClock_ctxs (k : Nat) (c : Clock) : (d.setClock k c).ctxs = d.ctxs := rfl
@[simp] theorem Dev.setClock_rings (k : Nat) (c : Clock) : (d.setClock k c).rings = d.rings := rfl
@[simp] theorem Dev.setClock_xmap (k : Nat) (c : Clock) : (d.setClock k c).xmap = d.xmap := rfl
@[simp] theorem Dev.setClock_pageCmds (k : Nat) (c : Clock) : (d.setClock k c).pageCmds = d.pageCmds := rfl
@[simp] theorem Dev.setClock_abandoned (k : Nat) (c : Clock) : (d.setClock k c).abandoned = d.abandoned := rfl
@[simp] theorem Dev.setClock_plainHold (k : Nat) (c : Clock) : (d.setClock k c).plainHold = d.plainHold := rfl
@[simp] theorem Dev.setClock_failHold (k : Nat) (c : Clock) : (d.setClock k c).failHold = d.failHold := rfl
@[simp] theorem Dev.setClock_jobs (k : Nat) (c : Clock) : (d.setClock k c).jobs = d.jobs := rfl
@[simp] theorem Dev.setClock_bankSeq (k : Nat) (c : Clock) : (d.setClock k c).bankSeq = d.bankSeq := rfl
@[simp] theorem Dev.setClock_seqs (k : Nat) (c : Clock) : (d.setClock k c).seqs = d.seqs := rfl
@[simp] theorem Dev.setClock_serving (k : Nat) (c : Clock) : (d.setClock k c).serving = d.serving := rfl
@[simp] theorem Dev.setClock_sessions (k : Nat) (c : Clock) : (d.setClock k c).sessions = d.sessions := rfl
@[simp] theorem Dev.setClock_faults (k : Nat) (c : Clock) : (d.setClock k c).faults = d.faults := rfl
@[simp] theorem Dev.setClock_flash (k : Nat) (c : Clock) : (d.setClock k c).flash = d.flash := rfl
@[simp] theorem Dev.setClock_log (k : Nat) (c : Clock) : (d.setClock k c).log = d.log := rfl
@[simp] theorem Dev.setClock_captures (k : Nat) (c : Clock) : (d.setClock k c).captures = d.captures := rfl
@[simp] theorem Dev.setClock_captureEnd (k : Nat) (c : Clock) : (d.setClock k c).captureEnd = d.captureEnd := rfl
@[simp] theorem Dev.setClock_dumps (k : Nat) (c : Clock) : (d.setClock k c).dumps = d.dumps := rfl
@[simp] theorem Dev.setClock_sensors (k : Nat) (c : Clock) : (d.setClock k c).sensors = d.sensors := rfl
@[simp] theorem Dev.setClock_rules (k : Nat) (c : Clock) : (d.setClock k c).rules = d.rules := rfl
@[simp] theorem Dev.setClock_digests (k : Nat) (c : Clock) : (d.setClock k c).digests = d.digests := rfl
@[simp] theorem Dev.setClock_ecc (k : Nat) (c : Clock) : (d.setClock k c).ecc = d.ecc := rfl
@[simp] theorem Dev.setClock_patrol (k : Nat) (c : Clock) : (d.setClock k c).patrol = d.patrol := rfl
@[simp] theorem Dev.setClock_stackUse (k : Nat) (c : Clock) : (d.setClock k c).stackUse = d.stackUse := rfl
@[simp] theorem Dev.setClock_loads (k : Nat) (c : Clock) : (d.setClock k c).loads = d.loads := rfl
@[simp] theorem Dev.setClock_castling (k : Nat) (c : Clock) : (d.setClock k c).castling = d.castling := rfl
@[simp] theorem Dev.setClock_turnGen (k : Nat) (c : Clock) : (d.setClock k c).turnGen = d.turnGen := rfl
@[simp] theorem Dev.setClock_moves (k : Nat) (c : Clock) : (d.setClock k c).moves = d.moves := rfl
@[simp] theorem Dev.setClock_egress (k : Nat) (c : Clock) : (d.setClock k c).egress = d.egress := rfl
@[simp] theorem Dev.setClock_flowOut (k : Nat) (c : Clock) : (d.setClock k c).flowOut = d.flowOut := rfl
@[simp] theorem Dev.setClock_ports (k : Nat) (c : Clock) : (d.setClock k c).ports = d.ports := rfl
@[simp] theorem Dev.setClock_routes (k : Nat) (c : Clock) : (d.setClock k c).routes = d.routes := rfl
@[simp] theorem Dev.setClock_held (k : Nat) (c : Clock) : (d.setClock k c).held = d.held := rfl
@[simp] theorem Dev.setClock_transit (k : Nat) (c : Clock) : (d.setClock k c).transit = d.transit := rfl
@[simp] theorem Dev.setClock_inbox (k : Nat) (c : Clock) : (d.setClock k c).inbox = d.inbox := rfl
@[simp] theorem Dev.setClock_flowIn (k : Nat) (c : Clock) : (d.setClock k c).flowIn = d.flowIn := rfl
@[simp] theorem Dev.setClock_written (k : Nat) (c : Clock) : (d.setClock k c).written = d.written := rfl
@[simp] theorem Dev.setClock_unsent (k : Nat) (c : Clock) : (d.setClock k c).unsent = d.unsent := rfl
@[simp] theorem Dev.setClock_arrived (k : Nat) (c : Clock) : (d.setClock k c).arrived = d.arrived := rfl
@[simp] theorem Dev.setClock_qps (k : Nat) (c : Clock) : (d.setClock k c).qps = d.qps := rfl
@[simp] theorem Dev.setClock_peers (k : Nat) (c : Clock) : (d.setClock k c).peers = d.peers := rfl
@[simp] theorem Dev.setClock_paused (k : Nat) (c : Clock) : (d.setClock k c).paused = d.paused := rfl
@[simp] theorem Dev.setClock_temps (k : Nat) (c : Clock) : (d.setClock k c).temps = d.temps := rfl
@[simp] theorem Dev.setClock_hotSince (k : Nat) (c : Clock) : (d.setClock k c).hotSince = d.hotSince := rfl
@[simp] theorem Dev.setClock_thermAt (k : Nat) (c : Clock) : (d.setClock k c).thermAt = d.thermAt := rfl
@[simp] theorem Dev.setClock_capSamples (k : Nat) (c : Clock) : (d.setClock k c).capSamples = d.capSamples := rfl
@[simp] theorem Dev.setClock_floorSince (k : Nat) (c : Clock) : (d.setClock k c).floorSince = d.floorSince := rfl
@[simp] theorem Dev.setClock_pace (k : Nat) (c : Clock) : (d.setClock k c).pace = d.pace := rfl
@[simp] theorem Dev.setClock_paceIn (k : Nat) (c : Clock) : (d.setClock k c).paceIn = d.paceIn := rfl
@[simp] theorem Dev.setClock_charges (k : Nat) (c : Clock) : (d.setClock k c).charges = d.charges := rfl
@[simp] theorem Dev.setClock_ringPips (k : Nat) (c : Clock) : (d.setClock k c).ringPips = d.ringPips := rfl
@[simp] theorem Dev.setClock_railPips (k : Nat) (c : Clock) : (d.setClock k c).railPips = d.railPips := rfl
@[simp] theorem Dev.setClock_staleSince (k : Nat) (c : Clock) : (d.setClock k c).staleSince = d.staleSince := rfl
@[simp] theorem Dev.setClock_idleSpan (k : Nat) (c : Clock) : (d.setClock k c).idleSpan = d.idleSpan := rfl
@[simp] theorem Dev.setClock_stillSince (k : Nat) (c : Clock) : (d.setClock k c).stillSince = d.stillSince := rfl
@[simp] theorem Dev.setClock_jobOf (k : Nat) (c : Clock) : (d.setClock k c).jobOf = d.jobOf := rfl
@[simp] theorem Dev.setClock_idleMark (k : Nat) (c : Clock) : (d.setClock k c).idleMark = d.idleMark := rfl
@[simp] theorem Dev.setClock_places (k : Nat) (c : Clock) : (d.setClock k c).places = d.places := rfl
@[simp] theorem Dev.setClock_bank (k : Nat) (c : Clock) : (d.setClock k c).bank = d.bank := rfl
@[simp] theorem Dev.setClock_meas (k : Nat) (c : Clock) : (d.setClock k c).meas = d.meas := rfl
@[simp] theorem Dev.setClock_ptpAt (k : Nat) (c : Clock) : (d.setClock k c).ptpAt = d.ptpAt := rfl

/-! ### Dev.setWord -/

@[simp] theorem Dev.setWord_pathRegs (a : Nat) (v : Word) : (d.setWord a v).pathRegs = d.pathRegs := rfl
@[simp] theorem Dev.setWord_stores (a : Nat) (v : Word) : (d.setWord a v).stores = d.stores := rfl
@[simp] theorem Dev.setWord_freeCtr (a : Nat) (v : Word) : (d.setWord a v).freeCtr = d.freeCtr := rfl
@[simp] theorem Dev.setWord_sent (a : Nat) (v : Word) : (d.setWord a v).sent = d.sent := rfl
@[simp] theorem Dev.setWord_power (a : Nat) (v : Word) : (d.setWord a v).power = d.power := rfl
@[simp] theorem Dev.setWord_clocks (a : Nat) (v : Word) : (d.setWord a v).clocks = d.clocks := rfl
@[simp] theorem Dev.setWord_cores (a : Nat) (v : Word) : (d.setWord a v).cores = d.cores := rfl
@[simp] theorem Dev.setWord_ctxs (a : Nat) (v : Word) : (d.setWord a v).ctxs = d.ctxs := rfl
@[simp] theorem Dev.setWord_rings (a : Nat) (v : Word) : (d.setWord a v).rings = d.rings := rfl
@[simp] theorem Dev.setWord_xmap (a : Nat) (v : Word) : (d.setWord a v).xmap = d.xmap := rfl
@[simp] theorem Dev.setWord_pageCmds (a : Nat) (v : Word) : (d.setWord a v).pageCmds = d.pageCmds := rfl
@[simp] theorem Dev.setWord_abandoned (a : Nat) (v : Word) : (d.setWord a v).abandoned = d.abandoned := rfl
@[simp] theorem Dev.setWord_plainHold (a : Nat) (v : Word) : (d.setWord a v).plainHold = d.plainHold := rfl
@[simp] theorem Dev.setWord_failHold (a : Nat) (v : Word) : (d.setWord a v).failHold = d.failHold := rfl
@[simp] theorem Dev.setWord_jobs (a : Nat) (v : Word) : (d.setWord a v).jobs = d.jobs := rfl
@[simp] theorem Dev.setWord_bankSeq (a : Nat) (v : Word) : (d.setWord a v).bankSeq = d.bankSeq := rfl
@[simp] theorem Dev.setWord_seqs (a : Nat) (v : Word) : (d.setWord a v).seqs = d.seqs := rfl
@[simp] theorem Dev.setWord_serving (a : Nat) (v : Word) : (d.setWord a v).serving = d.serving := rfl
@[simp] theorem Dev.setWord_sessions (a : Nat) (v : Word) : (d.setWord a v).sessions = d.sessions := rfl
@[simp] theorem Dev.setWord_faults (a : Nat) (v : Word) : (d.setWord a v).faults = d.faults := rfl
@[simp] theorem Dev.setWord_flash (a : Nat) (v : Word) : (d.setWord a v).flash = d.flash := rfl
@[simp] theorem Dev.setWord_log (a : Nat) (v : Word) : (d.setWord a v).log = d.log := rfl
@[simp] theorem Dev.setWord_captures (a : Nat) (v : Word) : (d.setWord a v).captures = d.captures := rfl
@[simp] theorem Dev.setWord_captureEnd (a : Nat) (v : Word) : (d.setWord a v).captureEnd = d.captureEnd := rfl
@[simp] theorem Dev.setWord_dumps (a : Nat) (v : Word) : (d.setWord a v).dumps = d.dumps := rfl
@[simp] theorem Dev.setWord_sensors (a : Nat) (v : Word) : (d.setWord a v).sensors = d.sensors := rfl
@[simp] theorem Dev.setWord_rules (a : Nat) (v : Word) : (d.setWord a v).rules = d.rules := rfl
@[simp] theorem Dev.setWord_digests (a : Nat) (v : Word) : (d.setWord a v).digests = d.digests := rfl
@[simp] theorem Dev.setWord_ecc (a : Nat) (v : Word) : (d.setWord a v).ecc = d.ecc := rfl
@[simp] theorem Dev.setWord_patrol (a : Nat) (v : Word) : (d.setWord a v).patrol = d.patrol := rfl
@[simp] theorem Dev.setWord_stackUse (a : Nat) (v : Word) : (d.setWord a v).stackUse = d.stackUse := rfl
@[simp] theorem Dev.setWord_loads (a : Nat) (v : Word) : (d.setWord a v).loads = d.loads := rfl
@[simp] theorem Dev.setWord_castling (a : Nat) (v : Word) : (d.setWord a v).castling = d.castling := rfl
@[simp] theorem Dev.setWord_turnGen (a : Nat) (v : Word) : (d.setWord a v).turnGen = d.turnGen := rfl
@[simp] theorem Dev.setWord_moves (a : Nat) (v : Word) : (d.setWord a v).moves = d.moves := rfl
@[simp] theorem Dev.setWord_egress (a : Nat) (v : Word) : (d.setWord a v).egress = d.egress := rfl
@[simp] theorem Dev.setWord_flowOut (a : Nat) (v : Word) : (d.setWord a v).flowOut = d.flowOut := rfl
@[simp] theorem Dev.setWord_ports (a : Nat) (v : Word) : (d.setWord a v).ports = d.ports := rfl
@[simp] theorem Dev.setWord_routes (a : Nat) (v : Word) : (d.setWord a v).routes = d.routes := rfl
@[simp] theorem Dev.setWord_held (a : Nat) (v : Word) : (d.setWord a v).held = d.held := rfl
@[simp] theorem Dev.setWord_transit (a : Nat) (v : Word) : (d.setWord a v).transit = d.transit := rfl
@[simp] theorem Dev.setWord_inbox (a : Nat) (v : Word) : (d.setWord a v).inbox = d.inbox := rfl
@[simp] theorem Dev.setWord_flowIn (a : Nat) (v : Word) : (d.setWord a v).flowIn = d.flowIn := rfl
@[simp] theorem Dev.setWord_written (a : Nat) (v : Word) : (d.setWord a v).written = d.written := rfl
@[simp] theorem Dev.setWord_unsent (a : Nat) (v : Word) : (d.setWord a v).unsent = d.unsent := rfl
@[simp] theorem Dev.setWord_arrived (a : Nat) (v : Word) : (d.setWord a v).arrived = d.arrived := rfl
@[simp] theorem Dev.setWord_qps (a : Nat) (v : Word) : (d.setWord a v).qps = d.qps := rfl
@[simp] theorem Dev.setWord_peers (a : Nat) (v : Word) : (d.setWord a v).peers = d.peers := rfl
@[simp] theorem Dev.setWord_paused (a : Nat) (v : Word) : (d.setWord a v).paused = d.paused := rfl
@[simp] theorem Dev.setWord_temps (a : Nat) (v : Word) : (d.setWord a v).temps = d.temps := rfl
@[simp] theorem Dev.setWord_hotSince (a : Nat) (v : Word) : (d.setWord a v).hotSince = d.hotSince := rfl
@[simp] theorem Dev.setWord_thermAt (a : Nat) (v : Word) : (d.setWord a v).thermAt = d.thermAt := rfl
@[simp] theorem Dev.setWord_capSamples (a : Nat) (v : Word) : (d.setWord a v).capSamples = d.capSamples := rfl
@[simp] theorem Dev.setWord_floorSince (a : Nat) (v : Word) : (d.setWord a v).floorSince = d.floorSince := rfl
@[simp] theorem Dev.setWord_pace (a : Nat) (v : Word) : (d.setWord a v).pace = d.pace := rfl
@[simp] theorem Dev.setWord_paceIn (a : Nat) (v : Word) : (d.setWord a v).paceIn = d.paceIn := rfl
@[simp] theorem Dev.setWord_charges (a : Nat) (v : Word) : (d.setWord a v).charges = d.charges := rfl
@[simp] theorem Dev.setWord_ringPips (a : Nat) (v : Word) : (d.setWord a v).ringPips = d.ringPips := rfl
@[simp] theorem Dev.setWord_railPips (a : Nat) (v : Word) : (d.setWord a v).railPips = d.railPips := rfl
@[simp] theorem Dev.setWord_staleSince (a : Nat) (v : Word) : (d.setWord a v).staleSince = d.staleSince := rfl
@[simp] theorem Dev.setWord_idleSpan (a : Nat) (v : Word) : (d.setWord a v).idleSpan = d.idleSpan := rfl
@[simp] theorem Dev.setWord_stillSince (a : Nat) (v : Word) : (d.setWord a v).stillSince = d.stillSince := rfl
@[simp] theorem Dev.setWord_jobOf (a : Nat) (v : Word) : (d.setWord a v).jobOf = d.jobOf := rfl
@[simp] theorem Dev.setWord_idleMark (a : Nat) (v : Word) : (d.setWord a v).idleMark = d.idleMark := rfl
@[simp] theorem Dev.setWord_places (a : Nat) (v : Word) : (d.setWord a v).places = d.places := rfl
@[simp] theorem Dev.setWord_bank (a : Nat) (v : Word) : (d.setWord a v).bank = d.bank := rfl
@[simp] theorem Dev.setWord_meas (a : Nat) (v : Word) : (d.setWord a v).meas = d.meas := rfl
@[simp] theorem Dev.setWord_ptpAt (a : Nat) (v : Word) : (d.setWord a v).ptpAt = d.ptpAt := rfl

/-! ### Dev.setPword -/

@[simp] theorem Dev.setPword_regs (w : Path) (a : Nat) (v : Word) : (d.setPword w a v).regs = d.regs := rfl
@[simp] theorem Dev.setPword_stores (w : Path) (a : Nat) (v : Word) : (d.setPword w a v).stores = d.stores := rfl
@[simp] theorem Dev.setPword_freeCtr (w : Path) (a : Nat) (v : Word) : (d.setPword w a v).freeCtr = d.freeCtr := rfl
@[simp] theorem Dev.setPword_sent (w : Path) (a : Nat) (v : Word) : (d.setPword w a v).sent = d.sent := rfl
@[simp] theorem Dev.setPword_power (w : Path) (a : Nat) (v : Word) : (d.setPword w a v).power = d.power := rfl
@[simp] theorem Dev.setPword_clocks (w : Path) (a : Nat) (v : Word) : (d.setPword w a v).clocks = d.clocks := rfl
@[simp] theorem Dev.setPword_cores (w : Path) (a : Nat) (v : Word) : (d.setPword w a v).cores = d.cores := rfl
@[simp] theorem Dev.setPword_ctxs (w : Path) (a : Nat) (v : Word) : (d.setPword w a v).ctxs = d.ctxs := rfl
@[simp] theorem Dev.setPword_rings (w : Path) (a : Nat) (v : Word) : (d.setPword w a v).rings = d.rings := rfl
@[simp] theorem Dev.setPword_xmap (w : Path) (a : Nat) (v : Word) : (d.setPword w a v).xmap = d.xmap := rfl
@[simp] theorem Dev.setPword_pageCmds (w : Path) (a : Nat) (v : Word) : (d.setPword w a v).pageCmds = d.pageCmds := rfl
@[simp] theorem Dev.setPword_abandoned (w : Path) (a : Nat) (v : Word) : (d.setPword w a v).abandoned = d.abandoned := rfl
@[simp] theorem Dev.setPword_plainHold (w : Path) (a : Nat) (v : Word) : (d.setPword w a v).plainHold = d.plainHold := rfl
@[simp] theorem Dev.setPword_failHold (w : Path) (a : Nat) (v : Word) : (d.setPword w a v).failHold = d.failHold := rfl
@[simp] theorem Dev.setPword_jobs (w : Path) (a : Nat) (v : Word) : (d.setPword w a v).jobs = d.jobs := rfl
@[simp] theorem Dev.setPword_bankSeq (w : Path) (a : Nat) (v : Word) : (d.setPword w a v).bankSeq = d.bankSeq := rfl
@[simp] theorem Dev.setPword_seqs (w : Path) (a : Nat) (v : Word) : (d.setPword w a v).seqs = d.seqs := rfl
@[simp] theorem Dev.setPword_serving (w : Path) (a : Nat) (v : Word) : (d.setPword w a v).serving = d.serving := rfl
@[simp] theorem Dev.setPword_sessions (w : Path) (a : Nat) (v : Word) : (d.setPword w a v).sessions = d.sessions := rfl
@[simp] theorem Dev.setPword_faults (w : Path) (a : Nat) (v : Word) : (d.setPword w a v).faults = d.faults := rfl
@[simp] theorem Dev.setPword_flash (w : Path) (a : Nat) (v : Word) : (d.setPword w a v).flash = d.flash := rfl
@[simp] theorem Dev.setPword_log (w : Path) (a : Nat) (v : Word) : (d.setPword w a v).log = d.log := rfl
@[simp] theorem Dev.setPword_captures (w : Path) (a : Nat) (v : Word) : (d.setPword w a v).captures = d.captures := rfl
@[simp] theorem Dev.setPword_captureEnd (w : Path) (a : Nat) (v : Word) : (d.setPword w a v).captureEnd = d.captureEnd := rfl
@[simp] theorem Dev.setPword_dumps (w : Path) (a : Nat) (v : Word) : (d.setPword w a v).dumps = d.dumps := rfl
@[simp] theorem Dev.setPword_sensors (w : Path) (a : Nat) (v : Word) : (d.setPword w a v).sensors = d.sensors := rfl
@[simp] theorem Dev.setPword_rules (w : Path) (a : Nat) (v : Word) : (d.setPword w a v).rules = d.rules := rfl
@[simp] theorem Dev.setPword_digests (w : Path) (a : Nat) (v : Word) : (d.setPword w a v).digests = d.digests := rfl
@[simp] theorem Dev.setPword_ecc (w : Path) (a : Nat) (v : Word) : (d.setPword w a v).ecc = d.ecc := rfl
@[simp] theorem Dev.setPword_patrol (w : Path) (a : Nat) (v : Word) : (d.setPword w a v).patrol = d.patrol := rfl
@[simp] theorem Dev.setPword_stackUse (w : Path) (a : Nat) (v : Word) : (d.setPword w a v).stackUse = d.stackUse := rfl
@[simp] theorem Dev.setPword_loads (w : Path) (a : Nat) (v : Word) : (d.setPword w a v).loads = d.loads := rfl
@[simp] theorem Dev.setPword_castling (w : Path) (a : Nat) (v : Word) : (d.setPword w a v).castling = d.castling := rfl
@[simp] theorem Dev.setPword_turnGen (w : Path) (a : Nat) (v : Word) : (d.setPword w a v).turnGen = d.turnGen := rfl
@[simp] theorem Dev.setPword_moves (w : Path) (a : Nat) (v : Word) : (d.setPword w a v).moves = d.moves := rfl
@[simp] theorem Dev.setPword_egress (w : Path) (a : Nat) (v : Word) : (d.setPword w a v).egress = d.egress := rfl
@[simp] theorem Dev.setPword_flowOut (w : Path) (a : Nat) (v : Word) : (d.setPword w a v).flowOut = d.flowOut := rfl
@[simp] theorem Dev.setPword_ports (w : Path) (a : Nat) (v : Word) : (d.setPword w a v).ports = d.ports := rfl
@[simp] theorem Dev.setPword_routes (w : Path) (a : Nat) (v : Word) : (d.setPword w a v).routes = d.routes := rfl
@[simp] theorem Dev.setPword_held (w : Path) (a : Nat) (v : Word) : (d.setPword w a v).held = d.held := rfl
@[simp] theorem Dev.setPword_transit (w : Path) (a : Nat) (v : Word) : (d.setPword w a v).transit = d.transit := rfl
@[simp] theorem Dev.setPword_inbox (w : Path) (a : Nat) (v : Word) : (d.setPword w a v).inbox = d.inbox := rfl
@[simp] theorem Dev.setPword_flowIn (w : Path) (a : Nat) (v : Word) : (d.setPword w a v).flowIn = d.flowIn := rfl
@[simp] theorem Dev.setPword_written (w : Path) (a : Nat) (v : Word) : (d.setPword w a v).written = d.written := rfl
@[simp] theorem Dev.setPword_unsent (w : Path) (a : Nat) (v : Word) : (d.setPword w a v).unsent = d.unsent := rfl
@[simp] theorem Dev.setPword_arrived (w : Path) (a : Nat) (v : Word) : (d.setPword w a v).arrived = d.arrived := rfl
@[simp] theorem Dev.setPword_qps (w : Path) (a : Nat) (v : Word) : (d.setPword w a v).qps = d.qps := rfl
@[simp] theorem Dev.setPword_peers (w : Path) (a : Nat) (v : Word) : (d.setPword w a v).peers = d.peers := rfl
@[simp] theorem Dev.setPword_paused (w : Path) (a : Nat) (v : Word) : (d.setPword w a v).paused = d.paused := rfl
@[simp] theorem Dev.setPword_temps (w : Path) (a : Nat) (v : Word) : (d.setPword w a v).temps = d.temps := rfl
@[simp] theorem Dev.setPword_hotSince (w : Path) (a : Nat) (v : Word) : (d.setPword w a v).hotSince = d.hotSince := rfl
@[simp] theorem Dev.setPword_thermAt (w : Path) (a : Nat) (v : Word) : (d.setPword w a v).thermAt = d.thermAt := rfl
@[simp] theorem Dev.setPword_capSamples (w : Path) (a : Nat) (v : Word) : (d.setPword w a v).capSamples = d.capSamples := rfl
@[simp] theorem Dev.setPword_floorSince (w : Path) (a : Nat) (v : Word) : (d.setPword w a v).floorSince = d.floorSince := rfl
@[simp] theorem Dev.setPword_pace (w : Path) (a : Nat) (v : Word) : (d.setPword w a v).pace = d.pace := rfl
@[simp] theorem Dev.setPword_paceIn (w : Path) (a : Nat) (v : Word) : (d.setPword w a v).paceIn = d.paceIn := rfl
@[simp] theorem Dev.setPword_charges (w : Path) (a : Nat) (v : Word) : (d.setPword w a v).charges = d.charges := rfl
@[simp] theorem Dev.setPword_ringPips (w : Path) (a : Nat) (v : Word) : (d.setPword w a v).ringPips = d.ringPips := rfl
@[simp] theorem Dev.setPword_railPips (w : Path) (a : Nat) (v : Word) : (d.setPword w a v).railPips = d.railPips := rfl
@[simp] theorem Dev.setPword_staleSince (w : Path) (a : Nat) (v : Word) : (d.setPword w a v).staleSince = d.staleSince := rfl
@[simp] theorem Dev.setPword_idleSpan (w : Path) (a : Nat) (v : Word) : (d.setPword w a v).idleSpan = d.idleSpan := rfl
@[simp] theorem Dev.setPword_stillSince (w : Path) (a : Nat) (v : Word) : (d.setPword w a v).stillSince = d.stillSince := rfl
@[simp] theorem Dev.setPword_jobOf (w : Path) (a : Nat) (v : Word) : (d.setPword w a v).jobOf = d.jobOf := rfl
@[simp] theorem Dev.setPword_idleMark (w : Path) (a : Nat) (v : Word) : (d.setPword w a v).idleMark = d.idleMark := rfl
@[simp] theorem Dev.setPword_places (w : Path) (a : Nat) (v : Word) : (d.setPword w a v).places = d.places := rfl
@[simp] theorem Dev.setPword_bank (w : Path) (a : Nat) (v : Word) : (d.setPword w a v).bank = d.bank := rfl
@[simp] theorem Dev.setPword_meas (w : Path) (a : Nat) (v : Word) : (d.setPword w a v).meas = d.meas := rfl
@[simp] theorem Dev.setPword_ptpAt (w : Path) (a : Nat) (v : Word) : (d.setPword w a v).ptpAt = d.ptpAt := rfl

/-! ### Dev.setCore -/

@[simp] theorem Dev.setCore_regs (c : CoreId) (x : Core) : (d.setCore c x).regs = d.regs := rfl
@[simp] theorem Dev.setCore_pathRegs (c : CoreId) (x : Core) : (d.setCore c x).pathRegs = d.pathRegs := rfl
@[simp] theorem Dev.setCore_stores (c : CoreId) (x : Core) : (d.setCore c x).stores = d.stores := rfl
@[simp] theorem Dev.setCore_freeCtr (c : CoreId) (x : Core) : (d.setCore c x).freeCtr = d.freeCtr := rfl
@[simp] theorem Dev.setCore_sent (c : CoreId) (x : Core) : (d.setCore c x).sent = d.sent := rfl
@[simp] theorem Dev.setCore_power (c : CoreId) (x : Core) : (d.setCore c x).power = d.power := rfl
@[simp] theorem Dev.setCore_clocks (c : CoreId) (x : Core) : (d.setCore c x).clocks = d.clocks := rfl
@[simp] theorem Dev.setCore_ctxs (c : CoreId) (x : Core) : (d.setCore c x).ctxs = d.ctxs := rfl
@[simp] theorem Dev.setCore_rings (c : CoreId) (x : Core) : (d.setCore c x).rings = d.rings := rfl
@[simp] theorem Dev.setCore_xmap (c : CoreId) (x : Core) : (d.setCore c x).xmap = d.xmap := rfl
@[simp] theorem Dev.setCore_pageCmds (c : CoreId) (x : Core) : (d.setCore c x).pageCmds = d.pageCmds := rfl
@[simp] theorem Dev.setCore_abandoned (c : CoreId) (x : Core) : (d.setCore c x).abandoned = d.abandoned := rfl
@[simp] theorem Dev.setCore_plainHold (c : CoreId) (x : Core) : (d.setCore c x).plainHold = d.plainHold := rfl
@[simp] theorem Dev.setCore_failHold (c : CoreId) (x : Core) : (d.setCore c x).failHold = d.failHold := rfl
@[simp] theorem Dev.setCore_jobs (c : CoreId) (x : Core) : (d.setCore c x).jobs = d.jobs := rfl
@[simp] theorem Dev.setCore_bankSeq (c : CoreId) (x : Core) : (d.setCore c x).bankSeq = d.bankSeq := rfl
@[simp] theorem Dev.setCore_seqs (c : CoreId) (x : Core) : (d.setCore c x).seqs = d.seqs := rfl
@[simp] theorem Dev.setCore_serving (c : CoreId) (x : Core) : (d.setCore c x).serving = d.serving := rfl
@[simp] theorem Dev.setCore_sessions (c : CoreId) (x : Core) : (d.setCore c x).sessions = d.sessions := rfl
@[simp] theorem Dev.setCore_faults (c : CoreId) (x : Core) : (d.setCore c x).faults = d.faults := rfl
@[simp] theorem Dev.setCore_flash (c : CoreId) (x : Core) : (d.setCore c x).flash = d.flash := rfl
@[simp] theorem Dev.setCore_log (c : CoreId) (x : Core) : (d.setCore c x).log = d.log := rfl
@[simp] theorem Dev.setCore_captures (c : CoreId) (x : Core) : (d.setCore c x).captures = d.captures := rfl
@[simp] theorem Dev.setCore_captureEnd (c : CoreId) (x : Core) : (d.setCore c x).captureEnd = d.captureEnd := rfl
@[simp] theorem Dev.setCore_dumps (c : CoreId) (x : Core) : (d.setCore c x).dumps = d.dumps := rfl
@[simp] theorem Dev.setCore_sensors (c : CoreId) (x : Core) : (d.setCore c x).sensors = d.sensors := rfl
@[simp] theorem Dev.setCore_rules (c : CoreId) (x : Core) : (d.setCore c x).rules = d.rules := rfl
@[simp] theorem Dev.setCore_digests (c : CoreId) (x : Core) : (d.setCore c x).digests = d.digests := rfl
@[simp] theorem Dev.setCore_ecc (c : CoreId) (x : Core) : (d.setCore c x).ecc = d.ecc := rfl
@[simp] theorem Dev.setCore_patrol (c : CoreId) (x : Core) : (d.setCore c x).patrol = d.patrol := rfl
@[simp] theorem Dev.setCore_stackUse (c : CoreId) (x : Core) : (d.setCore c x).stackUse = d.stackUse := rfl
@[simp] theorem Dev.setCore_loads (c : CoreId) (x : Core) : (d.setCore c x).loads = d.loads := rfl
@[simp] theorem Dev.setCore_castling (c : CoreId) (x : Core) : (d.setCore c x).castling = d.castling := rfl
@[simp] theorem Dev.setCore_turnGen (c : CoreId) (x : Core) : (d.setCore c x).turnGen = d.turnGen := rfl
@[simp] theorem Dev.setCore_moves (c : CoreId) (x : Core) : (d.setCore c x).moves = d.moves := rfl
@[simp] theorem Dev.setCore_egress (c : CoreId) (x : Core) : (d.setCore c x).egress = d.egress := rfl
@[simp] theorem Dev.setCore_flowOut (c : CoreId) (x : Core) : (d.setCore c x).flowOut = d.flowOut := rfl
@[simp] theorem Dev.setCore_ports (c : CoreId) (x : Core) : (d.setCore c x).ports = d.ports := rfl
@[simp] theorem Dev.setCore_routes (c : CoreId) (x : Core) : (d.setCore c x).routes = d.routes := rfl
@[simp] theorem Dev.setCore_held (c : CoreId) (x : Core) : (d.setCore c x).held = d.held := rfl
@[simp] theorem Dev.setCore_transit (c : CoreId) (x : Core) : (d.setCore c x).transit = d.transit := rfl
@[simp] theorem Dev.setCore_inbox (c : CoreId) (x : Core) : (d.setCore c x).inbox = d.inbox := rfl
@[simp] theorem Dev.setCore_flowIn (c : CoreId) (x : Core) : (d.setCore c x).flowIn = d.flowIn := rfl
@[simp] theorem Dev.setCore_written (c : CoreId) (x : Core) : (d.setCore c x).written = d.written := rfl
@[simp] theorem Dev.setCore_unsent (c : CoreId) (x : Core) : (d.setCore c x).unsent = d.unsent := rfl
@[simp] theorem Dev.setCore_arrived (c : CoreId) (x : Core) : (d.setCore c x).arrived = d.arrived := rfl
@[simp] theorem Dev.setCore_qps (c : CoreId) (x : Core) : (d.setCore c x).qps = d.qps := rfl
@[simp] theorem Dev.setCore_peers (c : CoreId) (x : Core) : (d.setCore c x).peers = d.peers := rfl
@[simp] theorem Dev.setCore_paused (c : CoreId) (x : Core) : (d.setCore c x).paused = d.paused := rfl
@[simp] theorem Dev.setCore_temps (c : CoreId) (x : Core) : (d.setCore c x).temps = d.temps := rfl
@[simp] theorem Dev.setCore_hotSince (c : CoreId) (x : Core) : (d.setCore c x).hotSince = d.hotSince := rfl
@[simp] theorem Dev.setCore_thermAt (c : CoreId) (x : Core) : (d.setCore c x).thermAt = d.thermAt := rfl
@[simp] theorem Dev.setCore_capSamples (c : CoreId) (x : Core) : (d.setCore c x).capSamples = d.capSamples := rfl
@[simp] theorem Dev.setCore_floorSince (c : CoreId) (x : Core) : (d.setCore c x).floorSince = d.floorSince := rfl
@[simp] theorem Dev.setCore_pace (c : CoreId) (x : Core) : (d.setCore c x).pace = d.pace := rfl
@[simp] theorem Dev.setCore_paceIn (c : CoreId) (x : Core) : (d.setCore c x).paceIn = d.paceIn := rfl
@[simp] theorem Dev.setCore_charges (c : CoreId) (x : Core) : (d.setCore c x).charges = d.charges := rfl
@[simp] theorem Dev.setCore_ringPips (c : CoreId) (x : Core) : (d.setCore c x).ringPips = d.ringPips := rfl
@[simp] theorem Dev.setCore_railPips (c : CoreId) (x : Core) : (d.setCore c x).railPips = d.railPips := rfl
@[simp] theorem Dev.setCore_staleSince (c : CoreId) (x : Core) : (d.setCore c x).staleSince = d.staleSince := rfl
@[simp] theorem Dev.setCore_idleSpan (c : CoreId) (x : Core) : (d.setCore c x).idleSpan = d.idleSpan := rfl
@[simp] theorem Dev.setCore_stillSince (c : CoreId) (x : Core) : (d.setCore c x).stillSince = d.stillSince := rfl
@[simp] theorem Dev.setCore_jobOf (c : CoreId) (x : Core) : (d.setCore c x).jobOf = d.jobOf := rfl
@[simp] theorem Dev.setCore_idleMark (c : CoreId) (x : Core) : (d.setCore c x).idleMark = d.idleMark := rfl
@[simp] theorem Dev.setCore_places (c : CoreId) (x : Core) : (d.setCore c x).places = d.places := rfl
@[simp] theorem Dev.setCore_bank (c : CoreId) (x : Core) : (d.setCore c x).bank = d.bank := rfl
@[simp] theorem Dev.setCore_meas (c : CoreId) (x : Core) : (d.setCore c x).meas = d.meas := rfl
@[simp] theorem Dev.setCore_ptpAt (c : CoreId) (x : Core) : (d.setCore c x).ptpAt = d.ptpAt := rfl

/-! ### Dev.setCtx -/

@[simp] theorem Dev.setCtx_regs (k : Nat) (x : Ctx) : (d.setCtx k x).regs = d.regs := rfl
@[simp] theorem Dev.setCtx_pathRegs (k : Nat) (x : Ctx) : (d.setCtx k x).pathRegs = d.pathRegs := rfl
@[simp] theorem Dev.setCtx_stores (k : Nat) (x : Ctx) : (d.setCtx k x).stores = d.stores := rfl
@[simp] theorem Dev.setCtx_freeCtr (k : Nat) (x : Ctx) : (d.setCtx k x).freeCtr = d.freeCtr := rfl
@[simp] theorem Dev.setCtx_sent (k : Nat) (x : Ctx) : (d.setCtx k x).sent = d.sent := rfl
@[simp] theorem Dev.setCtx_power (k : Nat) (x : Ctx) : (d.setCtx k x).power = d.power := rfl
@[simp] theorem Dev.setCtx_clocks (k : Nat) (x : Ctx) : (d.setCtx k x).clocks = d.clocks := rfl
@[simp] theorem Dev.setCtx_cores (k : Nat) (x : Ctx) : (d.setCtx k x).cores = d.cores := rfl
@[simp] theorem Dev.setCtx_rings (k : Nat) (x : Ctx) : (d.setCtx k x).rings = d.rings := rfl
@[simp] theorem Dev.setCtx_xmap (k : Nat) (x : Ctx) : (d.setCtx k x).xmap = d.xmap := rfl
@[simp] theorem Dev.setCtx_pageCmds (k : Nat) (x : Ctx) : (d.setCtx k x).pageCmds = d.pageCmds := rfl
@[simp] theorem Dev.setCtx_abandoned (k : Nat) (x : Ctx) : (d.setCtx k x).abandoned = d.abandoned := rfl
@[simp] theorem Dev.setCtx_plainHold (k : Nat) (x : Ctx) : (d.setCtx k x).plainHold = d.plainHold := rfl
@[simp] theorem Dev.setCtx_failHold (k : Nat) (x : Ctx) : (d.setCtx k x).failHold = d.failHold := rfl
@[simp] theorem Dev.setCtx_jobs (k : Nat) (x : Ctx) : (d.setCtx k x).jobs = d.jobs := rfl
@[simp] theorem Dev.setCtx_bankSeq (k : Nat) (x : Ctx) : (d.setCtx k x).bankSeq = d.bankSeq := rfl
@[simp] theorem Dev.setCtx_seqs (k : Nat) (x : Ctx) : (d.setCtx k x).seqs = d.seqs := rfl
@[simp] theorem Dev.setCtx_serving (k : Nat) (x : Ctx) : (d.setCtx k x).serving = d.serving := rfl
@[simp] theorem Dev.setCtx_sessions (k : Nat) (x : Ctx) : (d.setCtx k x).sessions = d.sessions := rfl
@[simp] theorem Dev.setCtx_faults (k : Nat) (x : Ctx) : (d.setCtx k x).faults = d.faults := rfl
@[simp] theorem Dev.setCtx_flash (k : Nat) (x : Ctx) : (d.setCtx k x).flash = d.flash := rfl
@[simp] theorem Dev.setCtx_log (k : Nat) (x : Ctx) : (d.setCtx k x).log = d.log := rfl
@[simp] theorem Dev.setCtx_captures (k : Nat) (x : Ctx) : (d.setCtx k x).captures = d.captures := rfl
@[simp] theorem Dev.setCtx_captureEnd (k : Nat) (x : Ctx) : (d.setCtx k x).captureEnd = d.captureEnd := rfl
@[simp] theorem Dev.setCtx_dumps (k : Nat) (x : Ctx) : (d.setCtx k x).dumps = d.dumps := rfl
@[simp] theorem Dev.setCtx_sensors (k : Nat) (x : Ctx) : (d.setCtx k x).sensors = d.sensors := rfl
@[simp] theorem Dev.setCtx_rules (k : Nat) (x : Ctx) : (d.setCtx k x).rules = d.rules := rfl
@[simp] theorem Dev.setCtx_digests (k : Nat) (x : Ctx) : (d.setCtx k x).digests = d.digests := rfl
@[simp] theorem Dev.setCtx_ecc (k : Nat) (x : Ctx) : (d.setCtx k x).ecc = d.ecc := rfl
@[simp] theorem Dev.setCtx_patrol (k : Nat) (x : Ctx) : (d.setCtx k x).patrol = d.patrol := rfl
@[simp] theorem Dev.setCtx_stackUse (k : Nat) (x : Ctx) : (d.setCtx k x).stackUse = d.stackUse := rfl
@[simp] theorem Dev.setCtx_loads (k : Nat) (x : Ctx) : (d.setCtx k x).loads = d.loads := rfl
@[simp] theorem Dev.setCtx_castling (k : Nat) (x : Ctx) : (d.setCtx k x).castling = d.castling := rfl
@[simp] theorem Dev.setCtx_turnGen (k : Nat) (x : Ctx) : (d.setCtx k x).turnGen = d.turnGen := rfl
@[simp] theorem Dev.setCtx_moves (k : Nat) (x : Ctx) : (d.setCtx k x).moves = d.moves := rfl
@[simp] theorem Dev.setCtx_egress (k : Nat) (x : Ctx) : (d.setCtx k x).egress = d.egress := rfl
@[simp] theorem Dev.setCtx_flowOut (k : Nat) (x : Ctx) : (d.setCtx k x).flowOut = d.flowOut := rfl
@[simp] theorem Dev.setCtx_ports (k : Nat) (x : Ctx) : (d.setCtx k x).ports = d.ports := rfl
@[simp] theorem Dev.setCtx_routes (k : Nat) (x : Ctx) : (d.setCtx k x).routes = d.routes := rfl
@[simp] theorem Dev.setCtx_held (k : Nat) (x : Ctx) : (d.setCtx k x).held = d.held := rfl
@[simp] theorem Dev.setCtx_transit (k : Nat) (x : Ctx) : (d.setCtx k x).transit = d.transit := rfl
@[simp] theorem Dev.setCtx_inbox (k : Nat) (x : Ctx) : (d.setCtx k x).inbox = d.inbox := rfl
@[simp] theorem Dev.setCtx_flowIn (k : Nat) (x : Ctx) : (d.setCtx k x).flowIn = d.flowIn := rfl
@[simp] theorem Dev.setCtx_written (k : Nat) (x : Ctx) : (d.setCtx k x).written = d.written := rfl
@[simp] theorem Dev.setCtx_unsent (k : Nat) (x : Ctx) : (d.setCtx k x).unsent = d.unsent := rfl
@[simp] theorem Dev.setCtx_arrived (k : Nat) (x : Ctx) : (d.setCtx k x).arrived = d.arrived := rfl
@[simp] theorem Dev.setCtx_qps (k : Nat) (x : Ctx) : (d.setCtx k x).qps = d.qps := rfl
@[simp] theorem Dev.setCtx_peers (k : Nat) (x : Ctx) : (d.setCtx k x).peers = d.peers := rfl
@[simp] theorem Dev.setCtx_paused (k : Nat) (x : Ctx) : (d.setCtx k x).paused = d.paused := rfl
@[simp] theorem Dev.setCtx_temps (k : Nat) (x : Ctx) : (d.setCtx k x).temps = d.temps := rfl
@[simp] theorem Dev.setCtx_hotSince (k : Nat) (x : Ctx) : (d.setCtx k x).hotSince = d.hotSince := rfl
@[simp] theorem Dev.setCtx_thermAt (k : Nat) (x : Ctx) : (d.setCtx k x).thermAt = d.thermAt := rfl
@[simp] theorem Dev.setCtx_capSamples (k : Nat) (x : Ctx) : (d.setCtx k x).capSamples = d.capSamples := rfl
@[simp] theorem Dev.setCtx_floorSince (k : Nat) (x : Ctx) : (d.setCtx k x).floorSince = d.floorSince := rfl
@[simp] theorem Dev.setCtx_pace (k : Nat) (x : Ctx) : (d.setCtx k x).pace = d.pace := rfl
@[simp] theorem Dev.setCtx_paceIn (k : Nat) (x : Ctx) : (d.setCtx k x).paceIn = d.paceIn := rfl
@[simp] theorem Dev.setCtx_charges (k : Nat) (x : Ctx) : (d.setCtx k x).charges = d.charges := rfl
@[simp] theorem Dev.setCtx_ringPips (k : Nat) (x : Ctx) : (d.setCtx k x).ringPips = d.ringPips := rfl
@[simp] theorem Dev.setCtx_railPips (k : Nat) (x : Ctx) : (d.setCtx k x).railPips = d.railPips := rfl
@[simp] theorem Dev.setCtx_staleSince (k : Nat) (x : Ctx) : (d.setCtx k x).staleSince = d.staleSince := rfl
@[simp] theorem Dev.setCtx_idleSpan (k : Nat) (x : Ctx) : (d.setCtx k x).idleSpan = d.idleSpan := rfl
@[simp] theorem Dev.setCtx_stillSince (k : Nat) (x : Ctx) : (d.setCtx k x).stillSince = d.stillSince := rfl
@[simp] theorem Dev.setCtx_jobOf (k : Nat) (x : Ctx) : (d.setCtx k x).jobOf = d.jobOf := rfl
@[simp] theorem Dev.setCtx_idleMark (k : Nat) (x : Ctx) : (d.setCtx k x).idleMark = d.idleMark := rfl
@[simp] theorem Dev.setCtx_places (k : Nat) (x : Ctx) : (d.setCtx k x).places = d.places := rfl
@[simp] theorem Dev.setCtx_bank (k : Nat) (x : Ctx) : (d.setCtx k x).bank = d.bank := rfl
@[simp] theorem Dev.setCtx_meas (k : Nat) (x : Ctx) : (d.setCtx k x).meas = d.meas := rfl
@[simp] theorem Dev.setCtx_ptpAt (k : Nat) (x : Ctx) : (d.setCtx k x).ptpAt = d.ptpAt := rfl

/-! ### Dev.setRing -/

@[simp] theorem Dev.setRing_regs (r : Nat) (x : Ring) : (d.setRing r x).regs = d.regs := rfl
@[simp] theorem Dev.setRing_pathRegs (r : Nat) (x : Ring) : (d.setRing r x).pathRegs = d.pathRegs := rfl
@[simp] theorem Dev.setRing_stores (r : Nat) (x : Ring) : (d.setRing r x).stores = d.stores := rfl
@[simp] theorem Dev.setRing_freeCtr (r : Nat) (x : Ring) : (d.setRing r x).freeCtr = d.freeCtr := rfl
@[simp] theorem Dev.setRing_sent (r : Nat) (x : Ring) : (d.setRing r x).sent = d.sent := rfl
@[simp] theorem Dev.setRing_power (r : Nat) (x : Ring) : (d.setRing r x).power = d.power := rfl
@[simp] theorem Dev.setRing_clocks (r : Nat) (x : Ring) : (d.setRing r x).clocks = d.clocks := rfl
@[simp] theorem Dev.setRing_cores (r : Nat) (x : Ring) : (d.setRing r x).cores = d.cores := rfl
@[simp] theorem Dev.setRing_ctxs (r : Nat) (x : Ring) : (d.setRing r x).ctxs = d.ctxs := rfl
@[simp] theorem Dev.setRing_xmap (r : Nat) (x : Ring) : (d.setRing r x).xmap = d.xmap := rfl
@[simp] theorem Dev.setRing_pageCmds (r : Nat) (x : Ring) : (d.setRing r x).pageCmds = d.pageCmds := rfl
@[simp] theorem Dev.setRing_abandoned (r : Nat) (x : Ring) : (d.setRing r x).abandoned = d.abandoned := rfl
@[simp] theorem Dev.setRing_plainHold (r : Nat) (x : Ring) : (d.setRing r x).plainHold = d.plainHold := rfl
@[simp] theorem Dev.setRing_failHold (r : Nat) (x : Ring) : (d.setRing r x).failHold = d.failHold := rfl
@[simp] theorem Dev.setRing_jobs (r : Nat) (x : Ring) : (d.setRing r x).jobs = d.jobs := rfl
@[simp] theorem Dev.setRing_bankSeq (r : Nat) (x : Ring) : (d.setRing r x).bankSeq = d.bankSeq := rfl
@[simp] theorem Dev.setRing_seqs (r : Nat) (x : Ring) : (d.setRing r x).seqs = d.seqs := rfl
@[simp] theorem Dev.setRing_serving (r : Nat) (x : Ring) : (d.setRing r x).serving = d.serving := rfl
@[simp] theorem Dev.setRing_sessions (r : Nat) (x : Ring) : (d.setRing r x).sessions = d.sessions := rfl
@[simp] theorem Dev.setRing_faults (r : Nat) (x : Ring) : (d.setRing r x).faults = d.faults := rfl
@[simp] theorem Dev.setRing_flash (r : Nat) (x : Ring) : (d.setRing r x).flash = d.flash := rfl
@[simp] theorem Dev.setRing_log (r : Nat) (x : Ring) : (d.setRing r x).log = d.log := rfl
@[simp] theorem Dev.setRing_captures (r : Nat) (x : Ring) : (d.setRing r x).captures = d.captures := rfl
@[simp] theorem Dev.setRing_captureEnd (r : Nat) (x : Ring) : (d.setRing r x).captureEnd = d.captureEnd := rfl
@[simp] theorem Dev.setRing_dumps (r : Nat) (x : Ring) : (d.setRing r x).dumps = d.dumps := rfl
@[simp] theorem Dev.setRing_sensors (r : Nat) (x : Ring) : (d.setRing r x).sensors = d.sensors := rfl
@[simp] theorem Dev.setRing_rules (r : Nat) (x : Ring) : (d.setRing r x).rules = d.rules := rfl
@[simp] theorem Dev.setRing_digests (r : Nat) (x : Ring) : (d.setRing r x).digests = d.digests := rfl
@[simp] theorem Dev.setRing_ecc (r : Nat) (x : Ring) : (d.setRing r x).ecc = d.ecc := rfl
@[simp] theorem Dev.setRing_patrol (r : Nat) (x : Ring) : (d.setRing r x).patrol = d.patrol := rfl
@[simp] theorem Dev.setRing_stackUse (r : Nat) (x : Ring) : (d.setRing r x).stackUse = d.stackUse := rfl
@[simp] theorem Dev.setRing_loads (r : Nat) (x : Ring) : (d.setRing r x).loads = d.loads := rfl
@[simp] theorem Dev.setRing_castling (r : Nat) (x : Ring) : (d.setRing r x).castling = d.castling := rfl
@[simp] theorem Dev.setRing_turnGen (r : Nat) (x : Ring) : (d.setRing r x).turnGen = d.turnGen := rfl
@[simp] theorem Dev.setRing_moves (r : Nat) (x : Ring) : (d.setRing r x).moves = d.moves := rfl
@[simp] theorem Dev.setRing_egress (r : Nat) (x : Ring) : (d.setRing r x).egress = d.egress := rfl
@[simp] theorem Dev.setRing_flowOut (r : Nat) (x : Ring) : (d.setRing r x).flowOut = d.flowOut := rfl
@[simp] theorem Dev.setRing_ports (r : Nat) (x : Ring) : (d.setRing r x).ports = d.ports := rfl
@[simp] theorem Dev.setRing_routes (r : Nat) (x : Ring) : (d.setRing r x).routes = d.routes := rfl
@[simp] theorem Dev.setRing_held (r : Nat) (x : Ring) : (d.setRing r x).held = d.held := rfl
@[simp] theorem Dev.setRing_transit (r : Nat) (x : Ring) : (d.setRing r x).transit = d.transit := rfl
@[simp] theorem Dev.setRing_inbox (r : Nat) (x : Ring) : (d.setRing r x).inbox = d.inbox := rfl
@[simp] theorem Dev.setRing_flowIn (r : Nat) (x : Ring) : (d.setRing r x).flowIn = d.flowIn := rfl
@[simp] theorem Dev.setRing_written (r : Nat) (x : Ring) : (d.setRing r x).written = d.written := rfl
@[simp] theorem Dev.setRing_unsent (r : Nat) (x : Ring) : (d.setRing r x).unsent = d.unsent := rfl
@[simp] theorem Dev.setRing_arrived (r : Nat) (x : Ring) : (d.setRing r x).arrived = d.arrived := rfl
@[simp] theorem Dev.setRing_qps (r : Nat) (x : Ring) : (d.setRing r x).qps = d.qps := rfl
@[simp] theorem Dev.setRing_peers (r : Nat) (x : Ring) : (d.setRing r x).peers = d.peers := rfl
@[simp] theorem Dev.setRing_paused (r : Nat) (x : Ring) : (d.setRing r x).paused = d.paused := rfl
@[simp] theorem Dev.setRing_temps (r : Nat) (x : Ring) : (d.setRing r x).temps = d.temps := rfl
@[simp] theorem Dev.setRing_hotSince (r : Nat) (x : Ring) : (d.setRing r x).hotSince = d.hotSince := rfl
@[simp] theorem Dev.setRing_thermAt (r : Nat) (x : Ring) : (d.setRing r x).thermAt = d.thermAt := rfl
@[simp] theorem Dev.setRing_capSamples (r : Nat) (x : Ring) : (d.setRing r x).capSamples = d.capSamples := rfl
@[simp] theorem Dev.setRing_floorSince (r : Nat) (x : Ring) : (d.setRing r x).floorSince = d.floorSince := rfl
@[simp] theorem Dev.setRing_pace (r : Nat) (x : Ring) : (d.setRing r x).pace = d.pace := rfl
@[simp] theorem Dev.setRing_paceIn (r : Nat) (x : Ring) : (d.setRing r x).paceIn = d.paceIn := rfl
@[simp] theorem Dev.setRing_charges (r : Nat) (x : Ring) : (d.setRing r x).charges = d.charges := rfl
@[simp] theorem Dev.setRing_ringPips (r : Nat) (x : Ring) : (d.setRing r x).ringPips = d.ringPips := rfl
@[simp] theorem Dev.setRing_railPips (r : Nat) (x : Ring) : (d.setRing r x).railPips = d.railPips := rfl
@[simp] theorem Dev.setRing_staleSince (r : Nat) (x : Ring) : (d.setRing r x).staleSince = d.staleSince := rfl
@[simp] theorem Dev.setRing_idleSpan (r : Nat) (x : Ring) : (d.setRing r x).idleSpan = d.idleSpan := rfl
@[simp] theorem Dev.setRing_stillSince (r : Nat) (x : Ring) : (d.setRing r x).stillSince = d.stillSince := rfl
@[simp] theorem Dev.setRing_jobOf (r : Nat) (x : Ring) : (d.setRing r x).jobOf = d.jobOf := rfl
@[simp] theorem Dev.setRing_idleMark (r : Nat) (x : Ring) : (d.setRing r x).idleMark = d.idleMark := rfl
@[simp] theorem Dev.setRing_places (r : Nat) (x : Ring) : (d.setRing r x).places = d.places := rfl
@[simp] theorem Dev.setRing_bank (r : Nat) (x : Ring) : (d.setRing r x).bank = d.bank := rfl
@[simp] theorem Dev.setRing_meas (r : Nat) (x : Ring) : (d.setRing r x).meas = d.meas := rfl
@[simp] theorem Dev.setRing_ptpAt (r : Nat) (x : Ring) : (d.setRing r x).ptpAt = d.ptpAt := rfl

/-! ### Dev.setXent -/

@[simp] theorem Dev.setXent_regs (e v : Nat) : (d.setXent e v).regs = d.regs := rfl
@[simp] theorem Dev.setXent_pathRegs (e v : Nat) : (d.setXent e v).pathRegs = d.pathRegs := rfl
@[simp] theorem Dev.setXent_stores (e v : Nat) : (d.setXent e v).stores = d.stores := rfl
@[simp] theorem Dev.setXent_freeCtr (e v : Nat) : (d.setXent e v).freeCtr = d.freeCtr := rfl
@[simp] theorem Dev.setXent_sent (e v : Nat) : (d.setXent e v).sent = d.sent := rfl
@[simp] theorem Dev.setXent_power (e v : Nat) : (d.setXent e v).power = d.power := rfl
@[simp] theorem Dev.setXent_clocks (e v : Nat) : (d.setXent e v).clocks = d.clocks := rfl
@[simp] theorem Dev.setXent_cores (e v : Nat) : (d.setXent e v).cores = d.cores := rfl
@[simp] theorem Dev.setXent_ctxs (e v : Nat) : (d.setXent e v).ctxs = d.ctxs := rfl
@[simp] theorem Dev.setXent_rings (e v : Nat) : (d.setXent e v).rings = d.rings := rfl
@[simp] theorem Dev.setXent_pageCmds (e v : Nat) : (d.setXent e v).pageCmds = d.pageCmds := rfl
@[simp] theorem Dev.setXent_abandoned (e v : Nat) : (d.setXent e v).abandoned = d.abandoned := rfl
@[simp] theorem Dev.setXent_plainHold (e v : Nat) : (d.setXent e v).plainHold = d.plainHold := rfl
@[simp] theorem Dev.setXent_failHold (e v : Nat) : (d.setXent e v).failHold = d.failHold := rfl
@[simp] theorem Dev.setXent_jobs (e v : Nat) : (d.setXent e v).jobs = d.jobs := rfl
@[simp] theorem Dev.setXent_bankSeq (e v : Nat) : (d.setXent e v).bankSeq = d.bankSeq := rfl
@[simp] theorem Dev.setXent_seqs (e v : Nat) : (d.setXent e v).seqs = d.seqs := rfl
@[simp] theorem Dev.setXent_serving (e v : Nat) : (d.setXent e v).serving = d.serving := rfl
@[simp] theorem Dev.setXent_sessions (e v : Nat) : (d.setXent e v).sessions = d.sessions := rfl
@[simp] theorem Dev.setXent_faults (e v : Nat) : (d.setXent e v).faults = d.faults := rfl
@[simp] theorem Dev.setXent_flash (e v : Nat) : (d.setXent e v).flash = d.flash := rfl
@[simp] theorem Dev.setXent_log (e v : Nat) : (d.setXent e v).log = d.log := rfl
@[simp] theorem Dev.setXent_captures (e v : Nat) : (d.setXent e v).captures = d.captures := rfl
@[simp] theorem Dev.setXent_captureEnd (e v : Nat) : (d.setXent e v).captureEnd = d.captureEnd := rfl
@[simp] theorem Dev.setXent_dumps (e v : Nat) : (d.setXent e v).dumps = d.dumps := rfl
@[simp] theorem Dev.setXent_sensors (e v : Nat) : (d.setXent e v).sensors = d.sensors := rfl
@[simp] theorem Dev.setXent_rules (e v : Nat) : (d.setXent e v).rules = d.rules := rfl
@[simp] theorem Dev.setXent_digests (e v : Nat) : (d.setXent e v).digests = d.digests := rfl
@[simp] theorem Dev.setXent_ecc (e v : Nat) : (d.setXent e v).ecc = d.ecc := rfl
@[simp] theorem Dev.setXent_patrol (e v : Nat) : (d.setXent e v).patrol = d.patrol := rfl
@[simp] theorem Dev.setXent_stackUse (e v : Nat) : (d.setXent e v).stackUse = d.stackUse := rfl
@[simp] theorem Dev.setXent_loads (e v : Nat) : (d.setXent e v).loads = d.loads := rfl
@[simp] theorem Dev.setXent_castling (e v : Nat) : (d.setXent e v).castling = d.castling := rfl
@[simp] theorem Dev.setXent_turnGen (e v : Nat) : (d.setXent e v).turnGen = d.turnGen := rfl
@[simp] theorem Dev.setXent_moves (e v : Nat) : (d.setXent e v).moves = d.moves := rfl
@[simp] theorem Dev.setXent_egress (e v : Nat) : (d.setXent e v).egress = d.egress := rfl
@[simp] theorem Dev.setXent_flowOut (e v : Nat) : (d.setXent e v).flowOut = d.flowOut := rfl
@[simp] theorem Dev.setXent_ports (e v : Nat) : (d.setXent e v).ports = d.ports := rfl
@[simp] theorem Dev.setXent_routes (e v : Nat) : (d.setXent e v).routes = d.routes := rfl
@[simp] theorem Dev.setXent_held (e v : Nat) : (d.setXent e v).held = d.held := rfl
@[simp] theorem Dev.setXent_transit (e v : Nat) : (d.setXent e v).transit = d.transit := rfl
@[simp] theorem Dev.setXent_inbox (e v : Nat) : (d.setXent e v).inbox = d.inbox := rfl
@[simp] theorem Dev.setXent_flowIn (e v : Nat) : (d.setXent e v).flowIn = d.flowIn := rfl
@[simp] theorem Dev.setXent_written (e v : Nat) : (d.setXent e v).written = d.written := rfl
@[simp] theorem Dev.setXent_unsent (e v : Nat) : (d.setXent e v).unsent = d.unsent := rfl
@[simp] theorem Dev.setXent_arrived (e v : Nat) : (d.setXent e v).arrived = d.arrived := rfl
@[simp] theorem Dev.setXent_qps (e v : Nat) : (d.setXent e v).qps = d.qps := rfl
@[simp] theorem Dev.setXent_peers (e v : Nat) : (d.setXent e v).peers = d.peers := rfl
@[simp] theorem Dev.setXent_paused (e v : Nat) : (d.setXent e v).paused = d.paused := rfl
@[simp] theorem Dev.setXent_temps (e v : Nat) : (d.setXent e v).temps = d.temps := rfl
@[simp] theorem Dev.setXent_hotSince (e v : Nat) : (d.setXent e v).hotSince = d.hotSince := rfl
@[simp] theorem Dev.setXent_thermAt (e v : Nat) : (d.setXent e v).thermAt = d.thermAt := rfl
@[simp] theorem Dev.setXent_capSamples (e v : Nat) : (d.setXent e v).capSamples = d.capSamples := rfl
@[simp] theorem Dev.setXent_floorSince (e v : Nat) : (d.setXent e v).floorSince = d.floorSince := rfl
@[simp] theorem Dev.setXent_pace (e v : Nat) : (d.setXent e v).pace = d.pace := rfl
@[simp] theorem Dev.setXent_paceIn (e v : Nat) : (d.setXent e v).paceIn = d.paceIn := rfl
@[simp] theorem Dev.setXent_charges (e v : Nat) : (d.setXent e v).charges = d.charges := rfl
@[simp] theorem Dev.setXent_ringPips (e v : Nat) : (d.setXent e v).ringPips = d.ringPips := rfl
@[simp] theorem Dev.setXent_railPips (e v : Nat) : (d.setXent e v).railPips = d.railPips := rfl
@[simp] theorem Dev.setXent_staleSince (e v : Nat) : (d.setXent e v).staleSince = d.staleSince := rfl
@[simp] theorem Dev.setXent_idleSpan (e v : Nat) : (d.setXent e v).idleSpan = d.idleSpan := rfl
@[simp] theorem Dev.setXent_stillSince (e v : Nat) : (d.setXent e v).stillSince = d.stillSince := rfl
@[simp] theorem Dev.setXent_jobOf (e v : Nat) : (d.setXent e v).jobOf = d.jobOf := rfl
@[simp] theorem Dev.setXent_idleMark (e v : Nat) : (d.setXent e v).idleMark = d.idleMark := rfl
@[simp] theorem Dev.setXent_places (e v : Nat) : (d.setXent e v).places = d.places := rfl
@[simp] theorem Dev.setXent_bank (e v : Nat) : (d.setXent e v).bank = d.bank := rfl
@[simp] theorem Dev.setXent_meas (e v : Nat) : (d.setXent e v).meas = d.meas := rfl
@[simp] theorem Dev.setXent_ptpAt (e v : Nat) : (d.setXent e v).ptpAt = d.ptpAt := rfl

/-! ### What the setters set -/

@[simp] theorem Dev.store_stores (a : Nat) (l : List Byte) : (d.store a l).stores = .bytes a l :: d.stores := rfl
@[simp] theorem Dev.clearMem_stores (a n : Nat) : (d.clearMem a n).stores = .clear a n :: d.stores := rfl
@[simp] theorem Dev.send_sent (x : Sent) : (d.send x).sent = x :: d.sent := rfl
@[simp] theorem Dev.setFlash_flash (x : Flash) : (d.setFlash x).flash = x := rfl
@[simp] theorem Dev.setPower_power (p : Power) : (d.setPower p).power = p := rfl

theorem Dev.clock_setClock (k i : Nat) (c : Clock) : (d.setClock k c).clock i = if k = i then c else d.clock i :=
  tGet_tSet _ _ _ _ _

theorem Dev.word_setWord (a b : Nat) (v : Word) : (d.setWord a v).word b = if a = b then v else d.word b := by
  unfold Dev.word Dev.setWord
  rw [tFind_tPut]; split <;> simp_all

theorem Dev.pword_setPword (w : Path) (a b : Nat) (v : Word) :
    (d.setPword w a v).pword w b = if a = b then v else d.pword w b := by
  unfold Dev.pword Dev.setPword
  rw [tFind_tPut]
  by_cases h : a = b
  · simp [h]
  · have : pathKey w a ≠ pathKey w b := by unfold pathKey; omega
    simp [h, this]

theorem Dev.core_setCore (c e : CoreId) (x : Core) : (d.setCore c x).core e = if c = e then x else d.core e := by
  unfold Dev.core Dev.setCore
  rw [tGet_tSet]
  by_cases h : c = e
  · simp [h]
  · have : ¬ c.val = e.val := fun h' => h (Fin.ext h')
    simp [h, this]

theorem Dev.ctx?_setCtx (k i : Nat) (x : Ctx) : (d.setCtx k x).ctx? i = if k = i then some x else d.ctx? i :=
  tFind_tPut _ _ _ _

theorem Dev.ring_setRing (r i : Nat) (x : Ring) : (d.setRing r x).ring i = if r = i then x else d.ring i :=
  tGet_tSet _ _ _ _ _

theorem Dev.xent_setXent (e i v : Nat) : (d.setXent e v).xent i = if e = i then v % 2 ^ 128 else d.xent i := by
  unfold Dev.xent Dev.setXent
  by_cases h : e = i
  · subst h
    by_cases hv : BitVec.ofNat 128 v = xDefault e
    · simp only [hv, if_true, tFind_tDel, Option.getD_none]
      rw [← hv, BitVec.toNat_ofNat]
    · simp only [hv, if_false, tFind_tPut_self, Option.getD_some, if_true, BitVec.toNat_ofNat]
  · simp only [h, if_false]
    split
    · rw [tFind_tDel, if_neg h]
    · rw [tFind_tPut_ne h]

@[simp] theorem Dev.core_setCore_self (c : CoreId) (x : Core) : (d.setCore c x).core c = x := by simp [Dev.core_setCore]
@[simp] theorem Dev.ctx?_setCtx_self (k : Nat) (x : Ctx) : (d.setCtx k x).ctx? k = some x := by simp [Dev.ctx?_setCtx]
@[simp] theorem Dev.ring_setRing_self (r : Nat) (x : Ring) : (d.setRing r x).ring r = x := by simp [Dev.ring_setRing]
@[simp] theorem Dev.word_setWord_self (a : Nat) (v : Word) : (d.setWord a v).word a = v := by simp [Dev.word_setWord]
@[simp] theorem Dev.clock_setClock_self (k : Nat) (c : Clock) : (d.setClock k c).clock k = c := by simp [Dev.clock_setClock]

end Sys2Proof.Machine
end

