-- ==== Sys2Proof/Laws/Memory.lean ====
section
/-! SUPPORT. Device memory: what a store does to every byte, that every operation keeps the canonical form, and what
running a command's change of the device does to the state (Ops). -/

namespace Sys2Proof.Machine

/-! ### One byte -/

theorem bGet_bSet (a i : Nat) (b : Byte) (m : Mem) : bGet (bSet a b m) i = if a = i then b else bGet m i :=
  tGet_tSet _ _ _ _ _

theorem bGet_bWrite (a i : Nat) (l : List Byte) (m : Mem) :
    bGet (bWrite a l m) i = if a ≤ i ∧ i < a + l.length then l.getD (i - a) 0 else bGet m i := by
  induction l generalizing a m with
  | nil =>
    have : ¬ (a ≤ i ∧ i < a + 0) := by omega
    simp only [bWrite, List.length_nil]
    rw [if_neg this]
  | cons b r ih =>
    rw [bWrite, ih, bGet_bSet]
    by_cases h : a = i
    · subst h; simp
    · by_cases h2 : a + 1 ≤ i ∧ i < a + 1 + r.length
      · have h3 : a ≤ i ∧ i < a + (b :: r).length := by simp; omega
        rw [if_pos h2, if_pos h3]
        have : i - a = (i - (a + 1)) + 1 := by omega
        rw [this]; simp
      · have h3 : ¬ (a ≤ i ∧ i < a + (b :: r).length) := by simp; omega
        rw [if_neg h2, if_neg h3, if_neg h]

theorem Store.bGet_apply (s : Store) (m : Mem) (i : Nat) : bGet (s.apply m) i = (s.byteAt i).getD (bGet m i) := by
  cases s with
  | bytes a l =>
    simp only [Store.apply, Store.byteAt, bGet_bWrite]
    by_cases h : a ≤ i
    · by_cases h2 : i < a + l.length
      · have h3 : i - a < l.length := by omega
        simp [h, h2, h3, List.getD]
      · have h3 : ¬ i - a < l.length := by omega
        simp [h, h2, List.getElem?_eq_none (by omega : l.length ≤ i - a)]
    · simp [h]
  | clear a n =>
    simp only [Store.apply, Store.byteAt, bGet, tGet, tFind_tDelRange]
    split <;> simp_all

theorem byteUnder_cons (s : Store) (r : List Store) (m : Mem) (i : Nat) :
    byteUnder (s :: r) m i = match s.byteAt i with | some b => b | none => byteUnder r m i := rfl

/-- Reading a byte after a command's stores gives the newest store that reaches it, or else the byte as it was. -/
theorem bGet_applyStores (l : List Store) (m : Mem) (i : Nat) : bGet (applyStores l m) i = byteUnder l m i := by
  induction l with
  | nil => rfl
  | cons s r ih =>
    show bGet (s.apply (applyStores r m)) i = _
    rw [Store.bGet_apply, ih, byteUnder_cons]
    cases s.byteAt i <;> rfl

/-- A store leaves every byte outside its range as it was. -/
theorem byteUnder_apart {l : List Store} {i : Nat} (h : ∀ s ∈ l, s.byteAt i = none) (m : Mem) :
    byteUnder l m i = bGet m i := by
  induction l with
  | nil => rfl
  | cons s r ih =>
    rw [byteUnder_cons, h s (by simp)]
    exact ih fun s hs => h s (by simp [hs])

/-! ### The canonical form -/

theorem memWf_iff (m : Mem) : memWf m = true ↔ tRising none m = true ∧ ∀ c ∈ m, c.2 ≠ 0 := by
  simp [memWf]

theorem memWf_bSet (a : Nat) (b : Byte) {m : Mem} (h : memWf m = true) : memWf (bSet a b m) = true := by
  rw [memWf_iff] at h ⊢
  unfold bSet tSet
  split
  · exact ⟨tRising_filter _ _ _ h.1, fun c hc => h.2 c (List.mem_filter.1 hc).1⟩
  · rename_i hb
    refine ⟨tRising_tPut _ _ _ _ (by simp) h.1, fun c hc => ?_⟩
    rcases mem_tPut hc with hc | hc
    · subst hc; exact hb
    · exact h.2 c hc

theorem memWf_bWrite (a : Nat) (l : List Byte) {m : Mem} (h : memWf m = true) : memWf (bWrite a l m) = true := by
  induction l generalizing a m with
  | nil => exact h
  | cons b r ih => exact ih _ (memWf_bSet a b h)

theorem Store.memWf_apply (s : Store) {m : Mem} (h : memWf m = true) : memWf (s.apply m) = true := by
  cases s with
  | bytes a l => exact memWf_bWrite a l h
  | clear a n =>
    rw [memWf_iff] at h ⊢
    exact ⟨tRising_filter _ _ _ h.1, fun c hc => h.2 c (List.mem_filter.1 hc).1⟩

/-- Every operation on memory keeps the canonical form. -/
theorem memWf_applyStores (l : List Store) {m : Mem} (h : memWf m = true) : memWf (applyStores l m) = true := by
  induction l with
  | nil => exact h
  | cons s r ih => exact s.memWf_apply ih

/-! ### Running a change of the device -/

variable (s : State) (f : Mem → Dev → Dev)

@[simp] theorem State.run_pending : (s.run f).pending = s.pending := rfl

theorem State.run_mem : (s.run f).mem = applyStores (f s.mem { s.dev with stores := [] }).stores s.mem := rfl

theorem State.run_dev : (s.run f).dev = (f s.mem { s.dev with stores := [] }).heal := rfl

@[simp] theorem State.run_stores : (s.run f).dev.stores = [] := rfl

theorem State.run_wf (h : memWf s.mem = true) : memWf (s.run f).mem = true := memWf_applyStores _ h

/-- Every byte that the command does not store reads as before. -/
theorem State.run_byte (a : Nat) :
    bGet (s.run f).mem a = byteUnder (f s.mem { s.dev with stores := [] }).stores s.mem a :=
  bGet_applyStores _ _ _

end Sys2Proof.Machine
end

