-- ==== Sys2Proof/Laws/Fields.lean ====
section
/-! SUPPORT. Reading a field of the register file after a field is set (R476): the field itself, a field of another
word, and a field beside it in the same word. -/

namespace Sys2Proof.Machine

/-- A field lies in one word of 64 bits. -/
def Fld.fits (f : Fld) (inst idx : Nat) : Prop := f.pos inst idx + f.width ≤ 64

theorem Fld.toNat_put {f : Fld} {i j : Nat} (h : f.fits i j) (w : Word) (v : Nat) :
    (f.put w v i j).toNat = setBits w.toNat (f.pos i j) f.width v := by
  unfold Fld.put
  rw [BitVec.toNat_ofNat]
  exact Nat.mod_eq_of_lt (setBits_lt w.isLt h)

variable (d : Dev) (v : Nat)

theorem Dev.fld_setFld {f : Fld} {i j : Nat} (h : f.fits i j) : (d.setFld f v i j).fld f i j = v % 2 ^ f.width := by
  unfold Dev.fld Dev.setFld
  rw [Dev.word_setWord, if_pos rfl, Fld.toNat_put h, bits_setBits_self]

theorem Dev.fld_setWord_ne {g : Fld} {a i j : Nat} (x : Word) (h : a ≠ g.addr i j) :
    (d.setWord a x).fld g i j = d.fld g i j := by
  unfold Dev.fld
  rw [Dev.word_setWord, if_neg h]

theorem Dev.fld_setFld_ne {f g : Fld} {i j i' j' : Nat} (h : f.addr i j ≠ g.addr i' j') :
    (d.setFld f v i j).fld g i' j' = d.fld g i' j' := Dev.fld_setWord_ne _ _ h

theorem Dev.fld_setFld_beside {f g : Fld} {i j i' j' : Nat} (h : f.fits i j) (ha : f.addr i j = g.addr i' j')
    (hb : g.pos i' j' + g.width ≤ f.pos i j ∨ f.pos i j + f.width ≤ g.pos i' j') :
    (d.setFld f v i j).fld g i' j' = d.fld g i' j' := by
  unfold Dev.fld Dev.setFld
  rw [ha, Dev.word_setWord, if_pos rfl, Fld.toNat_put h, bits_setBits_apart hb]

theorem Dev.pfld_setPfld {f : Fld} {w : Path} {i j : Nat} (h : f.fits i j) :
    (d.setPfld w f v i j).pfld w f i j = v % 2 ^ f.width := by
  unfold Dev.pfld Dev.setPfld
  rw [Dev.pword_setPword, if_pos rfl, Fld.toNat_put h, bits_setBits_self]

theorem Dev.pfld_setPfld_ne {f g : Fld} {w : Path} {i j i' j' : Nat} (h : f.addr i j ≠ g.addr i' j') :
    (d.setPfld w f v i j).pfld w g i' j' = d.pfld w g i' j' := by
  unfold Dev.pfld Dev.setPfld
  rw [Dev.pword_setPword, if_neg h]

theorem Dev.pfld_setPfld_beside {f g : Fld} {w : Path} {i j i' j' : Nat} (h : f.fits i j)
    (ha : f.addr i j = g.addr i' j') (hb : g.pos i' j' + g.width ≤ f.pos i j ∨ f.pos i j + f.width ≤ g.pos i' j') :
    (d.setPfld w f v i j).pfld w g i' j' = d.pfld w g i' j' := by
  unfold Dev.pfld Dev.setPfld
  rw [ha, Dev.pword_setPword, if_pos rfl, Fld.toNat_put h, bits_setBits_apart hb]

/-- A counter that has room advances by what is added. -/
theorem Dev.fld_count {f : Fld} {n i j : Nat} (h : f.fits i j) (hn : d.fld f i j + n < 2 ^ f.width) :
    (d.count f n i j).fld f i j = d.fld f i j + n := by
  unfold Dev.count
  split
  · simp_all
  · rw [Dev.fld_setFld _ _ h, Nat.min_eq_left (by omega), Nat.mod_eq_of_lt hn]

theorem Dev.fld_count_ne {f g : Fld} {n i j i' j' : Nat} (h : f.addr i j ≠ g.addr i' j') :
    (d.count f n i j).fld g i' j' = d.fld g i' j' := by
  unfold Dev.count
  split
  · rfl
  · exact Dev.fld_setFld_ne _ _ h

theorem Dev.fld_lt (f : Fld) (i j : Nat) : d.fld f i j < 2 ^ f.width := bits_lt _ _ _

end Sys2Proof.Machine
end

