-- ==== Sys2Proof/Laws/Sched.lean ====
section
/-! SUPPORT. Everything that what follows a command can do: the bookkeeping after an event on a core (R257 to R260) stamps
contexts, may begin a swap, count a stall or a refused swap-in, and post an event; the journal takes an entry (R462). -/

namespace Sys2Proof.Machine

theorem Settled.refl (d : Dev) : Settled d d :=
  ⟨rfl, fun _ => rfl, fun _ => rfl, fun _ _ => rfl, fun _ _ _ => rfl, fun _ _ _ => rfl⟩

theorem eventRing_apart (p : PartId) : ¬ bookWord (F.PART_RINGS_EVENT_RING.addr p.val 0) := by
  have := p.isLt
  simp only [bookWord, Fld.addr, Fld.byteAddr, F.PART_RINGS_EVENT_RING, F.CORE_STATUS_SWAP_ERR, F.PART_SCHED_KO_STALLS,
    F.PART_EVENTS_LOST_COUNT, F.RING_ERR_VALID]
  rintro (h | h | ⟨c, h⟩ | ⟨q, h⟩ | ⟨q, h⟩)
  · omega
  · omega
  · have := c.isLt; omega
  · have := q.isLt; omega
  · have := q.isLt; omega

theorem bookByte_of {d e : Dev} (hw : ∀ a, ¬ bookWord a → e.word a = d.word a)
    (hr : ∀ r (f : Bf), ringKept f → e.rf r f = d.rf r f) (a : Nat) : bookByte e a → bookByte d a := by
  rintro (h | ⟨p, h⟩)
  · exact .inl h
  · refine .inr ⟨p, ?_⟩
    have hf : e.fld F.PART_RINGS_EVENT_RING p.val = d.fld F.PART_RINGS_EVENT_RING p.val := by
      unfold Dev.fld; rw [hw _ (eventRing_apart p)]
    rw [hf] at h
    rw [hr _ RF.bufLine (.inr (by decide)), hr _ RF.slotsLog (.inr (by decide)), hr _ RF.slotLog (.inr (by decide))] at h
    exact h

theorem Settled.trans {a b c : Dev} (h : Settled a b) (g : Settled b c) : Settled a c :=
  ⟨g.rest.trans h.rest, fun x => (g.core x).trans (h.core x), fun x => (g.ctx x).trans (h.ctx x),
    fun x hx => (g.word x hx).trans (h.word x hx), fun r f hf => (g.ring r f hf).trans (h.ring r f hf),
    fun m x hx => (g.byte m x fun hb => hx (bookByte_of h.word h.ring x hb)).trans (h.byte m x hx)⟩

theorem Settled.fld {d e : Dev} (h : Settled d e) {f : Fld} {i j : Nat} (hb : ¬ bookWord (f.addr i j)) :
    e.fld f i j = d.fld f i j := by unfold Dev.fld; rw [h.word _ hb]

theorem Settled.pageCmds {d e : Dev} (h : Settled d e) : e.pageCmds = d.pageCmds := by
  have r := congrArg Dev.pageCmds h.rest; exact r
theorem Settled.sent {d e : Dev} (h : Settled d e) : e.sent = d.sent := by
  have r := congrArg Dev.sent h.rest; exact r
theorem Settled.power {d e : Dev} (h : Settled d e) : e.power = d.power := by
  have r := congrArg Dev.power h.rest; exact r
theorem Settled.pathRegs {d e : Dev} (h : Settled d e) : e.pathRegs = d.pathRegs := by
  have r := congrArg Dev.pathRegs h.rest; exact r
theorem Settled.xmap {d e : Dev} (h : Settled d e) : e.xmap = d.xmap := by
  have r := congrArg Dev.xmap h.rest; exact r
theorem Settled.jobs {d e : Dev} (h : Settled d e) : e.jobs = d.jobs := by
  have r := congrArg Dev.jobs h.rest; exact r
theorem Settled.flash {d e : Dev} (h : Settled d e) : e.flash = d.flash := by
  have r := congrArg Dev.flash h.rest; exact r
theorem Settled.ports {d e : Dev} (h : Settled d e) : e.ports = d.ports := by
  have r := congrArg Dev.ports h.rest; exact r
theorem Settled.bank {d e : Dev} (h : Settled d e) : e.bank = d.bank := by
  have r := congrArg Dev.bank h.rest; exact r
theorem Settled.faults {d e : Dev} (h : Settled d e) : e.faults = d.faults := by
  have r := congrArg Dev.faults h.rest; exact r
theorem Settled.sessions {d e : Dev} (h : Settled d e) : e.sessions = d.sessions := by
  have r := congrArg Dev.sessions h.rest; exact r


/-! ### The steps of the bookkeeping -/

theorem Settled.setWord (d : Dev) {a : Nat} (v : Word) (h : bookWord a) : Settled d (d.setWord a v) :=
  ⟨rfl, fun _ => rfl, fun _ => rfl, fun b hb => by
    rw [Dev.word_setWord, if_neg (fun e : a = b => hb (e ▸ h))], fun _ _ _ => rfl, fun _ _ _ => rfl⟩

theorem Settled.setFld (d : Dev) {f : Fld} {i j : Nat} (v : Nat) (h : bookWord (f.addr i j)) :
    Settled d (d.setFld f v i j) := Settled.setWord _ _ h

theorem Settled.count (d : Dev) {f : Fld} {n i j : Nat} (h : bookWord (f.addr i j)) : Settled d (d.count f n i j) := by
  unfold Dev.count
  split
  · exact .refl _
  · exact .setFld _ _ h

theorem Settled.modCore (d : Dev) (c : CoreId) (f : Core → Core) (h : ∀ x, (f x).calm = x.calm) :
    Settled d (d.modCore c f) :=
  ⟨rfl, fun e => by
    unfold Dev.modCore
    rw [Dev.core_setCore]
    split
    · subst_vars; exact h _
    · rfl, fun _ => rfl, fun _ _ => rfl, fun _ _ _ => rfl, fun _ _ _ => rfl⟩

theorem Settled.setCtx (d : Dev) (k : Nat) (x : Ctx) (h : (d.ctx? k).map Ctx.calm = some x.calm) :
    Settled d (d.setCtx k x) :=
  ⟨rfl, fun _ => rfl, fun i => by
    rw [Dev.ctx?_setCtx]
    split
    · subst_vars; exact h.symm
    · rfl, fun _ _ => rfl, fun _ _ _ => rfl, fun _ _ _ => rfl⟩

theorem Settled.modCtx (d : Dev) (k : Nat) (f : Ctx → Ctx) (h : ∀ x, (f x).calm = x.calm) : Settled d (d.modCtx k f) := by
  unfold Dev.modCtx
  cases hk : d.ctx? k with
  | none => exact .refl _
  | some x => exact .setCtx _ _ _ (by rw [hk]; simp [h])

theorem leBytes_length (n v : Nat) : (leBytes n v).length = n := by
  induction n generalizing v with
  | zero => rfl
  | succ n ih => simp [leBytes, ih]

theorem Settled.store (d : Dev) (a : Nat) (l : List Byte) (h : ∀ i, a ≤ i → i < a + l.length → bookByte d i) :
    Settled d (d.store a l) :=
  ⟨rfl, fun _ => rfl, fun _ => rfl, fun _ _ => rfl, fun _ _ _ => rfl, fun m i hi => by
    rw [Dev.store_stores]
    have : (Store.bytes a l).byteAt i = none := by
      unfold Store.byteAt
      dsimp only
      split
      · exact List.getElem?_eq_none (by by_contra hl; exact hi (h i (by omega) (by omega)))
      · rfl
    show (match (Store.bytes a l).byteAt i with | some b => b | none => byteUnder d.stores m i) = _
    rw [this]⟩

theorem bookByte_store (d : Dev) (a : Nat) (l : List Byte) (i : Nat) : bookByte (d.store a l) i ↔ bookByte d i := by
  have h1 : ∀ r f, (d.store a l).rf r f = d.rf r f := fun _ _ => rfl
  have h2 : ∀ f i, (d.store a l).fld f i = d.fld f i := fun _ _ => rfl
  simp only [bookByte, h1, h2]

theorem Dev.rf_setRf_low (d : Dev) (r i : Nat) (f g : Bf) (v : Nat) (hf : f.lo + f.width ≤ 192) (hg : 192 ≤ g.lo) :
    (d.setRf r g v).rf i f = d.rf i f := by
  unfold Dev.rf Dev.setRf
  rw [Dev.ring_setRing]
  split
  · subst_vars
    unfold Bf.get Bf.put
    rw [BitVec.toNat_ofNat]
    apply Nat.eq_of_testBit_eq
    intro j
    rw [testBit_bits, testBit_bits, Nat.testBit_mod_two_pow, testBit_setBits]
    by_cases hj : j < f.width
    · have h1 : f.lo + j < 256 := by omega
      have h2 : ¬ (g.lo ≤ f.lo + j ∧ f.lo + j < g.lo + g.width) := by omega
      simp [h1, h2]
    · simp [hj]
  · rfl

theorem Dev.rf_setRf_self (d : Dev) (r : Nat) (f : Bf) (v : Nat) (h : f.lo + f.width ≤ 256) :
    (d.setRf r f v).rf r f = v % 2 ^ f.width := by
  unfold Dev.rf Dev.setRf
  rw [Dev.ring_setRing_self, BitVec.toNat_ofNat]
  unfold Bf.get Bf.put
  rw [Nat.mod_eq_of_lt (setBits_lt (d.ring r).ctx.isLt h), bits_setBits_self]

theorem Dev.rf_setRf_apart (d : Dev) (r i : Nat) (f g : Bf) (v : Nat) (hg : g.lo + g.width ≤ 256)
    (h : f.lo + f.width ≤ g.lo ∨ g.lo + g.width ≤ f.lo) : (d.setRf r g v).rf i f = d.rf i f := by
  unfold Dev.rf Dev.setRf
  rw [Dev.ring_setRing]
  split
  · subst_vars
    rw [BitVec.toNat_ofNat]
    unfold Bf.get Bf.put
    rw [Nat.mod_eq_of_lt (setBits_lt (d.ring i).ctx.isLt hg), bits_setBits_apart h]
  · rfl

theorem ringKept_low {f : Bf} (h : ringKept f) : f.lo + f.width ≤ 192 := by
  rcases h with h | h
  · exact h.trans (by decide)
  · exact h.2

theorem Settled.setRf (d : Dev) (r : Nat) (g : Bf) (v : Nat) (hg : 192 ≤ g.lo) : Settled d (d.setRf r g v) :=
  ⟨rfl, fun _ => rfl, fun _ => rfl, fun _ _ => rfl, fun i f hf => d.rf_setRf_low r i f g v (ringKept_low hf) hg, fun _ _ _ => rfl⟩

/-- A ring is put in error. -/
theorem ringErr_book : bookWord (F.RING_ERR_VALID.addr 0 0) := .inr (.inl rfl)

theorem Settled.setErr (d : Dev) {f : Fld} (v : Nat) (h : f.addr 0 0 = F.RING_ERR_VALID.addr 0 0) : Settled d (d.setFld f v) :=
  Settled.setFld d v (by rw [h]; exact ringErr_book)

theorem Settled.setRfKept (d : Dev) (r : Nat) (g : Bf) (v : Nat) (hg : g.lo + g.width ≤ 256)
    (h : ∀ f, ringKept f → f.lo + f.width ≤ g.lo ∨ g.lo + g.width ≤ f.lo) : Settled d (d.setRf r g v) :=
  ⟨rfl, fun _ => rfl, fun _ => rfl, fun _ _ => rfl, fun i f hf => d.rf_setRf_apart r i f g v hg (h f hf), fun _ _ _ => rfl⟩

theorem Settled.setRingError (d : Dev) (r cause src : Nat) : Settled d (d.setRingError r cause src) := by
  have h : Settled d (d.setRf r RF.error 1) := Settled.setRfKept _ _ _ _ (by decide) fun f hf => by
    rcases hf with hf | hf
    · exact .inl hf
    · exact .inr hf.1
  unfold Dev.setRingError
  split
  · exact .refl _
  · dsimp only
    refine h.trans ?_
    split
    · exact .setErr _ _ (by decide)
    · refine Settled.trans ?_ (.setErr _ _ (by decide))
      refine Settled.trans ?_ (.setErr _ _ (by decide))
      refine Settled.trans ?_ (.setErr _ _ (by decide))
      exact .setErr _ _ (by decide)

theorem Settled.meetCut (d : Dev) (a n : Nat) : Settled d (d.meetCut a n) := by
  unfold Dev.meetCut
  split
  · exact ⟨rfl, fun _ => rfl, fun _ => rfl, fun _ _ => rfl, fun _ _ _ => rfl, fun _ _ _ => rfl⟩
  · exact .refl _

/-- Posting a record on a partition's event ring. -/
theorem Settled.produceEvent (d : Dev) (p : PartId) (t : Nat) (l : List Byte) (hl : l.length = 32) :
    Settled d (d.produce (d.fld F.PART_RINGS_EVENT_RING p.val) t l) := by
  unfold Dev.produce Dev.claim Dev.fillSlot
  have h0 := Settled.setRf d (d.fld F.PART_RINGS_EVENT_RING p.val) RF.produced (d.rf (d.fld F.PART_RINGS_EVENT_RING p.val) RF.produced + 1)
    (by decide)
  refine h0.trans ?_
  dsimp only
  generalize hn : d.rf (d.fld F.PART_RINGS_EVENT_RING p.val) RF.produced = n
  rw [hn] at h0
  generalize he : d.setRf (d.fld F.PART_RINGS_EVENT_RING p.val) RF.produced (n + 1) = e at h0 ⊢
  have hr : e.fld F.PART_RINGS_EVENT_RING p.val = d.fld F.PART_RINGS_EVENT_RING p.val := by
    unfold Dev.fld; rw [h0.word _ (eventRing_apart p)]
  rw [← hr]
  generalize hq : e.fld F.PART_RINGS_EVENT_RING p.val = r
  have key : ∀ i, e.slotAddr r n ≤ i → i < e.slotAddr r n + 96 → bookByte e i := by
    intro i h1 h2
    refine .inr ⟨p, ?_⟩
    rw [hq]
    unfold Dev.slotAddr at h1 h2
    have hm : n % 2 ^ e.rf r RF.slotsLog + 1 ≤ 2 ^ e.rf r RF.slotsLog := Nat.mod_lt _ (by positivity)
    have hk : n % 2 ^ e.rf r RF.slotsLog * 2 ^ e.rf r RF.slotLog ≤ 2 ^ e.rf r RF.slotsLog * 2 ^ e.rf r RF.slotLog :=
      Nat.mul_le_mul_right _ (by omega)
    constructor
    · omega
    · omega
  have s1 := Settled.store e (e.slotAddr r n + 64) l (fun i h1 h2 => key i (by omega) (by omega))
  refine s1.trans (Settled.store _ _ _ fun i h1 h2 => ?_)
  rw [slotHeader, leBytes_length] at h2
  exact (bookByte_store e _ l i).2 (key i h1 (by omega))

theorem Settled.postEvent (d : Dev) (p : PartId) (a b n : Nat) : Settled d (d.postEvent p a b n) := by
  have lost : ∀ e : Dev, Settled e (e.count F.PART_EVENTS_LOST_COUNT 1 p.val) := fun _ => .count _ (.inr (.inr (.inr (.inr ⟨p, rfl⟩))))
  unfold Dev.postEvent
  dsimp only
  split
  · exact lost _
  · split
    · exact (Settled.setRingError _ _ _ _).trans (lost _)
    · split
      · exact (Settled.meetCut _ _ _).trans (lost _)
      · exact .produceEvent _ _ _ _ (leBytes_length _ _)

theorem Settled.beginSwapIn (d : Dev) (c : CoreId) (k : SlotId) (key : Nat) : Settled d (d.beginSwapIn c k key) := by
  unfold Dev.beginSwapIn
  split
  · exact .refl _
  · split
    · exact .modCore _ _ _ fun _ => rfl
    · refine Settled.trans ?_ (.postEvent _ _ _ _ _)
      refine Settled.trans ?_ (.modCtx _ _ _ fun _ => rfl)
      exact Settled.setFld _ _ (.inr (.inr (.inl ⟨c, rfl⟩)))

theorem Settled.beginSwapOut (d : Dev) (c : CoreId) (k : SlotId) : Settled d (d.beginSwapOut c k) := by
  unfold Dev.beginSwapOut
  split
  · exact .refl _
  · split
    · exact .refl _
    · exact .modCore _ _ _ fun _ => rfl

theorem Settled.startWaiting (d : Dev) (c : CoreId) : Settled d (d.startWaiting c) := by
  unfold Dev.startWaiting
  split
  · exact .refl _
  · rename_i w _
    refine (Settled.modCore d c (fun x => { x with waiting := x.waiting.filter fun v => decide (v ≠ w) }) fun _ => rfl).trans ?_
    dsimp only
    split
    · exact .beginSwapIn _ _ _ _
    · exact .modCore _ _ _ fun _ => rfl

theorem Settled.scheduleDecision (d : Dev) (c : CoreId) : Settled d (d.scheduleDecision c) := by
  unfold Dev.scheduleDecision
  refine (Settled.startWaiting d c).trans ?_
  generalize d.startWaiting c = d
  dsimp only
  split
  · exact .refl _
  · rename_i p _
    split
    · split
      · exact .beginSwapIn _ _ _ _
      · split
        · exact .refl _
        · exact .count _ (.inr (.inr (.inr (.inl ⟨p, rfl⟩))))
    · split
      · exact .refl _
      · split
        · exact (Settled.beginSwapOut _ _ _).trans (.modCore _ _ _ fun _ => rfl)
        · exact .count _ (.inr (.inr (.inr (.inl ⟨p, rfl⟩))))

theorem stampCtx_calm (m : Mem) (d : Dev) (x : Ctx) : (stampCtx m d x).1.calm = x.calm := by
  unfold stampCtx
  repeat' split
  all_goals rfl

theorem Settled.stampKey (m : Mem) (a : Dev × Bool) (k : Nat) : Settled a.1 (stampKey m a k).1 := by
  unfold Machine.stampKey
  split
  · exact .refl _
  · rename_i y hy
    dsimp only
    split
    · exact .refl _
    · exact .setCtx _ _ _ (by rw [hy, stampCtx_calm]; rfl)

theorem Settled.foldl {β γ : Type} (g : Dev × γ → β → Dev × γ) (h : ∀ a b, Settled a.1 (g a b).1) (l : List β) (a : Dev × γ) :
    Settled a.1 (l.foldl g a).1 := by
  induction l generalizing a with
  | nil => exact .refl _
  | cons b l ih => exact (h a b).trans (ih _)

theorem Settled.foldl' {β : Type} (g : Dev → β → Dev) (h : ∀ a b, Settled a (g a b)) (l : List β) (a : Dev) :
    Settled a (l.foldl g a) := by
  induction l generalizing a with
  | nil => exact .refl _
  | cons b l ih => exact (h a b).trans (ih _)

theorem Settled.foldlMem {β : Type} (g : Dev → β → Dev) (l : List β) (a : Dev) (h : ∀ a b, b ∈ l → Settled a (g a b)) :
    Settled a (l.foldl g a) := by
  induction l generalizing a with
  | nil => exact .refl _
  | cons b l ih => exact (h a b (by simp)).trans (ih _ fun a c hc => h a c (by simp [hc]))

/-- Bookkeeping on a core. -/
theorem Settled.settle (m : Mem) (c : CoreId) (b : Bool) (d : Dev) : Settled d (settle m c b d) := by
  have h := Settled.foldl (Machine.stampKey m) (Settled.stampKey m) ((d.homedOn c).map fun e => e.1) (d, b)
  unfold Machine.settle
  dsimp only
  split
  · exact h.trans (.scheduleDecision _ _)
  · exact h

theorem Settled.settlePart (m : Mem) (p : PartId) (d : Dev) : Settled d (settlePart m p d) :=
  Settled.foldl' _ (fun a c => Settled.settle m c false a) _ _

theorem Settled.settleAll (m : Mem) (d : Dev) : Settled d (settleAll m d) :=
  Settled.foldl' _ (fun a c => Settled.settle m c false a) _ _

/-! ### With no command on a page, that is all (R483) -/

theorem pumpAll_idle (m : Mem) {d : Dev} (h : d.pageCmds = []) : pumpAll m d = d := by
  unfold pumpAll; rw [h]; rfl

theorem Settled.afterCore (m : Mem) (c : CoreId) (b : Bool) {d : Dev} (h : d.pageCmds = []) : Settled d (afterCore m c b d) := by
  have s := Settled.settle m c b d
  unfold Machine.afterCore
  rw [pumpAll_idle m (s.pageCmds.trans h)]
  exact s

theorem Settled.afterAll (m : Mem) {d : Dev} (h : d.pageCmds = []) : Settled d (afterAll m d) := by
  have s := Settled.settleAll m d
  unfold Machine.afterAll
  rw [pumpAll_idle m (s.pageCmds.trans h)]
  exact s

/-! ### What heals lines keeps (R240) -/

theorem Settled.heal (d : Dev) : (d.heal.core = d.core) ∧ (d.heal.ctx? = d.ctx?) ∧ (d.heal.word = d.word) := ⟨rfl, rfl, rfl⟩

end Sys2Proof.Machine
end

