-- ==== Sys2Proof/Laws/Writes.lean ====
section
/-! SUPPORT. Everything that a register write does beside its effect: it is refused and changes nothing, or it is
journalled (R462) and the bookkeeping follows. -/

namespace Sys2Proof.Machine

/-! ### The journal (R462, R463) -/

theorem bookByte_journal (d : Dev) {a i n : Nat} (h : a + n ≤ 4194304) (h1 : journalBase + a ≤ i)
    (h2 : i < journalBase + a + n) : bookByte d i := by
  refine .inl ⟨by omega, ?_⟩
  have : extentSize = 4194304 := rfl
  omega

theorem Settled.journalStore (d : Dev) (a : Nat) (l : List Byte) (h : a + l.length ≤ 4194304) :
    Settled d (d.store (journalBase + a) l) :=
  Settled.store _ _ _ fun _ h1 h2 => bookByte_journal d h h1 h2

theorem Settled.setJnl (d : Dev) {f : Fld} (j v : Nat) (h : f.blk = 0x53) (ho : f.off + j * f.stride < 65536) :
    Settled d (d.setFld f v 0 j) := by
  refine .setFld _ _ (.inl ?_)
  unfold Fld.addr Fld.byteAddr
  rw [h]; omega

theorem Settled.countJnl (d : Dev) {f : Fld} (n : Nat) (h : f.blk = 0x53) (ho : f.off < 65536) : Settled d (d.count f n) := by
  unfold Dev.count
  split
  · exact .refl _
  · exact .setJnl _ 0 _ h (by omega)

theorem sha3_size (l : List Byte) : (sha3 l).length = 64 := by
  unfold sha3
  dsimp only
  rw [List.length_flatMap]
  simp only [leBytes_length, List.map_const', List.sum_replicate, smul_eq_mul, List.length_range]

theorem Settled.sealBlock (m : Mem) (j : Nat) (d : Dev) : Settled d (sealBlock m j d) := by
  unfold Machine.sealBlock
  dsimp only
  have hs := sha3_size (d.seal ++ memRead m d (journalBase + 32 * (256 * j % 65536)) 8192 ++ leBytes 8 j)
  generalize sha3 _ = s at hs ⊢
  refine Settled.trans ?_ (.setJnl _ 0 _ (by decide) (by decide))
  refine Settled.trans ?_ (.setJnl _ 0 _ (by decide) (by decide))
  have h1 : Settled d (d.store (journalBase + 2 * 1048576 + 64 * (j % 256)) s) := by
    rw [Nat.add_assoc]
    exact .journalStore _ _ _ (by omega)
  refine h1.trans (Settled.foldlMem _ _ _ fun a i hi => ?_)
  refine .setJnl _ i _ (by decide) ?_
  have : i < 8 := List.mem_range.1 hi
  have ho : F.JNL_HEAD_WORD.off ≤ 4096 := by decide
  have hst : F.JNL_HEAD_WORD.stride ≤ 64 := by decide
  have := Nat.mul_le_mul (Nat.le_of_lt this) hst
  omega

theorem Settled.journal (m : Mem) (w : Path) (page off old new : Nat) (d : Dev) :
    Settled d (journal m w page off old new d) := by
  unfold Machine.journal
  dsimp only
  generalize d.fld F.JNL_POS_NEXT = e
  have h1 : Settled d (if 65536 ≤ e ∧ d.fld F.JNL_MARK_MARK ≤ e - 65536 then d.count F.JNL_STATUS_LOST 1 else d) := by
    split
    · exact .countJnl _ _ (by decide) (by decide)
    · exact .refl _
  generalize (if 65536 ≤ e ∧ d.fld F.JNL_MARK_MARK ≤ e - 65536 then d.count F.JNL_STATUS_LOST 1 else d) = a at h1 ⊢
  generalize hl : leBytes 8 a.now ++ leBytes 8 old ++ leBytes 8 new ++ leBytes 8 _ = l
  have hl : l.length = 32 := by rw [← hl]; simp [leBytes_length]
  have h2 : Settled a (a.store (journalBase + 32 * (e % 65536)) l) := .journalStore _ _ _ (by omega)
  generalize a.store (journalBase + 32 * (e % 65536)) l = b at h2 ⊢
  have h3 : Settled b (b.setFld F.JNL_POS_NEXT (e + 1)) := .setJnl _ 0 _ (by decide) (by decide)
  split
  · exact h1.trans (h2.trans (h3.trans (.sealBlock _ _ _)))
  · exact h1.trans (h2.trans h3)

theorem Settled.journalWrite (m : Mem) (w : Path) (a v old new : Nat) (d : Dev) :
    Settled d (journalWrite m w a v old new d) := by
  unfold Machine.journalWrite
  dsimp only
  split
  · exact .refl _
  · refine Settled.foldl' _ (fun b r => ?_) _ _
    split
    · exact .journal _ _ _ _ _ _ _
    · exact .refl _

/-! ### A write -/

/-- A write that the access rules refuse changes nothing (R482). -/
theorem doWrite_refused {m : Mem} {w : Path} {a v : Nat} {d : Dev} (h : d.writeAns w a v ≠ .ok) : doWrite m w a v d = d := by
  unfold doWrite; rw [if_neg h]

/-- A write that is taken has its effect, is journalled, and the bookkeeping follows. -/
theorem doWrite_taken {m : Mem} {w : Path} {a v : Nat} {d : Dev} (h : d.writeAns w a v = .ok)
    (hq : (writeEffect m w a v d).pageCmds = []) : Settled (writeEffect m w a v d) (doWrite m w a v d) := by
  unfold doWrite regWrite
  rw [if_pos h, if_pos h]
  dsimp only
  have h1 := Settled.journalWrite m w a v (d.readWord w a) ((writeEffect m w a v d).readWord w a) (writeEffect m w a v d)
  exact h1.trans (.afterAll m (h1.pageCmds.trans hq))

end Sys2Proof.Machine
end

