-- ==== Sys2Proof/Laws/Rows.lean ====
section
/-! SUPPORT. What every command does to the state besides its own effect, and that a command which stands for a register
write is that write. -/

namespace Sys2Proof.Machine

/-- With no store pending, running a change of the device starts from the device as it is. -/
theorem State.run_quiet {s : State} (h : s.dev.stores = []) (f : Mem → Dev → Dev) :
    s.run f = { s with dev := (f s.mem s.dev).heal, mem := applyStores (f s.mem s.dev).stores s.mem } := by
  have : ({ s.dev with stores := [] } : Dev) = s.dev := by
    obtain ⟨d, m, p⟩ := s
    cases d
    simp_all
  unfold State.run
  rw [this]

/-- Without stores no line is healed. -/
theorem heal_none {d : Dev} (h : d.stores = []) : d.heal = d := by
  unfold Dev.heal
  cases d
  simp_all

theorem State.run_id {s : State} (h : s.dev.stores = []) {f : Mem → Dev → Dev} (hf : f s.mem s.dev = s.dev) : s.run f = s := by
  rw [State.run_quiet h, hf]
  unfold Dev.heal
  obtain ⟨d, m, p⟩ := s
  cases d
  simp_all [applyStores]

theorem Fld.addr_page (f : Fld) (i j : Nat) (h : (f.off + j * f.stride) % 8 = 0) :
    f.addr i j = page f.blk i (f.off + j * f.stride) := by
  unfold Fld.addr Fld.byteAddr page
  omega

theorem write_row {s : State} {w w' : Path} {a a' b v : Nat} {f : Dev → Nat} (hq : s.dev.stores = [])
    (h : some (w', a', f s.dev) = some (w, a, v)) (ha : b = a') :
    (Host.Outcome.next (s.run fun m d => doWrite m w' b (f d) d) : Host.Outcome State Fault Refusal) =
      .next (s.run fun m d => doWrite m w a v d) := by
  simp only [Option.some.injEq, Prod.mk.injEq] at h
  obtain ⟨rfl, rfl, rfl⟩ := h
  subst ha
  rw [State.run_quiet hq, State.run_quiet hq]

/-- A command that stands for a register write is that write. -/
theorem exec_write {i : Instr} {s : State} {w : Path} {a v : Nat} (hq : s.dev.stores = [])
    (h : writeOf i s.dev = some (w, a, v)) : exec i s = .next (s.run fun m d => doWrite m w a v d) := by
  cases i with
  | coreResume w c mask => exact write_row hq h (F.CORE_CTL_RESUME.addr_page _ _ (by decide))
  | coreHalt w c mask => exact write_row hq h (F.CORE_CTL_HALT.addr_page _ _ (by decide))
  | swapOut w c k ext => exact write_row hq h (F.CORE_SWAP_SLOT.addr_page _ _ (by decide))
  | swapIn w c k ext => exact write_row hq h (F.CORE_SWAP_SLOT.addr_page _ _ (by decide))
  | aryHold w c hold => exact write_row hq h (F.ARY_CTL_HOLD.addr_page _ _ (by decide))
  | aryClrCounts w c => exact write_row hq h (F.ARY_CTL_CLR_COUNTS.addr_page _ _ (by decide))
  | vecClrCounts w c => exact write_row hq h (F.VEC_CTL_CLR_COUNTS.addr_page _ _ (by decide))
  | movResume w c mask => exact write_row hq h (F.MOV_CTL_RESUME.addr_page _ _ (by decide))
  | allocate w d_ index countM1 => exact write_row hq h (F.XMAP_CMD_OP.addr_page _ _ (by decide))
  | free w d_ index countM1 => exact write_row hq h (F.XMAP_CMD_OP.addr_page _ _ (by decide))
  | loadBegin w d_ index countM1 => exact write_row hq h (F.XMAP_CMD_OP.addr_page _ _ (by decide))
  | loadEnd w d_ index countM1 => exact write_row hq h (F.XMAP_CMD_OP.addr_page _ _ (by decide))
  | freeze w d_ index countM1 => exact write_row hq h (F.XMAP_CMD_OP.addr_page _ _ (by decide))
  | thaw w d_ index countM1 => exact write_row hq h (F.XMAP_CMD_OP.addr_page _ _ (by decide))
  | setGen w d_ index countM1 => exact write_row hq h (F.XMAP_CMD_OP.addr_page _ _ (by decide))
  | retire w d_ index countM1 => exact write_row hq h (F.XMAP_CMD_OP.addr_page _ _ (by decide))
  | xmapReadIdx w d_ index => exact write_row hq h (F.XMAP_READ_IDX_INDEX.addr_page _ _ (by decide))
  | partCreate w p => exact write_row hq h (F.PART_CMD_OP.addr_page _ _ (by decide))
  | partDelete w p => exact write_row hq h (F.PART_CMD_OP.addr_page _ _ (by decide))
  | addCore w p core => exact write_row hq h (F.PART_CMD_OP.addr_page _ _ (by decide))
  | removeCore w p core => exact write_row hq h (F.PART_CMD_OP.addr_page _ _ (by decide))
  | lend w p core target => exact write_row hq h (F.PART_CMD_OP.addr_page _ _ (by decide))
  | recallCore w p core => exact write_row hq h (F.PART_CMD_OP.addr_page _ _ (by decide))
  | hold w p => exact write_row hq h (F.PART_CMD_OP.addr_page _ _ (by decide))
  | release w p => exact write_row hq h (F.PART_CMD_OP.addr_page _ _ (by decide))
  | ctxCreate w p ctx core ext => exact write_row hq h (F.PART_CTX_CMD_OP.addr_page _ _ (by decide))
  | destroy w p ctx => exact write_row hq h (F.PART_CTX_CMD_OP.addr_page _ _ (by decide))
  | rehome w p ctx core => exact write_row hq h (F.PART_CTX_CMD_OP.addr_page _ _ (by decide))
  | ctxWake w p ctx => exact write_row hq h (F.PART_CTX_CMD_OP.addr_page _ _ (by decide))
  | stage w p gen => exact write_row hq h (F.GEN_CMD_OP.addr_page _ _ (by decide))
  | castle w p gen => exact write_row hq h (F.GEN_CMD_OP.addr_page _ _ (by decide))
  | abandon w p gen => exact write_row hq h (F.GEN_CMD_OP.addr_page _ _ (by decide))
  | plCtlWrite w n v => exact write_row hq h (F.PL_CTL_EN.addr_page _ _ (by decide))
  | shareTableWrite w n i v => exact write_row hq h (by simp only [Fld.addr, Fld.byteAddr, F.PL_SHARE_JOB, page]; omega)
  | fabCtlWrite w v => exact write_row hq h (F.FAB_CTL_DEVICE_ID.addr_page _ _ (by decide))
  | fabRtIdx w v => exact write_row hq h (F.FAB_RT_IDX_INDEX.addr_page _ _ (by decide))
  | fabRtData w v => exact write_row hq h (F.FAB_RT_DATA_ENTRY.addr_page _ _ (by decide))
  | ringAllocate w ring => exact write_row hq h (F.RING_CMD_OP.addr_page _ _ (by decide))
  | ringFree w ring => exact write_row hq h (F.RING_CMD_OP.addr_page _ _ (by decide))
  | ringReset w ring => exact write_row hq h (F.RING_CMD_OP.addr_page _ _ (by decide))
  | retarget w ring => exact write_row hq h (F.RING_CMD_OP.addr_page _ _ (by decide))
  | ringReadIdx w ring => exact write_row hq h (F.RING_READ_IDX_RING.addr_page _ _ (by decide))
  | hostCtlWrite w v => exact write_row hq h (F.HOST_CTL_EN.addr_page _ _ (by decide))
  | hostPeerIdx w v => exact write_row hq h (F.HOST_PEER_IDX_INDEX.addr_page _ _ (by decide))
  | hostPeerMac w v => exact write_row hq h (F.HOST_PEER_MAC_MAC.addr_page _ _ (by decide))
  | pwrRailIdx w v => exact write_row hq h (F.PWR_RAIL_IDX_RAIL.addr_page _ _ (by decide))
  | pwrRingIdx w v => exact write_row hq h (F.PWR_RING_IDX_RING.addr_page _ _ (by decide))
  | thmIdx w v => exact write_row hq h (F.THM_IDX_SENSOR.addr_page _ _ (by decide))
  | force w => exact write_row hq h (F.FLT_SRC_CFG_CLASS.addr_page _ _ (by decide))
  | forceWire w => exact write_row hq h (F.FLT_SRC_CFG_CLASS.addr_page _ _ (by decide))
  | fltSrcIdx w v => exact write_row hq h (F.FLT_SRC_IDX_SOURCE.addr_page _ _ (by decide))
  | fltLogIdx w v => exact write_row hq h (F.FLT_LOG_IDX_ENTRY.addr_page _ _ (by decide))
  | fltDumpIdx w v => exact write_row hq h (F.FLT_DUMP_IDX_CORE.addr_page _ _ (by decide))
  | domainReset w v => exact write_row hq h (F.FLT_RESET_DOMAIN.addr_page _ _ (by decide))
  | fence w core => exact write_row hq h (F.FLT_FENCE_CMD_OP.addr_page _ _ (by decide))
  | clear w core => exact write_row hq h (F.FLT_FENCE_CMD_OP.addr_page _ _ (by decide))
  | bnkMemberIdx w v => exact write_row hq h (F.BNK_MEMBER_IDX_INDEX.addr_page _ _ (by decide))
  | bnkMember w v => exact write_row hq h (F.BNK_MEMBER_ADMIT.addr_page _ _ (by decide))
  | write w comp => exact write_row hq h (F.SEC_FW_CMD_OP.addr_page _ _ (by decide))
  | stageImage w comp => exact write_row hq h (F.SEC_FW_CMD_OP.addr_page _ _ (by decide))
  | discard w comp => exact write_row hq h (F.SEC_FW_CMD_OP.addr_page _ _ (by decide))
  | fwCommit w comp => exact write_row hq h (F.SEC_FW_CMD_OP.addr_page _ _ (by decide))
  | secFwSlotIdx w v => exact write_row hq h (F.SEC_FW_SLOT_IDX_COMPONENT.addr_page _ _ (by decide))
  | secCounterIdx w v => exact write_row hq h (F.SEC_COUNTER_IDX_COUNTER.addr_page _ _ (by decide))
  | report w => exact write_row hq h (F.SEC_ATTEST_CMD_OP.addr_page _ _ (by decide))
  | extend w index => exact write_row hq h (F.SEC_ATTEST_CMD_OP.addr_page _ _ (by decide))
  | store w slot source => exact write_row hq h (F.CFG_CMD_OP.addr_page _ _ (by decide))
  | activate w slot => exact write_row hq h (F.CFG_CMD_OP.addr_page _ _ (by decide))
  | settle w => exact write_row hq h (F.CFG_CMD_OP.addr_page _ _ (by decide))
  | takeBack w => exact write_row hq h (F.CFG_CMD_OP.addr_page _ _ (by decide))
  | erase w slot => exact write_row hq h (F.CFG_CMD_OP.addr_page _ _ (by decide))
  | cfgSlotIdx w v => exact write_row hq h (F.CFG_SLOT_IDX_SLOT.addr_page _ _ (by decide))
  | wake w => exact write_row hq h (F.HGU_CTL_WAKE.addr_page _ _ (by decide))
  | shutdown w => exact write_row hq h (F.HGU_CTL_SHUTDOWN.addr_page _ _ (by decide))
  | hguSensorIdx w v => exact write_row hq h (F.HGU_SENSOR_IDX_SENSOR.addr_page _ _ (by decide))
  | jnlReadIdx w v => exact write_row hq h (F.JNL_READ_IDX_ENTRY.addr_page _ _ (by decide))
  | timeSet w v => exact write_row hq h (F.TIME_SET_NS.addr_page _ _ (by decide))
  | registerWrite w addr v => exact write_row hq h rfl
  | _ => cases h

/-! ### Rows whose effect is one device -/

variable {i : Instr} {s : State} {c : CoreId} {e : Dev} {E : Mem → Dev → Dev}

/-- A row without bookkeeping. -/
theorem row_becomes (hx : exec i s = .next (s.run E)) (hq : s.dev.stores = []) (he : E s.mem s.dev = e) : Becomes i s e := by
  subst he
  unfold Becomes
  rw [hx, State.run_quiet hq]
  rfl

/-- A row with the bookkeeping of every core. -/
theorem row_after (hx : exec i s = .next (s.run fun m d => afterAll m (E m d))) (hq : s.dev.stores = [])
    (he : E s.mem s.dev = e) : After i s e := row_becomes hx hq (congrArg (afterAll s.mem) he)

/-- A row with the bookkeeping of its core. -/
theorem row_afterOn (hx : exec i s = .next (s.run fun m d => afterCore m c false (E m d))) (hq : s.dev.stores = [])
    (he : E s.mem s.dev = e) : AfterOn i s c e := row_becomes hx hq (congrArg (afterCore s.mem c false) he)

end Sys2Proof.Machine
end

