-- ==== Sys2Proof/Laws/Pages.lean ====
section
/-! SUPPORT. Everything that a write of a command register does when no command of a page runs or waits (R483): the
command begins at once; it ends, and its path reads BUSY 0 and RESULT, or it runs on. -/

namespace Sys2Proof.Machine

@[simp] theorem Dev.begun_now (d : Dev) (c : PageCmd) : (d.begun c).now = d.now := rfl
@[simp] theorem Dev.begun_word (d : Dev) (c : PageCmd) (a : Nat) : (d.begun c).word a = d.word a := (rfl)
@[simp] theorem Dev.begun_fld (d : Dev) (c : PageCmd) (f : Fld) (i j : Nat) : (d.begun c).fld f i j = d.fld f i j := (rfl)
@[simp] theorem Dev.begun_flag (d : Dev) (c : PageCmd) (f : Fld) (i j : Nat) : (d.begun c).flag f i j = d.flag f i j := (rfl)
@[simp] theorem Dev.begun_rf (d : Dev) (c : PageCmd) (r : Nat) (f : Bf) : (d.begun c).rf r f = d.rf r f := (rfl)
@[simp] theorem Dev.begun_xf (d : Dev) (c : PageCmd) (e : Nat) (f : Bf) : (d.begun c).xf e f = d.xf e f := (rfl)
@[simp] theorem Dev.begun_core (d : Dev) (c : PageCmd) (k : CoreId) : (d.begun c).core k = d.core k := (rfl)
@[simp] theorem Dev.begun_ctx (d : Dev) (c : PageCmd) (k : Nat) : (d.begun c).ctx? k = d.ctx? k := (rfl)
@[simp] theorem Dev.begun_power (d : Dev) (c : PageCmd) : (d.begun c).power = d.power := (rfl)
@[simp] theorem Dev.begun_flash (d : Dev) (c : PageCmd) : (d.begun c).flash = d.flash := (rfl)
@[simp] theorem Dev.begun_memRead (d : Dev) (c : PageCmd) (m : Mem) (a n : Nat) : memRead m (d.begun c) a n = memRead m d a n := (rfl)
@[simp] theorem Dev.begun_pstate (d : Dev) (c : PageCmd) (p : PartId) : (d.begun c).pstate p = d.pstate p := (rfl)
@[simp] theorem Dev.begun_partJob (d : Dev) (c : PageCmd) (m : Mem) (p : PartId) : partJob m (d.begun c) p = partJob m d p := (rfl)
@[simp] theorem Dev.ended_pageCmds (d : Dev) (c : PageCmd) (r : Nat) : (d.ended c r).pageCmds = [] := rfl

theorem enterCmd_idle {d : Dev} (h : d.pageCmds = []) (st : CmdStatus) (i : Nat) (c : PageCmd) :
    d.enterCmd st i c = { d.setPfld c.path st.busy 1 i with pageCmds := [c] } := by
  unfold Dev.enterCmd Dev.pathBusy
  rw [h]
  rfl

theorem beginHead_single (d : Dev) (c : PageCmd) (h : d.pageCmds = [c]) :
    d.beginHead c.page = { d with pageCmds := [c.started d.now] } := by
  unfold Dev.beginHead Dev.pageHead
  rw [h]
  simp [PageCmd.started]

theorem pageHead_single {d : Dev} {c : PageCmd} (h : d.pageCmds = [c]) : d.pageHead c.page = some c := by
  unfold Dev.pageHead
  rw [h]
  simp

/-- The pump starts a command that has just been entered on an idle page. -/
theorem pump_first (m : Mem) (n : Nat) {d : Dev} {c : PageCmd} (h : d.pageCmds = [c]) (hb : c.began = none) :
    pump m c.page (n + 1) d =
      match startCmd m (c.started d.now) { d with pageCmds := [c.started d.now] } with
      | (e, some r) => pump m c.page n (e.finish c.page r)
      | (e, none) => e := by
  rw [pump, pageHead_single h]
  simp only [hb, Option.isSome_none, Bool.false_eq_true, if_false]
  rw [beginHead_single d c h]
  rw [show ({ c with began := some ({ d with pageCmds := [c.started d.now] } : Dev).now } : PageCmd) = c.started d.now from rfl]
  cases hs : startCmd m (c.started d.now) { d with pageCmds := [c.started d.now] } with
  | mk e r => cases r <;> rfl

theorem finish_single {e : Dev} {c : PageCmd} {t r : Nat} (h : e.pageCmds = [c.started t]) (ho : e.pathOpen c.path = true) :
    e.finish c.page r = e.ended c r := by
  unfold Dev.finish
  rw [show c.page = (c.started t).page from rfl, pageHead_single h]
  dsimp only
  unfold Dev.endHead
  rw [pageHead_single h]
  dsimp only
  have hc : (c.started t).path = c.path := rfl
  rw [hc]
  have hp : ({ e with pageCmds := e.pageCmds.erase (c.started t) } : Dev).pathOpen c.path = e.pathOpen c.path := by
    unfold Dev.pathOpen Dev.sessionScope
    rfl
  rw [if_pos (hp.trans ho), h]
  simp only [List.erase_cons_head]
  rfl

theorem pump_empty (m : Mem) (p n : Nat) {d : Dev} (h : d.pageCmds = []) : pump m p n d = d := by
  cases n with
  | zero => rfl
  | succ n =>
    rw [pump]
    have : d.pageHead p = none := by unfold Dev.pageHead; rw [h]; rfl
    rw [this]

/-- The device when a command has been entered on an idle page. -/
def Dev.entered (d : Dev) (c : PageCmd) : Dev := { d.setPfld c.path c.busyFld 1 (c.page % 256) with pageCmds := [c] }

theorem Dev.entered_begun (d : Dev) (c : PageCmd) :
    ({ d.entered c with pageCmds := [c.started (d.entered c).now] } : Dev) = d.begun c := rfl

/-- A command on an idle page that ends at once. -/
theorem enterAndPump_ends {m : Mem} {d e : Dev} {c : PageCmd} {r : Nat} (hp : d.pageCmds = []) (hb : c.began = none)
    (hs : startCmd m (c.started d.now) (d.begun c) = (e, some r)) (he : e.pageCmds = [c.started d.now])
    (ho : e.pathOpen c.path = true) : enterAndPump m c d = e.ended c r := by
  unfold enterAndPump
  dsimp only
  rw [enterCmd_idle hp]
  show pump m c.page _ (d.entered c) = _
  rw [pump_first m _ (rfl : (d.entered c).pageCmds = [c]) hb, Dev.entered_begun,
    show c.started (d.entered c).now = c.started d.now from rfl, hs]
  dsimp only
  rw [finish_single he ho, pump_empty m _ _ (Dev.ended_pageCmds _ _ _)]

/-- A command on an idle page that runs on. -/
theorem enterAndPump_runs {m : Mem} {d e : Dev} {c : PageCmd} (hp : d.pageCmds = []) (hb : c.began = none)
    (hs : startCmd m (c.started d.now) (d.begun c) = (e, none)) : enterAndPump m c d = e := by
  unfold enterAndPump
  dsimp only
  rw [enterCmd_idle hp]
  show pump m c.page _ (d.entered c) = _
  rw [pump_first m _ (rfl : (d.entered c).pageCmds = [c]) hb, Dev.entered_begun,
    show c.started (d.entered c).now = c.started d.now from rfl, hs]

/-- A device whose one command on a page cannot go on by itself stays as it is. -/
theorem pumpAll_waits {m : Mem} {d : Dev} {c : PageCmd} {t : Nat} (h : d.pageCmds = [c.started t])
    (hw : continueCmd m (c.started t) d = (d, none)) : pumpAll m d = d := by
  unfold pumpAll
  rw [h]
  simp only [List.map_cons, List.map_nil, List.dedup_cons_of_notMem List.not_mem_nil, List.dedup_nil, List.foldl_cons,
    List.foldl_nil]
  rw [pump, pageHead_single h]
  simp only [show (c.started t).began.isSome = true from rfl, if_true]
  rw [hw]

/-! ### Rows that write a command register -/

/-- A row that writes a register which is no command register. -/
theorem row_writes {i : Instr} {s : State} {w : Path} {a v : Nat} (hq : s.Quiet) (hw : writeOf i s.dev = some (w, a, v))
    (ha : s.dev.writeAns w a v = .ok) (he : (writeEffect s.mem w a v s.dev).pageCmds = []) :
    Does i s (writeEffect s.mem w a v s.dev) :=
  ⟨_, exec_write hq.1 hw, _, doWrite_taken ha he, by rw [State.run_quiet hq.1]; rfl⟩

theorem writeEffect_command {m : Mem} {w : Path} {a v : Nat} {d : Dev} {c : PageCmd} (h : commandOf w a v d = some c) :
    writeEffect m w a v d = enterAndPump m c d := by
  unfold writeEffect; rw [h]

/-- A row that writes a command register, and whose command ends at once with a result. -/
theorem row_ends {i : Instr} {s : State} {w : Path} {a v : Nat} {c : PageCmd} {e : Dev} {r : Nat} (hq : s.Quiet)
    (hw : writeOf i s.dev = some (w, a, v)) (ha : s.dev.writeAns w a v = .ok) (hc : commandOf w a v s.dev = some c)
    (hb : c.began = none) (hs : startCmd s.mem (c.started s.dev.now) (s.dev.begun c) = (e, some r))
    (he : e.pageCmds = [c.started s.dev.now]) (ho : e.pathOpen c.path = true) :
    Does i s (e.ended c r) := by
  have h := enterAndPump_ends hq.2 hb hs he ho
  have := row_writes hq hw ha (by rw [writeEffect_command hc, h]; rfl)
  rwa [writeEffect_command hc, h] at this

/-- A row that writes a command register, and whose command runs on. -/
theorem row_runs {i : Instr} {s : State} {w : Path} {a v : Nat} {c : PageCmd} {e : Dev} (hq : s.Quiet)
    (hw : writeOf i s.dev = some (w, a, v)) (ha : s.dev.writeAns w a v = .ok) (hc : commandOf w a v s.dev = some c)
    (hb : c.began = none) (hs : startCmd s.mem (c.started s.dev.now) (s.dev.begun c) = (e, none))
    (he : e.pageCmds = [c.started s.dev.now])
    (hk : ∀ f, Settled e f → continueCmd s.mem (c.started s.dev.now) f = (f, none)) :
    Does i s e := by
  have h := enterAndPump_runs hq.2 hb hs
  refine ⟨_, exec_write hq.1 hw, doWrite s.mem w a v s.dev, ?_, by rw [State.run_quiet hq.1]; rfl⟩
  unfold doWrite regWrite
  rw [if_pos ha, if_pos ha]
  dsimp only
  rw [writeEffect_command hc, h]
  have h1 := Settled.journalWrite s.mem w a v (s.dev.readWord w a) (e.readWord w a) e
  generalize journalWrite s.mem w a v (s.dev.readWord w a) (e.readWord w a) e = f at h1 ⊢
  have h2 := h1.trans (Settled.settleAll s.mem f)
  unfold afterAll
  rw [pumpAll_waits (h2.pageCmds.trans he) (hk _ h2)]
  exact h2

theorem pathOpen_sessions {d e : Dev} (h : e.sessions = d.sessions) (w : Path) : e.pathOpen w = d.pathOpen w := by
  unfold Dev.pathOpen Dev.sessionScope; rw [h]

/-- A path that may write is open. -/
theorem writeAns_open {d : Dev} {w : Path} {a v : Nat} (h : d.writeAns w a v = .ok) : d.pathOpen w = true := by
  unfold Dev.writeAns at h
  unfold Dev.pathOpen
  split at h
  · cases w <;> simp only at h ⊢
    all_goals
      split at h
      · cases h
      all_goals simp_all
  · cases w <;> simp_all

/-- A row whose command ends at once, and touches neither the pages nor the sessions. -/
theorem row_answers {i : Instr} {s : State} {w : Path} {a v : Nat} {c : PageCmd} {e : Dev} {r : Nat} (hq : s.Quiet)
    (hw : writeOf i s.dev = some (w, a, v)) (ha : s.dev.writeAns w a v = .ok) (hc : commandOf w a v s.dev = some c)
    (hb : c.began = none) (hp : c.path = w) (hs : startCmd s.mem (c.started s.dev.now) (s.dev.begun c) = (e, some r))
    (he : e.pageCmds = (s.dev.begun c).pageCmds) (ho : e.sessions = s.dev.sessions) : Does i s (e.ended c r) :=
  row_ends hq hw ha hc hb hs he (by rw [pathOpen_sessions ho, hp]; exact writeAns_open ha)

/-- What a fold keeps when each of its steps does. -/
theorem foldl_keep {α β γ : Type} (p : α → γ) (g : α → β → α) (h : ∀ a b, p (g a b) = p a) (l : List β) (a : α) :
    p (l.foldl g a) = p a := by
  induction l generalizing a with
  | nil => rfl
  | cons b l ih => rw [List.foldl_cons, ih, h]

/-! ### Rows that write no register -/

variable {i : Instr} {s : State} {c : CoreId} {b : Bool} {E : Mem → Dev → Dev}

/-- A row with the bookkeeping of a core. -/
theorem does_core (hx : exec i s = .next (s.run fun m d => afterCore m c b (E m d))) (hq : s.dev.stores = [])
    (hp : (E s.mem s.dev).pageCmds = []) : Does i s (E s.mem s.dev) :=
  ⟨_, hx, _, .afterCore s.mem c b hp, by rw [State.run_quiet hq]; rfl⟩

/-- A row with the bookkeeping of every core. -/
theorem does_all (hx : exec i s = .next (s.run fun m d => afterAll m (E m d))) (hq : s.dev.stores = [])
    (hp : (E s.mem s.dev).pageCmds = []) : Does i s (E s.mem s.dev) :=
  ⟨_, hx, _, .afterAll s.mem hp, by rw [State.run_quiet hq]; rfl⟩

/-- A row after which commands of pages may go on. -/
theorem does_pump (hx : exec i s = .next (s.run fun m d => pumpAll m (E m d))) (hq : s.dev.stores = [])
    (hp : (E s.mem s.dev).pageCmds = []) : Does i s (E s.mem s.dev) :=
  ⟨_, hx, _, .refl _, by rw [State.run_quiet hq, pumpAll_idle _ hp]; rfl⟩

/-- A row without bookkeeping. -/
theorem does_plain (hx : exec i s = .next (s.run E)) (hq : s.dev.stores = []) : exec i s = .next (s.become (E s.mem s.dev)) := by
  rw [hx, State.run_quiet hq]; rfl

/-- A command that becomes a device completes with it. -/
theorem does_of_become {e : Dev} (h : exec i s = .next (s.become e)) : Does i s e := ⟨_, h, _, .refl _, rfl⟩

/-! ### Events that end a command -/

/-- The event that a running command waits for ends it. -/
theorem eventEnds_ends {m : Mem} {d e : Dev} {c : PageCmd} {t r : Nat} {f : PageCmd → Dev → Dev × Option Nat}
    (h : d.pageCmds = [c.started t]) (hf : f (c.started t) d = (e, some r)) (he : e.pageCmds = d.pageCmds)
    (ho : e.pathOpen c.path = true) : eventEnds m c.page f d = e.ended c r := by
  unfold eventEnds Dev.runningOn
  rw [show c.page = (c.started t).page from rfl, pageHead_single h]
  simp only [show (c.started t).began.isSome = true from rfl, if_true]
  rw [hf]
  dsimp only
  rw [show (c.started t).page = c.page from rfl, finish_single (he.trans h) ho, pump_empty m _ _ (Dev.ended_pageCmds _ _ _)]

end Sys2Proof.Machine
end

