-- ==== Sys2Proof/Laws/Keeps.lean ====
section
/-! SUPPORT. Shared operations that leave the commands of the pages and the sessions alone, swaps that bookkeeping leaves
alone, and what a row does whose register write the device takes. -/

namespace Sys2Proof.Machine

/-- The pages and the sessions. -/
def Dev.desk (d : Dev) : List PageCmd × Table Session := (d.pageCmds, d.sessions)

theorem desk_of (d e : Dev) (h : e.pageCmds = d.pageCmds) (g : e.sessions = d.sessions) : e.desk = d.desk := by
  unfold Dev.desk; rw [h, g]
theorem pages_of {d e : Dev} (h : e.desk = d.desk) : e.pageCmds = d.pageCmds := congrArg Prod.fst h
theorem sessions_of {d e : Dev} (h : e.desk = d.desk) : e.sessions = d.sessions := congrArg Prod.snd h
theorem Settled.desk {d e : Dev} (h : Settled d e) : e.desk = d.desk := desk_of _ _ h.pageCmds h.sessions

@[simp] theorem desk_setWord (d : Dev) (a : Nat) (v : Word) : (d.setWord a v).desk = d.desk := (rfl)
@[simp] theorem desk_setFld (d : Dev) (f : Fld) (v i j : Nat) : (d.setFld f v i j).desk = d.desk := (rfl)
@[simp] theorem desk_setPword (d : Dev) (w : Path) (a : Nat) (v : Word) : (d.setPword w a v).desk = d.desk := (rfl)
@[simp] theorem desk_setPfld (d : Dev) (w : Path) (f : Fld) (v i j : Nat) : (d.setPfld w f v i j).desk = d.desk := (rfl)
@[simp] theorem desk_count (d : Dev) (f : Fld) (n i j : Nat) : (d.count f n i j).desk = d.desk := by
  unfold Dev.count; split <;> rfl
@[simp] theorem desk_setCore (d : Dev) (c : CoreId) (x : Core) : (d.setCore c x).desk = d.desk := (rfl)
@[simp] theorem desk_modCore (d : Dev) (c : CoreId) (f : Core → Core) : (d.modCore c f).desk = d.desk := (rfl)
@[simp] theorem desk_setCtx (d : Dev) (k : Nat) (x : Ctx) : (d.setCtx k x).desk = d.desk := (rfl)
@[simp] theorem desk_modCtx (d : Dev) (k : Nat) (f : Ctx → Ctx) : (d.modCtx k f).desk = d.desk := by
  unfold Dev.modCtx; split <;> rfl
@[simp] theorem desk_modSlot (d : Dev) (c : CoreId) (k : SlotId) (f : Ctx → Ctx) : (d.modSlot c k f).desk = d.desk := by
  unfold Dev.modSlot; split <;> simp
@[simp] theorem desk_store (d : Dev) (a : Nat) (l : List Byte) : (d.store a l).desk = d.desk := (rfl)
@[simp] theorem desk_clearMem (d : Dev) (a n : Nat) : (d.clearMem a n).desk = d.desk := (rfl)
@[simp] theorem desk_send (d : Dev) (x : Sent) : (d.send x).desk = d.desk := (rfl)
@[simp] theorem desk_setRing (d : Dev) (r : Nat) (x : Ring) : (d.setRing r x).desk = d.desk := (rfl)
@[simp] theorem desk_setXent (d : Dev) (e v : Nat) : (d.setXent e v).desk = d.desk := (rfl)
@[simp] theorem desk_setXf (d : Dev) (e : Nat) (f : Bf) (v : Nat) : (d.setXf e f v).desk = d.desk := (rfl)
@[simp] theorem desk_setClock (d : Dev) (k : Nat) (x : Clock) : (d.setClock k x).desk = d.desk := (rfl)
@[simp] theorem desk_postEvent (d : Dev) (p : PartId) (a b n : Nat) : (d.postEvent p a b n).desk = d.desk :=
  (Settled.postEvent d p a b n).desk
@[simp] theorem desk_settle (m : Mem) (c : CoreId) (b : Bool) (d : Dev) : (settle m c b d).desk = d.desk :=
  (Settled.settle m c b d).desk
@[simp] theorem desk_settleAll (m : Mem) (d : Dev) : (settleAll m d).desk = d.desk := (Settled.settleAll m d).desk
@[simp] theorem desk_settlePart (m : Mem) (p : PartId) (d : Dev) : (settlePart m p d).desk = d.desk := (Settled.settlePart m p d).desk

/-! ### Rows whose register write is taken -/

variable {i : Instr} {s : State} {w : Path} {a v : Nat}

theorem State.Takes.none (h : s.Takes i) : s.dev.pageCmds.Sublist [] := by rw [h.1.2]

theorem State.Takes.ans (h : s.Takes i) (hw : writeOf i s.dev = some (w, a, v)) : s.dev.writeAns w a v = .ok := by
  obtain ⟨-, w', a', v', h1, h2⟩ := h
  rw [h1] at hw
  simp only [Option.some.injEq, Prod.mk.injEq] at hw
  obtain ⟨rfl, rfl, rfl⟩ := hw
  exact h2

/-- A row that writes a register which is no command register. -/
theorem row_settles {e : Dev} (h : s.Takes i) (hw : writeOf i s.dev = some (w, a, v))
    (he : Settled e (writeEffect s.mem w a v s.dev)) (hd : e.desk = s.dev.desk) : Does i s e := by
  have hp : e.pageCmds = [] := (pages_of hd).trans h.1.2
  obtain ⟨t, h1, f, h2, h3⟩ := row_writes h.1 hw (h.ans hw) (he.pageCmds.trans hp)
  exact ⟨t, h1, f, he.trans h2, h3⟩

theorem row_effect {e : Dev} (h : s.Takes i) (hw : writeOf i s.dev = some (w, a, v))
    (he : writeEffect s.mem w a v s.dev = e) (hd : e.desk = s.dev.desk) : Does i s e :=
  row_settles h hw (he ▸ .refl _) hd

/-- A row whose command ends at once, and touches neither the pages nor the sessions. -/
theorem row_ended {c : PageCmd} {e : Dev} {r : Nat} (h : s.Takes i) (hw : writeOf i s.dev = some (w, a, v))
    (hc : commandOf w a v s.dev = some c) (hb : c.began = none) (hp : c.path = w)
    (hs : startCmd s.mem (c.started s.dev.now) (s.dev.begun c) = (e, some r)) (hd : e.desk = (s.dev.begun c).desk) :
    Does i s (e.ended c r) :=
  row_answers h.1 hw (h.ans hw) hc hb hp hs (pages_of hd) ((sessions_of hd).trans rfl)

/-- A row whose command runs on. -/
theorem row_running {c : PageCmd} {e : Dev} (h : s.Takes i) (hw : writeOf i s.dev = some (w, a, v))
    (hc : commandOf w a v s.dev = some c) (hb : c.began = none)
    (hs : startCmd s.mem (c.started s.dev.now) (s.dev.begun c) = (e, none)) (hd : e.desk = (s.dev.begun c).desk)
    (hk : ∀ f, Settled e f → continueCmd s.mem (c.started s.dev.now) f = (f, none)) : Does i s e :=
  row_runs h.1 hw (h.ans hw) hc hb hs (pages_of hd) hk

theorem fold_desk {β : Type} (g : Dev → β → Dev) (h : ∀ a b, (g a b).desk = a.desk) (l : List β) (a : Dev) :
    (l.foldl g a).desk = a.desk := foldl_keep Dev.desk g h l a

end Sys2Proof.Machine
end

