-- ==== Sys2Proof/Laws/Idle.lean ====
section
/-! SUPPORT. Only a register write enters a command of a page: what else acts on the device leaves an idle block without
commands (R483). -/

namespace Sys2Proof.Machine

variable {d : Dev} {L : List PageCmd}

theorem idle_of (e : Dev) (h : d.pageCmds.Sublist L) (g : e.desk = d.desk) : e.pageCmds.Sublist L := by rw [pages_of g]; exact h

theorem idle_fold {β : Type} (g : Dev → β → Dev) (h : ∀ d b, d.pageCmds.Sublist L → (g d b).pageCmds.Sublist L) (l : List β)
    (hd : d.pageCmds.Sublist L) : (l.foldl g d).pageCmds.Sublist L := by
  induction l generalizing d with
  | nil => exact hd
  | cons b l ih => exact ih (h d b hd)

@[simp] theorem idle_setFld (f : Fld) (v i j : Nat) : (d.setFld f v i j).pageCmds = d.pageCmds := (rfl)
@[simp] theorem idle_count (f : Fld) (n i j : Nat) : (d.count f n i j).pageCmds = d.pageCmds := pages_of (desk_count _ _ _ _ _)
@[simp] theorem idle_modCore (c : CoreId) (f : Core → Core) : (d.modCore c f).pageCmds = d.pageCmds := (rfl)
@[simp] theorem idle_modCtx (k : Nat) (f : Ctx → Ctx) : (d.modCtx k f).pageCmds = d.pageCmds := pages_of (desk_modCtx _ _ _)
@[simp] theorem idle_modSlot (c : CoreId) (k : SlotId) (f : Ctx → Ctx) : (d.modSlot c k f).pageCmds = d.pageCmds :=
  pages_of (desk_modSlot _ _ _ _)
@[simp] theorem idle_postEvent (p : PartId) (a b n : Nat) : (d.postEvent p a b n).pageCmds = d.pageCmds :=
  pages_of (desk_postEvent _ _ _ _ _)
@[simp] theorem idle_settleAll (m : Mem) : (settleAll m d).pageCmds = d.pageCmds := pages_of (desk_settleAll _ _)
@[simp] theorem idle_settlePart (m : Mem) (p : PartId) : (settlePart m p d).pageCmds = d.pageCmds := pages_of (desk_settlePart _ _ _)
@[simp] theorem idle_settle (m : Mem) (c : CoreId) (b : Bool) : (settle m c b d).pageCmds = d.pageCmds := pages_of (desk_settle _ _ _ _)
@[simp] theorem idle_draw : d.draw.2.pageCmds = d.pageCmds := (rfl)
@[simp] theorem idle_emitSystem (a b c e f : Nat) (l : List Byte) : (d.emitSystem a b c e f l).pageCmds = d.pageCmds := by
  unfold Dev.emitSystem; rfl
@[simp] theorem idle_sendBanker (t : Option DeviceId) (a b c x y z : Nat) : (d.sendBanker t a b c x y z).pageCmds = d.pageCmds := by
  unfold Dev.sendBanker
  dsimp only
  rw [Dev.send_pageCmds]
  exact (foldl_keep Dev.pageCmds _ (fun _ _ => idle_emitSystem _ _ _ _ _ _) _ _).trans rfl
@[simp] theorem idle_modJob (j : Nat) (f : JobRun → JobRun) : (d.modJob j f).pageCmds = d.pageCmds := (rfl)
@[simp] theorem idle_setSrc (s : Nat) (x : FaultSrc) : (d.setSrc s x).pageCmds = d.pageCmds := (rfl)
@[simp] theorem idle_setRule (i : Nat) (r : RuleRun) : (d.setRule i r).pageCmds = d.pageCmds := (rfl)
@[simp] theorem idle_setPort (n : PortId) (x : Port) : (d.setPort n x).pageCmds = d.pageCmds := (rfl)
@[simp] theorem idle_modPort (n : PortId) (f : Port → Port) : (d.modPort n f).pageCmds = d.pageCmds := (rfl)
@[simp] theorem idle_setXf (e : Nat) (f : Bf) (v : Nat) : (d.setXf e f v).pageCmds = d.pageCmds := (rfl)
@[simp] theorem idle_setRf (r : Nat) (f : Bf) (v : Nat) : (d.setRf r f v).pageCmds = d.pageCmds := (rfl)
@[simp] theorem idle_setPfld (w : Path) (f : Fld) (v i j : Nat) : (d.setPfld w f v i j).pageCmds = d.pageCmds := (rfl)

@[simp] theorem idle_countFrame (b : Bool) (n : Nat) : (d.countFrame b n).pageCmds = d.pageCmds := by
  unfold Dev.countFrame; simp
@[simp] theorem idle_setSession (n : Nat) (s : Session) : (d.setSession n s).pageCmds = d.pageCmds := (rfl)
@[simp] theorem idle_sendIn (n a b : Nat) (l : List Byte) : (d.sendIn n a b l).pageCmds = d.pageCmds := by
  unfold Dev.sendIn
  split
  · rfl
  · dsimp only; split <;> simp
@[simp] theorem idle_notify (n : Nat) (l : List Byte) : (d.notify n l).pageCmds = d.pageCmds := idle_sendIn _ _ _ _
@[simp] theorem idle_alarm (i v : Nat) (on : Bool) : (d.alarm i on v).pageCmds = d.pageCmds := by
  unfold Dev.alarm
  dsimp only
  split <;> exact foldl_keep Dev.pageCmds _ (fun _ _ => idle_notify _ _) _ _
@[simp] theorem idle_keepTrip (e : Dev) : (keepTrip e d).pageCmds = d.pageCmds := by unfold keepTrip; split <;> rfl
theorem idle_mainOff : d.mainOff.pageCmds.Sublist L := by
  unfold Dev.mainOff
  dsimp only
  rw [idle_keepTrip]
  exact List.nil_sublist _
theorem idle_shutdownBy (i : Nat) : (d.shutdownBy i).pageCmds.Sublist L := by
  unfold Dev.shutdownBy
  rw [idle_setFld, idle_setFld]
  exact idle_mainOff
theorem idle_activateRule (i v : Nat) (h : d.pageCmds.Sublist L) : (d.activateRule i v).pageCmds.Sublist L := by
  unfold Dev.activateRule
  dsimp only
  split
  · exact idle_shutdownBy _
  · split
    · rw [idle_alarm]; exact h
    · exact h
@[simp] theorem idle_releaseRule (i v : Nat) : (d.releaseRule i v).pageCmds = d.pageCmds := by
  unfold Dev.releaseRule; dsimp only; split <;> simp
theorem idle_sourceRules (s : Nat) (on : Bool) (h : d.pageCmds.Sublist L) : (d.sourceRules s on).pageCmds.Sublist L := by
  unfold Dev.sourceRules
  refine idle_fold _ (fun d i h => ?_) _ h
  dsimp only
  split
  · split
    · exact idle_activateRule _ _ h
    · rw [idle_releaseRule]; exact h
  · exact h
theorem idle_clearSrc (s : Nat) (h : d.pageCmds.Sublist L) : (d.clearSrc s).pageCmds.Sublist L := idle_sourceRules _ _ h

/-! ### Turns and steps that fail -/

@[simp] theorem idle_failJobTurn (m : Mem) (p : PartId) (a : Nat) : (failJobTurn m p a d).pageCmds = d.pageCmds := by
  unfold failJobTurn; dsimp only; split <;> simp
@[simp] theorem idle_abandonStep (p : PartId) : (d.abandonStep p).pageCmds = d.pageCmds := by
  unfold Dev.abandonStep; split <;> simp
@[simp] theorem idle_stopPart (p : PartId) (c : Option CoreId) : (d.stopPart p c).pageCmds = d.pageCmds :=
  foldl_keep Dev.pageCmds _ (fun _ _ => idle_modCtx _ _) _ _
@[simp] theorem idle_clearCore (c : CoreId) : (d.clearCore c).pageCmds = d.pageCmds := by
  unfold Dev.clearCore
  dsimp only
  refine (foldl_keep Dev.pageCmds _ ?_ _ _).trans rfl
  intro a b
  rfl
@[simp] theorem idle_restartPart (m : Mem) (p : PartId) (n : Nat) : (restartPart m p n d).pageCmds = d.pageCmds := by
  unfold restartPart
  dsimp only
  rw [foldl_keep Dev.pageCmds _ (fun _ _ => idle_modCtx _ _), foldl_keep Dev.pageCmds _ (fun _ _ => idle_clearCore _)]
@[simp] theorem idle_failTurn (m : Mem) (p : PartId) (a : Nat) (c : Option CoreId) : (failTurn m p a d c).pageCmds = d.pageCmds := by
  unfold failTurn
  split
  · simp
  · split <;> simp
@[simp] theorem idle_failJob (m : Mem) (j a : Nat) : (failJob m j a d).pageCmds = d.pageCmds := by
  unfold failJob
  split
  · rfl
  · split <;> simp
@[simp] theorem idle_failParts (m : Mem) (a : Nat) (c : Option CoreId) (ps : List PartId) (js : List Nat) (d : Dev) :
    (failParts m a c ps js d).pageCmds = d.pageCmds := by
  induction ps generalizing js d with
  | nil => rfl
  | cons p r ih =>
    unfold failParts
    dsimp only
    split
    · exact ih _ _
    · rw [ih, idle_failTurn]
@[simp] theorem idle_failDevice (m : Mem) (a : Nat) : (failDevice m a d).pageCmds = d.pageCmds := by
  unfold failDevice
  rw [foldl_keep Dev.pageCmds _ (fun _ _ => idle_sendBanker _ _ _ _ _ _ _)]

/-! ### Resets and fencing -/

@[simp] theorem idle_dumpCore (c : CoreId) (n : Nat) : (d.dumpCore c n).pageCmds = d.pageCmds := by
  unfold Dev.dumpCore; dsimp only; split <;> rfl
@[simp] theorem idle_loseCore (c : CoreId) : (d.loseCore c).pageCmds = d.pageCmds := by
  unfold Dev.loseCore
  dsimp only
  rw [Dev.setCore_pageCmds]
  exact foldl_keep Dev.pageCmds _ (fun _ _ => idle_modCtx _ _) _ _
theorem idle_loseMemory (h : d.pageCmds.Sublist L) : d.loseMemory.pageCmds.Sublist L := by
  have hd : ∀ (l : Table Session) (d : Dev), d.pageCmds.Sublist L →
      (l.foldl (fun d e => d.dropPath (sessionPath e.1 e.2)) d).pageCmds.Sublist L := fun l d h =>
    idle_fold _ (fun d e h => List.filter_sublist.trans h) l h
  unfold Dev.loseMemory
  exact List.filter_sublist.trans (hd _ _ h)
theorem idle_loseHub : d.loseHub.pageCmds.Sublist L := List.nil_sublist _
@[simp] theorem idle_resetRegs (a b : Nat) : (d.resetRegs a b).pageCmds = d.pageCmds := (rfl)
@[simp] theorem idle_countReset (a b : Nat) : (d.countReset a b).pageCmds = d.pageCmds := (rfl)
theorem idle_startReset (n : Nat) (c : CoreId) (b : Bool) (k : Nat) (h : d.pageCmds.Sublist L) : (d.startReset n c b k).pageCmds.Sublist L := by
  unfold Dev.startReset
  extract_lets covered cs d1 keep pw d2 d3 d4 d5 d6 d7 d8 d9
  split
  · exact h
  · have h1 : d1.pageCmds.Sublist L := by
      show (if b then _ else _ : Dev).pageCmds.Sublist L
      split
      · rw [foldl_keep Dev.pageCmds _ (fun _ _ => idle_dumpCore _ _)]; exact h
      · exact h
    have h4 : d4.pageCmds.Sublist L := idle_fold _ (fun _ _ h => by rw [idle_loseCore]; exact h) _ h1
    have h5 : d5.pageCmds.Sublist L := by
      show (if _ then _ else _ : Dev).pageCmds.Sublist L
      split
      · exact idle_loseMemory h4
      · exact h4
    have h6 : d6.pageCmds.Sublist L := by
      show (if _ then _ else _ : Dev).pageCmds.Sublist L
      split <;> exact h5
    have h7 : d7.pageCmds.Sublist L := by
      show (if _ then _ else _ : Dev).pageCmds.Sublist L
      split
      · exact idle_loseHub
      · exact h6
    have h8 : d8.pageCmds.Sublist L := by
      show (keepTrip _ _).pageCmds.Sublist L
      rw [idle_keepTrip, idle_resetRegs]; exact h7
    show (Dev.setFld d9 _ _ _ _).pageCmds.Sublist L
    rw [idle_setFld]
    show (if _ then _ else _ : Dev).pageCmds.Sublist L
    split
    · rw [idle_count]; exact h8
    · exact h8

theorem idle_clearedPlan (c : CoreId) : (d.advancePlan c).pageCmds = d.pageCmds := by
  unfold Dev.advancePlan
  dsimp only
  split
  · rfl
  · split
    · exact (Settled.beginSwapOut _ _ _).pageCmds
    · split <;> simp
@[simp] theorem idle_beginPlan (c : CoreId) (p : CorePlan) : (d.beginPlan c p).pageCmds = d.pageCmds := by
  unfold Dev.beginPlan Dev.abandonWait
  rw [idle_clearedPlan]
  split <;> simp
@[simp] theorem idle_rehomeAll (p : PartId) (a b : CoreId) : (d.rehomeAll p a b).pageCmds = d.pageCmds :=
  foldl_keep Dev.pageCmds _ (fun _ _ => idle_modCtx _ _) _ _
@[simp] theorem idle_restartResident (m : Mem) (c : CoreId) : (restartResident m c d).pageCmds = d.pageCmds :=
  foldl_keep Dev.pageCmds _ (fun _ _ => idle_modCtx _ _) _ _
@[simp] theorem idle_setWindows (c : CoreId) (p : Option PartId) : (d.setWindows c p).pageCmds = d.pageCmds := by
  unfold Dev.setWindows
  refine foldl_keep Dev.pageCmds _ (fun _ _ => ?_) _ _
  split
  · split <;> rfl
  · rfl
@[simp] theorem idle_fenceOff (c : CoreId) : (d.fenceOff c).pageCmds = d.pageCmds := by
  unfold Dev.fenceOff
  dsimp only
  rw [Dev.setFlash_pageCmds, idle_modCore, idle_loseCore]
@[simp] theorem idle_replaceCore (m : Mem) (c : CoreId) (p : PartId) : (d.replaceCore m c p).pageCmds = d.pageCmds := by
  unfold Dev.replaceCore
  split
  · simp
  · split
    · simp
    · dsimp only; split <;> simp
@[simp] theorem idle_leaveCore (m : Mem) (c : CoreId) (p : PartId) : (leaveCore m c p d).pageCmds = d.pageCmds := by
  unfold leaveCore; split <;> simp
@[simp] theorem idle_fenceCore (m : Mem) (c : CoreId) : (fenceCore m c d).pageCmds = d.pageCmds := by
  unfold fenceCore
  dsimp only
  have h1 : (((restartResident m c d).fenceOff c).setWindows c none).pageCmds = d.pageCmds := by simp
  generalize ((restartResident m c d).fenceOff c).setWindows c none = e at h1 ⊢
  have h2 : (e.count F.FLT_COUNTS_FENCE_COUNT 1).pageCmds = d.pageCmds := by simpa using h1
  generalize e.count F.FLT_COUNTS_FENCE_COUNT 1 = f at h2 ⊢
  rw [← h2]
  cases (d.core c).home with
  | none =>
    dsimp only
    split
    · rfl
    · simp
  | some p =>
    dsimp only
    split
    · simp
    · split <;> simp

/-! ### Faults -/

theorem idle_classAction (m : Mem) (n : Nat) (c : Option CoreId) (ps : List PartId) (k : Nat) (h : d.pageCmds.Sublist L) :
    (classAction m n c ps k d).pageCmds.Sublist L := by
  unfold classAction
  split
  · exact h
  · simpa using h
  · exact idle_startReset _ _ _ _ (by simpa using h)
  · simpa using h
  · exact idle_startReset _ _ _ _ (by simpa using h)
  · split
    · exact idle_startReset _ _ _ _ (by simpa using h)
    · exact h
theorem idle_autoClear (s n : Nat) (b : Bool) (h : d.pageCmds.Sublist L) : (d.autoClear s n b).pageCmds.Sublist L := by
  unfold Dev.autoClear
  split
  · exact h
  · split
    · exact h
    · exact idle_clearSrc _ h
@[simp] theorem idle_addLog (n : Nat) : (d.addLog n).pageCmds = d.pageCmds := by unfold Dev.addLog; simp
@[simp] theorem idle_noteFirst (n : Nat) : (d.noteFirst n).pageCmds = d.pageCmds := by unfold Dev.noteFirst; split <;> simp
@[simp] theorem idle_openCapture : d.openCapture.pageCmds = d.pageCmds := (rfl)
theorem idle_capture (m : Mem) (s a b : Nat) (f w : Bool) (r : Option PartId) (h : d.pageCmds.Sublist L) :
    (capture m s a b f w r d).pageCmds.Sublist L := by
  unfold capture
  extract_lets n ps k d1 d2
  have h2 : d2.pageCmds.Sublist L := idle_sourceRules _ _ (by
    show (Dev.setSrc d1 _ _).pageCmds.Sublist L
    rw [idle_setSrc]
    show (((Dev.noteFirst _ _).count _ _).pageCmds).Sublist L
    simpa using h)
  split
  · exact h2
  · exact idle_autoClear _ _ _ (idle_classAction _ _ _ _ _ h2)
theorem idle_raiseFault (m : Mem) (s a b : Nat) (f w : Bool) (r : Option PartId) (h : d.pageCmds.Sublist L) :
    (raiseFault m s a b f w r d).pageCmds.Sublist L := by
  unfold raiseFault
  split
  · exact h
  · split
    · simpa using h
    · exact idle_capture _ _ _ _ _ _ _ h
theorem idle_raiseOwn (m : Mem) (s : Nat) (a : Option Nat) (r : Option PartId) (h : d.pageCmds.Sublist L) :
    (raiseOwn m s a r d).pageCmds.Sublist L := by
  unfold raiseOwn
  exact idle_raiseFault _ _ _ _ _ _ _ h

/-! ### Packets and ports -/

@[simp] theorem idle_errorNotice (p : Packet) (b : Bool) : (d.errorNotice p b).pageCmds = d.pageCmds := by
  unfold Dev.errorNotice; dsimp only; split <;> simp
theorem idle_dispatchPacket (m : Mem) (p : Packet) (a b : Nat) (o : Option PortId) (h : d.pageCmds.Sublist L) :
    (dispatchPacket m p a b d o).pageCmds.Sublist L := by
  unfold dispatchPacket
  split
  · exact h
  · simpa using h
  · exact h
  · split
    · exact idle_raiseOwn _ _ _ _ (by simpa using h)
    · exact h
theorem idle_retryHeld (m : Mem) (h : d.pageCmds.Sublist L) : (retryHeld m d).pageCmds.Sublist L :=
  idle_fold _ (fun _ _ h => idle_dispatchPacket _ _ _ _ _ h) _ h
@[simp] theorem idle_portEnter (n : PortId) (a : Nat) : (d.portEnter n a).pageCmds = d.pageCmds := (rfl)
@[simp] theorem idle_chooseTime : d.chooseTime.pageCmds = d.pageCmds := by
  unfold Dev.chooseTime; repeat' split
  all_goals rfl
theorem idle_portDown (m : Mem) (n : PortId) (a : Nat) (h : d.pageCmds.Sublist L) : (portDown m n a d).pageCmds.Sublist L := by
  unfold portDown
  extract_lets x out k d1 d2 src d3 d4 d5
  have h3 : d3.pageCmds.Sublist L := by
    show d2.pageCmds.Sublist L
    show (((Dev.count _ _ _ _).count _ _ _).pageCmds).Sublist L
    rw [idle_count, idle_count]
    exact h
  have h4 : d4.pageCmds.Sublist L := by
    show (Dev.chooseTime _).pageCmds.Sublist L
    rw [idle_chooseTime]
    exact idle_fold _ (fun _ _ h => idle_dispatchPacket _ _ _ _ _ h) _ h3
  split
  · exact h4
  · refine idle_raiseOwn _ _ _ _ ?_
    show (Dev.sendBanker _ _ _ _ _ _ _ _).pageCmds.Sublist L
    rw [idle_sendBanker]
    exact h4

end Sys2Proof.Machine
end

