-- ==== Sys2Proof/Laws/RegWrites.lean ====
section
/-! SUPPORT. Which write a register row makes: the page and offset of its address pick one change of the device (R475). -/

namespace Sys2Proof.Machine

variable {d : Dev} {L : List PageCmd}

theorem page_parts (code inst o : Nat) (hi : inst < 256) (ho : o < 65536) :
    page code inst o / 2 ^ 16 = code * 256 + inst ∧ page code inst o % 2 ^ 16 = o ∧ page code inst o / 2 ^ 24 = code ∧
    page code inst o / 2 ^ 16 % 256 = inst ∧ page code inst o / 2 ^ 16 / 256 = code := by
  unfold page; omega

theorem commandOf_core (w : Path) {a code o v : Nat} (d : Dev) (hc : code ≤ 6) (h5 : a / 2 ^ 16 / 256 = code) (h2 : a % 2 ^ 16 = o) :
    commandOf w a v d = none := by
  unfold commandOf
  simp only [h2, h5]
  split <;> first | (exfalso; omega) | rfl

theorem writeSimple_core (m : Mem) (w : Path) {a code o v : Nat} (d : Dev) (c : CoreId) (hc : code ≤ 6) (h2 : a % 2 ^ 16 = o)
    (h3 : a / 2 ^ 24 = code) (h4 : a / 2 ^ 16 % 256 = c.val) : writeSimple m w a v d = writeCore m w a v code o c d := by
  have t3 : coreOf c.val = some c := by unfold coreOf; simp
  unfold writeSimple
  simp only [h2, h3, h4, t3, hc, if_true]

theorem Fld.addr_code (f : Fld) (i : Nat) (h : f.off < 2 ^ 16) (hi : i < 256) : f.addr i 0 / 2 ^ 24 = f.blk := by
  unfold Fld.addr Fld.byteAddr; omega

theorem effect_core (m : Mem) (w : Path) {a code o v : Nat} (c : CoreId) (d : Dev) (ha : a = page code c.val o) (hc : code ≤ 6)
    (ho : o < 65536) : writeEffect m w a v d = writeCore m w a v code o c d := by
  have hcl := c.isLt
  obtain ⟨h1, h2, h3, h4, h5⟩ := page_parts code c.val o (by omega) ho
  rw [← ha] at h1 h2 h3 h4 h5
  have hn : ∀ f : Fld, f.off < 2 ^ 16 → 6 < f.blk → a ≠ f.addr 0 0 := fun f hf hb he => by
    have := f.addr_code 0 hf (by decide)
    rw [← he] at this
    omega
  unfold writeEffect
  rw [commandOf_core w d hc h5 h2, if_neg (hn _ (by decide) (by decide)), if_neg (hn _ (by decide) (by decide)),
    if_neg (hn _ (by decide) (by decide)), if_neg (hn _ (by decide) (by decide)), writeSimple_core m w d c hc h2 h3 h4]


theorem fold_range_congr {α : Type} (n : Nat) (f g : α → Nat → α) (h : ∀ a i, i < n → f a i = g a i) (a : α) :
    (List.range n).foldl f a = (List.range n).foldl g a := by
  apply List.foldl_ext
  intro a b hb
  exact h a b (List.mem_range.1 hb)

theorem bit_low (mask : BitVec 4) (r i : Nat) (h : i < 4) : bitAt (mask.toNat + 16 * r) i = mask.getLsbD i := by
  have hm := mask.isLt
  have : (mask.toNat + 16 * r).testBit i = mask.toNat.testBit i := by
    rw [show 16 * r = 2 ^ 4 * r from rfl, Nat.add_comm, Nat.testBit_two_pow_mul_add _ (by omega)]
    simp [h]
  unfold bitAt
  rw [BitVec.getLsbD]
  simpa [Nat.testBit, Nat.shiftRight_eq_div_pow] using this


theorem writeCore_ctl1 (m : Mem) (w : Path) (a v : Nat) (c : CoreId) (d : Dev) :
    writeCore m w a v 0x01 0x100 c d = settle m c false (coreCtl c v d) := by
  unfold writeCore; rw [if_neg (by omega)]; rfl
theorem writeCore_ctl2 (m : Mem) (w : Path) (a v : Nat) (c : CoreId) (d : Dev) :
    writeCore m w a v 0x02 0x100 c d = settle m c false (aryCtl c v d) := by
  unfold writeCore; rw [if_neg (by omega)]; rfl
theorem writeCore_ctl3 (m : Mem) (w : Path) (a v : Nat) (c : CoreId) (d : Dev) :
    writeCore m w a v 0x03 0x100 c d = vecCtl c v d := by
  unfold writeCore; rw [if_neg (by omega)]; rfl
theorem writeCore_ctl6 (m : Mem) (w : Path) (a v : Nat) (c : CoreId) (d : Dev) :
    writeCore m w a v 0x06 0x100 c d = settle m c false (movCtl c v d) := by
  unfold writeCore; rw [if_neg (by omega)]; rfl

theorem coreCtl_eq (c : CoreId) (mask : BitVec 4) (r : Nat) (hr : r < 16) (d : Dev) :
    coreCtl c (mask.toNat + 16 * r) d = (List.range 4).foldl (fun d i =>
      if mask.getLsbD i then (d.modSlot c (slotOf i) Ctx.resume).setWord (F.CORE_ERR_OP.addr c.val i) 0 else d)
        (d.setFld F.CORE_CTL_HALT r c.val) := by
  have hb : bits (mask.toNat + 16 * r) 4 4 = r := by have := mask.isLt; unfold bits; omega
  unfold coreCtl
  rw [hb]
  exact fold_range_congr 4 _ _ (fun d i hi => by rw [bit_low mask r i hi]) _

theorem movCtl_eq (c : CoreId) (mask : BitVec 4) (d : Dev) :
    movCtl c mask.toNat d = (List.range 4).foldl (fun d i =>
      if mask.getLsbD i then (d.modSlot c (slotOf i) fun y => y.setQueue 2 { y.queue 2 with failed := false }).setWord
        (F.MOV_ERR_OP.addr c.val i) 0 else d) d := by
  unfold movCtl
  exact fold_range_congr 4 _ _ (fun d i hi => by have := bit_low mask 0 i hi; rw [Nat.mul_zero, Nat.add_zero] at this; rw [this]) _

theorem coreCtl_halt (c : CoreId) (mask : BitVec 4) (d : Dev) :
    coreCtl c (16 * mask.toNat) d = d.setFld F.CORE_CTL_HALT mask.toNat c.val := by
  have h := coreCtl_eq c 0 mask.toNat mask.isLt d
  rw [show (0 : BitVec 4).toNat + 16 * mask.toNat = 16 * mask.toNat by simp] at h
  rw [h]; rfl

theorem settles {m : Mem} {c : CoreId} {e f : Dev} (h : f = settle m c false e) : Settled e f := h ▸ .settle m c false e


theorem commandOf_other (w : Path) {a code o v : Nat} (d : Dev) (h5 : a / 2 ^ 16 / 256 = code) (h2 : a % 2 ^ 16 = o)
    (h : (code, o) ∉ [(0x10, 0x100), (0x12, 0x100), (0x30, 0x100), (0x30, 0x160), (0x32, 0x100), (0x48, 0x178), (0x51, 0x118),
      (0x51, 0x150), (0x52, 0x100)]) : commandOf w a v d = none := by
  unfold commandOf
  simp only [h2, h5]
  split <;> first | rfl | simp_all

theorem writeSimple_other (m : Mem) (w : Path) {a code inst o v : Nat} (d : Dev) (hc : 6 < code) (h2 : a % 2 ^ 16 = o)
    (h3 : a / 2 ^ 24 = code) (h4 : a / 2 ^ 16 % 256 = inst) : writeSimple m w a v d = writeSimple.rest m w a v d code inst o := by
  unfold writeSimple
  simp only [h2, h3, h4]
  split
  · rw [if_neg (by omega)]
  · rfl

/-- A write of a register of no core that is no command and none of the four with an effect of their own. -/
theorem effect_other (m : Mem) (w : Path) {a code inst o v : Nat} (d : Dev) (ha : a = page code inst o) (hc : 6 < code)
    (hi : inst < 256) (ho : o < 65536)
    (h : (code, o) ∉ [(0x10, 0x100), (0x12, 0x100), (0x30, 0x100), (0x30, 0x160), (0x32, 0x100), (0x48, 0x178), (0x51, 0x118),
      (0x51, 0x150), (0x52, 0x100)])
    (g : (code, o) ∉ [(0x48, 0x170), (0x48, 0x118), (0x50, 0x100), (0x55, 0x110)]) :
    writeEffect m w a v d = writeSimple.rest m w a v d code inst o := by
  obtain ⟨h1, h2, h3, h4, h5⟩ := page_parts code inst o hi ho
  rw [← ha] at h1 h2 h3 h4 h5
  have hn : ∀ c p, (code, o) ≠ (c, p) → p < 65536 → a ≠ page c 0 p := fun c p hne hp he => by
    obtain ⟨-, g2, g3, -, -⟩ := page_parts c 0 p (by decide) hp
    rw [← he] at g2 g3
    exact hne (by rw [← h3, ← h2, g2, g3])
  simp only [List.mem_cons, List.not_mem_nil, or_false, not_or] at g
  unfold writeEffect
  rw [commandOf_other w d h5 h2 h]
  dsimp only
  rw [show F.FLT_RESET_DOMAIN.addr 0 0 = page 0x48 0 0x170 from rfl, show F.FLT_SRC_CFG_CLASS.addr 0 0 = page 0x48 0 0x118 from rfl,
    show F.HGU_CTL_WAKE.addr 0 0 = page 0x50 0 0x100 from rfl, show F.TIME_SET_NS.addr 0 0 = page 0x55 0 0x110 from rfl,
    if_neg (hn _ _ g.1 (by decide)), if_neg (hn _ _ g.2.1 (by decide)), if_neg (hn _ _ g.2.2.1 (by decide)),
    if_neg (hn _ _ g.2.2.2 (by decide)), writeSimple_other m w d hc h2 h3 h4]

/-! ### Rows of the other pages -/

theorem desk_writeFields (d : Dev) (w : Path) (a v : Nat) : (d.writeFields w a v).desk = d.desk := by
  unfold Dev.writeFields
  dsimp only
  split
  · rfl
  · split <;> rfl

/-- A row that writes a register of no core which is no command. -/
theorem row_rest {i : Instr} {s : State} {w : Path} {code inst o v : Nat} {e : Dev} (h : s.Takes i)
    (hw : writeOf i s.dev = some (w, page code inst o, v)) (hc : 6 < code) (hi : inst < 256) (ho : o < 65536)
    (h1 : (code, o) ∉ [(0x10, 0x100), (0x12, 0x100), (0x30, 0x100), (0x30, 0x160), (0x32, 0x100), (0x48, 0x178), (0x51, 0x118),
      (0x51, 0x150), (0x52, 0x100)])
    (h2 : (code, o) ∉ [(0x48, 0x170), (0x48, 0x118), (0x50, 0x100), (0x55, 0x110)])
    (he : writeSimple.rest s.mem w (page code inst o) v s.dev code inst o = e) (hp : e.pageCmds.Sublist []) : Does i s e := by
  have := row_writes h.1 hw (h.ans hw) (by rw [effect_other s.mem w s.dev rfl hc hi ho h1 h2, he]; exact List.sublist_nil.1 hp)
  rwa [effect_other s.mem w s.dev rfl hc hi ho h1 h2, he] at this


@[simp] theorem idle_writeFields (w : Path) (a v : Nat) : (d.writeFields w a v).pageCmds = d.pageCmds := pages_of (desk_writeFields _ _ _ _)
@[simp] theorem idle_setPword (w : Path) (a : Nat) (v : Word) : (d.setPword w a v).pageCmds = d.pageCmds := (rfl)
theorem idle_words (l : List Nat) (g : Dev → Nat → Dev) (h : ∀ d i, (g d i).pageCmds = d.pageCmds) : (l.foldl g d).pageCmds = d.pageCmds :=
  foldl_keep Dev.pageCmds g h l d
@[simp] theorem idle_xmapSnapshot (w : Path) (k i : Nat) : (d.xmapSnapshot w k i).pageCmds = d.pageCmds := (rfl)
@[simp] theorem idle_ringSnapshot (w : Path) (i : Nat) : (d.ringSnapshot w i).pageCmds = d.pageCmds := idle_words _ _ fun _ _ => rfl
@[simp] theorem idle_routeSnapshot (w : Path) (i : Nat) : (d.routeSnapshot w i).pageCmds = d.pageCmds := by
  unfold Dev.routeSnapshot; split <;> rfl
@[simp] theorem idle_peerSnapshot (w : Path) (i : Nat) : (d.peerSnapshot w i).pageCmds = d.pageCmds := (rfl)
@[simp] theorem idle_railSnapshot (w : Path) (i : Nat) : (d.railSnapshot w i).pageCmds = d.pageCmds := (rfl)
@[simp] theorem idle_pipSnapshot (w : Path) (i : Nat) : (d.pipSnapshot w i).pageCmds = d.pageCmds := (rfl)
@[simp] theorem idle_thermalSnapshot (w : Path) (i : Nat) : (d.thermalSnapshot w i).pageCmds = d.pageCmds := (rfl)
@[simp] theorem idle_logSnapshot (w : Path) (i : Nat) : (d.logSnapshot w i).pageCmds = d.pageCmds := (rfl)
@[simp] theorem idle_dumpSnapshot (w : Path) (i : Nat) : (d.dumpSnapshot w i).pageCmds = d.pageCmds := (rfl)
@[simp] theorem idle_memberSnapshot (w : Path) (i : Nat) : (d.memberSnapshot w i).pageCmds = d.pageCmds := (rfl)
@[simp] theorem idle_slotSnapshot (w : Path) (i j : Nat) : (d.slotSnapshot w i j).pageCmds = d.pageCmds := (rfl)
@[simp] theorem idle_counterSnapshot (w : Path) (i : Nat) : (d.counterSnapshot w i).pageCmds = d.pageCmds := (rfl)
@[simp] theorem idle_positionSnapshot (w : Path) (i : Nat) : (d.positionSnapshot w i).pageCmds = d.pageCmds := (rfl)
@[simp] theorem idle_sensorSnapshot (w : Path) (i : Nat) : (d.sensorSnapshot w i).pageCmds = d.pageCmds := by
  unfold Dev.sensorSnapshot; split <;> rfl
@[simp] theorem idle_journalSnapshot (m : Mem) (w : Path) (i : Nat) : (d.journalSnapshot m w i).pageCmds = d.pageCmds := (rfl)

theorem page_ne {code inst o c i p : Nat} (hi : inst < 256) (ho : o < 65536) (hi' : i < 256) (hp : p < 65536)
    (h : (code, o) ≠ (c, p)) : page code inst o ≠ page c i p := fun he => by
  obtain ⟨-, h2, h3, -, -⟩ := page_parts code inst o hi ho
  obtain ⟨-, g2, g3, -, -⟩ := page_parts c i p hi' hp
  rw [he] at h2 h3
  exact h (by rw [← h3, ← h2, g2, g3])

/-- Only PWR_CTL, PWR_CAP and THM_CTL ignore values. -/
theorem power_heeds {code inst o : Nat} (v : Nat) (hi : inst < 256) (ho : o < 65536)
    (h : (code, o) ∉ [(0x40, 0x100), (0x40, 0x108), (0x42, 0x100)]) : powerIgnored (page code inst o) v = false := by
  simp only [List.mem_cons, List.not_mem_nil, or_false, not_or] at h
  unfold powerIgnored
  rw [show F.PWR_CTL_FIRST.addr 0 0 = page 0x40 0 0x100 from rfl, show F.PWR_CAP_SUSTAINED.addr 0 0 = page 0x40 0 0x108 from rfl,
    show F.THM_CTL_THROTTLE_C.addr 0 0 = page 0x42 0 0x100 from rfl, if_neg (page_ne hi ho (by decide) (by decide) h.1),
    if_neg (page_ne hi ho (by decide) (by decide) h.2.1), if_neg (page_ne hi ho (by decide) (by decide) h.2.2)]


theorem rest_xmap (d : Dev) (m w) (k n: Nat) : writeSimple.rest m w (page 0x10 k 0x120) n d 0x10 k 0x120 = (d.writeFields w (page 0x10 k 0x0120) n).xmapSnapshot w k (n % 131072) := rfl
theorem rest_ring (d : Dev) (m w) (n: Nat) : writeSimple.rest m w (page 0x12 0 0x130) n d 0x12 0 0x130 = (d.writeFields w (page 0x12 0 0x0130) n).ringSnapshot w (n % 2 ^ 18) := rfl
theorem rest_pip (d : Dev) (m w) (n: Nat) : writeSimple.rest m w (page 0x40 0 0x160) n d 0x40 0 0x160 = (d.writeFields w (page 0x40 0 0x0160) n).pipSnapshot w (n % 2 ^ 18) := by
   unfold writeSimple.rest writePower
   rw [power_heeds _ (by decide) (by decide) (by decide)]; rfl
theorem rest_rail (d : Dev) (m w) (n: Nat) : writeSimple.rest m w (page 0x40 0 0x130) n d 0x40 0 0x130 = (d.writeFields w (page 0x40 0 0x0130) n).railSnapshot w (n % 16) := by
   unfold writeSimple.rest writePower
   rw [power_heeds _ (by decide) (by decide) (by decide)]; rfl
theorem rest_thermal (d : Dev) (m w) (n: Nat) : writeSimple.rest m w (page 0x42 0 0x118) n d 0x42 0 0x118 = (d.writeFields w (page 0x42 0 0x0118) n).thermalSnapshot w (n % 256) := by
   unfold writeSimple.rest writePower
   rw [power_heeds _ (by decide) (by decide) (by decide)]; rfl
theorem rest_log (d : Dev) (m w) (n: Nat) : writeSimple.rest m w (page 0x48 0 0x138) n d 0x48 0 0x138 = (d.writeFields w (page 0x48 0 0x0138) n).logSnapshot w n := rfl
theorem rest_journal (d : Dev) (m w) (n: Nat) : writeSimple.rest m w (page 0x53 0 0x118) n d 0x53 0 0x118 = (d.writeFields w (page 0x53 0 0x0118) n).journalSnapshot m w n := rfl
theorem ring_mod (r : RingId) : r.toNat % 2 ^ 18 = r.toNat := by have := r.isLt; omega
theorem extent_mod (r : BitVec 17) : r.toNat % 131072 = r.toNat := by have := r.isLt; omega

theorem effect_special (w : Path) {a v : Nat} (d : Dev) {code o : Nat} (ha : a = page code 0 o)
    (h : (code, o) ∈ [(0x48, 0x170), (0x48, 0x118), (0x50, 0x100), (0x55, 0x110)]) : commandOf w a v d = none := by
  have h1 : o < 65536 := by
    simp only [List.mem_cons, Prod.mk.injEq, List.not_mem_nil, or_false] at h; omega
  obtain ⟨-, h2, -, -, h5⟩ := page_parts code 0 o (by decide) h1
  rw [← ha] at h2 h5
  refine commandOf_other w d h5 h2 ?_
  intro g
  simp only [List.mem_cons, Prod.mk.injEq, List.not_mem_nil, or_false] at h g
  omega

theorem effect_reset (m : Mem) (w : Path) (v : Nat) (d : Dev) : writeEffect m w (page 0x48 0 0x170) v d = resetWrite m v d := by
  unfold writeEffect
  rw [effect_special w d rfl (by decide)]
  dsimp only
  rw [show F.FLT_RESET_DOMAIN.addr 0 0 = page 0x48 0 0x170 from rfl, if_pos rfl]
theorem effect_srcCfg (m : Mem) (w : Path) (v : Nat) (d : Dev) : writeEffect m w (page 0x48 0 0x118) v d = srcCfgWrite m w v d := by
  unfold writeEffect
  rw [effect_special w d rfl (by decide)]
  dsimp only
  rw [show F.FLT_RESET_DOMAIN.addr 0 0 = page 0x48 0 0x170 from rfl,
    if_neg (page_ne (by decide) (by decide) (by decide) (by decide) (by decide)), show F.FLT_SRC_CFG_CLASS.addr 0 0 = page 0x48 0 0x118 from rfl, if_pos rfl]
theorem effect_hguCtl (m : Mem) (w : Path) (v : Nat) (d : Dev) : writeEffect m w (page 0x50 0 0x100) v d = hguCtl m w v d := by
  unfold writeEffect
  rw [effect_special w d rfl (by decide)]
  dsimp only
  rw [show F.FLT_RESET_DOMAIN.addr 0 0 = page 0x48 0 0x170 from rfl, show F.FLT_SRC_CFG_CLASS.addr 0 0 = page 0x48 0 0x118 from rfl,
    if_neg (page_ne (by decide) (by decide) (by decide) (by decide) (by decide)),
    if_neg (page_ne (by decide) (by decide) (by decide) (by decide) (by decide)), show F.HGU_CTL_WAKE.addr 0 0 = page 0x50 0 0x100 from rfl, if_pos rfl]
theorem effect_timeSet (m : Mem) (w : Path) (v : Nat) (d : Dev) : writeEffect m w (page 0x55 0 0x110) v d = timeSet v d := by
  unfold writeEffect
  rw [effect_special w d rfl (by decide)]
  dsimp only
  rw [show F.FLT_RESET_DOMAIN.addr 0 0 = page 0x48 0 0x170 from rfl, show F.FLT_SRC_CFG_CLASS.addr 0 0 = page 0x48 0 0x118 from rfl,
    show F.HGU_CTL_WAKE.addr 0 0 = page 0x50 0 0x100 from rfl,
    if_neg (page_ne (by decide) (by decide) (by decide) (by decide) (by decide)),
    if_neg (page_ne (by decide) (by decide) (by decide) (by decide) (by decide)),
    if_neg (page_ne (by decide) (by decide) (by decide) (by decide) (by decide)), show F.TIME_SET_NS.addr 0 0 = page 0x55 0 0x110 from rfl, if_pos rfl]

/-! ### What the control registers' changes keep -/

theorem idle_routeWrite (m : Mem) (w : Path) (v : Nat) (h : d.pageCmds.Sublist L) : (routeWrite m w v d).pageCmds.Sublist L := by
  unfold routeWrite; split
  · exact idle_retryHeld m h
  · exact h
@[simp] theorem idle_shareWrite (n : PortId) (i v : Nat) : (shareWrite n i v d).pageCmds = d.pageCmds := by
  unfold shareWrite; dsimp only; split
  · rfl
  · split <;> rfl
@[simp] theorem idle_peerWrite (w : Path) (v : Nat) : (d.peerWrite w v).pageCmds = d.pageCmds := (rfl)
@[simp] theorem idle_memberWrite (w : Path) (v : Nat) : (d.memberWrite w v).pageCmds = d.pageCmds := (rfl)
theorem idle_plCtl (m : Mem) (n : PortId) (v : Nat) (h : d.pageCmds.Sublist L) : (plCtl m n v d).pageCmds.Sublist L := by
  unfold plCtl
  extract_lets st d1 d2
  have h2 : d2.pageCmds.Sublist L := by
    show (if st = 0 ∨ st = 4 then _ else _ : Dev).pageCmds.Sublist L
    split
    · exact h
    · exact idle_portDown _ _ _ h
  split
  · exact h2
  · split <;> exact h2
theorem idle_fabCtl (m : Mem) (v : Nat) (h : d.pageCmds.Sublist L) : (fabCtl m v d).pageCmds.Sublist L := by
  unfold fabCtl
  refine idle_fold _ (fun d n h => ?_) _ ?_
  · split
    · exact h
    · have h1 := idle_portDown (L := L) m n 10 h
      dsimp only
      split <;> exact h1
  · rw [idle_setFld]; split <;> exact h
@[simp] theorem idle_hostCtl (v : Nat) : (hostCtl v d).pageCmds = d.pageCmds := (rfl)
@[simp] theorem idle_timeSet (v : Nat) : (timeSet v d).pageCmds = d.pageCmds := by
  unfold timeSet; split
  · rfl
  · simp

@[simp] theorem writeFields_power (d : Dev) (w : Path) (a v : Nat) : (d.writeFields w a v).power = d.power := by
  unfold Dev.writeFields
  dsimp only
  split
  · rfl
  · split <;> rfl

theorem row_at {i : Instr} {s : State} {w : Path} {a v : Nat} {e : Dev} (h : s.Takes i) (hw : writeOf i s.dev = some (w, a, v))
    (he : writeEffect s.mem w a v s.dev = e) (hp : e.pageCmds.Sublist []) : Does i s e := by
  have := row_writes h.1 hw (h.ans hw) (by rw [he]; exact List.sublist_nil.1 hp)
  rwa [he] at this
theorem row_at_settled {i : Instr} {s : State} {w : Path} {a v : Nat} {e : Dev} (h : s.Takes i) (hw : writeOf i s.dev = some (w, a, v))
    (he : writeEffect s.mem w a v s.dev = settleAll s.mem e) (hp : e.pageCmds.Sublist []) : Does i s e := by
  obtain ⟨t, h1, f, h2, h3⟩ := row_writes h.1 hw (h.ans hw) (by rw [he, idle_settleAll]; exact List.sublist_nil.1 hp)
  rw [he] at h2
  exact ⟨t, h1, f, (Settled.settleAll _ _).trans h2, h3⟩

end Sys2Proof.Machine
end

