-- ==== Sys2Proof/Laws/IdleBoot.lean ====
section
/-! SUPPORT. A write of a register that is no command enters no command, and neither do positions, boots and start-up
(R447, R498). -/

namespace Sys2Proof.Machine

variable {d : Dev} {L : List PageCmd}

theorem idle_ite {c : Prop} [Decidable c] {x y : Dev} (hx : x.pageCmds.Sublist L) (hy : y.pageCmds.Sublist L) :
    (if c then x else y).pageCmds.Sublist L := by split <;> assumption

@[simp] theorem idle_beginSwapIn (c : CoreId) (k : SlotId) (n : Nat) : (d.beginSwapIn c k n).pageCmds = d.pageCmds :=
  (Settled.beginSwapIn d c k n).pageCmds
@[simp] theorem idle_startWaiting (c : CoreId) : (d.startWaiting c).pageCmds = d.pageCmds := (Settled.startWaiting d c).pageCmds
@[simp] theorem idle_coreSwap (c : CoreId) (v : Nat) : (coreSwap c v d).pageCmds = d.pageCmds := by
  unfold coreSwap
  dsimp only
  repeat' split
  all_goals simp
@[simp] theorem idle_coreCtl (c : CoreId) (v : Nat) : (coreCtl c v d).pageCmds = d.pageCmds := by
  unfold coreCtl
  refine (foldl_keep Dev.pageCmds _ (fun d i => ?_) _ _).trans rfl
  split <;> simp
@[simp] theorem idle_aryCtl (c : CoreId) (v : Nat) : (aryCtl c v d).pageCmds = d.pageCmds := by
  unfold aryCtl; dsimp only; split <;> rfl
@[simp] theorem idle_vecCtl (c : CoreId) (v : Nat) : (vecCtl c v d).pageCmds = d.pageCmds := by
  unfold vecCtl; split <;> rfl
@[simp] theorem idle_movCtl (c : CoreId) (v : Nat) : (movCtl c v d).pageCmds = d.pageCmds := by
  unfold movCtl
  refine foldl_keep Dev.pageCmds _ (fun d i => ?_) _ _
  split <;> simp
@[simp] theorem idle_writeCore (m : Mem) (w : Path) (a v code o : Nat) (c : CoreId) :
    (writeCore m w a v code o c d).pageCmds = d.pageCmds := by
  unfold writeCore
  repeat' split
  all_goals simp
@[simp] theorem idle_updatePace (m : Mem) : (updatePace m d).pageCmds = d.pageCmds := by
  unfold updatePace
  refine foldl_keep Dev.pageCmds _ (fun d i => ?_) _ _
  dsimp only
  split <;> rfl
@[simp] theorem idle_writePower (m : Mem) (w : Path) (a v code i o : Nat) : (writePower m w a v code i o d).pageCmds = d.pageCmds := by
  unfold writePower
  dsimp only
  repeat' split
  all_goals simp
@[simp] theorem idle_writeMemory (w : Path) (a v code i o : Nat) : (writeMemory w a v code i o d).pageCmds = d.pageCmds := by
  unfold writeMemory
  dsimp only
  repeat' split
  all_goals simp
theorem idle_writeFabric (m : Mem) (w : Path) (a v code i o : Nat) (h : d.pageCmds.Sublist L) :
    (writeFabric m w a v code i o d).pageCmds.Sublist L := by
  unfold writeFabric
  dsimp only
  split
  · exact idle_plCtl _ _ _ h
  · exact idle_fabCtl _ _ h
  · simpa using h
  · exact idle_routeWrite _ _ _ h
  · split <;> simpa using h
@[simp] theorem idle_writeHost (w : Path) (a v o : Nat) : (writeHost w a v o d).pageCmds = d.pageCmds := by
  unfold writeHost
  split <;> simp
@[simp] theorem idle_seqSnapshot (w : Path) (p i : Nat) : (d.seqSnapshot w p i).pageCmds = d.pageCmds := by
  unfold Dev.seqSnapshot
  exact foldl_keep Dev.pageCmds (fun (d : Dev) j => d.setPfld w F.SEQ_READ_ENTRY _ p j) (fun _ _ => rfl) _ _
@[simp] theorem idle_writePart (w : Path) (a v code i o : Nat) : (writePart w a v code i o d).pageCmds = d.pageCmds := by
  unfold writePart
  dsimp only
  repeat' split
  all_goals simp
theorem idle_srcState (w : Path) (v : Nat) (h : d.pageCmds.Sublist L) : (d.srcState w v).pageCmds.Sublist L := by
  unfold Dev.srcState
  dsimp only
  split
  · split
    · exact idle_clearSrc _ h
    · exact idle_clearSrc _ h
  · split <;> exact h
@[simp] theorem idle_srcCfg (w : Path) (v : Nat) : (d.srcCfg w v).pageCmds = d.pageCmds := by
  unfold Dev.srcCfg; dsimp only; split <;> rfl
@[simp] theorem idle_freeDump (w : Path) (v : Nat) : (d.freeDump w v).pageCmds = d.pageCmds := by
  unfold Dev.freeDump; dsimp only; split <;> rfl
theorem idle_writeFaults (w : Path) (a v o : Nat) (h : d.pageCmds.Sublist L) : (writeFaults w a v o d).pageCmds.Sublist L := by
  unfold writeFaults
  split
  · simpa using h
  · exact idle_srcState _ _ h
  all_goals simpa using h
@[simp] theorem idle_writeHgu (w : Path) (a v o : Nat) : (writeHgu w a v o d).pageCmds = d.pageCmds := by
  unfold writeHgu
  dsimp only
  repeat' split
  all_goals simp
@[simp] theorem idle_writeHub (m : Mem) (w : Path) (a v code o : Nat) : (writeHub m w a v code o d).pageCmds = d.pageCmds := by
  unfold writeHub
  dsimp only
  repeat' split
  all_goals simp
theorem idle_writeRest (m : Mem) (w : Path) (a v code i o : Nat) (h : d.pageCmds.Sublist L) :
    (writeSimple.rest m w a v d code i o).pageCmds.Sublist L := by
  unfold writeSimple.rest
  refine idle_ite (by simpa using h) (idle_ite (idle_writeFabric _ _ _ _ _ _ _ h) (idle_ite (by simpa using h)
    (idle_ite (by simpa using h) (idle_ite (by simpa using h) (idle_ite (idle_writeFaults _ _ _ _ h)
      (idle_ite (by simpa using h) (by simpa using h)))))))
/-- A write of a register that is no command. -/
theorem idle_writeSimple (m : Mem) (w : Path) (a v : Nat) (h : d.pageCmds.Sublist L) : (writeSimple m w a v d).pageCmds.Sublist L := by
  unfold writeSimple
  dsimp only
  split
  · split
    · simpa using h
    · exact idle_writeRest _ _ _ _ _ _ _ h
  · exact idle_writeRest _ _ _ _ _ _ _ h
theorem idle_firmwareWrite (m : Mem) (a v : Nat) (h : d.pageCmds.Sublist L) : (firmwareWrite m a v d).pageCmds.Sublist L := by
  unfold firmwareWrite regWrite
  split
  · dsimp only
    rw [(Settled.journalWrite _ _ _ _ _ _ _).pageCmds]
    exact idle_writeSimple _ _ _ _ h
  · exact h

/-! ### Positions -/

@[simp] theorem idle_closeSession (n : Nat) (h : d.pageCmds.Sublist L) : (d.closeSession n).pageCmds.Sublist L := by
  unfold Dev.closeSession
  split
  · exact h
  · dsimp only
    have : ∀ w, (d.dropPath w).pageCmds.Sublist L := fun w => List.filter_sublist.trans h
    split
    · rw [idle_setRf]; exact this _
    · exact this _
theorem idle_applyFactory (m : Mem) (h : d.pageCmds.Sublist L) : (applyFactory m d).pageCmds.Sublist L :=
  idle_fold _ (fun _ _ h => idle_firmwareWrite _ _ _ h) _ h
theorem idle_applyRecord (m : Mem) (a v : Nat) (h : d.pageCmds.Sublist L) : (applyRecord m a v d).pageCmds.Sublist L := by
  unfold applyRecord
  dsimp only
  have h2 := fun x => idle_firmwareWrite (d := d) m (a / 8 * 8) x h
  refine idle_ite (by simpa using h) (idle_ite (h2 _) ?_)
  rw [idle_count]; exact h2 _
theorem idle_applyPosition (m : Mem) (o : Option (List Byte)) (h : d.pageCmds.Sublist L) : (applyPosition m o d).pageCmds.Sublist L := by
  unfold applyPosition
  dsimp only
  have h1 := idle_applyFactory m h
  generalize applyFactory m d = e at h1 ⊢
  have h2 : (match d.positionInForce with
    | some l => (posRecordList l).foldl (fun d x => applyRecord m x.1 x.2 d) e
    | none => e : Dev).pageCmds.Sublist L := by
    split
    · exact idle_fold _ (fun _ _ h => idle_applyRecord _ _ _ h) _ h1
    · exact h1
  exact idle_fold _ (fun _ _ h => idle_closeSession _ h) _ h2
@[simp] theorem idle_setPosition (n : Nat) (x : Position) : (d.setPosition n x).pageCmds = d.pageCmds := (rfl)
@[simp] theorem idle_setPosState (n : Option Nat) (k : Nat) : (d.setPosState n k).pageCmds = d.pageCmds := by
  unfold Dev.setPosState; split <;> rfl
@[simp] theorem idle_showActive : d.showActive.pageCmds = d.pageCmds := (rfl)
@[simp] theorem idle_takeBackSlots : d.takeBackSlots.pageCmds = d.pageCmds := by
  unfold Dev.takeBackSlots
  dsimp only
  rw [idle_showActive, idle_setFld]
  split
  · simp
  · split <;> simp
theorem idle_bootPosition (m : Mem) (h : d.pageCmds.Sublist L) : (bootPosition m d).pageCmds.Sublist L := by
  unfold bootPosition
  extract_lets d1 d2
  have h1 : d1.pageCmds.Sublist L := by
    show (if _ then _ else _ : Dev).pageCmds.Sublist L
    split
    · rw [idle_setFld, idle_takeBackSlots]; exact h
    · exact h
  have h2 : d2.pageCmds.Sublist L := by
    show (match d1.inForce with | some _ => _ | none => _ : Dev).pageCmds.Sublist L
    split
    · exact idle_ite h1 (by simpa using h1)
    · exact h1
  exact idle_applyPosition _ _ (by simpa using h2)

/-! ### Boots -/

@[simp] theorem idle_setFwSlot (c s : Nat) (x : FwSlot) : (d.setFwSlot c s x).pageCmds = d.pageCmds := (rfl)
@[simp] theorem idle_failSlot (c s r : Nat) : (d.failSlot c s r).pageCmds = d.pageCmds := (rfl)
@[simp] theorem idle_chooseActive (c : Nat) (b : Bool) : (chooseActive c b d).1.pageCmds = d.pageCmds := by
  unfold chooseActive
  dsimp only
  repeat' split
  all_goals rfl
@[simp] theorem idle_chooseSlot (c : Nat) : (chooseSlot c d).1.pageCmds = d.pageCmds := by
  unfold chooseSlot
  dsimp only
  split
  · split
    · rfl
    · simp
  · simp
theorem idle_chooseAll (l : List Nat) : (chooseAll l d).1.pageCmds = d.pageCmds :=
  foldl_keep (fun s : Dev × Table (Option Choice) => s.1.pageCmds) _ (fun _ _ => idle_chooseSlot _) _ _
theorem idle_checkPairs (t : Table (Option Choice)) : (checkPairs d t).1.pageCmds = d.pageCmds := by
  unfold checkPairs
  split
  · rfl
  · split <;> rfl
@[simp] theorem idle_extendM (i : Nat) (x : List Byte) : (d.extendM i x).pageCmds = d.pageCmds := (rfl)
@[simp] theorem idle_bootOne (c : Nat) (x : Choice) : (bootOne c x d).pageCmds = d.pageCmds := by
  unfold bootOne
  dsimp only
  rw [idle_extendM, idle_setFld, idle_setFld, idle_setFld]
  split
  · rfl
  · rw [idle_setFwSlot]; split <;> rfl
@[simp] theorem idle_boot (l : List Nat) : (boot l d).1.pageCmds = d.pageCmds := by
  unfold boot
  dsimp only
  have h1 := idle_chooseAll (d := d) l
  generalize chooseAll l d = p at h1 ⊢
  obtain ⟨e, t⟩ := p
  dsimp only at h1 ⊢
  have h2 : (if (t.all fun x => x.2.isSome) = true then checkPairs e t else (e, t, false)).1.pageCmds = d.pageCmds := by
    split
    · rw [idle_checkPairs]; exact h1
    · exact h1
  generalize (if (t.all fun x => x.2.isSome) = true then checkPairs e t else (e, t, false)) = q at h2 ⊢
  obtain ⟨f, u, ok⟩ := q
  dsimp only at h2 ⊢
  split
  · refine (foldl_keep Dev.pageCmds _ (fun d e => ?_) _ _).trans h2
    split
    · simp
    · rfl
  · exact h2
@[simp] theorem idle_countBoot : d.countBoot.pageCmds = d.pageCmds := Dev.setFlash_pageCmds _ _
@[simp] theorem idle_bootRom : (bootRom d).1.pageCmds = d.pageCmds := by
  unfold bootRom
  extract_lets n e tries hub
  have he : e.pageCmds = d.pageCmds := idle_countBoot
  clear_value e
  split
  · exact he
  · have h1 := idle_boot (d := e) (bootSet 5)
    generalize boot (bootSet 5) e = p at h1 ⊢
    obtain ⟨g, r⟩ := p
    dsimp only at h1 ⊢
    clear_value hub
    cases r <;> cases hub <;> simpa [he] using h1
@[simp] theorem idle_setRole (r : Nat) : (d.setRole r).pageCmds = d.pageCmds := by
  unfold Dev.setRole
  dsimp only
  split
  · rfl
  · simp
@[simp] theorem idle_startElection : d.startElection.pageCmds = d.pageCmds := by
  unfold Dev.startElection
  dsimp only
  show (Dev.setFld (Dev.setFld _ _ _ _) _ _ _).pageCmds = _
  rw [idle_setFld, idle_setFld, idle_setRole]
theorem idle_startHub (m : Mem) (b : Bool) (h : d.pageCmds.Sublist L) : (startHub m b d).pageCmds.Sublist L := by
  unfold startHub
  extract_lets d1 pw d2 d3 d4 d5
  have h1 : d1.pageCmds.Sublist L := idle_fold _ (fun _ _ h => idle_closeSession _ h) _ h
  clear_value d1
  rw [Dev.setPower_pageCmds]
  show (Dev.startElection _).pageCmds.Sublist L
  rw [idle_startElection]
  exact idle_bootPosition _ h1
@[simp] theorem idle_startStacks : (startStacks d).pageCmds = d.pageCmds := by
  unfold startStacks
  dsimp only
  exact foldl_keep Dev.pageCmds (fun (d : Dev) s => d.setFld F.STK_STATUS_FW_OK 1 s) (fun _ _ => rfl) _ _
@[simp] theorem idle_startPorts : (startPorts d).pageCmds = d.pageCmds :=
  foldl_keep Dev.pageCmds _ (fun d n => by split <;> rfl) _ _
@[simp] theorem idle_selfTest : (selfTest d).pageCmds = d.pageCmds :=
  foldl_keep Dev.pageCmds _ (fun _ _ => idle_modCore _ _) _ _
@[simp] theorem idle_selectRated : (selectRated d).pageCmds = d.pageCmds := by
  unfold selectRated
  dsimp only
  rw [Dev.setPower_pageCmds]
  exact foldl_keep Dev.pageCmds _ (fun _ _ => idle_modCore _ _) _ _
@[simp] theorem idle_startCores : (startCores d).pageCmds = d.pageCmds := by
  unfold startCores
  rw [foldl_keep Dev.pageCmds _ (fun _ _ => idle_clearCore _), idle_selectRated, idle_selfTest]
theorem idle_startUp (m : Mem) (h : d.pageCmds.Sublist L) : (startUp m d).pageCmds.Sublist L := by
  unfold startUp
  have h1 := idle_bootRom (d := d)
  generalize bootRom d = p at h1 ⊢
  obtain ⟨e, g, r⟩ := p
  dsimp only at h1 ⊢
  rw [← h1] at h
  refine idle_ite (idle_ite h idle_mainOff) ?_
  have h2 := idle_startHub (d := e.setPower { e.power with mainOn := true }) m r h
  exact idle_ite h2 (by simpa using h2)
theorem idle_wakeUp (m : Mem) (h : d.pageCmds.Sublist L) : (wakeUp m d).pageCmds.Sublist L := by
  unfold wakeUp
  exact idle_ite h (idle_ite h (idle_ite (idle_startUp m h) h))
theorem idle_shutDown (h : d.pageCmds.Sublist L) : (shutDown d).pageCmds.Sublist L := by
  unfold shutDown
  exact idle_ite h idle_mainOff

end Sys2Proof.Machine
end

