-- ==== Sys2Proof/Laws/Commands.lean ====
section
/-! SUPPORT. Which command a row enters, and how it ends (R483). -/

namespace Sys2Proof.Machine

variable {d : Dev}

/-! ### The commands that rows enter -/

theorem xmap_command (d : Dev) (w : Path) (k : DieId) (op : Nat) (index : BitVec 17) (n : BitVec 12) (h : op < 16) :
    commandOf w (page 0x10 k.val 0x100) (op + 16 * index.toNat + 2 ^ 21 * n.toNat) d = some (xmapCmd d w k op index n) := by
  have hk := k.isLt
  obtain ⟨h1, h2, -, h4, h3⟩ := page_parts 0x10 k.val 0x100 (by omega) (by decide)
  have hi := index.isLt
  have hn := n.isLt
  have b1 : bits (op + 16 * index.toNat + 2 ^ 21 * n.toNat) 0 4 = op := by unfold bits; omega
  have b2 : bits (op + 16 * index.toNat + 2 ^ 21 * n.toNat) 4 17 = index.toNat := by unfold bits; omega
  have b3 : bits (op + 16 * index.toNat + 2 ^ 21 * n.toNat) 21 12 = n.toNat := by unfold bits; omega
  generalize page 0x10 k.val 0x100 = a at *
  unfold commandOf
  simp only [h3, h2, h4, b1, b2, b3]
  simp only [h1, xmapCmd]

theorem ring_command (d : Dev) (w : Path) (op : Nat) (r : RingId) (h : op < 8) :
    commandOf w (page 0x12 0 0x100) (op + 8 * r.toNat) d = some (ringCmd d w op r) := by
  obtain ⟨h1, h2, -, h4, h3⟩ := page_parts 0x12 0 0x100 (by decide) (by decide)
  have hr := r.isLt
  have b1 : bits (op + 8 * r.toNat) 0 3 = op := by unfold bits; omega
  have b2 : bits (op + 8 * r.toNat) 3 18 = r.toNat := by unfold bits; omega
  generalize page 0x12 0 0x100 = a at *
  unfold commandOf
  simp only [h3, h2, b1, b2]
  simp only [h1, ringCmd]

theorem part_command (d : Dev) (w : Path) (p : PartId) (op c t : Nat) (h : op < 16) (hc : c < 256) (ht : t < 64) :
    commandOf w (page 0x30 p.val 0x100) (op + 16 * c + 2 ^ 12 * t) d = some (partCmd w p op c t) := by
  have hp := p.isLt
  obtain ⟨h1, h2, -, h4, h3⟩ := page_parts 0x30 p.val 0x100 (by omega) (by decide)
  have b1 : bits (op + 16 * c + 2 ^ 12 * t) 0 4 = op := by unfold bits; omega
  have b2 : bits (op + 16 * c + 2 ^ 12 * t) 4 8 = c := by unfold bits; omega
  have b3 : bits (op + 16 * c + 2 ^ 12 * t) 12 6 = t := by unfold bits; omega
  generalize page 0x30 p.val 0x100 = a at *
  unfold commandOf
  simp only [h3, h2, b1, b2, b3]
  simp only [h1, partCmd]

theorem ctx_command (d : Dev) (w : Path) (p : PartId) (op c e : Nat) (x : BitVec 16) (h : op < 8) (hc : c < 256) (he : e < 2 ^ 19) :
    commandOf w (page 0x30 p.val 0x160) (op + 8 * x.toNat + 2 ^ 19 * c + 2 ^ 27 * e) d = some (ctxCmd d w p op x c e) := by
  have hp := p.isLt
  obtain ⟨h1, h2, -, h4, h3⟩ := page_parts 0x30 p.val 0x160 (by omega) (by decide)
  have hx := x.isLt
  have b1 : bits (op + 8 * x.toNat + 2 ^ 19 * c + 2 ^ 27 * e) 0 3 = op := by unfold bits; omega
  have b2 : bits (op + 8 * x.toNat + 2 ^ 19 * c + 2 ^ 27 * e) 3 16 = x.toNat := by unfold bits; omega
  have b3 : bits (op + 8 * x.toNat + 2 ^ 19 * c + 2 ^ 27 * e) 19 8 = c := by unfold bits; omega
  have b4 : bits (op + 8 * x.toNat + 2 ^ 19 * c + 2 ^ 27 * e) 27 19 = e := by unfold bits; omega
  generalize page 0x30 p.val 0x160 = a at *
  unfold commandOf
  simp only [h3, h2, h4, b1, b2, b3, b4]
  simp only [h1, ctxCmd]

theorem gen_command (d : Dev) (w : Path) (p : PartId) (op : Nat) (g : BitVec 24) (h : op < 8) :
    commandOf w (page 0x32 p.val 0x100) (op + 8 * g.toNat) d = some (genCmd d w p op g) := by
  have hp := p.isLt
  obtain ⟨h1, h2, -, h4, h3⟩ := page_parts 0x32 p.val 0x100 (by omega) (by decide)
  have hg := g.isLt
  have b1 : bits (op + 8 * g.toNat) 0 3 = op := by unfold bits; omega
  have b2 : bits (op + 8 * g.toNat) 3 24 = g.toNat := by unfold bits; omega
  generalize page 0x32 p.val 0x100 = a at *
  unfold commandOf
  simp only [h3, h2, h4, b1, b2]
  simp only [h1, genCmd]

theorem fence_command (d : Dev) (w : Path) (op c : Nat) (h : op < 4) (hc : c < 256) :
    commandOf w (page 0x48 0 0x178) (op + 4 * c) d = some (fenceCmd w op c) := by
  obtain ⟨h1, h2, -, h4, h3⟩ := page_parts 0x48 0 0x178 (by decide) (by decide)
  have b1 : bits (op + 4 * c) 0 2 = op := by unfold bits; omega
  have b2 : bits (op + 4 * c) 2 8 = c := by unfold bits; omega
  generalize page 0x48 0 0x178 = a at *
  unfold commandOf
  simp only [h3, h2, b1, b2]
  simp only [h1, fenceCmd]

theorem fw_command (d : Dev) (w : Path) (op : Nat) (c : Fin 7) (h : op < 16) :
    commandOf w (page 0x51 0 0x118) (op + 16 * c.val) d = some (fwCmd d w op c.val) := by
  obtain ⟨h1, h2, -, h4, h3⟩ := page_parts 0x51 0 0x118 (by decide) (by decide)
  have hc := c.isLt
  have b1 : bits (op + 16 * c.val) 0 4 = op := by unfold bits; omega
  have b2 : bits (op + 16 * c.val) 4 3 = c.val := by unfold bits; omega
  generalize page 0x51 0 0x118 = a at *
  unfold commandOf
  simp only [h3, h2, b1, b2]
  simp only [h1, fwCmd]

theorem attest_command (d : Dev) (w : Path) (op i : Nat) (h : op < 4) (hi : i < 16) :
    commandOf w (page 0x51 0 0x150) (op + 4 * i) d = some (attestCmd w op i) := by
  obtain ⟨h1, h2, -, h4, h3⟩ := page_parts 0x51 0 0x150 (by decide) (by decide)
  have b1 : bits (op + 4 * i) 0 2 = op := by unfold bits; omega
  have b2 : bits (op + 4 * i) 2 4 = i := by unfold bits; omega
  generalize page 0x51 0 0x150 = a at *
  unfold commandOf
  simp only [h3, h2, b1, b2]
  simp only [h1, attestCmd]

theorem position_command (d : Dev) (w : Path) (op k : Nat) (src : BitVec 22) (h : op < 8) (hk : k < 8) :
    commandOf w (page 0x52 0 0x100) (op + 8 * k + 64 * src.toNat) d = some (positionCmd w op k src.toNat) := by
  obtain ⟨h1, h2, -, h4, h3⟩ := page_parts 0x52 0 0x100 (by decide) (by decide)
  have hs := src.isLt
  have b1 : bits (op + 8 * k + 64 * src.toNat) 0 3 = op := by unfold bits; omega
  have b2 : bits (op + 8 * k + 64 * src.toNat) 3 3 = k := by unfold bits; omega
  have b3 : bits (op + 8 * k + 64 * src.toNat) 6 22 = src.toNat := by unfold bits; omega
  generalize page 0x52 0 0x100 = a at *
  unfold commandOf
  simp only [h3, h2, b1, b2, b3]
  simp only [h1, positionCmd]

/-! ### How they end -/

theorem pageHead_of {c : PageCmd} (h : d.pageCmds = [c]) : d.pageHead c.page = some c := pageHead_single h

/-- At the end of its command a page has none. -/
theorem finish_empties {c : PageCmd} {t r : Nat} (h : d.pageCmds.Sublist [c.started t]) : (d.finish c.page r).pageCmds = [] := by
  have hc : (c.started t).page = c.page := rfl
  rcases List.sublist_cons_iff.1 h with h | ⟨l, h1, h2⟩
  · have h0 : d.pageCmds = [] := List.sublist_nil.1 h
    unfold Dev.finish
    have : d.pageHead c.page = none := by unfold Dev.pageHead; rw [h0]; rfl
    rw [this]
    exact h0
  · obtain rfl := List.sublist_nil.1 h2
    unfold Dev.finish
    rw [← hc, pageHead_of h1]
    dsimp only
    unfold Dev.endHead
    rw [pageHead_of h1]
    dsimp only
    have : d.pageCmds.erase (c.started t) = [] := by rw [h1]; simp
    split
    · exact this
    · exact this

variable {i : Instr} {s : State} {w : Path} {a v : Nat}

/-- A row whose command ends at once. -/
theorem row_finishes {c : PageCmd} {e : Dev} {r : Nat} (h : s.Takes i) (hw : writeOf i s.dev = some (w, a, v))
    (hc : commandOf w a v s.dev = some c) (hb : c.began = none)
    (hs : startCmd s.mem (c.started s.dev.now) (s.dev.begun c) = (e, some r)) (he : e.pageCmds.Sublist [c.started s.dev.now]) :
    Does i s (e.finish c.page r) := by
  have h1 : enterAndPump s.mem c s.dev = e.finish c.page r := by
    unfold enterAndPump
    dsimp only
    rw [enterCmd_idle h.1.2]
    show pump s.mem c.page _ (s.dev.entered c) = _
    rw [pump_first s.mem _ (rfl : (s.dev.entered c).pageCmds = [c]) hb, Dev.entered_begun,
      show c.started (s.dev.entered c).now = c.started s.dev.now from rfl, hs]
    dsimp only
    exact pump_empty _ _ _ (finish_empties he)
  exact row_at h hw ((writeEffect_command hc).trans h1) (by rw [finish_empties he])

/-- A path's copies are no part of what bookkeeping touches. -/
theorem Settled.setPfld {d e : Dev} (h : Settled d e) (w : Path) (f : Fld) (v i j : Nat) :
    Settled (d.setPfld w f v i j) (e.setPfld w f v i j) := by
  have h1 : ∀ x : Dev, (x.setPfld w f v i j).rest = { x.rest with
      pathRegs := tPut (pathKey w (f.addr i j)) (f.put (x.pword w (f.addr i j)) v i j) x.pathRegs } := fun _ => rfl
  refine ⟨?_, h.core, h.ctx, h.word, h.ring, h.byte⟩
  rw [h1, h1, h.rest]
  unfold Dev.pword
  rw [h.pathRegs]

theorem Settled.ended {e f : Dev} (h : Settled e f) (c : PageCmd) (r : Nat) : Settled (e.ended c r) (f.ended c r) := by
  have hp := h.pathRegs
  refine ⟨?_, h.core, h.ctx, h.word, h.ring, h.byte⟩
  have hr := h.rest
  have h1 : ∀ d : Dev, (d.ended c r).rest = { d.rest with
      pageCmds := []
      pathRegs := ((({ d with pageCmds := [] } : Dev).setPfld c.path c.busyFld 0 (c.page % 256)).setPfld c.path c.resultFld r
        (c.page % 256)).pathRegs } := fun _ => rfl
  rw [h1, h1, hr]
  unfold Dev.setPfld Dev.setPword Dev.pword
  dsimp only
  rw [hp]

/-- A row whose command ends at once, with bookkeeping that is part of it. -/
theorem row_ended_settled {c : PageCmd} {e f : Dev} {r : Nat} (h : s.Takes i) (hw : writeOf i s.dev = some (w, a, v))
    (hc : commandOf w a v s.dev = some c) (hb : c.began = none) (hp : c.path = w)
    (hs : startCmd s.mem (c.started s.dev.now) (s.dev.begun c) = (f, some r)) (he : Settled e f) (hd : e.desk = (s.dev.begun c).desk) :
    Does i s (e.ended c r) := by
  obtain ⟨t, h1, g, h2, h3⟩ := row_ended h hw hc hb hp hs (he.desk.trans hd)
  exact ⟨t, h1, g, (he.ended c r).trans h2, h3⟩

/-- Bookkeeping commutes with the end of a command. -/
theorem Settled.finish {e f : Dev} (h : Settled e f) (p r : Nat) : Settled (e.finish p r) (f.finish p r) := by
  have h1 : f.pageHead p = e.pageHead p := by unfold Dev.pageHead; rw [h.pageCmds]
  unfold Dev.finish
  rw [h1]
  cases hc : e.pageHead p with
  | none => exact h
  | some c =>
    dsimp only
    unfold Dev.endHead
    rw [h1, hc]
    dsimp only
    have g : Settled ({ e with pageCmds := e.pageCmds.erase c } : Dev) { f with pageCmds := f.pageCmds.erase c } := by
      refine ⟨?_, h.core, h.ctx, h.word, h.ring, h.byte⟩
      have h2 : ∀ d : Dev, ({ d with pageCmds := d.pageCmds.erase c } : Dev).rest = { d.rest with pageCmds := d.pageCmds.erase c } :=
        fun _ => rfl
      rw [h2, h2, h.rest, h.pageCmds]
    have ho : ({ f with pageCmds := f.pageCmds.erase c } : Dev).pathOpen c.path =
        ({ e with pageCmds := e.pageCmds.erase c } : Dev).pathOpen c.path := pathOpen_sessions g.sessions _
    rw [ho]
    split
    · exact (g.setPfld _ _ _ _ _).setPfld _ _ _ _ _
    · exact g

/-- A row whose command ends at once, with bookkeeping that is part of it. -/
theorem row_finishes_settled {c : PageCmd} {e f : Dev} {r : Nat} (h : s.Takes i) (hw : writeOf i s.dev = some (w, a, v))
    (hc : commandOf w a v s.dev = some c) (hb : c.began = none)
    (hs : startCmd s.mem (c.started s.dev.now) (s.dev.begun c) = (f, some r)) (he : Settled e f)
    (hp : e.pageCmds.Sublist [c.started s.dev.now]) : Does i s (e.finish c.page r) := by
  obtain ⟨t, h1, g, h2, h3⟩ := row_finishes h hw hc hb hs (by rw [he.pageCmds]; exact hp)
  exact ⟨t, h1, g, (he.finish _ _).trans h2, h3⟩

/-! ### Which page a command runs on -/

theorem xmap_page (d : Dev) (w : Path) (k : DieId) (op : Nat) (index : BitVec 17) (n : BitVec 12) (t : Nat) :
    ((xmapCmd d w k op index n).started t).page / 256 = 0x10 := by have := k.isLt; show (0x1000 + k.val) / 256 = 0x10; omega
theorem part_page (w : Path) (p : PartId) (op c e t : Nat) : ((partCmd w p op c e).started t).page / 256 = 0x30 := by
  have := p.isLt; show (0x3000 + p.val) / 256 = 0x30; omega
theorem ctx_page (d : Dev) (w : Path) (p : PartId) (op : Nat) (x : BitVec 16) (c e t : Nat) :
    ((ctxCmd d w p op x c e).started t).page / 256 = 0x30 := by have := p.isLt; show (0x3000 + p.val) / 256 = 0x30; omega
theorem gen_page (d : Dev) (w : Path) (p : PartId) (op : Nat) (g : BitVec 24) (t : Nat) :
    ((genCmd d w p op g).started t).page / 256 = 0x32 := by have := p.isLt; show (0x3200 + p.val) / 256 = 0x32; omega
theorem partOf_page (p : PartId) : partOf (0x3000 + p.val) = p := by
  have := p.isLt; unfold partOf; exact Fin.ext (by show (0x3000 + p.val) % 64 = p.val; omega)
theorem partOf_genPage (p : PartId) : partOf (0x3200 + p.val) = p := by
  have := p.isLt; unfold partOf; exact Fin.ext (by show (0x3200 + p.val) % 64 = p.val; omega)

/-! ### Ring operations leave the pages alone -/

@[simp] theorem desk_setRf (d : Dev) (r : Nat) (f : Bf) (v : Nat) : (d.setRf r f v).desk = d.desk := (rfl)
@[simp] theorem desk_newRing (d : Dev) (r c : Nat) : (d.newRing r c).desk = d.desk := (rfl)
@[simp] theorem desk_dropRing (d : Dev) (r : Nat) : (d.dropRing r).desk = d.desk := (rfl)
@[simp] theorem desk_ringClear (d : Dev) (m : Mem) (r : Nat) : (ringClear m r d).desk = d.desk := by
  have h : (discardSlots m r d).desk = d.desk := by
    unfold discardSlots
    split
    · refine fold_desk _ (fun d i => ?_) _ _
      dsimp only
      split <;> rfl
    · rfl
  unfold ringClear
  dsimp only
  rw [desk_setRing, desk_setRf, desk_setRf, desk_setRf, h]

/-! ### Reads that a command's beginning leaves alone -/

@[simp] theorem Dev.begun_validData (d : Dev) (c : PageCmd) (p a n : Nat) : (d.begun c).validData p a n = d.validData p a n := (rfl)
@[simp] theorem Dev.begun_contextBuffer (d : Dev) (c : PageCmd) (x : Nat) : (d.begun c).contextBuffer x = d.contextBuffer x := by
  unfold Dev.contextBuffer; simp only [Dev.begun_validData]
@[simp] theorem Dev.begun_quiescedFor (d : Dev) (c : PageCmd) (m : Mem) (p : PartId) :
    (d.begun c).quiescedFor m p = d.quiescedFor m p := by
  unfold Dev.quiescedFor; rw [Dev.begun_partJob]; rfl

@[simp] theorem PageCmd.started_context (c : PageCmd) (t : Nat) : (c.started t).context = c.context := by
  unfold PageCmd.context
  rw [show (c.started t).arg0 = c.arg0 from rfl, show (c.started t).arg1 = c.arg1 from rfl,
    show (c.started t).arg2 = c.arg2 from rfl]

/-! ### Which operation a command starts, and how it goes on -/

theorem startCmd_xmap (m : Mem) {c : PageCmd} (d : Dev) (h : c.page / 256 = 0x10) :
    startCmd m c d = ((xmapStart m c d).1.updateGens, (xmapStart m c d).2) := by
  unfold startCmd; simp only [h]
theorem startCmd_ring (m : Mem) {c : PageCmd} (d : Dev) (h : c.page / 256 = 0x12) : startCmd m c d = ringStart m c d := by
  unfold startCmd; simp only [h]
theorem startCmd_part (m : Mem) {c : PageCmd} (d : Dev) (h : c.page / 256 = 0x30) (ho : c.op / 256 = 0) :
    startCmd m c d = partStart m c d := by unfold startCmd; simp only [h, ho]
theorem startCmd_ctx (m : Mem) {c : PageCmd} (d : Dev) (h : c.page / 256 = 0x30) (ho : c.op / 256 = 1) :
    startCmd m c d = ctxStart m c d := by unfold startCmd; simp only [h, ho]
theorem startCmd_gen (m : Mem) {c : PageCmd} (d : Dev) (h : c.page / 256 = 0x32) : startCmd m c d = genStart m c d := by
  unfold startCmd; simp only [h]
theorem startCmd_fence (m : Mem) {c : PageCmd} (d : Dev) (h : c.page / 256 = 0x48) :
    startCmd m c d = ((fenceStart m c d).1, some (fenceStart m c d).2) := by unfold startCmd; simp only [h]
theorem startCmd_fw (m : Mem) {c : PageCmd} (d : Dev) (h : c.page / 256 = 0x51) (ho : c.op / 256 = 0) :
    startCmd m c d = ((fwCommand m c.op c.a c.arg0 c.arg1 c.arg2 d).1, some (fwCommand m c.op c.a c.arg0 c.arg1 c.arg2 d).2) := by
  unfold startCmd; simp only [h, ho]
theorem startCmd_attest (m : Mem) {c : PageCmd} (d : Dev) (h : c.page / 256 = 0x51) (ho : c.op / 256 = 1) :
    startCmd m c d = ((attest c.path c.code c.a d).1, some (attest c.path c.code c.a d).2) := by
  unfold startCmd; simp only [h, ho]
theorem startCmd_position (m : Mem) {c : PageCmd} (d : Dev) (h : c.page / 256 = 0x52) :
    startCmd m c d = ((positionCommand m c.op c.a c.b d).1, some (positionCommand m c.op c.a c.b d).2) := by
  unfold startCmd; simp only [h]
theorem continueCmd_xmap (m : Mem) {c : PageCmd} (d : Dev) (h : c.page / 256 = 0x10) : continueCmd m c d = (d, none) := by
  unfold continueCmd; simp only [h]
theorem continueCmd_ring (m : Mem) {c : PageCmd} (d : Dev) (h : c.page / 256 = 0x12) : continueCmd m c d = ringContinue c d := by
  unfold continueCmd; simp only [h]
theorem continueCmd_part (m : Mem) {c : PageCmd} (d : Dev) (h : c.page / 256 = 0x30) (ho : c.op / 256 = 0) :
    continueCmd m c d = (d, partContinue c d) := by unfold continueCmd; simp only [h, ho]
theorem continueCmd_ctx (m : Mem) {c : PageCmd} (d : Dev) (h : c.page / 256 = 0x30) (ho : c.op / 256 = 1) :
    continueCmd m c d = ctxContinue m c d := by unfold continueCmd; simp only [h, ho]
theorem continueCmd_gen (m : Mem) {c : PageCmd} (d : Dev) (h : c.page / 256 = 0x32) : continueCmd m c d = genContinue c d := by
  unfold continueCmd; simp only [h]

end Sys2Proof.Machine
end

