-- ==== Sys2Proof/Laws/Cores.lean ====
section
/-! SUPPORT. Register writes of a core's pages (R101, R144, R151, R179), swaps (R140, R141), and what storing an image and
counting a stack's bytes leave alone. -/

namespace Sys2Proof.Machine

section
variable (m : Mem) (d : Dev) (c c' : CoreId)
@[simp] theorem core_setFld (f : Fld) (v i j : Nat) : (d.setFld f v i j).core c = d.core c := (rfl)
@[simp] theorem core_setWord (a : Nat) (v : Word) : (d.setWord a v).core c = d.core c := (rfl)
@[simp] theorem core_setCtx (k : Nat) (x : Ctx) : (d.setCtx k x).core c = d.core c := (rfl)
@[simp] theorem core_modCtx (k : Nat) (f : Ctx → Ctx) : (d.modCtx k f).core c = d.core c := by unfold Dev.modCtx; split <;> rfl
@[simp] theorem core_store (a : Nat) (l : List Byte) : (d.store a l).core c = d.core c := (rfl)
@[simp] theorem core_setRf (r : Nat) (f : Bf) (v : Nat) : (d.setRf r f v).core c = d.core c := (rfl)
@[simp] theorem core_count (f : Fld) (n i j : Nat) : (d.count f n i j).core c = d.core c := by unfold Dev.count; split <;> rfl
@[simp] theorem core_noteShadow (e : Nat) : (d.noteShadow e).core c = d.core c := by unfold Dev.noteShadow; repeat' split <;> try rfl
theorem core_use (x : Table Nat) : ({ d with stackUse := x } : Dev).core c = d.core c := (rfl)
theorem ctx_use (x : Table Nat) (k : Nat) : ({ d with stackUse := x } : Dev).ctx? k = d.ctx? k := (rfl)
theorem ctx_count (f : Fld) (n i j k : Nat) : (d.count f n i j).ctx? k = d.ctx? k := by unfold Dev.count; split <;> rfl
theorem ctx_setFld (f : Fld) (n i j k : Nat) : (d.setFld f n i j).ctx? k = d.ctx? k := (rfl)
theorem ctx_store (a k : Nat) (l : List Byte) : (d.store a l).ctx? k = d.ctx? k := (rfl)
theorem ctx_noteShadow (e k : Nat) : (d.noteShadow e).ctx? k = d.ctx? k := by unfold Dev.noteShadow; repeat' split <;> try rfl
theorem core_findWrong (e : Nat × BitVec 80) : (d.findWrong e).core c = d.core c := by
  unfold Dev.findWrong
  split
  · rfl
  · dsimp only
    split
    · exact core_count _ _ _ _ _ _
    · refine (?_ : (List.foldl _ _ _ : Dev).core c = _)
      rw [foldl_keep (fun d : Dev => d.core c) _ (fun a k => by unfold Dev.dieError; dsimp only; (repeat' split) <;> rfl), core_count]
theorem ctx_findWrong (e : Nat × BitVec 80) (k : Nat) : (d.findWrong e).ctx? k = d.ctx? k := by
  unfold Dev.findWrong
  split
  · rfl
  · dsimp only
    split
    · exact ctx_count _ _ _ _ _ _
    · refine (?_ : (List.foldl _ _ _ : Dev).ctx? k = _)
      rw [foldl_keep (fun d : Dev => d.ctx? k) _ (fun a k => by unfold Dev.dieError; dsimp only; (repeat' split) <;> rfl), ctx_count]
theorem core_findIn (a n : Nat) : (d.findIn a n).core c = d.core c :=
  foldl_keep (fun d : Dev => d.core c) _ (fun d e => core_findWrong d c e) _ _
theorem ctx_findIn (a n k : Nat) : (d.findIn a n).ctx? k = d.ctx? k :=
  foldl_keep (fun d : Dev => d.ctx? k) _ (fun d e => ctx_findWrong d e k) _ _
@[simp] theorem core_countStk (b : Bool) (a n : Nat) : (d.countStk b a n).core c = d.core c := by
  unfold Dev.countStk
  refine foldl_keep (fun d : Dev => d.core c) _ (fun a b => ?_) _ _
  show (Dev.useStk _ _ _ a b).core c = a.core c
  unfold Dev.useStk
  dsimp only
  rw [core_setFld, core_count]
  split
  · rw [core_noteShadow, core_use]
  · rw [core_findIn, core_use]
theorem core_setRingError (r a b : Nat) : (d.setRingError r a b).core c = d.core c := by
  unfold Dev.setRingError
  dsimp only
  split
  · rfl
  · split
    · rw [core_setFld, core_setRf]
    · rw [core_setFld, core_setFld, core_setFld, core_setFld, core_setRf]
@[simp] theorem core_postEvent (p : PartId) (a b n : Nat) : (d.postEvent p a b n).core c = d.core c := by
  unfold Dev.postEvent
  dsimp only
  split
  · rw [core_count]
  · split
    · rw [core_count, core_setRingError]
    · split
      · rw [core_count]; unfold Dev.meetCut; split <;> rfl
      · unfold Dev.produce Dev.claim Dev.fillSlot
        dsimp only
        rw [core_store, core_store, core_setRf]
@[simp] theorem core_storeImage (e : Nat) (x : Ctx) : (d.storeImage e x).core c = d.core c := by
  unfold Dev.storeImage
  exact foldl_keep (fun d : Dev => d.core c) _ (fun a b => by rw [core_countStk, core_store]) _ _
theorem core_modCore (f : Core → Core) : (d.modCore c f).core c' = if c = c' then f (d.core c) else d.core c' := by
  unfold Dev.modCore; rw [Dev.core_setCore]
theorem core_stampKey (a : Dev × Bool) (k : Nat) : (stampKey m a k).1.core c = a.1.core c := by
  unfold stampKey
  split
  · rfl
  · dsimp only; split <;> rfl
theorem core_beginSwapIn (k : SlotId) (key : Nat) (h : c' ≠ c) : (d.beginSwapIn c' k key).core c = d.core c := by
  unfold Dev.beginSwapIn
  repeat' split
  · rfl
  · rw [core_modCore, if_neg h]
  · rw [core_postEvent, core_modCtx, core_setFld]
theorem core_beginSwapOut (k : SlotId) (h : c' ≠ c) : (d.beginSwapOut c' k).core c = d.core c := by
  unfold Dev.beginSwapOut
  repeat' split
  · rfl
  · rfl
  · rw [core_modCore, if_neg h]
theorem core_startWaiting (h : c' ≠ c) : (d.startWaiting c').core c = d.core c := by
  unfold Dev.startWaiting
  split
  · rfl
  · dsimp only
    split
    · rw [core_beginSwapIn _ _ _ _ _ h, core_modCore, if_neg h]
    · rw [core_modCore, if_neg h, core_modCore, if_neg h]
theorem startWaiting_busy {r : Swap} (h : (d.core c).swap = some r) : d.startWaiting c = d := by
  have hs : d.schedulable c = none := by unfold Dev.schedulable; simp [h]
  have : (d.core c).waiting.find? (d.swapMay c) = none := by
    refine List.find?_eq_none.2 fun w _ => ?_
    unfold Dev.swapMay
    split
    · simp
    · unfold Dev.mayEnter
      rw [hs]
      split
      · split <;> simp
      · simp
  unfold Dev.startWaiting
  rw [this]
theorem swap_scheduleDecision {r : Swap} (h : (d.core c).swap = some r) : ((d.scheduleDecision c').core c).swap = some r := by
  by_cases hc : c' = c
  · subst hc
    have : d.schedulable c' = none := by unfold Dev.schedulable; simp [h]
    unfold Dev.scheduleDecision
    rw [startWaiting_busy _ _ h]
    dsimp only
    rw [this]
    exact h
  · have : (d.scheduleDecision c').core c = d.core c := by
      unfold Dev.scheduleDecision
      rw [← core_startWaiting d c c' hc]
      generalize d.startWaiting c' = d
      dsimp only
      repeat' split
      all_goals first
        | rfl
        | rw [core_beginSwapIn _ _ _ _ _ hc]
        | rw [core_count]
        | rw [core_modCore, if_neg hc, core_beginSwapOut _ _ _ _ hc]
    rw [this]; exact h
theorem swap_settle (b : Bool) {r : Swap} (h : (d.core c).swap = some r) : ((settle m c' b d).core c).swap = some r := by
  have hk := foldl_keep (fun a : Dev × Bool => a.1.core c) (stampKey m) (fun a k => core_stampKey m c a k) ((d.homedOn c').map fun e => e.1) (d, b)
  unfold settle
  dsimp only
  split
  · exact swap_scheduleDecision _ _ _ ((congrArg Core.swap hk).trans h)
  · exact (congrArg Core.swap hk).trans h
theorem ctx_countStk (b : Bool) (a n k : Nat) : (d.countStk b a n).ctx? k = d.ctx? k := by
  unfold Dev.countStk
  refine foldl_keep (fun d : Dev => d.ctx? k) _ (fun a b => ?_) _ _
  show (Dev.useStk _ _ _ a b).ctx? k = a.ctx? k
  unfold Dev.useStk
  dsimp only
  rw [ctx_setFld, ctx_count]
  split
  · rw [ctx_noteShadow, ctx_use]
  · rw [ctx_findIn, ctx_use]
theorem ctx_storeImage (e k : Nat) (x : Ctx) : (d.storeImage e x).ctx? k = d.ctx? k := by
  unfold Dev.storeImage
  exact foldl_keep (fun d : Dev => d.ctx? k) _ (fun a b => by rw [ctx_countStk, ctx_store]) _ _
end
theorem swappedOut_core (d : Dev) (c : CoreId) (w : Swap) (y : Ctx) : (d.swappedOut c w y).core c = (d.core c).release w.slot := by
  unfold Dev.swappedOut Dev.clearErr
  dsimp only
  rw [core_count, core_storeImage, core_setWord, core_setWord, core_modCore, if_pos rfl, core_setCtx]
theorem ctx_modCore (d : Dev) (c : CoreId) (f : Core → Core) (k : Nat) : (d.modCore c f).ctx? k = d.ctx? k := (rfl)
theorem ctx_setWord (d : Dev) (a : Nat) (v : Word) (k : Nat) : (d.setWord a v).ctx? k = d.ctx? k := (rfl)
theorem ctx_setCore (d : Dev) (c : CoreId) (x : Core) (k : Nat) : (d.setCore c x).ctx? k = d.ctx? k := (rfl)
theorem swappedOut_ctx (d : Dev) (c : CoreId) (w : Swap) (y : Ctx) :
    (d.swappedOut c w y).ctx? w.ctx = some { savedCtx d c w.slot y with ext := w.ext } := by
  unfold Dev.swappedOut Dev.clearErr
  dsimp only
  rw [ctx_count, ctx_storeImage, ctx_setWord, ctx_setWord, ctx_modCore, Dev.ctx?_setCtx, if_pos rfl]
theorem swappedIn_core (d : Dev) (c : CoreId) (w : Swap) (y : Ctx) (x : Core) : ((d.swappedIn c w y x).core c).slots = tPut w.slot.val w.ctx x.slots ∧
    ((d.swappedIn c w y x).core c).swap = none := by
  unfold Dev.swappedIn
  dsimp only
  rw [core_count, core_count, core_setCtx, core_setWord, core_setWord, Dev.core_setCore, if_pos rfl]
  exact ⟨rfl, rfl⟩


theorem writeCore_swap (m : Mem) (w : Path) (a v : Nat) (c : CoreId) (d : Dev) :
    writeCore m w a v 0x01 0x110 c d = settle m c false (coreSwap c v d) := by
  unfold writeCore; rw [if_neg (by omega)]; rfl

/-- A row that writes a register of a core, exactly. -/
theorem row_wroteOn {i : Instr} {s : State} {w : Path} {a v : Nat} {c : CoreId} {e : Dev} (h : s.Takes i)
    (hw : writeOf i s.dev = some (w, a, v)) (he : writeEffect s.mem w a v s.dev = settle s.mem c false e) : WroteOn i s c e := by
  refine ⟨w, a, v, hw, row_becomes (exec_write h.1.1 hw) h.1.1 ?_⟩
  unfold doWrite
  rw [if_pos (h.ans hw)]
  unfold regWrite
  rw [he]
/-- The head of a queue with the operation of the row is handed on (R116). -/
theorem takeHead_op {d : Dev} {c : CoreId} {k : SlotId} {q : QueueId} {y : Ctx} {cmd : Cmd} {op : Nat} {f : Ctx → Cmd → Dev}
    (h : d.head c k q = some (y, cmd)) (ho : cmd.f CF.op = op) (hr : cmd.f CF.res = 0) (hq : op = 0 ∨ opQueue op = some q) :
    d.takeHead c k q op f = f y cmd := by
  unfold Dev.takeHead
  rw [h]
  dsimp only
  rw [ho, hr, if_neg (by rcases hq with h | h <;> simp [h]), if_neg (by simp), if_neg (by simp)]
/-- The head of a queue with an operation of another queue is rejected (R119). -/
theorem takeHead_code {d : Dev} {c : CoreId} {k : SlotId} {q : QueueId} {y : Ctx} {cmd : Cmd} {op : Nat} {f : Ctx → Cmd → Dev}
    (h : d.head c k q = some (y, cmd)) (h0 : cmd.f CF.op ≠ 0) (hq : opQueue (cmd.f CF.op) ≠ some q) :
    d.takeHead c k q op f = d.rejectHead c k q rOpcode := by
  unfold Dev.takeHead
  rw [h]
  dsimp only
  rw [if_pos ⟨h0, hq⟩]
/-- A slot's context is changed under its key. -/
theorem modSlot_key {d : Dev} {c : CoreId} {k : SlotId} {key : Nat} (h : (d.core c).slotKey k = some key) (f : Ctx → Ctx) :
    d.modSlot c k f = d.modCtx key f := by unfold Dev.modSlot; rw [h]

/-! ### Banker messages -/

theorem takeMsg_new {d : Dev} {code : Nat} {x : BankerMsg} (f : Dev → Dev) (h : d.isNew code x) :
    takeMsg code x f d = f (d.noted code x) := by
  obtain ⟨h1, h2⟩ := h
  unfold takeMsg Dev.noted
  dsimp only
  rw [h1, if_neg (by decide)]
  unfold Dev.msgNumber at h2 ⊢
  cases hv : x.via with
  | fabric => rfl
  | mgmt n =>
    rw [hv] at h2
    simp only [reduceCtorEq, false_or] at h2
    dsimp only
    rw [h2.1, decide_eq_true h2.2]
    rfl

theorem takeMsg_old {d : Dev} {code : Nat} {x : BankerMsg} (f : Dev → Dev) (h : ¬ d.isNew code x) : takeMsg code x f d = d := by
  unfold takeMsg
  dsimp only
  cases h1 : d.hubOn with
  | false => rfl
  | true =>
    rw [if_neg (by decide)]
    cases hv : x.via with
    | fabric => exact absurd ⟨h1, .inl hv⟩ h
    | mgmt n =>
      dsimp only
      rw [if_neg]
      intro g
      rw [Bool.and_eq_true, decide_eq_true_iff] at g
      refine h ⟨h1, .inr ⟨g.1, ?_⟩⟩
      unfold Dev.msgNumber
      rw [hv]
      exact g.2

end Sys2Proof.Machine
end

