-- ==== Sys2Proof/Tests/Slice0.lean ====
section
/-! SUPPORT. Tests: for each check of WellFormed an ill-formed command that it refuses, and for the statements witnesses that
their hypotheses are met. -/

namespace Sys2Proof.Tests
open Sys2Proof Sys2Proof.Machine
set_option Elab.async false

/-! ### WellFormed refuses -/

def aPacket : Packet := ⟨0, 0, 0, 0, true, 0, 0, 0, 0, [0]⟩
def aFlit : Flit := ⟨0, 0, false, 0, 0, 0, 0, 0, 0, [], 0⟩
def aHead : ReqHead := ⟨.host, {}, 0x4443, 1, 3, true, 1, 0, 0, true⟩
def anOp (op : BitVec 8) : DcpOp := ⟨op, 0, 0, 0, []⟩

theorem test_wf_moverError : (Instr.moverError 0 0 6 0).wf = false := by decide
theorem test_wf_stackTempSample : (Instr.stackTempSample 0 [] 0).wf = false := by decide
theorem test_wf_thermalSample : (Instr.thermalSample []).wf = false := by decide
theorem test_wf_hguSample : (Instr.hguSample []).wf = false := by decide
theorem test_wf_energyReconcile : (Instr.energyReconcile []).wf = false := by decide
theorem test_wf_energyEstimate : (Instr.energyEstimate [(14, .device, 0)]).wf = false := by decide
theorem test_wf_trainDone : (Instr.trainDone 0 [0, 0]).wf = false := by decide
theorem test_wf_flitReceive : (Instr.flitReceive 0 aFlit).wf = false := by decide
theorem test_wf_packetForward : (Instr.packetForward none { aPacket with payload := [] }).wf = false := by decide
theorem test_wf_packetKinds : [Instr.ringMessagePacket { aPacket with pkind := 1 }, .bulkWritePacket aPacket, .writeAckPacket aPacket,
    .errorNoticePacket aPacket].all (fun i => !i.wf) = true := by decide
theorem test_wf_dcpCodes : [Instr.regRead aHead (anOp 3), .regWrite aHead (anOp 4), .memRead aHead (anOp 5), .memWrite aHead (anOp 6),
    .doorbell aHead (anOp 7), .consume aHead (anOp 8), .subscribe aHead (anOp 2)].all (fun i => !i.wf) = true := by decide
theorem test_wf_accepts : (Instr.trainDone 0 [0, 1]).wf = true ∧ (Instr.moverError 0 0 5 0).wf = true := by decide

/-! ### Witnesses: the hypotheses of the statements are met -/

/-- A running device. -/
def awake : Dev := { power := { auxOn := true, phase := .running } }
def fw : Path := .firmware 0
/-- A device as a state. -/
def at_ (d : Dev) (m : Mem := []) : State := { dev := d, mem := m }
/-- The row's register write is taken, no command being on a page. -/
def takesB (s : State) (i : Instr) : Bool :=
  s.dev.stores.isEmpty && s.dev.pageCmds.isEmpty &&
    match writeOf i s.dev with
    | some (w, a, v) => decide (s.dev.writeAns w a v = .ok)
    | none => false
theorem takes_of {s : State} {i : Instr} (h : takesB s i = true) : s.Takes i := by
  unfold takesB at h
  rw [Bool.and_eq_true, Bool.and_eq_true] at h
  obtain ⟨⟨h1, h2⟩, h3⟩ := h
  split at h3
  · rename_i w a v hw
    exact ⟨⟨List.isEmpty_iff.1 h1, List.isEmpty_iff.1 h2⟩, w, a, v, hw, of_decide_eq_true h3⟩
  · cases h3
/-- Every row of a list is taken. -/
def takesAll (d : Dev) (l : List Instr) : Bool := l.all (takesB (at_ d))

theorem test_stepRunsFront : ({ State.reset with pending := [.wake fw] } : State).pending = .wake fw :: [] := rfl
theorem test_idleStepTicks : State.reset.pending = [] ∧ State.reset.dev.stores = [] ∧ State.reset.dev.power.auxOn = true ∧ State.reset.dev.power.phase = .asleep ∧
    State.reset.dev.power.slewLeft = 0 ∧ (at_ { power := { auxOn := false } }).dev.power.auxOn = false := by decide
theorem test_stepKeepsInv : State.reset.Inv ∧ ∃ t, step { State.reset with pending := [.cageInsert] } = .next t := ⟨⟨rfl, rfl⟩, _, rfl⟩
theorem test_writeRowsWrite : takesB State.reset (.wake fw) = true := by decide +kernel
theorem test_refusedWrites : (match writeOf (.wake (.session 0)) awake with
    | some (w, a, v) => decide (awake.writeAns w a v ≠ .ok)
    | none => false) = true := by decide +kernel
theorem test_bookkeepingSettles : awake.pageCmds = [] := rfl

/-- One context, resident in slot 0 of core 0. -/
def withCtx (y : Ctx) : Dev := { awake with cores := [(0, { owner := some 0, slots := [(0, 0)] })], ctxs := [(0, { y with place := .resident 0 0 })] }
def run32 (n : Nat) : Ctx := { imem := bWrite 0 (leBytes 4 n) [] }
def isNext (o : HOut) : Bool := match o with | .next _ => true | _ => false
def isTrap (o : HOut) : Bool := match o with | .trap _ _ => true | _ => false
/-- What the statements about a hart ask of the state and its context. -/
def picked (y : Ctx) : Bool :=
  let d := withCtx y
  decide (d.stores = []) && decide ((d.core 0).slotKey 0 = some 0) && decide (d.ctx? 0 = some { y with place := .resident 0 0 }) &&
    decide (d.hartPick 0 = some 0)
theorem test_hartsRun : picked (run32 0x13) = true ∧ isNext ((run32 0x13).fetchExec 0 fun _ => false) = true ∧
    picked (run32 0) = true ∧ isTrap ((run32 0).fetchExec 0 fun _ => false) = true ∧
    picked { run32 0x13 with wait := some (.sem 0 0) } = true := by decide +kernel
def pushed (n : Nat) (a : Nat) : Ctx :=
  { run32 0x13 with hart := { xs := [(1, BitVec.ofNat 64 a)] }, mq := { cmds := List.replicate n ⟨0, 0, 0, 0⟩ } }
theorem test_tensorPush : [pushed 0 dataBase, pushed 63 dataBase, pushed 64 (dataBase + winBytes - 64), pushed 64 (dataBase + 1)].all picked = true ∧
    (dataBase + winBytes - 64) % 64 = 0 := by decide +kernel
theorem test_tensorWaits : semOk ((run32 0x13).sem 0) 0 = true ∧ semOk ((run32 0x13).sem 0) 1 = false ∧
    ((run32 0x13).mq.cmds = []) ∧ (pushed 1 7).mq.cmds ≠ [] ∧ picked (pushed 1 7) = true ∧
    (BitVec.setWidth 3 (7#64)).getLsbD 0 = true := by decide +kernel

/-! Collectives, core controls, swaps, holds -/

def caller (op : Nat) : Ctx :=
  { run32 0x73 with hart := { xs := [(10, BitVec.ofNat 64 dataBase), (17, 0x4B43)] }, dmem := bWrite 0 [BitVec.ofNat 8 op] [] }
def isError {α : Type} (x : Except Nat α) : Bool := match x with | .error _ => true | .ok _ => false
/-- A descriptor of BARRIER with a communicator of one rank. -/
def barrierCall : Ctx :=
  { caller 7 with dmem := bWrite 0 (leBytes 64 (7 + 2 * 2 ^ 216 + 64 * 2 ^ 240)) (bWrite 64 (leBytes 64 1) []) }
def barrierDev : Dev := (withCtx barrierCall).setFld F.CORE_CTX_SPD_SIZE 15 0 0
theorem test_collectivesCall : ([1, 2, 3, 4, 5, 6, 7].all fun op => picked (caller op) && decide ((caller op).callOp = some op)) = true ∧
    isError (checkCall (withCtx (caller 1)) 0 0 (caller 1) dataBase) = true ∧
    isError (checkCall barrierDev 0 0 barrierCall dataBase) = false ∧ barrierCall.callOp = some 7 := by decide +kernel
theorem test_coreControls : takesAll awake [.coreHalt fw 0 15, .coreResume fw 95 1, .movResume fw 0 8, .aryHold fw 0 true, .aryClrCounts fw 0,
    .vecClrCounts fw 0] = true := by decide +kernel
/-- A context of core 0 that is swapped out. -/
def swapped (y : Ctx) : Dev := { awake with cores := [(0, { owner := some 0 })], ctxs := [(0, y)] }
/-- Extents 7 and 8 hold the swap image of partition 0, in a state. -/
def imaged (st : Nat) (d : Dev) : Dev := [7, 8].foldl (fun d e => [(XF.kind, 6), (XF.owner, 0), (XF.state, st)].foldl (fun d x => d.setXf e x.1 x.2) d) d
def swapNow (dirIn : Bool) : Swap := ⟨0, dirIn, 7, 0⟩
theorem test_swapOut : let d := imaged 3 (withCtx {})
    let held := imaged 3 (withCtx { sched := { koOut := 5 } })
    takesAll d [.swapOut fw 0 0 7] = true ∧ (d.core 0).swapping 0 = false ∧ (d.core 0).slotKey 0 = some 0 ∧ (d.core 0).slotKey 1 = none ∧
    (d.ctx? 0).isSome = true ∧ d.swapAccess 0 7 true = true ∧ d.swapAccess 0 6 true = false ∧ (d.core 0).waiting = [] ∧
    d.swapMay 0 (swapNow false) = true ∧ held.swapMay 0 (swapNow false) = false ∧ (held.core 0).waiting = [] ∧
    ({ swap := some ⟨1, false, 0, 0⟩ } : Core).swap.isSome = true ∧ ({ swap := some ⟨1, false, 0, 0⟩ } : Core).swapping 1 = true := by decide +kernel
theorem test_swapIn : let d := imaged 4 (swapped { ext := 7 })
    let held := imaged 4 (swapped { ext := 7, sched := { koIn := 5 } })
    takesAll d [.swapIn fw 0 3 7] = true ∧ d.imageAt 0 7 = some 0 ∧ d.imageAt 0 8 = none ∧ (d.core 0).slotKey 3 = none ∧ (d.core 0).waiting = [] ∧
    d.swapMay 0 (swapNow true) = true ∧ held.swapMay 0 (swapNow true) = false ∧ d.windowFits 0 3 { ext := 7 } = true ∧
    ({ fenced := true } : Core).fenced = true ∧ ({ clearing := some 0 } : Core).clearing.isSome = true := by decide +kernel
theorem test_swapsEnd : let out := (imaged 3 (withCtx {})).modCore 0 fun x => { x with swap := some (swapNow false) }
    let inn := (imaged 4 (swapped { ext := 7 })).modCore 0 fun x => { x with swap := some (swapNow true) }
    out.stores = [] ∧ (out.core 0).swap = some (swapNow false) ∧ (out.core 0).executingAny 0 = false ∧ (out.core 0).changing 0 = false ∧
    (out.slotCtx 0 0).isSome = true ∧ (out.core 0).plan = none ∧ out.swapAccess 0 7 true = true ∧ inn.swapAccess 0 7 true = false ∧
    (inn.core 0).swap = some (swapNow true) ∧ inn.ctx? 0 = some { ext := 7 } ∧ inn.swapAccess 0 7 false = true ∧ awake.swapAccess 0 7 false = false ∧
    (placeCtx (inn.core 0) 0 { ext := 7 }).isSome = true := by decide +kernel
theorem test_holdsEnd : let y : Ctx := { sched := { koOut := 5 } }
    let d := { swapped y with power := { awake.power with raw := 5 } }
    d.stores = [] ∧ (d.homedOn 0).find? (fun e => (decide (0 < e.2.sched.koIn) && decide (e.2.sched.koIn ≤ d.now)) ||
      (decide (0 < e.2.sched.koOut) && decide (e.2.sched.koOut ≤ d.now))) = some (0, y) := by decide +kernel
theorem test_clearingsEnd : let x : Core := { clearing := some 0, home := some 1 }
    let d := { awake with cores := [(0, x)] }
    x.clearing = some 0 ∧ 0 ≤ d.cycle 0 ∧ x.plan = none ∧ CorePlan.empty.page x = none ∧ (CorePlan.add 2).page x = some 2 := by decide +kernel

/-! The extent map and the stacks -/

/-- A device with fields of an extent's entry set. -/
def mapped (e : Nat) (l : List (Bf × Nat)) (d : Dev := awake) : Dev := l.foldl (fun d x => d.setXf e x.1 x.2) d
theorem test_mapFree : let d := mapped 3 [(XF.kind, 1), (XF.state, 3)]
    takesAll d [.free fw 0 3 0, .freeze fw 0 3 0] = true ∧ xmapCheck d (xmapCmd d fw 0 2 3 0) = none ∧
    xmapWaits d (xmapCmd d fw 0 2 3 0) = false := by decide +kernel
theorem test_mapFreeze : let d := mapped 3 [(XF.kind, 2), (XF.state, 3)]
    takesAll d [.freeze fw 0 3 0, .setGen fw 0 3 0] = true ∧ xmapCheck d (xmapCmd d fw 0 5 3 0) = none ∧
    xmapWaits d (xmapCmd d fw 0 5 3 0) = false ∧ xmapCheck d (xmapCmd d fw 0 7 3 0) = none := by decide +kernel
theorem test_mapThaw : let d := mapped 3 [(XF.kind, 2), (XF.state, 4)]
    takesAll d [.thaw fw 0 3 0] = true ∧ xmapCheck d (xmapCmd d fw 0 6 3 0) = none := by decide +kernel
theorem test_mapRetire : takesAll awake [.retire fw 0 131067 0] = true ∧ xmapCheck awake (xmapCmd awake fw 0 8 131067 0) = none := by decide +kernel
theorem test_mapRefuse : (xmapCheck awake (xmapCmd awake fw 0 2 3 0)).isSome = true ∧ takesAll awake [.free fw 0 3 0] = true ∧
    (xmapCheck awake (xmapCmd awake fw 0 8 131067 1)).isSome = true := by decide +kernel
theorem test_mapAllocate : let d := awake.setPfld fw F.XMAP_ARG0_ENTRY 1 0
    takesAll d [.allocate fw 0 3 0] = true ∧ xmapCheck d (xmapCmd d fw 0 1 3 0) = none ∧ (xmapCmd d fw 0 1 3 0).pairs = false := by decide +kernel
theorem test_mapPairs : let d := awake.setPfld fw F.XMAP_ARG0_ENTRY (XF.partner.put 9 3) 0
    takesAll d [.allocate fw 0 3 0] = true ∧ xmapCheck d (xmapCmd d fw 0 1 3 0) = none ∧ (xmapCmd d fw 0 1 3 0).pairs = true := by decide +kernel
theorem test_mapLoad : let d := mapped 3 [(XF.kind, 2), (XF.state, 3)]
    let e := mapped 3 [(XF.kind, 2), (XF.state, 2)]
    takesAll d [.loadBegin fw 0 3 0] = true ∧ xmapCheck d (xmapCmd d fw 0 3 3 0) = none ∧ xmapWaits d (xmapCmd d fw 0 3 3 0) = false ∧
    xmapCheck e (xmapCmd e fw 0 4 3 0) = none ∧ xmapWaits e (xmapCmd e fw 0 4 3 0) = false ∧
    (loadEnd [] (xmapCmd e fw 0 4 3 0) (e.begun (xmapCmd e fw 0 4 3 0))).2 = [] ∧ takesAll e [.loadEnd fw 0 3 0] = true := by decide +kernel
theorem test_mapDigest : let e := mapped 3 [(XF.kind, 2), (XF.state, 2), (XF.digest, 1)]
    xmapCheck e (xmapCmd e fw 0 4 3 0) = none ∧ (loadEnd [] (xmapCmd e fw 0 4 3 0) (e.begun (xmapCmd e fw 0 4 3 0))).2 = [0] ∧
    e.xf 3 XF.digest = 1 ∧ (mapped 3 [(XF.digest, 3)]).xf 3 XF.digest = 3 ∧ awake.xf 3 XF.digest ≠ 1 ∧ awake.xf 3 XF.digest ≠ 3 := by decide +kernel
/-- A command of the extent map that runs; one that has changed its entries. -/
def mapCmd (op : Nat) (applied : Bool := false) : PageCmd := ⟨fw, 0x1000, op, 3, 0, 0, 0, 0, 0, none, applied⟩
def busyExtent : Dev := { mapped 3 [(XF.kind, 1), (XF.state, 3)] with
  cores := [(0, { swap := some ⟨0, false, 3, 0⟩ })], power := { awake.power with raw := 10000001 } }
theorem test_mapGoesOn : let d := { mapped 3 [(XF.state, 1)] with pageCmds := [(mapCmd 1 true).started 0] }
    d.stores = [] ∧ d.pageCmds = [(mapCmd 1 true).started 0] ∧ d.pathOpen fw = true ∧ xmapWaits d (mapCmd 2) = false ∧ xmapWaits d (mapCmd 3) = false ∧
    xmapWaits d (mapCmd 5) = false ∧ xmapWaits busyExtent (mapCmd 5) = true ∧ 0 + 10000000 < busyExtent.now ∧ d.xf 3 XF.state = 1 ∧
    ((mapCmd 1).named.all fun e => decide ((d.endClear 3).xf e XF.state ≠ 1)) = true := by decide +kernel
theorem test_stacks : let d := { (((awake.setFld F.STK_PATROL_RECHECK 0 9).setFld F.STK_STATUS_FW_OK 1 9).setFld F.STK_CTL_AUTO_IDLE 1 9).setFld F.STK_PATROL_PERIOD 1 9 with power := { awake.power with raw := 1000 } }
    d.stores = [] ∧ d.stackOn 9 = true ∧ d.fld F.STK_STATUS_PSTATE 9 = 0 ∧ d.stackBusy 9 = false ∧ d.fld F.STK_CTL_TARGET 9 = 0 ∧
    d.fld F.STK_CTL_AUTO_IDLE 9 = 1 ∧ tGet 0 d.stackUse 9 + 1000 ≤ d.now ∧ (List.replicate 16 (0 : BitVec 8)).length = 16 ∧
    d.fld F.STK_STATUS_FW_OK 9 = 1 ∧ (stackFirmware [] (patrolLine [] (9 * 2 ^ 30) d)).fld F.STK_PATROL_RECHECK 9 = 0 ∧ tFind (9 * 2 ^ 30) d.ecc.wrong = none ∧ d.pageCmds = [] ∧
    (tGet 0 d.patrol 9 + 1) % 2 ^ 30 ≠ 0 ∧ awake.flash.corrects 0 1 = true ∧ awake.flash.corrects 0 (BitVec.allOnes 80) = false := by decide +kernel

/-! Partitions, contexts, generations, positions -/

def part (st : Nat) (d : Dev := awake) : Dev := d.setFld F.PART_STATUS_STATE st 5
def core0 (x : Core) (d : Dev) : Dev := { d with cores := [(0, x)] }
theorem test_partCreate : takesAll awake [.partCreate fw 5] = true ∧ awake.pstate 5 = 0 ∧ (part 1).pstate 5 ≠ 0 ∧
    takesAll (part 1) [.partCreate fw 5] = true := by decide +kernel
theorem test_partDelete : takesAll (part 1) [.partDelete fw 5, .addCore fw 5 0, .hold fw 5] = true ∧ (part 1).pstate 5 = 1 ∧
    (part 1).partEmpty 5 = true ∧ (core0 { owner := some 5 } (part 3)).partEmpty 5 = false ∧ (part 3).pstate 5 = 3 ∧
    (part 1).idleCore 0 = true ∧ (part 1).idleCore 95 = true := by decide +kernel
theorem test_partCores : let d := core0 { owner := some 5, home := some 5 } (part 3 (awake.setFld F.PART_STATUS_STATE 1 6))
    let e := core0 { owner := some 6, home := some 5 } (part 3)
    takesAll d [.removeCore fw 5 0, .lend fw 5 0 6, .release fw 5] = true ∧ d.pstate 5 = 3 ∧ d.pstate 6 = 1 ∧
    (d.core 0).fenced = false ∧ takesAll e [.recallCore fw 5 0] = true ∧ (e.core 0).owner ≠ some 5 ∧ (e.core 0).owner ≠ none := by decide +kernel
/-- A partition with a training job: its descriptor names job 1. -/
def jobMem (p : Nat) : Mem := [⟨16381 * extentSize + 65536 * p, 1⟩]
theorem test_partHold : isPlain (jobMem 5) (part 1) 5 = false ∧ (part 1).pstate 5 = 1 ∧ takesB (at_ (part 1) (jobMem 5)) (.hold fw 5) = true := by
  decide +kernel
def ctxDev (x : Ctx) : Dev := { core0 { owner := some 5 } awake with ctxs := [(ctxKey 5 9, { x with part := 5, num := 9 })] }
theorem test_contexts : takesAll (ctxDev {}) [.destroy fw 5 9, .rehome fw 5 9 0, .ctxWake fw 5 9] = true ∧ (ctxDev {}).ctx? (ctxKey 5 9) = some
    ({ part := 5, num := 9 } : Ctx) ∧ (ctxDev {}).swapOf (ctxKey 5 9) = none ∧ ((ctxDev {}).core 0).owner = some 5 ∧ awake.ctx? (ctxKey 5 9) = none ∧
    takesAll awake [.ctxWake fw 5 9] = true := by decide +kernel
def swapDev : Dev := mapped 0 [(XF.kind, 1), (XF.owner, 5), (XF.state, 3)] (mapped 4 [(XF.kind, 6), (XF.owner, 5), (XF.state, 3)]
  (mapped 5 [(XF.kind, 6), (XF.owner, 5), (XF.state, 3)] (core0 { owner := some 5 } awake)))
theorem test_ctxCreate : takesAll swapDev [.ctxCreate fw 5 9 0 4] = true ∧ swapDev.ctx? (ctxKey 5 9) = none ∧ (swapDev.core 0).owner = some 5 ∧
    swapDev.swapAccess 5 4 true = true ∧ 0 + creationBytes ≤ 2 ^ 41 ∧ swapDev.validData 5 0 creationBytes = true ∧
    swapDev.badRead 0 creationBytes = false ∧ (ctxCmd swapDev fw 5 1 9 0 4).arg0 = 0 := by decide +kernel
/-- The memory of an image header: MAGIC and VERSION. -/
def imageMem : Mem := [⟨0, 0x31⟩, ⟨1, 0x58⟩, ⟨2, 0x43⟩, ⟨3, 0x4B⟩, ⟨4, 1⟩]
theorem test_ctxImage : imageOk (memRead imageMem swapDev 0 creationBytes) = true := by
  have h : (memRead imageMem swapDev 0 creationBytes).take 64 = memRead imageMem swapDev 0 64 := by
    unfold memRead
    rw [← List.map_take, List.take_range]
    rfl
  unfold imageOk
  rw [h]
  decide +kernel
def genDev (st : Nat) : Dev := (awake.setFld F.GEN_ENTRY_GEN 7 5 2).setFld F.GEN_ENTRY_STATE st 5 2
theorem test_gens : takesAll (genDev 2) [.castle fw 5 7, .abandon fw 5 7] = true ∧ (genDev 2).genEntry 5 7 = some 2 ∧
    (genDev 2).fld F.GEN_ENTRY_STATE 5 2 = 2 ∧ (genDev 1).fld F.GEN_ENTRY_STATE 5 2 ≠ 2 ∧ (genDev 1).genEntry 5 7 = some 2 ∧
    awake.genEntry 5 7 = none ∧ (((((genDev 2).begun (genCmd (genDev 2) fw 5 3 7)).setLoads (tDel (loadKey 5 2) [])).setGenState 5 2 5).freeGen 5 2).2 = true := by
  decide +kernel
/-- A manifest of no shards for generation 7, group of one. -/
def manifestMem : Mem := [⟨0, 0x31⟩, ⟨1, 0x4D⟩, ⟨2, 0x4C⟩, ⟨3, 0x4B⟩, ⟨4, 7⟩, ⟨12, 1⟩]
theorem test_genStage : let d := mapped 0 [(XF.kind, 1), (XF.owner, 5), (XF.state, 3)]
    takesB (at_ d manifestMem) (.stage fw 5 7) = true ∧ d.genEntry 5 7 = none ∧
    (List.range 8).find? (fun j => decide (d.fld F.GEN_ENTRY_STATE (5 : PartId).val j = 0)) = some 0 ∧
    manifest manifestMem d 5 (genCmd d fw 5 1 7).arg0 7 = some ⟨7, 1, 0, false, []⟩ := by decide +kernel

/-- A position of no keys and no records; its CHECK is the SHA3-512 of it with CHECK zero. -/
def posHead : List Byte := leBytes 8 (0x4B504F31 + 256 * 2 ^ 32) ++ List.replicate 56 0
def aPosition : List Byte := posHead ++ (sha3 (posHead ++ List.replicate 192 0) ++ List.replicate 128 0)

theorem posHead_size : posHead.length = 64 := by decide
theorem tail_size : (List.replicate 128 (0 : Byte)).length = 128 := List.length_replicate
theorem aPosition_size : aPosition.length = 256 := by
  unfold aPosition
  rw [List.length_append, List.length_append, sha3_size, posHead_size, tail_size]
theorem drop_parts {h s z : List Byte} (hh : h.length = 64) (hs : s.length = 64) : (h ++ (s ++ z)).drop 0x80 = z := by
  rw [← List.append_assoc]
  exact List.drop_left' (by rw [List.length_append, hh, hs])
theorem test_positionCheck : positionCheckOk aPosition = true := by
  unfold positionCheckOk positionCheck
  have h1 : aPosition.take 0x40 = posHead := List.take_left' posHead_size
  have h2 : aPosition.drop 0x40 = sha3 (posHead ++ List.replicate 192 0) ++ List.replicate 128 0 := List.drop_left' posHead_size
  have h3 : aPosition.drop 0x80 = List.replicate 128 0 := drop_parts posHead_size (sha3_size _)
  have h4 : posHead ++ List.replicate 64 0 ++ List.replicate 128 (0 : Byte) = posHead ++ List.replicate 192 0 := by decide +kernel
  rw [h1, h2, h3, List.take_left' (sha3_size _), h4]
  exact decide_eq_true rfl
theorem posField_head (o n : Nat) (h : o + n ≤ 64) : posField aPosition o n = posField posHead o n := by
  unfold posField aPosition
  rw [List.drop_append_of_le_length (by rw [posHead_size]; omega), List.take_append_of_le_length (by rw [List.length_drop, posHead_size]; omega)]
theorem test_positionFormat : positionFormat aPosition = true ∧ posLength aPosition = 256 := by
  have h4 : posField aPosition 0x80 128 = 0 := by
    have h3 : aPosition.drop 0x80 = List.replicate 128 0 := drop_parts posHead_size (sha3_size _)
    unfold posField
    rw [h3]
    decide +kernel
  unfold positionFormat posLength posKeys posRecords
  rw [aPosition_size, h4, posField_head 0 4 (by decide), posField_head 4 4 (by decide), posField_head 0x10 8 (by decide), posField_head 0x20 2 (by decide),
    posField_head 0x22 2 (by decide), posField_head 0x24 28 (by decide)]
  decide +kernel
/-- The staging area holds the position. -/
def posMem : Mem := bWrite stagingBase aPosition []
theorem test_positionStaged : memRead posMem awake stagingBase 256 = aPosition := by
  have hb : ∀ i, memByte posMem awake (stagingBase + i) = bGet posMem (stagingBase + i) := fun _ => rfl
  unfold memRead
  apply List.ext_getElem
  · rw [List.length_map, List.length_range, aPosition_size]
  · intro i h1 h2
    rw [List.getElem_map, List.getElem_range, hb]
    unfold posMem
    rw [bGet_bWrite, if_pos ⟨by omega, by omega⟩, Nat.add_sub_cancel_left, List.getD_eq_getElem?_getD, List.getElem?_eq_getElem h2]
    rfl
theorem test_positionStore : takesAll awake [.store fw 1 0] = true ∧ (awake.position 1).state ∈ [0, 1, 5] ∧ posLength aPosition = 256 ∧
    0 + 256 ≤ 4194304 := by decide +kernel
def posDev (st : Nat) (l : List Byte := []) : Dev := { awake with flash := { awake.flash with positions := [(1, ⟨st, l⟩)] } }
theorem test_positionActivate : takesAll (posDev 1) [.activate fw 1, .erase fw 1] = true ∧ (posDev 1).positionIn 3 = none ∧
    ((posDev 1).position 1).state = 1 := by decide +kernel
theorem test_positionHeld (l : List Byte) : ((posDev 1 l).position 1).data = l := rfl
theorem test_positionSettle : let d := (posDev 3).setFld F.CFG_DEADLINE_TIME 1
    takesAll d [.settle fw] = true ∧ d.positionIn 3 = some 1 ∧ d.now < d.fld F.CFG_DEADLINE_TIME ∧ takesAll (posDev 4) [.takeBack fw] = true ∧
    (posDev 4).positionIn 4 = some 1 := by decide +kernel

/-! Rings, fences, firmware -/

/-- A device with fields of a ring's context set. -/
def ringDev (r : Nat) (l : List (Bf × Nat)) (d : Dev := awake) : Dev := l.foldl (fun d x => d.setRf r x.1 x.2) d
def sendContext : Nat := [(RF.kind, 2), (RF.owner, 5), (RF.peerSlotLog, 7)].foldl (fun n x => x.1.put x.2 n) 0
theorem test_ringAllocate : let d := (part 1).setPfld fw F.RING_ARG_WORD (sendContext % 2 ^ 64) 0 0
    let e := d.setPfld fw F.RING_ARG_WORD (sendContext / 2 ^ 64 % 2 ^ 64) 0 1
    let f := e.setPfld fw F.RING_ARG_WORD (sendContext / 2 ^ 128) 0 2
    takesAll f [.ringAllocate fw 9] = true ∧ f.rf (9 : RingId).toNat RF.kind = 0 ∧ RF.error.put 0 (ringCmd f fw 1 9).context = sendContext ∧
    contextOk sendContext = true ∧ f.fld F.PART_STATUS_STATE (RF.owner.get sendContext) = 1 ∧ f.contextBuffer sendContext = true ∧
    RF.kind.get sendContext ≠ 3 := by decide +kernel
def movingOn (r : Nat) : Core := { mover := [{ slot := 0, cmd := ⟨BitVec.ofNat 512 (MF.ring.put r (CF.op.put 0x45 0)), 0, 0, 0⟩ }] }
theorem test_ringFree : let d := ringDev 9 [(RF.kind, 2)] (part 3)
    let e := core0 (movingOn 9) d
    takesAll d [.ringFree fw 9, .ringReset fw 9, .retarget fw 9] = true ∧ d.rf 9 RF.kind = 2 ∧ d.ringBusy 9 = false ∧ takesAll e [.ringFree fw 9] = true ∧
    ((e.core 0).mover.any fun y => decide (y.cmd.f CF.op = 0x45 ∨ y.cmd.f CF.op = 0x46) && decide (y.cmd.f MF.ring = 9)) = true ∧
    (part 3 (ringDev 9 [(RF.kind, 2), (RF.owner, 5)])).fld F.PART_STATUS_STATE (partOf 5).val = 3 := by decide +kernel
def ringWait : PageCmd := ⟨fw, 0x1200, 2, 9, 0, 0, 0, 0, 0, none, false⟩
theorem test_ringFreeTimeout : let d := { core0 (movingOn 9) (ringDev 9 [(RF.kind, 2)]) with
      pageCmds := [ringWait.started 0], power := { awake.power with raw := 10000000 } }
    d.stores = [] ∧ d.pageCmds = [ringWait.started 0] ∧ d.pathOpen ringWait.path = true ∧ d.ringBusy ringWait.a = true ∧ 0 + 10000000 ≤ d.now := by
  decide +kernel
theorem test_fences : takesAll awake [.fence fw 0, .clear fw 0, .fence fw 143] = true ∧ (awake.core 0).fenced = false ∧
    ((core0 { fenced := true } awake).core 0).fenced = true ∧ takesAll (core0 { fenced := true } awake) [.fence fw 0] = true := by decide +kernel
def fwDev (st : Nat) : Dev := { awake with flash := { awake.flash with slots := [(0, { state := 3 }), (1, { state := st })] } }
theorem test_firmware : let d := (awake.setPfld fw F.SEC_FW_ARG_LENGTH 1)
    takesAll d [.write fw 0, .report fw, .extend fw 8, .extend fw 7] = true ∧ (fwCmd d fw 1 0).arg1 = 1 ∧ (fwCmd d fw 1 0).arg0 + 1 ≤ 4194304 ∧
    4096 * (fwCmd d fw 1 0).arg2 + 1 ≤ slotBytes 0 ∧ 8 ≤ (8 : BitVec 4).toNat := by decide +kernel
theorem test_firmwareSlots : takesAll (fwDev 1) [.stageImage fw 0, .discard fw 0, .fwCommit fw 0] = true ∧ (fwDev 1).inactive 0 = 1 ∧
    ((fwDev 1).fwSlot 0 1).state = 1 ∧ (∀ e < 7, (fwDev 1).slotIn e 2 = none) ∧ (fwDev 1).slotIn 0 3 = some 0 ∧
    (fwDev 1).fld (bootFields 0).1 = 0 ∧ (fwDev 1).power.phase = .running := by decide +kernel

/-! Registers and power -/

theorem test_snapshots : takesAll awake [.xmapReadIdx fw 0 0, .ringReadIdx fw 0, .fabRtIdx fw 0, .hostPeerIdx fw 0, .pwrRailIdx fw 0, .pwrRingIdx fw 0,
    .thmIdx fw 0, .fltSrcIdx fw 0, .fltLogIdx fw 4095, .fltDumpIdx fw 0, .bnkMemberIdx fw 0, .secFwSlotIdx fw 0, .secCounterIdx fw 0,
    .cfgSlotIdx fw 0, .hguSensorIdx fw 255, .jnlReadIdx fw 0] = true := by decide +kernel
theorem test_controls : takesAll awake [.fabRtData fw 0, .shareTableWrite fw 0 31 0, .hostPeerMac fw 0, .bnkMember fw 0, .plCtlWrite fw 15 0,
    .fabCtlWrite fw 0, .hostCtlWrite fw 0, .timeSet fw 0, .domainReset fw 0] = true ∧ awake.fld F.TIME_STATUS_SOURCE = 0 ∧
    (awake.setFld F.TIME_STATUS_SOURCE 2).fld F.TIME_STATUS_SOURCE ≠ 0 ∧ coreOf 143 = some 143 ∧ coreOf 144 = none ∧
    bits (8 * 144) 0 3 ≠ 1 ∧ bits (8 * 144 + 1) 0 3 = 1 := by decide +kernel
def asleep : Dev := (({} : Dev).setFld F.HGU_STATUS_MAIN_PRESENT 1)
theorem test_wakes : let up := asleep.writeFields fw (page 0x50 0 0x0100) (1 + asleep.hguKept)
    takesAll asleep [.wake fw, .shutdown fw] = true ∧ takesAll awake [.wake fw, .shutdown fw] = true ∧ asleep.power.phase = .asleep ∧
    asleep.power.auxOn = true ∧ up.shutRule = false ∧ up.flag F.HGU_STATUS_MAIN_PRESENT = true ∧ up.flag F.HGU_STATUS_PUF_FAIL = false ∧
    awake.power.phase ≠ .asleep := by decide +kernel
theorem test_forced : let d := awake.setFld F.FLT_CTL_DICE_EN 1
    d.flag F.FLT_CTL_DICE_EN = true ∧ takesAll d [.force fw, .forceWire fw] = true := by decide +kernel
theorem test_plainWrite : takesAll awake [.registerWrite fw (BitVec.ofNat 32 (F.STK_CTL_TARGET.addr 0 0)) 1] = true ∧
    commandOf fw (F.STK_CTL_TARGET.addr 0 0) 1 awake = none ∧
    F.STK_CTL_TARGET.addr 0 0 ∉ [page 0x48 0 0x170, page 0x48 0 0x118, page 0x50 0 0x100, page 0x55 0 0x110] := by decide +kernel

/-! Matrix unit, vector engine, stream mover -/

def bld (l : List (Bf × Nat)) : Nat := l.foldl (fun n x => x.1.put x.2 n) 0
/-- A command with fields set. -/
def cmdOf (l : List (Bf × Nat)) : Cmd := ⟨BitVec.ofNat 512 (bld l), 0, 0, 0⟩
/-- A context whose queues are headed by a command. -/
def queued (l : List (Bf × Nat)) : Ctx := { mq := { cmds := [cmdOf l] }, vq := { cmds := [cmdOf l] }, sq := { cmds := [cmdOf l] } }
/-- A core whose slot 0 holds the context, with a window of 15 units. -/
def unitDev (y : Ctx) (x : Core := {}) : Dev :=
  ({ awake with cores := [(0, { x with slots := [(0, 0)] })], ctxs := [(0, { y with place := .resident 0 0 })] }).setFld F.CORE_CTX_SPD_SIZE 15 0 0
def headIs (d : Dev) (q : QueueId) (l : List (Bf × Nat)) : Bool :=
  d.stores.isEmpty && match d.head 0 0 q with
    | some (_, cmd) => decide (cmd = cmdOf l) && decide ((cmdOf l).f CF.res = 0)
    | none => false
def passOk (l : List (Bf × Nat)) : Bool := match passArgs (cmdOf l) with | .ok _ => true | .error _ => false
def verdictOf (d : Dev) (l : List (Bf × Nat)) : Option Verdict :=
  match passArgs (cmdOf l) with
  | .ok a => some (passVerdict d 0 0 0 (cmdOf l) a)
  | .error _ => none
/-- An outer-product pass of INT8; the same that does not open; a pass of format codes 12. -/
def outerPass : List (Bf × Nat) := [(CF.op, 1), (PF.mode, 2), (PF.inFmt, 2), (PF.wFmt, 2)]
def goOnPass : List (Bf × Nat) := (PF.action, 1) :: outerPass
def badPass : List (Bf × Nat) := outerPass ++ [(PF.inFmt, 12)]
def mDev (l : List (Bf × Nat)) (x : Core := {}) : Dev := unitDev (queued l) { x with holder := some 0 }
theorem test_matrixPass : ((mDev outerPass).core 0).serves 0 = true ∧ ((mDev outerPass).core 0).slotKey 0 = some 0 ∧ headIs (mDev outerPass) 0 outerPass = true ∧
    verdictOf (mDev outerPass) outerPass = some .accept ∧ ((mDev outerPass).core 0).takesPass .outer false ((mDev outerPass).cycle 0) = true ∧
    ({ cellsFreeFrom := 1 } : Core).takesPass .outer false 0 = false ∧
    (mDev outerPass).flag F.ARY_CTL_HOLD 0 = false ∧ verdictOf (mDev goOnPass) goOnPass = some (.reject rGroup) ∧ headIs (mDev goOnPass) 0 goOnPass = true ∧
    passOk badPass = false ∧ headIs (mDev badPass) 0 badPass = true := by decide +kernel
def tileCmd (f a : Nat) : List (Bf × Nat) := [(CF.op, 2), (TF.wFmt, f), (TF.wAddr, a), (TF.wStride, 8)]
theorem test_tileLoad : ([(2, 0), (2, 15 * 65536), (7, 0), (11, 0)].all fun x => headIs (mDev (tileCmd x.1 x.2)) 0 (tileCmd x.1 x.2)) = true ∧
    Fmt.ofCode 2 = some .int8 ∧ tileFmtBad 2 false = false ∧ tileFmtBad 7 false = true ∧ tileFmtBad 11 false = true ∧ ((cmdOf (tileCmd 2 0)).f TF.wMx == 1) = false ∧
    (mDev []).rangesOk 0 0 (tileRanges (cmdOf (tileCmd 2 0)) .int8 ++ tileScaleRanges (cmdOf (tileCmd 2 0))) = true ∧
    (mDev []).rangesOk 0 0 (tileRanges (cmdOf (tileCmd 2 (15 * 65536))) .int8) = false ∧
    (cmdOf (tileCmd 2 0)).f TF.res0 = 0 ∧ (cmdOf (tileCmd 2 0)).f TF.res1 = 0 := by decide +kernel
theorem test_nop : headIs (mDev []) 0 [] = true ∧ headIs (unitDev (queued [])) 1 [] = true ∧
    ([0, 1, 2].all fun q => nopTurn [] (mDev []) 0 0 q) = true ∧ ((mDev []).core 0).edgeHeld = false ∧
    headIs (mDev [(CF.op, 0x10)]) 0 [(CF.op, 0x10)] = true ∧ opQueue 0x10 ≠ some 0 := by decide +kernel
def aTile : Tile := ⟨.int8, false, 0, [], []⟩
def aLoad : TileLoad := ⟨0, cmdOf [], aTile, 0⟩
def aRec : PassRec := ⟨0, cmdOf outerPass, .outer, false, .opens, 0, 0, .int8, .int8, false, false, [], [], [], none, false, 0⟩
def aClose : Closing := ⟨0, cmdOf [], 0, true, 0⟩
/-- A device at cycle 5 of its dies. -/
def atFive (d : Dev) : Dev := { d with clocks := [(0, { cycles := 5 })] }
def aDrain : GroupDrain := ⟨2, {}, aClose, 5⟩
def anOpDrain : OpDrain := ⟨{}, aClose, 5⟩
def eventCore : Core :=
  { tileLoad := some aLoad, passes := [aRec], op := { closing := some aClose }, groups := [(1, { closing := some aClose })], drains := [aDrain] }
theorem test_matrixEvents : let d := atFive (unitDev {} eventCore)
    d.stores = [] ∧ (d.core 0).tileLoad = some aLoad ∧ aLoad.due ≤ d.cycle 0 ∧ (d.core 0).passes = aRec :: [] ∧ aRec.edge = false ∧ aRec.due ≤ d.cycle 0 ∧
    ((d.core 0).group 1).closing = some aClose ∧ aClose.startAt < d.cycle 0 ∧ (d.core 0).drainOf 2 = some aDrain ∧ aDrain.endAt ≤ d.cycle 0 ∧
    (d.core 0).op.closing = some aClose ∧ (d.core 0).opDrain = none ∧ ({ opDrain := some anOpDrain } : Core).opDrain = some anOpDrain := by decide +kernel
theorem test_holderChange : let d := unitDev (queued outerPass)
    let e := unitDev (queued outerPass) { change := some ⟨0, 0, 0⟩ }
    d.stores = [] ∧ (d.core 0).change = none ∧ (d.core 0).edgeHeld = false ∧ d.holderGives 0 = true ∧
    arbPick (d.core 0).arb.matrix (fun i => d.matrixReady 0 (slotOf i) && decide ((d.core 0).holder ≠ some (slotOf i))) = some 0 ∧
    (d.slotCtx 0 (slotOf 0)).isSome = true ∧ ((mDev outerPass).core 0).holder = some 0 ∧ (mDev outerPass).matrixReady 0 0 = true ∧
    (e.core 0).change = some ⟨0, 0, 0⟩ ∧ (e.core 0).tileLoad = none ∧ ((e.tilesOut 0).slotCtx 0 0).isSome = true := by decide +kernel

/-- A vector command on operands of one element, in formats d, a and b. -/
def vecCmd (op : VOp) (d a b sub : Nat) : List (Bf × Nat) :=
  [(CF.op, op.code), (VF.subop, sub), (⟨152, 4⟩, d), (⟨280, 4⟩, a), (⟨408, 4⟩, b)]
def vecOps : List (VOp × Nat × Nat × Nat × Nat) :=
  [(.add, 7, 7, 7, 0), (.sub, 5, 5, 5, 0), (.mul, 6, 6, 6, 0), (.fma, 9, 9, 9, 0), (.max, 7, 0, 1, 0), (.min, 2, 2, 2, 0), (.cmp, 2, 7, 7, 5),
   (.sel, 7, 2, 7, 0), (.cvt, 0, 7, 15, 0), (.div, 7, 7, 7, 0), (.sqrt, 7, 7, 15, 0), (.func, 7, 7, 15, 7), (.red, 7, 7, 15, 3), (.dact, 7, 7, 7, 1),
   (.dpre, 7, 7, 7, 1), (.ladd, 8, 8, 8, 0), (.lred, 8, 8, 15, 0), (.lcvt, 7, 8, 15, 0), (.split, 2, 9, 11, 0)]
theorem test_vectorIssue : (vecOps.all fun x => let l := vecCmd x.1 x.2.1 x.2.2.1 x.2.2.2.1 x.2.2.2.2
    let d := unitDev (queued l)
    headIs d 1 l && d.vectorTurn 0 0 && decide ((cmdOf l).f CF.op = x.1.code) && decide (vecVerdict d 0 0 x.1 (cmdOf l) = .accept)) = true := by decide +kernel
theorem test_vectorReject : (vecOps.all fun x => let l := vecCmd x.1 12 7 7 0
    let d := unitDev (queued l)
    headIs d 1 l && d.vectorTurn 0 0 && decide (vecVerdict d 0 0 x.1 (cmdOf l) = .reject rDescriptor)) = true := by decide +kernel
theorem test_vectorComplete : let v : VecExec := ⟨0, cmdOf [], [], 0, 0, 0, 5⟩
    let d := atFive (unitDev {} { vec := some v })
    d.stores = [] ∧ (d.core 0).vec = some v ∧ v.due ≤ d.cycle 0 := by decide +kernel

def movCmd (o : MOp) : List (Bf × Nat) := (CF.op, o.code) :: match o with
  | .send => [(MF.ring, 9)]
  | .recv => [(MF.ring, 9)]
  | .copy => [(MF.auxAddr, 64)]
  | .gather => [(MF.auxAddr, 64)]
  | .scatter => [(MF.auxAddr, 64)]
  | .acfload => [(MF.group, 2), (MF.segBase, 1)]
  | _ => []
/-- A device on which each mover command is accepted: a ring, an extent, an open group, and the record of a group image at window offset 0. -/
def movDev (l : List (Bf × Nat)) (k : Nat := 1) : Dev := mapped 0 [(XF.kind, 1), (XF.state, 3)] (ringDev 9 [(RF.kind, k), (RF.slotsLog, 2), (RF.slotLog, 7),
  (RF.peerSlotsLog, 2), (RF.peerSlotLog, 7), (RF.pMover, 1), (RF.produced, 1)]
  (unitDev (queued l) { groups := [(0, { st := .isOpen, count := 1 })], spd := bWrite 0 (leBytes 4 (16 + 2 ^ 9 + 2 ^ 11)) [] }))
/-- The message of slot 0 of ring 9 is visible. -/
def movMem : Mem := [⟨24, 1⟩]
def movers : List MOp := [.copy, .load, .store, .gather, .scatter, .send, .recv, .acfsave, .acfload]
theorem test_moverIssue : (movers.all fun o => let l := movCmd o
    let d := movDev l
    headIs d 2 l && moverTurn movMem d 0 0 && decide ((cmdOf l).f CF.op = o.code) && decide (moverVerdict movMem d 0 0 0 o (cmdOf l) = .accept)) = true := by decide +kernel
theorem test_moverReject : (movers.all fun o => let l := (MF.res0, 1) :: movCmd o
    let d := movDev l
    headIs d 2 l && moverTurn movMem d 0 0 && decide (moverVerdict movMem d 0 0 0 o (cmdOf l) = .reject rDescriptor)) = true := by decide +kernel
/-- The head of the mover queue and the ring of RingsHaveRoom: an accepted MSEND of a MESSAGE ring and of a SEND ring; full rings. -/
theorem test_ringsHaveRoom : let l := movCmd .send
    ((moverTurn movMem (movDev l 1) 0 0 && moverTurn movMem (movDev l 2) 0 0) = true ∧ moverVerdict movMem (movDev l 2) 0 0 0 .send (cmdOf l) = .accept ∧
    (movDev l 1).bufferOk 9 = true ∧ (movDev l 1).rf ((cmdOf l).f MF.ring) RF.error = 0) ∧
    (ringDev 9 [(RF.produced, 4)] (movDev l 1)).ringRoom 9 = false ∧ (ringDev 9 [(RF.produced, 4)] (movDev l 2)).ringRoom 9 = false ∧
    (ringDev 9 [(RF.produced, 3)] (movDev l 1)).ringRoom 9 = true := by decide +kernel
/-- A mover command in flight. -/
def flightDev (o : MOp) : Dev := unitDev {} { mover := [{ slot := 0, cmd := cmdOf (movCmd o) }] }
theorem test_moverEnds : (movers.all fun o => let d := flightDev o
    decide (d.stores = []) && decide ((d.core 0).oldestMove 0 = some { slot := 0, cmd := cmdOf (movCmd o) }) && (d.slotCtx 0 0).isSome &&
    decide (MOp.ofCode ((cmdOf (movCmd o)).f CF.op) = some o)) = true := by decide +kernel
/-- With the extent mapped every command can complete, and its lines are sound; without it an index fails. -/
theorem test_moverCodes : (movers.all fun o => let x : MovExec := { slot := 0, cmd := cmdOf (movCmd o) }
    let d := mapped 0 [(XF.kind, 1), (XF.state, 3)] (flightDev o)
    canComplete movMem d 0 0 x o && errorHolds movMem d 0 0 x o 5 0 && decide (x.due ≤ d.cycle 0) && (d.badIndex 0 0 x o).isNone &&
    (d.moveRanges 0 0 x o).all fun r => !d.readFails r.1 r.2 && !d.badWrite r.1 r.2) = true ∧
    (let x : MovExec := { slot := 0, cmd := cmdOf (movCmd .gather) }
    errorHolds movMem (flightDev .gather) 0 0 x .gather 1 0 = true ∧ errorHolds movMem (flightDev .gather) 0 0 x .gather 2 0 = true) ∧
    errorHolds movMem (flightDev .load) 0 0 { slot := 0, cmd := cmdOf (movCmd .load) } .load 2 0 = true ∧
    errorHolds movMem (flightDev .send) 0 0 { slot := 0, cmd := cmdOf (movCmd .send), doomed := true } .send 4 0 = true := by decide +kernel
/-- The ring of an accepted message command has an error; a ring command waits for its turn. -/
theorem test_moverRings : let d := ringDev 9 [(RF.error, 1)] (movDev (movCmd .send))
    let r := movDev (movCmd .recv)
    (d.rf ((cmdOf (movCmd .send)).f MF.ring) RF.error = 1 ∧ d.bufferOk 9 = true ∧ moverVerdict movMem d 0 0 0 .send (cmdOf (movCmd .send)) = .accept) ∧
    r.rf 9 RF.error = 0 ∧ r.bufferOk 9 = true ∧ moverVerdict movMem (ringDev 9 [(RF.produced, 4)] (movDev (movCmd .send))) 0 0 0 .send (cmdOf (movCmd .send)) = .wait := by
  decide +kernel

/-! Ports, flits, packets -/

def portDev (st : Nat) (x : Port := {}) (d : Dev := awake) : Dev := { d.setFld F.PL_STATUS_STATE st 15 with ports := [(15, x)] }
def late (n : Nat) (d : Dev) : Dev := { d with power := { d.power with raw := n } }
def lanes16 : List (Fin 16) := (List.range 16).map fun i => Fin.ofNat 16 i
theorem test_portsTrain : let d := late 20000000 (portDev 1)
    (d.stores = [] ∧ d.fabricOn = true ∧ d.portState 15 = 1 ∧ laneSet false lanes16 = some 1 ∧ laneSet true (lanes16.drop 8) = some 3 ∧ laneSet false [0] = none ∧
    (d.port 15).since + 20000000 ≤ d.now) ∧ (portDev 2).portState 15 = 2 ∧ (portDev 2).fld F.FAB_CTL_MODE = 0 ∧
    (late 100000000 ((portDev 4 { dark := true }).setFld F.PL_CTL_EN 1 15)).flag F.PL_CTL_EN 15 = true ∧
    (portDev 4 { dark := true }).portState 15 = 4 ∧ ((portDev 4 { dark := true }).port 15).dark = true ∧ (portDev 3).portState 15 = 3 ∧ (portDev 3).fabricOn = true := by
  decide +kernel
/-- Some digest equals the one of the share registers. -/
theorem test_shareDigest (d : Dev) (n : PortId) : ∃ x : BitVec 64, x.toNat = d.shareDigest n := by
  refine ⟨BitVec.ofNat 64 (d.shareDigest n), ?_⟩
  have hb : ∀ l : List Byte, leNat l < 256 ^ l.length := by
    intro l
    induction l with
    | nil => decide
    | cons b r ih =>
      have := b.isLt
      rw [leNat, List.length_cons, Nat.pow_succ]
      omega
  have h : d.shareDigest n < 2 ^ 64 := by
    refine Nat.lt_of_lt_of_le (hb _) (Nat.le_trans (Nat.pow_le_pow_right (by decide) (List.length_take_le _ _)) (by decide))
  rw [BitVec.toNat_ofNat, Nat.mod_eq_of_lt h]
def goodFlit (kind : BitVec 3) (seq : BitVec 16) : Flit := sealFlit { idleFlit with fkind := kind, fseq := seq }
def wrongFlit (seq : BitVec 16) : Flit := { goodFlit 1 seq with crc := 0 }
theorem test_flitReceive : ([goodFlit 0 0, goodFlit 1 0, goodFlit 1 5].all fun f => decide (f.crc.toNat = crc32c (flitCovered f))) = true ∧
    ([wrongFlit 0, wrongFlit 7].all fun f => decide (f.crc.toNat ≠ crc32c (flitCovered f))) = true ∧ (portDev 3).portState 15 = 3 ∧ ((portDev 3).port 15).rxSeq = 0 ∧
    ((portDev 3).port 15).discards < 15 ∧ 15 ≤ ((portDev 3 { discards := 15 }).port 15).discards := by decide +kernel
/-- Whether the codeword of a flit with a wrong CRC was uncorrectable is a free value: where it was not, the port stays UP;
where it was, the count of this millisecond decides. -/
theorem wrong_of {d : Dev} {n : PortId} (h : (Config.fresh (d.count F.PL_ERR_COUNT_CRC_FAIL 1 n.val).freeCtr).getLsbD 0 = false) :
    badFlit [] n d = (d.count F.PL_ERR_COUNT_CRC_FAIL 1 n.val).draw.2 := if_neg (by
  rw [← Bool.not_eq_true] at h
  exact h)
theorem test_codewords (h : (Config.fresh ((portDev 3).count F.PL_ERR_COUNT_CRC_FAIL 1 (15 : PortId).val).freeCtr).getLsbD 0 = false) :
    (badFlit [] 15 (portDev 3)).portState 15 = 3 := by
  rw [wrong_of h]
  decide +kernel
theorem test_uncorrectable : let spans := fun (x : Port) => let c := (portDev 3 x).count F.PL_ERR_COUNT_CRC_FAIL 1 15
    (c.now :: (c.port 15).uncorr.filter fun t => decide (c.now < t + 1000000)).length
    spans {} < 64 ∧ 64 ≤ spans { uncorr := List.replicate 63 0 } := by decide +kernel
def aSystem : OutPacket := ⟨{ aPacket with pkind := 3 }, 0, 1, packetFlits aPacket 0 1, none, 0⟩
def sendPort (n : Nat) : Port := { out := [aSystem], credits := [(1, 64)], system := List.replicate n true }
theorem test_flitSend : ((sendPort 3).ready 0 = some aSystem ∧ aSystem.flits.length = 1 ∧ ((sendPort 3).system.filter fun b => b).length < 4) ∧
    4 ≤ ((sendPort 4).system.filter fun b => b).length ∧ (sendPort 4).nextSet = none ∧ ({} : Port).ready 0 = none ∧ ({ resend := [idleFlit] } : Port).resend = [idleFlit] ∧
    ((portDev 3 (sendPort 3)).port 15) = sendPort 3 := by decide +kernel
def rooted (d : Dev) : Dev := d.setFld F.FAB_TIME_SYNC_ROOT 1
def aBeacon : Beacon := ⟨1, 2, 0, 3, 10, 20, 30, 36⟩
theorem test_beacons : let d := late 100000 (portDev 3 { hops := 3, credits := [(0, 64)] })
    let e := fun (d : Dev) => ((((d.modPort 15 fun x => { x with heardAt := d.now, hops := 3 }).applyShare 15 0).setFld F.PL_DELAY_DELAY 2 15).chooseTime)
    d.portState 15 = 3 ∧ (d.port 15).sentAt + 100000 ≤ d.now ∧ (d.port 15).beaconSlot = true ∧ packetFlits (d.beaconPacket 15) 0 0 ≠ [] ∧ (e d).timePort = some 15 ∧ (e d).flag F.FAB_TIME_SYNC_ROOT = false ∧
    (e (rooted d)).flag F.FAB_TIME_SYNC_ROOT = true ∧ aBeacon.hops.toNat = 3 ∧
    (d.port 15).heardAt + 1000000 ≤ (late 1000000 d).now := by decide +kernel

def routeDev (e : Nat) : Dev := { portDev 3 with egress := [{ aPacket with dst := 9 }], routes := [(9, BitVec.ofNat 64 e)] }
def toNine : Packet := { aPacket with dst := 9 }
/-- The route of device 9 by port 15, by port 14 that is not UP, and none. -/
theorem test_packetsGo : let u := routeDev (TF.valid.put 1 (TF.primary.put (2 ^ 15) 0))
    let h := routeDev (TF.valid.put 1 (TF.primary.put (2 ^ 14) 0))
    u.route toNine 0 = .out 15 0 ∧ toNine ∈ u.egress ∧ h.route toNine 0 = .hold ∧ (routeDev 0).route toNine 0 = .noRoute ∧ (u.port 15).setOf toNine = none ∧
    ({ share := [(31, BitVec.ofNat 64 (SF.weight.put 1 0))] } : Port).setOf toNine = some 32 ∧ toNine.dst.toNat ≠ u.deviceId ∧
    aPacket.dst.toNat = awake.deviceId ∧ (∀ q ∈ awake.inbox, q.2.pkind ≠ 4) ∧ aPacket ∈ ({ awake with egress := [aPacket] } : Dev).egress := by decide +kernel
def flowDev (next : Nat) (held : List EarlyPacket := []) : Dev := { awake with flowIn := [(flowKey 0 0, ⟨next, held, false⟩)] }
def memReset : ResetRun := { domain := 4, core := 0, startAt := 0 }
theorem test_flowArrives : (([0, 1, 2].all fun k => decide ({ aPacket with pkind := k }.pkind.toNat = k.toNat)) = true ∧ awake.memoryDown = false ∧
    ({ awake with power := { awake.power with running := [memReset] } } : Dev).memoryDown = true) ∧ (let ahead := fun (n : Nat) => (aPacket.flowSeq.toNat + 2 ^ 32 - n) % 2 ^ 32
    ahead 0 = 0 ∧ 2 ^ 31 ≤ ahead 1 ∧ ahead (2 ^ 32 - 1) = 1 ∧ ahead (2 ^ 31) = 2 ^ 31) ∧ tFind (flowKey 0 0) (flowDev 1).flowIn ≠ none ∧
    (flowDev (2 ^ 32 - 1)).reorderBytes ((flowDev 0).arrivalDie aPacket) + 32 + aPacket.payload.length ≤ 1048576 := by decide +kernel

/-! Arrival, flows, partition events, steps -/

def msgPacket (data : Nat) : Packet := { aPacket with ring := 9, kindData := BitVec.ofNat 64 data }
def credit (n : Nat) : Nat := KF.credit.put 1 n
/-- Ring 9 takes packets from device 0: a MESSAGE ring of 4 slots of 128 B in extent 0, and a SEND ring with PRODUCED 1. -/
def inRing : Dev := mapped 0 [(XF.kind, 1), (XF.state, 3)] (ringDev 9 [(RF.kind, 1), (RF.remote, 1), (RF.slotsLog, 2), (RF.slotLog, 7)])
def outRing : Dev := ringDev 9 [(RF.kind, 2), (RF.produced, 1)]
/-- An uncorrectable line. -/
def lostLine (l : Nat) : Ecc := { wrong := [(l, BitVec.allOnes 80)] }
theorem test_deliver : (inRing.rf (msgPacket 0).ring.toNat RF.error ≠ 1 ∧ (ringDev 9 [(RF.error, 1)]).rf 9 RF.error = 1 ∧ awake.fromPeer 9 (msgPacket 0) = false) ∧
    outRing.fromPeer 9 (msgPacket (credit 1)) = true ∧ KF.credit.get (msgPacket (credit 1)).kindData.toNat = 1 ∧
    (let beyond := fun n => (outRing.rf 9 RF.produced + 2 ^ 32 - KF.seq.get (msgPacket (credit n)).kindData.toNat) % 2 ^ 32
    beyond 1 < 2 ^ 31 ∧ 2 ^ 31 ≤ beyond 2) ∧ inRing.fromPeer 9 (msgPacket (KF.len.put 64 0)) = true ∧
    messageCause inRing 9 (msgPacket (KF.len.put 64 0)) = none ∧ messageCut inRing 9 (msgPacket (KF.len.put 64 0)) = none ∧
    messageCut { inRing with ecc := lostLine 1 } 9 (msgPacket (KF.len.put 64 0)) = some (64, 1) ∧ messageCause inRing 9 (msgPacket 5) = some 1 ∧
    messageCause inRing 9 (msgPacket (KF.len.put 65 0)) = some 3 := by decide +kernel
theorem test_bulk : let d := mapped 0 [(XF.kind, 1), (XF.state, 3)]
    (extentsOf 64 1).all d.bulkWrites = true ∧ (extentsOf 64 1).all awake.bulkWrites = false ∧ d.badWrite 64 1 = false ∧ d.shardAt 64 = none ∧ 64 + 1 ≤ 2 ^ 41 ∧
    (extentsOf (2 ^ 41 - 64) 64).all awake.bulkWrites = false ∧ ({ d with ecc := lostLine 1 } : Dev).badWrite 64 1 = true ∧
    (tGet {} (flowDev 0).flowIn (flowKey 0 0)).refused = false ∧ (tGet {} ({ awake with flowIn := [(flowKey 0 0, { refused := true })] } : Dev).flowIn (flowKey 0 0)).refused = true ∧
    d.xf (extentOf 64) XF.kind ≠ 4 := by decide +kernel
theorem test_flowFailed : let f : FlowIn := ⟨0, [⟨aPacket, 0, 0⟩], false⟩
    let d := late 5000000 (flowDev 0 f.held)
    tFind (flowKey 0 0) d.flowIn = some f ∧ (f.held.find? fun h => decide (h.at_ + 5000000 ≤ d.now)) = some ⟨aPacket, 0, 0⟩ := by decide +kernel
theorem test_ringCredit : let d := ringDev 9 [(RF.kind, 1), (RF.remote, 1), (RF.slotsLog, 2), (RF.consumed, 1)]
    let adv := (d.rf 9 RF.consumed + 2 ^ 32 - (d.ring 9).returned) % 2 ^ 32
    d.rf 9 RF.kind = 1 ∧ d.rf 9 RF.remote = 1 ∧ adv ≠ 0 ∧ 2 ^ d.rf 9 RF.slotsLog ≤ 4 * adv := by decide +kernel
theorem test_turnScoped : let d := { late 10000000 (ringDev 9 [(RF.kind, 1), (RF.owner, 5), (RF.turnScoped, 1), (RF.produced, 1)] (part 1)) with stillSince := [(5, 0)] }
    jobParts (jobMem 5) d 1 = [5] ∧ tFind 5 d.stillSince = some 0 ∧ 0 + 10000000 ≤ d.now ∧ (d.job 1).failed = false ∧ d.hubOn = true ∧
    ringsDrained (jobMem 5) d 1 = false := by decide +kernel
/-- A SHADOW extent that is VALID and unsent. -/
theorem test_mirror : let d := { mapped 0 [(XF.kind, 3), (XF.owner, 5), (XF.state, 3), (XF.member, 1)] with unsent := [0] }
    partJob (jobMem 5) d (partOf (d.xf 0 XF.owner)) = 1 ∧ d.xf 0 XF.kind = 3 ∧ d.xf 0 XF.state = 3 ∧ d.isLive 0 = false ∧ 0 ∈ d.unsent ∧
    d.extentBusy 0 = false ∧ d.fabricOn = true ∧ d.badRead 0 extentSize = false ∧ ({ d with ecc := lostLine 7 } : Dev).badRead 0 extentSize = true ∧
    (awake.setFld F.BNK_STATUS_ROLE 5).podOfOne = true := by decide +kernel
/-- The devices of a job and the buddies that installation software gives are free values: where device 7 comes after this one, it
is the buddy. -/
theorem test_buddy (h : Config.jobDevices 1 = [0, 7]) (hb : Config.buddyMap 1 0 = none) : awake.buddy 1 = some 7 := by
  have e : awake.jobDevices 1 = [0, 7] := by
    unfold Dev.jobDevices
    rw [if_neg (by decide +kernel), h]
    decide +kernel
  unfold Dev.buddy
  rw [if_neg (by decide +kernel)]
  unfold Dev.buddyOf
  rw [e, h, show awake.deviceId = 0 by decide +kernel]
  dsimp only [List.findIdx?, List.findIdx?.go]
  rw [if_pos (by decide)]
  dsimp only
  rw [show (([(0 : DeviceId), 7])[0]?.map fun x => x.toNat).getD 0 = 0 by rfl, hb]
  decide +kernel

def recallCmd : PageCmd := ⟨fw, partPage 5, 6, 0, 0, 0, 0, 0, 0, some 0, false⟩
theorem test_partEvents : let d := { part 2 with plainHold := [5] }
    let e := { late 10000000 (core0 { owner := some 6, home := some 5 } (part 3)) with pageCmds := [recallCmd] }
    (d.pstate 5 = 2 ∧ (5 : PartId) ∈ d.plainHold ∧ d.partExecutes 5 = false) ∧ e.recallOf 5 = some (0, 6, 10000000) ∧ 10000000 ≤ e.now ∧ e.isServing 6 = false ∧
    (e.setFld F.PART_CONFIG_SERVING 1 6).isServing 6 = true := by decide +kernel
/-- Partition 5 MOVING to device 1, at a stage. -/
def moving (x : MoveOut) : Dev := { mapped 0 [(XF.kind, 1), (XF.owner, 5), (XF.state, 3)] (part 4) with moves := [(5, x)] }
theorem test_partMove : let still := fun (d : Dev) => (d.ownedCores 5).any fun c => (d.core c).plan.isSome || (d.core c).swap.isSome
    let bad := fun (d : Dev) => (d.ownedExtents 5).find? fun e => d.readFails (e * extentSize) extentSize
    (awake.hubOn = true ∧ (0 : DeviceId).toNat = awake.deviceId ∧ awake.pstate 5 = 0 ∧ (part 3).pstate 5 = 3 ∧ (part 4).pstate 5 = 4) ∧
    (1 : DeviceId).toNat ≠ awake.deviceId ∧ tFind 5 (part 4).moves = none ∧ jobHeld [] (part 3) 5 = true ∧
    jobHeld (jobMem 5 ++ jobMem 6) (part 3 ((awake.setFld F.PART_STATUS_STATE 1 6))) 5 = false ∧
    tFind 5 (moving { target := 1 }).moves = some { target := 1 } ∧ still (moving { target := 1 }) = false ∧
    still (core0 { owner := some 5, home := some 5, plan := some .empty } (moving { target := 1 })) = true ∧ bad (moving { target := 1 }) = none ∧
    bad { moving { target := 1 } with ecc := lostLine 7 } = some 0 ∧ ({ target := 1, stage := 1, waiting := [64] } : MoveOut).waiting ≠ [] := by decide +kernel
def aShard (n : Nat) : Shard := { num := 0, published := false, ext := 0, count := n, qp := 9, rkey := 0, remote := 0, digests := 0 }
def aLoader : GenLoad := ⟨7, 1, 0, false, [aShard 1]⟩
def loadDev : Dev := mapped 0 [(XF.kind, 2), (XF.owner, 5), (XF.state, 2)] (ringDev 9 [(RF.kind, 3), (RF.owner, 5), (RF.qstate, 3)]
  { genDev 1 with loads := [(loadKey 5 2, aLoader)] })
def linked (d : Dev) : Dev := d.setFld F.HOST_STATUS_LINK 1
theorem test_genLoads : let d := linked loadDev
    d.loadingShard 5 0 = some (2, aLoader, aShard 1) ∧ d.readShard 5 0 = some (2, aLoader, aShard 1) ∧ (aShard 1).lastAt + 1000000000 * d.fld F.GEN_LOADCFG_TIMEOUT 5 ≤ (late 1000000000000 d).now ∧
    (aShard 1).reading = false ∧ (aShard 1).published = false ∧ (aShard 1).count ≠ 0 ∧ 0 % aLoader.group = aLoader.member ∧ (∀ j < 1, d.xf (0 + j) XF.state = 2) ∧
    d.hostOn = true ∧ d.memoryDown = false ∧ d.ringMine 5 9 = true ∧ d.rf 9 RF.kind = 3 ∧ d.rf 9 RF.qstate = 3 ∧ (d.qp 9).read = none := by decide +kernel
theorem test_oldGen : let d := { (late 1000000 awake).setFld F.SEQ_POLICY_OLD_GEN_LIMIT 1 5 with serving := [(5, { castled := [(7, 0)] })] }
    (d.serve 5).castled = [(7, 0)] ∧ (d.serve 5).oldDue = [] ∧ 0 < d.fld F.SEQ_POLICY_OLD_GEN_LIMIT 5 ∧ 0 + 1000000 * d.fld F.SEQ_POLICY_OLD_GEN_LIMIT 5 ≤ d.now ∧
    (d.serve 5).castled.all (fun g => !(d.setFld F.SEQ_POLICY_OLD_GEN_LIMIT 0 5).oldLimit 5 g.1) = true := by decide +kernel

/-- A partition that serves: entries 0 and 1, areas in extents 0 and 1, pages of 16 tokens, its rings 8 (sequences) and 9 (steps). -/
def serveDev : Dev :=
  let d := mapped 0 [(XF.kind, 1), (XF.owner, 5), (XF.state, 3)] (mapped 1 [(XF.kind, 1), (XF.owner, 5), (XF.state, 3)] (part 1))
  let ring := fun (r : Nat) (l : List (Bf × Nat)) (d : Dev) => ringDev r ([(RF.kind, 1), (RF.owner, 5), (RF.slotsLog, 2), (RF.slotLog, 7)] ++ l) d
  let d := ring 8 [(RF.consumer, 1)] (ring 9 [(RF.pHub, 1)] d)
  [(F.PART_CONFIG_SERVING, 1), (F.PART_RINGS_VALID, 6), (F.PART_RINGS_SEQ_RING, 8), (F.PART_RINGS_STEP_RING, 9), (F.SEQ_RANGE_COUNT, 2),
   (F.SEQ_AREA_STEP_EXTENT, 1), (F.SEQ_STEP_PAGE_TOKENS, 16)].foldl (fun d x => d.setFld x.1 x.2 5) d
theorem test_stepCompose : let d := serveDev
    (d.isServing 5 = true ∧ d.pstate 5 = 1 ∧ d.hubRing 5 F.PART_RINGS_SEQ_RING 1 = some 8 ∧ d.rf 8 RF.consumer = 1 ∧ d.bufferOk 8 = true ∧
    d.hubRing 5 F.PART_RINGS_STEP_RING 2 = some 9) ∧ (d.serve 5).step = none ∧ d.areasOk 5 = true ∧ d.pageTokens 5 ≠ 0 ∧ d.rf 9 RF.pHub = 1 ∧
    d.ringRoom 9 = true ∧ d.bufferOk 9 = true ∧ d.ringFill 8 = 0 ∧ d.badWrite extentSize 1048576 = false ∧
    ({ d with ecc := { failing := [extentSize / 64] } } : Dev).badWrite extentSize 1048576 = true ∧ d.badWrite (d.slotAddr 9 0 + 64) 8 = false ∧
    (ringDev 9 [(RF.bufLine, 32 * extentSize)] d).bufferOk 9 = false ∧ (d.setFld F.PART_RINGS_VALID 4 5).hubRing 5 F.PART_RINGS_SEQ_RING 1 = none := by decide +kernel
/-- A sequence command of op and entry; a JOIN of a length. -/
def seqCmd (op i n : Nat) : Nat := CR.op.put op (CR.seq.put i (CR.len.put n 0))
theorem test_seqJoin : let d := serveDev
    (CR.op.get (seqCmd 1 1 16) = 1 ∧ CR.seq.get (seqCmd 1 1 16) = 1 ∧ d.seqBase 5 = 0 ∧ d.seqCount 5 = 2 ∧ d.sq 1 QF.state = 0 ∧ CR.len.get (seqCmd 1 1 16) = 16) ∧
    d.pagesFor 5 (4096 * 16) = 4096 ∧ 4096 < d.pagesFor 5 (4096 * 16 + 1) ∧ d.seqBase 5 + d.seqCount 5 ≤ CR.seq.get (seqCmd 1 2 16) ∧
    CR.len.get (seqCmd 1 1 0) = 0 ∧ CR.op.get (seqCmd 5 0 0) = 5 ∧ CR.op.get (seqCmd 0 0 0) = 0 := by decide +kernel
theorem test_seqCommands : let d := { serveDev.setSq 1 QF.state 2 with serving := [(5, { step := some (3, []) })] }
    d.sq 1 QF.state ≠ 0 ∧ (d.serve 5).step = some (3, []) ∧ CR.step.get (CR.op.put 4 (CR.step.put 3 0)) = 3 ∧ CR.op.get (CR.op.put 4 (CR.step.put 3 0)) = 4 ∧
    CR.op.get (seqCmd 2 1 0) = 2 ∧ CR.op.get (seqCmd 3 1 0) = 3 ∧ d.seqBase 5 ≤ 1 ∧ 1 < d.seqBase 5 + d.seqCount 5 := by decide +kernel

/-! Requests, sessions, RDMA, the host port -/

def hostDev (d : Dev := awake) : Dev := linked (d.setFld F.HOST_CTL_EN 1)
def aSession (held : Table HeldReq := []) (cache : Table Reply := []) (next : BitVec 64 := 0) : Session :=
  { port := .host, scope := .device, key := 0, ring := 0, next, held, cache }
def opened (x : Session) (d : Dev := hostDev) : Dev := { d with sessions := [(1, x)] }
def request (len : BitVec 16) (seq : BitVec 64 := 0) (ok : Bool := true) : ReqHead := ⟨.host, {}, 0x4443, 1, 3, ok, 1, seq, len, true⟩
/-- A frame is counted; what it counts beyond its data is a free value. -/
theorem counted (d : Dev) {n : Nat} (h : n ≠ 0) : d.countFrame false n = ({ d with freeCtr := d.freeCtr + 1 } : Dev).setFld F.HOST_BYTES_RX_BYTES
    (min (d.fld F.HOST_BYTES_RX_BYTES + (n + (Config.fresh d.freeCtr).toNat % (9217 - min n 9216))) (2 ^ F.HOST_BYTES_RX_BYTES.width - 1)) := by
  unfold Dev.countFrame Dev.draw Dev.count
  dsimp only
  rw [if_neg (by omega)]
  rfl
theorem test_requests : (hostDev.portServes .host = true ∧ hostDev.frameTaken .host {} = true ∧ hostDev.frameTaken .host { vlan := 5 } = false ∧ asleep.portServes .host = false ∧ tFind 1 ((opened aSession).countFrame false 72).sessions = some aSession ∧
    tFind 1 (hostDev.countFrame false 72).sessions = none) ∧ (request 40 0 false).tagOk = false ∧ (request 40).tagOk = true ∧
    ((request 40 63).seq - aSession.next).toNat = 63 ∧ tFind 63 aSession.held = none ∧ (aSession.next - (request 40 (-64)).seq).toNat = 64 ∧
    63 < ((request 40 (-64)).seq - aSession.next).toNat ∧ tFind (2 ^ 64 - 64) (aSession [] [(2 ^ 64 - 64, ⟨0, 0, []⟩)]).cache = some ⟨0, 0, []⟩ ∧
    64 < (aSession.next - (request 40 64).seq).toNat ∧ 63 < ((request 40 64).seq - aSession.next).toNat ∧ hostDev.hguAlone = false := by
  rw [counted _ (by decide), counted _ (by decide)]
  decide +kernel
theorem test_requestHeld : let q : HeldReq := ⟨1, request 40 1, none, 0⟩
    tFind 1 (aSession [(1, q)]).held ≠ none ∧ ((request 40 1).seq - (aSession [(1, q)]).next).toNat = 1 ∧ (request 40).length.toNat = 40 ∧
    (request 41).length.toNat ≠ 40 := by decide +kernel
def dcp (op : BitVec 8) (a : BitVec 64) (n : BitVec 32) (l : List Byte := []) : DcpOp := ⟨op, a, n, 9, l⟩
def memDev : Dev := mapped 0 [(XF.kind, 1), (XF.state, 3)] hostDev
theorem test_memRequests : (sized (request 40) (dcp 4 0 1) 1 4096 0 = true ∧ sized (request 40) (dcp 4 0 4096) 1 4096 0 = true ∧ memDev.memStatus .device 0 4096 false = 0) ∧
    memDev.memStatus .device (2 ^ 41) 1 false = 2 ∧ ({ memDev with ecc := lostLine 0 } : Dev).memStatus .device 0 1 false = 7 ∧ ({ memDev with ecc := lostLine 0 } : Dev).memStatus .device 0 1 true = 7 ∧
    sized (request 41) (dcp 5 0 1 [7]) 1 8064 1 = true ∧ memDev.memStatus .device 0 1 true = 0 ∧ memDev.memStatus (.partition 5) 0 1 true ≠ 0 ∧
    memDev.memStatus (.partition 5) 0 1 true ≠ 7 ∧ sized (request 40) (dcp 2 0 1000) 1 1000 0 = true ∧ sized (request 40) (dcp 2 0 1001) 1 1000 0 = false ∧
    sized (request 48) (dcp 3 0 1 (List.replicate 8 0)) 1 1000 8 = true := by decide +kernel
def bellRing : Dev := ringDev 9 [(RF.kind, 1), (RF.pHost, 1), (RF.consumer, 2), (RF.slotsLog, 2), (RF.slotLog, 7), (RF.produced, 1)] memDev
theorem test_ringRequests : (let d := bellRing
    d.memoryDown = false ∧ d.hguAlone = false ∧ d.ringInScope .device 9 = true ∧ d.rf 9 RF.kind = 1 ∧ d.rf 9 RF.pHost = 1 ∧
    sized (request 40) (dcp 6 1 64) 1 (d.slotCapacity 9) 0 = true ∧ (dcp 6 1 64).addr.toNat % 2 ^ 32 = d.rf 9 RF.produced ∧ d.ringRoom 9 = true ∧ d.rf 9 RF.error ≠ 1 ∧
    d.bufferOk 9 = true ∧ d.rf 9 RF.consumer = 2 ∧ ringVisible movMem d 9 = true ∧ sized (request 40) (dcp 7 0 0) 0 (2 ^ 32) 0 = true ∧
    (dcp 7 0 0).addr.toNat % 2 ^ 32 = d.rf 9 RF.consumed) ∧ awake.ringInScope (.partition 5) 9 = false ∧ sized (request 40) (dcp 8 1 1) 0 1 0 = true := by decide +kernel
def openAt (p : NetPort) (scope : BitVec 64) (key : BitVec 16) : OpenPacket := ⟨p, {}, 0x4443, 1, 0, 0, scope, 9, key, 0, true, true⟩
theorem test_opens : let d := hostDev (ringDev 9 [(RF.kind, 4), (RF.owner, 5)] { part 1 with flash := (posDev 2 (List.replicate 32 0 ++ [1, 0])).flash })
    d.openRefusal (openAt .host 0xFF 0) = none ∧ d.openRefusal (openAt .host 5 0) = none ∧ d.openRefusal (openAt .host 6 0) = some 4 ∧
    d.openRefusal (openAt .host 64 0) = some 4 ∧ d.openRefusal (openAt .host 0xFF 1) = some 1 ∧
    d.openRefusal { openAt .host 0xFF 0 with decapsOk := false } = some 2 ∧ d.portServes .host = true ∧ d.frameTaken .host {} = true := by decide +kernel
theorem test_sessionsEnd : let x : Session := { aSession with subs := [(9, 0)], heard := [(9, 0)] }
    let d := late 1000000000000000 (opened x bellRing)
    tFind 1 d.sessions = some x ∧ x.lastAt + 1000000000 * d.fld F.HOST_DCP_IDLE ≤ d.now ∧ tFind 9 x.subs = some 0 ∧ d.ringCounts 9 ≠ 0 ∧
    tFind 9 x.heard = some 0 ∧ 0 + 1000 * d.fld F.HOST_DCP_NOTIFY_GAP ≤ d.now ∧ d.portOn = true ∧
    (opened x bellRing).now < 0 + 1000 * (opened x bellRing).fld F.HOST_DCP_NOTIFY_GAP := by decide +kernel
def roce (psn : BitVec 24) (a : BitVec 64) (key : BitVec 32) (l : List Byte) (place : MsgPlace := .only) (len : BitVec 32 := 1) : RocePacket :=
  ⟨{}, 0x800009, psn, place, a, key, len, l, false⟩
/-- Queue pair 9 receives for partition 5 with its key 7 into ring 10, with a path MTU of 128 bytes. -/
def qpDev (x : QpRun := {}) : Dev := { hostDev ((mapped 0 [(XF.kind, 1), (XF.owner, 5), (XF.state, 3)] (ringDev 9 [(RF.kind, 3), (RF.owner, 5), (RF.qstate, 2), (RF.recvEn, 1), (RF.recvRing, 10)]
  (ringDev 10 [(RF.kind, 1), (RF.owner, 5), (RF.pHost, 1), (RF.slotsLog, 2), (RF.slotLog, 7)]))).setFld F.HOST_RKEY_KEY 7 0 5) with qps := [(9, x)] }
def openMsg : QpMsg := { send := false, addr := 128, rkey := 7, left := 1 }
/-- A packet that fits and ends a WRITE. -/
def fitsEnd (d : Dev) (p : RocePacket) : Bool := d.packetFits 9 false p && decide (p.data.length = (d.writeMsg 9 p).left)
theorem test_rdma : (let d := qpDev.countFrame false 1; let go := (qpDev { msg := some openMsg }).countFrame false 1
    let cut : Dev := { d with ecc := lostLine 0 }
    qpDev.hostOn = true ∧ qpDev.frameTaken .host {} = true ∧ qpDev.memoryDown = false ∧ qpDev.qpOf (roce 0 0 7 [1]).qpn.toNat = some 9 ∧ qpDev.rf 9 RF.qstate = 2 ∧
    (0 + 2 ^ 24 - d.rf 9 RF.recvPsn) % 2 ^ 24 = 0 ∧ fitsEnd d (roce 0 0 7 [1]) = true ∧ fitsEnd d (roce 0 0 7 [1, 1]) = false ∧
    fitsEnd go (roce 0 0 0 [1] .last) = true ∧ go.rdmaOk 9 7 128 1 true = true ∧ (go.qp 9).msg = some openMsg ∧ (d.qp 9).msg = none ∧
    d.rdmaOk 9 7 0 1 true = true ∧ d.badWrite 0 1 = false ∧ cut.badWrite 0 1 = true ∧ d.rdmaOk 9 7 0 1 false = true ∧ d.rdmaOk 9 8 0 1 true = false ∧
    d.rdmaOk 9 8 0 1 false = false) ∧ (roce (-1) 0 7 [1]).psn.toNat = 2 ^ 24 - 1 ∧ (roce (2 ^ 22) 0 7 [1]).psn.toNat < 2 ^ 23 := by
  rw [counted _ (by decide), counted _ (by decide)]
  decide +kernel
/-- The first packet of a WRITE of 256 bytes, and of a SEND. -/
theorem test_firstPackets : let d := qpDev.countFrame false 128
    let p := roce 0 0 7 (List.replicate 128 0) .first 256
    d.packetFits 9 false p = true ∧ p.data.length < (d.writeMsg 9 p).left ∧ d.rdmaOk 9 7 0 256 true = true ∧ d.badWrite 0 128 = false ∧ d.packetFits 9 true p = true := by
  rw [counted _ (by decide)]
  decide +kernel
theorem test_send : let d := qpDev.countFrame false 1
    (d.packetFits 9 true (roce 0 0 0 [1]) = true ∧ d.rf 9 RF.recvEn = 1 ∧ d.rf 9 RF.recvRing = 10 ∧ d.rf 10 RF.kind = 1 ∧ d.rf 10 RF.owner = d.rf 9 RF.owner ∧ d.rf 10 RF.pHost = 1 ∧
    (d.sendMsg 9 (roce 0 0 0 [1])).bytes = [1] ∧ 1 ≤ d.slotCapacity 10 ∧ d.ringRoom 10 = true ∧ d.rf 10 RF.error ≠ 1 ∧ d.bufferOk 10 = true ∧
    d.badWrite (d.slotAddr 10 0) 65 = false) ∧ ({ d with ecc := lostLine 1 } : Dev).badWrite (d.slotAddr 10 0) 65 = true ∧
    (ringDev 9 [(RF.recvEn, 0)] d).rf 9 RF.recvEn = 0 ∧ (ringDev 10 [(RF.produced, 4)] d).ringRoom 10 = false := by
  rw [counted _ (by decide)]
  decide +kernel
def aRead : QpRead := { part := 5, entry := 2, shard := 0, off := 0 }
def response (answer : RoceAnswer) (l : List Byte) (psn : BitVec 24 := 0) : RoceResponse := ⟨{}, 0x800009, psn, answer, false, l⟩
def respDev : Dev := late 4096000000 (hostDev { loadDev with qps := [(9, { read := some aRead })] })
theorem test_responses : let c := respDev
    let d := respDev.countFrame false 128
    let x := response .data (List.replicate 128 1)
    (c.qpOf x.qpn.toNat = some 9 ∧ (c.qp 9).read = some aRead ∧ c.hostOn = true ∧ c.frameTaken .host {} = true) ∧ x.psn.toNat = psnAdd (d.rf 9 RF.sendPsn) (aRead.got / d.mtu 9) ∧
    (response .data [1] 1).psn.toNat ≠ psnAdd (d.rf 9 RF.sendPsn) (aRead.got / d.mtu 9) ∧
    d.readShard aRead.part aRead.shard = some (2, aLoader, aShard 1) ∧ aRead.got + 128 < min extentSize ((aShard 1).count * extentSize - aRead.off) ∧
    x.data.length = min (d.mtu 9) (min extentSize ((aShard 1).count * extentSize - aRead.off) - aRead.got) ∧ x.last = decide (aRead.got + 128 = extentSize) ∧
    d.rf 9 RF.rnrRetry ≠ 7 ∧ d.rf 9 RF.rnrRetry ≤ aRead.rnr ∧ aRead.rnr < (ringDev 9 [(RF.rnrRetry, 1)] d).rf 9 RF.rnrRetry ∧
    aRead.at_ + 4096 * 2 ^ c.rf 9 RF.ackTimeout ≤ c.now ∧ c.rf 9 RF.retryCnt ≤ aRead.tries ∧ aRead.tries < (ringDev 9 [(RF.retryCnt, 1)] c).rf 9 RF.retryCnt ∧
    c.readShard 5 0 = some (2, aLoader, aShard 1) := by
  rw [counted _ (by decide)]
  decide +kernel
theorem test_rates : let d := late 1000000000 (hostDev (ringDev 9 [(RF.kind, 3)] (awake.setFld F.HOST_NET_PFC_EN 1)))
    d.hostOn = true ∧ d.rf 9 RF.kind = 3 ∧ (d.qp 9).decayAt + 55000 ≤ d.now ∧ (d.qp 9).raiseAt + 1000 * d.fld F.HOST_CC_T_INC ≤ d.now ∧
    d.flag F.HOST_NET_PFC_EN = true ∧ (BitVec.ofNat 3 (d.fld F.HOST_NET_PFC_PRIO)).toNat = d.fld F.HOST_NET_PFC_PRIO ∧
    (BitVec.ofNat 3 (d.fld F.HOST_NET_PFC_PRIO + 1)).toNat ≠ d.fld F.HOST_NET_PFC_PRIO := by decide +kernel
theorem test_hostPort : let d := late 10000000000 ((hostDev (awake.setFld F.HOST_IP4_ADDR 1)).setFld F.HOST_PTP_HOLDOVER 0)
    let e := { d with power := { d.power with cagePresent := true } }
    (d.portOn = true ∧ d.flag F.HOST_STATUS_LINK = true ∧ d.fld F.HOST_IP4_ADDR ≠ 0 ∧ awake.fld F.HOST_IP4_ADDR = 0 ∧
    (BitVec.ofNat 8 (d.fld F.HOST_PTP_DOMAIN)).toNat = d.fld F.HOST_PTP_DOMAIN) ∧ d.flag F.HOST_PTP_HOLDOVER = false ∧ d.ptpAt + 10000000000 ≤ d.now ∧
    d.frameTaken .host { vlan := 5 } = false ∧ d.frameTaken .host {} = true ∧ (0xFFFF00000001 : BitVec 128).toNat = 0xFFFF * 2 ^ 32 + d.fld F.HOST_IP4_ADDR ∧
    e.flag F.HOST_CTL_EN = true ∧ e.power.cagePresent = true ∧ ({ d with power := { d.power with cagePresent := false } } : Dev).power.cagePresent = false := by decide +kernel

/-! Clocks, caps, temperatures, pace -/

def clockDev (cur max : Nat) (x : Clock := {}) : Dev := { (awake.setFld F.CLK_STATUS_CURRENT cur 3).setFld F.CLK_CTL_MAX max 3 with clocks := [(3, x)] }
def drooping (d : Dev) : Dev := d.setFld F.CLK_STATUS_DROOP 1 3
theorem test_setPoints : ((clockDev 28 28).controllerOn = true ∧ ((clockDev 28 28).target 3).1 = 28 ∧ ((clockDev 28 20).target 3).1 = 20 ∧ (clockDev 28 20).fld F.CLK_STATUS_CURRENT 3 = 28 ∧
    (clockDev 20 28).droopBlocks 3 = false ∧ (drooping (clockDev 20 28)).droopBlocks 3 = true) ∧
    ((clockDev 20 28 { change := some (24, 0) }).clock 3).change = some (24, 0) ∧ 0 ≤ awake.now ∧ (drooping (clockDev 20 28)).flag F.CLK_STATUS_DROOP 3 = true := by decide +kernel
def floorDev : Dev := [0, 1, 2, 3].foldl (fun d k => d.setFld F.CLK_LIMITS_CAP 0 k) ((awake.setFld F.PWR_LEVELS_LINK_LEVEL 4).setFld F.PWR_LEVELS_MEM_LEVEL 4)
theorem test_caps : let d := floorDev
    let a := d.takePower 5000
    (d.controllerOn = true ∧ 0 < d.excess 5000 ∧ (a.classOrder.reverse.foldl (fun s c => cutClass c 128 s.2 s.1) (a, d.excess 5000)).1.allFloor = true) ∧
    awake.excess 3200 = 0 ∧ 0 < awake.excess 3201 ∧ ({ late 10000000 awake with floorSince := some 0 } : Dev).now = 10000000 := by decide +kernel
theorem test_inputs : let low := { late 20000 awake with power := { (late 20000 awake).power with lowSince := some 0, highSince := some 0 } }
    low.power.auxOn = true ∧ low.power.phase ≠ .asleep ∧ low.power.lowSince = some 0 ∧ low.power.highSince = some 0 ∧ 0 + 20000 ≤ low.now ∧
    asleep.power.phase = .asleep ∧ asleep.power.auxOn = true := by decide +kernel
theorem test_energy : (List.replicate 15 (1 : BitVec 32))[14]? = some 1 ∧ (List.replicate 14 (1 : BitVec 32)).length ≤ 14 ∧ awake.controllerOn = true := by decide +kernel
def sample (i : Nat) (v : BitVec 8) : List (Option (BitVec 8)) := List.replicate i none ++ [some v]
theorem test_thermals : let after := fun (l : List (Option (BitVec 8))) => [0, 1, 2, 3].foldl (fun d k => thermalDie (bitAt ((awake.takeTemps l).fld F.THM_STATUS_HOT) k) k d) (awake.takeTemps l)
    (after (sample 143 104)).hottest 0 144 < 105 ∧ 105 ≤ (after (sample 143 105)).hottest 0 144 ∧ (after (sample 163 105)).hottest 0 144 < 105 ∧
    ((3, 0) : Nat × Nat) ∈ ({ late 100000000 awake with hotSince := [(3, 0)] } : Dev).hotSince ∧ 0 + 100000000 ≤ (late 100000000 awake).now := by decide +kernel
/-- The descriptor of partition 5: job 1, and device 7 in its pace table. -/
def paceMem : Mem := jobMem 5 ++ [⟨16381 * extentSize + 65536 * 5 + 2, 1⟩, ⟨16381 * extentSize + 65536 * 5 + 4, 7⟩]
/-- Partition 5 is throttled: die 3, where it has core 143, has its CAP limit down. -/
def slowDev (x : PaceOut) : Dev := { late 1000000 ((part 1).setFld F.CLK_LIMITS_CAP 10 3) with cores := [(143, { owner := some 5 })], pace := [(1, x)] }
theorem test_paces : let d := slowDev {}
    (paces paceMem d 5 = true ∧ partJob paceMem d 5 = 1 ∧ jobThrottled paceMem d 1 = true ∧ (tGet {} d.pace 1).active = false ∧ jobRate paceMem d 1 = 10 ∧
    (tGet {} (slowDev { active := true, rate := 11 }).pace 1).rate ≠ 10 ∧ 0 + 1000000 ≤ d.now) ∧ paces [] d 5 = false ∧
    jobThrottled paceMem { d with cores := [] } 1 = false ∧ (tGet {} (slowDev { active := true, calmSince := some 0 }).pace 1).calmSince = some 0 := by decide +kernel
theorem test_paceNotices : let d := slowDev {}
    let e := { late 5000000 d with paceIn := [(7 * 2 ^ 16 + 1, ⟨1, 5, 0, true⟩)] }
    (7 ∈ paceTable paceMem d 1 ∧ tFind (7 * 2 ^ 16 + 1) d.paceIn = none ∧ d.controllerOn = true ∧ d.fabricOn = true) ∧ tFind (7 * 2 ^ 16 + 1) e.paceIn = some ⟨1, 5, 0, true⟩ ∧
    (2 + 2 ^ 32 - 1) % 2 ^ 32 < 2 ^ 31 ∧ 2 ^ 31 ≤ (0 + 2 ^ 32 - 1) % 2 ^ 32 ∧ 0 + 5000000 ≤ e.now := by decide +kernel

/-! Jobs and bankers -/

/-- A copy of a message from the fabric, for job 1 and turn 0, with its fields. -/
def msg (device : DeviceId) (f0 f1 : BitVec 64 := 0) (turn : BitVec 48 := 0) (epoch : BitVec 32 := 0) : BankerMsg :=
  ⟨.fabric, true, 0, device, 1, 1, turn, epoch, 0, f0, f1, 0⟩
/-- A device of a role. -/
def roleDev (r : Nat) (d : Dev := awake) : Dev := d.setFld F.BNK_STATUS_ROLE r
theorem test_messageNew (x : BankerMsg) (code : Nat) (h : x.via = .fabric) : awake.isNew code x := ⟨by decide +kernel, .inl h⟩
/-- A copy from the management network is new by its number, and old when its tag fails or its number is not above the last. -/
theorem test_messageOld : let x : BankerMsg := { msg 7 with via := .mgmt 0 }
    awake.isNew 0x12 x ∧ ¬ awake.isNew 0x12 { x with tagOk := false } ∧ ¬ ({ awake with bank := { awake.bank with taken := [(7 * 256 + 0x12, 2)] } } : Dev).isNew 0x12 x :=
  ⟨⟨by decide +kernel, .inr (by decide +kernel)⟩, fun h => absurd h.2 (by decide +kernel), fun h => absurd h.2 (by decide +kernel)⟩
def jobDev (x : JobRun) : Dev := { late 1000000 (roleDev 5 (part 1)) with jobs := [(1, x)] }
theorem test_readyReports : (turnReady (jobMem 5) (jobDev {}) 1 = true ∧ (jobDev {}).hubOn = true ∧ ((jobDev {}).job 1).readyAt = none ∧ jobParts (jobMem 5) (jobDev {}) 1 = [5]) ∧
    turnReady (jobMem 5) (jobDev { readyAt := some 0 }) 1 = true ∧ 0 + 1000000 ≤ (jobDev {}).now ∧ turnReady (jobMem 5) (jobDev { failed := true }) 1 = false ∧
    ((jobDev { stopped := true }).job 1).stopped = true ∧ (jobDev { stopped := true }).quiet (jobMem 5) 1 = true ∧ ((jobDev { quiesced := true }).job 1).quiesced = true := by
  decide +kernel
theorem test_jobMessages : let e := (jobDev { stopped := true }).noted 0x13 (msg 0)
    (5 ∈ jobParts (jobMem 5) e 1 ∧ e.turnOf 5 = 0) ∧ jobParts [] e 1 = [] ∧ e.turnOf 5 ≠ (msg 0 0 0 9).turn.toNat ∧ (msg 0 0 0 (-1)).turn.toNat + 1 = 2 ^ 48 ∧
    ((jobParts (jobMem 5) e 1).filter fun p => decide (e.turnOf p = 0)) = [5] ∧ (e.job 1).stopped = true ∧ (jobDev {}).isNew 0x13 (msg 0) :=
  ⟨by decide +kernel, by decide +kernel, by decide +kernel, by decide +kernel, by decide +kernel, by decide +kernel, ⟨by decide +kernel, .inl rfl⟩⟩
/-- A banker with a record of job 1. -/
def bankDev (r : Nat) (x : BankJob) : Dev := let d := late 3600000000000 (roleDev r); { d with bank := { d.bank with jobs := [(1, x)] } }
def decided (k : Decision) : BankJob := { decision := some k }
theorem test_readyTaken : let e := (bankDev 5 {}).noted 0x12 (msg 0)
    (e.banks = true ∧ (e.bankJob 1).decision = none ∧ (e.bankJob 1).turn = 0 ∧ e.jobDevices 1 = [0]) ∧ (awake.noted 0x12 (msg 0)).banks = false ∧
    ((bankDev 5 { turn := 3 }).bankJob 1).turn = 3 ∧ ((bankDev 4 (decided ⟨0, true, 0, none⟩)).bankJob 1).decision = some ⟨0, true, 0, none⟩ ∧
    (⟨0, true, 0, some 4⟩ : Decision).awaits ≠ none ∧
    (msg 0 0 0 (-1)).turn.toNat + 1 = 2 ^ 48 ∧ ({ failedAt := some 0, decision := some ⟨0, false, 0, none⟩ } : BankJob).failedAt ≠ none ∧
    (⟨0, false, 0, none⟩ : Decision).commit = false := by decide +kernel
def follower (r : Nat) : Dev := (roleDev r).setFld F.BNK_STATUS_ACTIVE 7
theorem test_decisions : let e := (follower 3).noted 0x19 (msg 7)
    let a := (((bankDev 4 (decided ⟨0, true, 0, some 4⟩)).setFld F.BNK_STATUS_STANDBY_VALID 1).setFld F.BNK_STATUS_STANDBY 7).noted 0x1A (msg 7 4)
    (e.role = 3 ∧ e.fld F.BNK_STATUS_ACTIVE = 7) ∧ (awake.noted 0x19 (msg 7)).role = 1 ∧ (a.role = 4 ∧ a.flag F.BNK_STATUS_STANDBY_VALID = true ∧
    a.fld F.BNK_STATUS_STANDBY = 7 ∧ a.bank.jobs.find? (fun r => decide (r.2.decision.bind (fun y => y.awaits) = some 4)) = some (1, decided ⟨0, true, 0, some 4⟩)) := by
  decide +kernel
theorem test_bankLimits : let d := bankDev 5 { firstAt := some 0 }
    (d.hubOn = true ∧ d.banks = true ∧ (d.bankJob 1).waits = false ∧ 0 + 1000000 * d.fld F.BNK_READY_LIMIT_MS ≤ d.now ∧ tFind 1 d.bank.jobs ≠ none ∧
    (d.bankJob 1).failedAt = none ∧ (d.bankJob 1).since + 1000000 * max 1 (d.fld F.BNK_TURN_LIMIT_MS) ≤ d.now) ∧ awake.now < 0 + 1000000 * awake.fld F.BNK_READY_LIMIT_MS ∧
    (d.bankJob 1).decision = none ∧ d.role = 5 := by decide +kernel
theorem test_failures : let d := bankDev 5 { failedAt := some 0 }
    d.banks = true ∧ (d.bankJob 1).failedAt = some 0 ∧ (d.bankJob 1).turn = 0 ∧ 0 + 1000000000 ≤ d.now ∧ d.podOfOne = true ∧ (bankDev 4 {}).podOfOne = false ∧ (bankDev 4 {}).role = 4 ∧ ((bankDev 4 {}).setFld F.BNK_STATUS_STANDBY_VALID 1).flag F.BNK_STATUS_STANDBY_VALID = true ∧
    (bankDev 4 {}).flag F.BNK_STATUS_STANDBY_VALID = false ∧ ((bankDev 5 {}).bankJob 1).decision = none ∧ ((bankDev 4 (decided ⟨0, true, 0, none⟩)).bankJob 1).decision = some ⟨0, true, 0, none⟩ ∧
    (msg 0 5).f0.toNat = 5 ∧ (msg 0 3).f0.toNat = 3 ∧ 0 ≤ ((bankDev 5 {}).bankJob 1).turn := by decide +kernel
/-- A job that has device 7: it has failed, and device 9 is a spare. -/
def spareDev : Dev := let d := bankDev 4 {}; { d with bank := { d.bank with members := [(7, { state := 2 }), (9, { spare := true, state := 1 })] } }
theorem test_spare : spareDev.hubOn = true ∧ spareDev.role = 4 ∧ (spareDev.member (podIndex 7)).state = 2 ∧ (spareDev.member (podIndex 9)).spare = true ∧
    (spareDev.member (podIndex 9)).state = 1 ∧ tFind 1 spareDev.bank.jobs ≠ none := by decide +kernel
/-- The devices of a job are a free value: where they have device 7, it is a device of the job. -/
theorem test_spareListed (h : (7 : DeviceId) ∈ Config.jobDevices 1) : 7 ∈ spareDev.jobDevices 1 := by
  unfold Dev.jobDevices
  rw [if_neg (by decide +kernel)]
  refine List.mem_map.2 ⟨7, h, ?_⟩
  decide +kernel
/-- A device that is no active banker, with a job of its own alone. -/
theorem test_spareElsewhere : (roleDev 5).hubOn = true ∧ (roleDev 5).role ≠ 4 ∧ 0 ∈ (roleDev 5).jobDevices 1 ∧ 7 ∉ (roleDev 5).jobDevices 1 ∧
    (roleDev 5).substitutes 1 7 8 = false := by decide +kernel
theorem test_announce : let note := fun (d : Dev) (x : BankerMsg) => d.noted 0x10 x
    ((note (follower 2) (msg 7 3)).role = 2 ∧ (note awake (msg 7 1)).samePod 7 = true ∧ (note awake (msg 4096 1)).samePod 4096 = false ∧ (msg 7 4).epoch.toNat = awake.fld F.BNK_EPOCH_EPOCH) ∧
    (outranks ((msg 7 4 255).f1.toNat, 7) ((roleDev 4).fld F.BNK_CTL_PRIORITY, 0) = true ∨ (msg 7 4 0 0 1).epoch.toNat > awake.fld F.BNK_EPOCH_EPOCH) ∧
    (follower 3).fld F.BNK_STATUS_ACTIVE = 7 ∧ (roleDev 5).role = 5 := by decide +kernel
def admitting : Dev := let d := bankDev 4 {}; { d with bank := { d.bank with members := [(7, { admitted := true })] } }
theorem test_heartbeat : let e := admitting.noted 0x11 (msg 7)
    e.samePod 7 = true ∧ e.role = 4 ∧ (e.member (podIndex 7)).admitted = true ∧ (e.member (podIndex 8)).admitted = false ∧ (follower 2).role ≠ 4 ∧
    (follower 2).fld F.BNK_STATUS_ACTIVE = 7 ∧ (follower 2).fld F.BNK_STATUS_ACTIVE ≠ 8 := by decide +kernel
def old (d : Dev) : Dev := late 3600000000000 d
theorem test_elections : let d := old (awake.setFld F.BNK_CTL_ELIGIBLE 1)
    let lost := { old (follower 2) with bank := { ({} : Banker) with lostAt := some 0 } }
    (d.hubOn = true ∧ d.role = 1 ∧ d.flag F.BNK_CTL_ELIGIBLE = true ∧ d.bank.saidAt + 100000000 ≤ d.now ∧ awake.flag F.BNK_CTL_ELIGIBLE = false ∧
    d.bank.electAt + 1000000 * d.fld F.BNK_TIMING_ELECT_MS ≤ d.now ∧ awake.now < awake.bank.electAt + 1000000 * awake.fld F.BNK_TIMING_ELECT_MS) ∧
    lost.role ≠ 1 ∧ lost.bank.lostAt = some 0 ∧ 0 + 1000000 * lost.fld F.BNK_TIMING_ELECT_MS ≤ lost.now ∧ (follower 2).bank.lostAt = none := by decide +kernel
theorem test_heartbeats : let d := old (follower 2)
    let b := ((old (roleDev 4)).setFld F.BNK_STATUS_STANDBY_VALID 1)
    (d.bank.beatAt + 1000000 * d.fld F.BNK_TIMING_HB_MS ≤ d.now ∧ d.role = 2 ∧ b.role = 4 ∧ b.flag F.BNK_STATUS_STANDBY_VALID = true ∧
    (roleDev 4).flag F.BNK_STATUS_STANDBY_VALID = false) ∧ d.fld F.BNK_STATUS_ACTIVE = (7 : DeviceId).toNat ∧
    d.bank.heardAt + 1000000 * d.fld F.BNK_TIMING_HB_MS * d.fld F.BNK_TIMING_MISS ≤ d.now ∧ d.bank.lostAt = none ∧ (old (follower 3)).role = 3 ∧
    (let e := { old (roleDev 4) with bank := { ({} : Banker) with members := [(7, { state := 1 })] } }
    (e.member (podIndex 7)).state = 1 ∧ (e.failMember 7).flag F.BNK_STATUS_STANDBY_VALID = false ∧ e.samePod 7 = true) := by decide +kernel

/-! Faults, the hourglass unit, power -/

theorem test_faultRaise : (let stack := fun (src line : Nat) => decide (2304 ≤ src) && decide (src < 2560) && decide (line / 2 ^ 30 = (src - 2304) / 8)
    stack 2304 0 = true ∧ stack 2552 (31 * 2 ^ 30) = true ∧ stack 2560 (32 * 2 ^ 30) = false ∧ stack 2312 0 = false ∧ stack 2308 0 = true) ∧
    (2304 - 2304) % 8 = 0 ∧ (2308 - 2304) % 8 = 4 ∧ 16 * (143 : CoreId).val + 5 = 2293 ∧ awake.power.phase ≠ .asleep ∧ asleep.power.phase = .asleep := by decide +kernel
def validSrc : Dev := awake.setSrc 2955 { valid := true }
theorem test_faultValid : assigned 2955 = true ∧ assigned 2956 = false ∧ validSrc.captureEnd ≤ validSrc.now ∧ (∀ r ∈ validSrc.power.running, r.domain ≠ 5) ∧
    (validSrc.src 2955).valid = true := by decide +kernel
def resetting (l : List ResetRun) : Dev := { awake with power := { awake.power with running := l } }
theorem test_resetDone : awake.power.running = [] ∧ (resetting [⟨1, 0, 0⟩, ⟨4, 0, 0⟩]).power.running.find? (fun x => decide (x.domain ≠ 1)) = some ⟨4, 0, 0⟩ ∧
    (resetting [⟨1, 0, 0⟩]).power.running.find? (fun x => decide (x.domain ≠ 1)) = none ∧ (resetting [⟨1, 0, 0⟩]).power.running.head? = some ⟨1, 0, 0⟩ := by decide +kernel
theorem test_hourglassTimer : let v : VecExec := ⟨0, cmdOf [], [], 0, 0, 0, 5⟩
    let d := old (core0 { vec := some v, hang := [(1, 0)] } awake)
    d.hubOn = true ∧ (d.core 0).oldest 1 = some (cmdOf []) ∧ tFind 1 (d.core 0).hang = some 0 ∧ 0 + 1000000 * d.fld F.FLT_HANG_LIMIT_MS ≤ d.now ∧
    awake.now < 0 + 1000000 * awake.fld F.FLT_HANG_LIMIT_MS := by decide +kernel
/-- A partition whose one context waits for a semaphore. -/
def staleDev : Dev := { old (part 1) with
  cores := [(0, { owner := some 5, slots := [(0, ctxKey 5 9)] })]
  ctxs := [(ctxKey 5 9, { num := 9, part := 5, place := .resident 0 0, wait := some (.sem 0 1) })]
  staleSince := [(5, 0)] }
theorem test_stalemate : staleDev.hubOn = true ∧ tFind 5 staleDev.staleSince = some 0 ∧ detectorRuns [] staleDev 5 = true ∧ inStalemate [] staleDev 5 = true ∧
    0 + 1000000 * staleDev.fld F.FLT_STALEMATE_LIMIT_MS ≤ staleDev.now ∧ inStalemate [] awake 5 = false := by decide +kernel
theorem test_trial : let d := (old (posDev 3)).setFld F.CFG_DEADLINE_TIME 1
    d.hubOn = true ∧ (d.positionIn 3).isSome = true ∧ d.fld F.CFG_DEADLINE_TIME ≤ d.now ∧ awake.positionIn 3 = none := by decide +kernel
/-- Rule 63 wakes the module where sensor 228 reads 5 or more. -/
def ruleWord : Nat := RU.sensor.put 228 (RU.test.put 1 (RU.action.put 2 (RU.threshold.put 5 0)))
def ruleDev : Dev := asleep.setFld F.HGU_RULE_RULE ruleWord 0 63
def wakes (d : Dev) (l : List (Option (BitVec 16))) : Bool :=
  let e : Dev := { d with sensors := d.sampleAll l }
  ((List.range 64).map fun i => (i, e.evalRule i)).any fun x => decide (x.2.2.1 = some .activates) && decide (e.ruf x.1 RU.action = 2)
theorem test_hguSample : wakes ruleDev (List.replicate 228 none ++ [some 5]) = true ∧ wakes ruleDev (List.replicate 228 none ++ [some 4]) = false ∧ ruleDev.power.auxOn = true := by decide +kernel
theorem test_moduleOff : let off : Dev := { power := { auxOn := false } }
    off.power.auxOn = false ∧ awake.fld F.HGU_TELEM_PERIOD_MS = 0 ∧ (awake.setFld F.HGU_TELEM_PERIOD_MS 65535).fld F.HGU_TELEM_PERIOD_MS ≠ 0 := by decide +kernel
def i3cDev (d : Dev) : Dev := { d.setFld F.HGU_CTL_I3C_POWER 1 with power := { d.power with i3cAddr := some 9 } }
theorem test_i3c : (i3cDev asleep).power.i3cAddr ≠ none ∧ (i3cDev asleep).flag F.HGU_CTL_I3C_POWER = true ∧ (i3cDev asleep).shutRule = false ∧
    (i3cDev asleep).flag F.HGU_STATUS_MAIN_PRESENT = true ∧ (i3cDev asleep).flag F.HGU_STATUS_PUF_FAIL = false ∧ (i3cDev awake).power.phase ≠ .asleep ∧
    awake.flag F.HGU_CTL_I3C_POWER = false ∧ awake.power.i3cAddr = none ∧
    { i3cDev asleep with rules := [(0, { active := true })], regs := ((i3cDev asleep).setFld F.HGU_RULE_RULE (RU.action.put 3 0) 0 0).regs }.shutRule = true := by decide +kernel
theorem test_mainInput : let d := { old ({} : Dev) with power := { (old {}).power with okSince := some 0, firstMain := true } }
    (d.power.okSince = some 0 ∧ 0 + 10000000 ≤ d.now ∧ d.flag F.HGU_STATUS_MAIN_PRESENT = false ∧ d.power.firstMain = true ∧ d.power.auxOn = true) ∧
    (d.setFld F.HGU_CTL_AUTO_ON 1).flag F.HGU_CTL_AUTO_ON = true ∧ d.flag F.HGU_CTL_AUTO_ON = false ∧ d.power.auxSince + 10000000 ≤ d.now ∧
    awake.now < awake.power.auxSince + 10000000 ∧ awake.power.okSince = none := by decide +kernel

/-! Numbers and the CRC -/

theorem test_integers : decodeVal .int8 0x80 = Val.ofInt (-128) ∧ decodeVal .int8 0x7F = Val.ofInt 127 ∧ decodeVal .int4 8 = Val.ofInt (-8) ∧
    decodeVal .int4 7 = Val.ofInt 7 ∧ decodeVal .e8m0 254 = .fin false 1 127 ∧ decodeVal .e8m0 0 = .fin false 1 (-127) ∧ decodeVal .e8m0 255 = .nan := by decide +kernel
theorem test_flitBody : idleFlit.body.length = 236 := by decide +kernel

end Sys2Proof.Tests
end

section
/-! What the rows of the trial window, of the hourglass unit, of the sidebands and of the power inputs do: first each
meaning as a function of the device, case by case, then the rows in groups, then the statement. -/

namespace Sys2Proof.Machine

variable {m : Mem} {d : Dev}

/-! ### The trial window (R448) -/

theorem trialExpiry_due (hub : d.hubOn = true) (trial : (d.positionIn 3).isSome = true)
    (due : d.fld F.CFG_DEADLINE_TIME ≤ d.now) :
    trialExpiry m d = (takeBack m d).setFld F.CFG_STATUS_TAKEN_BACK 1 := by
  simp [trialExpiry, hub, trial, due]

theorem trialExpiry_not_due (h : d.positionIn 3 = none ∨ d.now < d.fld F.CFG_DEADLINE_TIME) : trialExpiry m d = d := by
  rcases h with noTrial | early
  · simp [trialExpiry, noTrial]
  · simp [trialExpiry, Nat.not_le.2 early]

/-! ### Sampling (R457, R459, R460) -/

/-- The device with its sensors sampled, from which all rules are evaluated. -/
def Dev.sampled (d : Dev) (l : List (Option (BitVec 16))) : Dev := { d with sensors := d.sampleAll l }

/-- What each rule does at a sample, in index order. -/
def Dev.ruleEvents (d : Dev) : List (Nat × RuleRun × Option RuleEvent × Int) :=
  (List.range 64).map fun i => (i, d.evalRule i)

/-- A rule that wakes the module activates. -/
def Dev.rulesWake (d : Dev) : Bool :=
  d.ruleEvents.any fun x => decide (x.2.2.1 = some .activates) && decide (d.ruf x.1 RU.action = 2)

/-- Every rule's event applied, but for a wake. -/
def Dev.rulesApplied (d : Dev) : Dev := d.ruleEvents.foldl (fun d x => applyRule x.1 x.2 d) d

theorem hguSample_off {l : List (Option (BitVec 16))} (off : d.power.auxOn = false) : hguSample m l d = d := by
  simp [hguSample, off]

theorem hguSample_on {l : List (Option (BitVec 16))} (on : d.power.auxOn = true) : hguSample m l d =
    if (d.sampled l).rulesWake then wakeUp m (d.sampled l).rulesApplied else (d.sampled l).rulesApplied := by
  unfold hguSample
  rw [on]
  rfl

/-! ### Telemetry (R461) -/

/-- The sessions whose telemetry is due. -/
def Dev.telemetryDue (d : Dev) (span : Nat) : List (Nat × Session) :=
  d.sessions.filter fun x => x.2.telemetry && decide (x.2.lastTelemetry + span ≤ d.now)

/-- Telemetry goes to a session, which is stamped. -/
def Dev.sendTelemetry (body : List Byte) (d : Dev) (x : Nat × Session) : Dev :=
  { d.notify x.1 body with
    sessions := tMod x.2 x.1 (fun y => { y with lastTelemetry := (d.notify x.1 body).now }) (d.notify x.1 body).sessions }

theorem telemetryNotify_off (off : d.power.auxOn = false) : telemetryNotify d = d := by
  simp [telemetryNotify, off]

theorem telemetryNotify_no_period (h : 1000000 * d.fld F.HGU_TELEM_PERIOD_MS = 0) : telemetryNotify d = d :=
  if_pos (.inl h)

theorem telemetryNotify_on (on : d.power.auxOn = true) (h : 1000000 * d.fld F.HGU_TELEM_PERIOD_MS ≠ 0) :
    telemetryNotify d =
      (d.telemetryDue (1000000 * d.fld F.HGU_TELEM_PERIOD_MS)).foldl (Dev.sendTelemetry d.telemetry) d :=
  if_neg (by simpa [on] using h)

/-! ### The I3C sideband (R455) -/

theorem i3cEntdaa_off {a : BitVec 7} (off : d.power.auxOn = false) : i3cEntdaa a d = d := by simp [i3cEntdaa, off]

theorem i3cEntdaa_on {a : BitVec 7} (on : d.power.auxOn = true) :
    i3cEntdaa a d = d.setPower { d.power with i3cAddr := some a } := by simp [i3cEntdaa, on]

theorem i3cPrivateRead_off {n : Nat} (h : d.power.auxOn = false ∨ d.power.i3cAddr = none) : i3cPrivateRead n d = d := by
  rcases h with off | unbound
  · simp [i3cPrivateRead, off]
  · simp [i3cPrivateRead, unbound]

theorem i3cPrivateRead_on {n : Nat} (on : d.power.auxOn = true) (addr : d.power.i3cAddr ≠ none) :
    i3cPrivateRead n d = (d.send (.i3c (d.hguPage.take n))).setPower { d.power with i3cIbi := false } := by
  simp [i3cPrivateRead, on, Option.isSome_iff_ne_none.2 addr]

theorem Dev.i3cTakes_eq_true_iff : d.i3cTakes = true ↔
    d.power.auxOn = true ∧ d.power.i3cAddr ≠ none ∧ d.flag F.HGU_CTL_I3C_POWER = true := by
  simp [Dev.i3cTakes, Option.isSome_iff_ne_none, and_assoc]

theorem Dev.i3cTakes_eq_false_iff : d.i3cTakes = false ↔
    d.power.auxOn = false ∨ d.power.i3cAddr = none ∨ d.flag F.HGU_CTL_I3C_POWER = false := by
  rw [← Bool.not_eq_true, Dev.i3cTakes_eq_true_iff]
  simp only [not_and_or, ne_eq, not_not, Bool.not_eq_true]

/-! ### Waking and shutting down (R459, R460, R498, R501) -/

theorem wakeUp_awake (h : d.power.phase ≠ .asleep) : wakeUp m d = d := if_pos (.inl h)

theorem wakeUp_refused (on : d.power.auxOn = true) (asleep : d.power.phase = .asleep) (shut : d.shutRule = true) :
    wakeUp m d = d.setFld F.HGU_STATUS_WAKE_REFUSED 1 := by
  simp [wakeUp, on, asleep, shut]

theorem wakeUp_starts (on : d.power.auxOn = true) (asleep : d.power.phase = .asleep) (shut : d.shutRule = false)
    (main : d.flag F.HGU_STATUS_MAIN_PRESENT = true) (puf : d.flag F.HGU_STATUS_PUF_FAIL = false) :
    wakeUp m d = startUp m d := by
  simp [wakeUp, on, asleep, shut, main, puf]

theorem shutDown_asleep (h : d.power.phase = .asleep) : shutDown d = d := if_pos h

theorem shutDown_awake (h : d.power.phase ≠ .asleep) : shutDown d = d.mainOff := if_neg h

/-! ### Auxiliary power (R9, R498, R501) and the PHY's reset (R494) -/

theorem auxPowerUp_on (on : d.power.auxOn = true) : auxPowerUp d = d := by simp [auxPowerUp, on]

theorem auxPowerUp_off (off : d.power.auxOn = false) :
    auxPowerUp d = (d.powered true).loadFlash d.bootingPosition hguFlashWord := by simp [auxPowerUp, off]

theorem auxPowerLoss_on (on : d.power.auxOn = true) : auxPowerLoss d = d.powered false := if_pos on

theorem auxPowerLoss_off (off : d.power.auxOn = false) : auxPowerLoss d = d := by simp [auxPowerLoss, off]

theorem phyResetRelease_due (on : d.power.auxOn = true) (due : d.power.auxSince + 10000000 ≤ d.now) :
    phyResetRelease d = d.setPower { d.power with phyRstN := true } := by simp [phyResetRelease, on, due]

theorem phyResetRelease_not_due (h : d.power.auxOn = false ∨ d.now < d.power.auxSince + 10000000) :
    phyResetRelease d = d := by
  rcases h with off | early
  · simp [phyResetRelease, off]
  · simp [phyResetRelease, Nat.not_le.2 early]

/-! ### Main power (R460, R498, R503) -/

/-- The device that has seen its main input come. -/
def Dev.mainSeen (d : Dev) : Dev := (d.setFld F.HGU_STATUS_MAIN_PRESENT 1).setPower { d.power with firstMain := false }

/-- The device whose main input has gone, before its rails follow. -/
def Dev.mainLost (d : Dev) : Dev :=
  (d.setFld F.HGU_STATUS_MAIN_PRESENT 0).setPower { d.power with mainMv := 0, okSince := none }

theorem mainPresent_off (off : d.power.auxOn = false) : mainPresent m d = d := by
  unfold mainPresent
  cases d.power.okSince with
  | none => rfl
  | some t => simp [off]

theorem mainPresent_out_of_range (h : d.power.okSince = none) : mainPresent m d = d := by simp [mainPresent, h]

theorem mainPresent_due {t : Nat} (on : d.power.auxOn = true) (since : d.power.okSince = some t)
    (due : t + 10000000 ≤ d.now) (absent : d.flag F.HGU_STATUS_MAIN_PRESENT = false) :
    mainPresent m d =
      if d.power.firstMain && d.mainSeen.flag F.HGU_CTL_AUTO_ON then wakeUp m d.mainSeen else d.mainSeen := by
  simp [mainPresent, on, since, due, absent, Dev.mainSeen]

theorem mainPowerLoss_asleep (h : d.power.phase = .asleep) : mainPowerLoss d = d.mainLost := if_pos h

theorem mainPowerLoss_awake (h : d.power.phase ≠ .asleep) : mainPowerLoss d = d.mainLost.mainOff := if_neg h

/-! ### The TAP (R455) -/

/-- The TAP with its instruction register set. -/
def Dev.tapHolds (d : Dev) (ir : Nat) : Dev := d.setPower { d.power with jtagIr := ir }

/-- What a TAP operation does under auxiliary power. -/
def Dev.tap (d : Dev) : TapOp → Dev
  | .reset => d.tapHolds 1
  | .idcode => (d.tapHolds 1).send (.tdo Config.idcode.toNat)
  | .bypass _ => (d.tapHolds 0).send (.tdo 0)
  | .boundarySample => d.tapHolds 2
  | .boundaryShift _ => (d.draw.2.tapHolds 2).send (.tdo ((Config.fresh d.draw.1).toNat % 2))

theorem boundaryScan_off {op : TapOp} (off : d.power.auxOn = false) : boundaryScan op d = d := by
  simp [boundaryScan, off]

theorem boundaryScan_on {op : TapOp} (on : d.power.auxOn = true) : boundaryScan op d = d.tap op := by
  unfold boundaryScan
  rw [on]
  cases op <;> rfl

/-! ### The rows -/

section
variable {s : State} (quiet : s.dev.stores = [])
include quiet

/-- An I3C write that the unit takes is a wake or a shutdown. -/
theorem becomes_i3c_taken (takes : s.dev.i3cTakes = true) :
    Becomes .i3cWake s (wakeUp s.mem s.dev) ∧ Becomes .i3cShutdown s (shutDown s.dev) :=
  ⟨row_becomes rfl quiet (if_pos takes), row_becomes rfl quiet (if_pos takes)⟩

/-- An I3C write that the unit does not take changes nothing. -/
theorem becomes_i3c_ignored (ignores : s.dev.i3cTakes = false) :
    Becomes .i3cWake s s.dev ∧ Becomes .i3cShutdown s s.dev :=
  ⟨row_becomes rfl quiet (if_neg (by simp [ignores])), row_becomes rfl quiet (if_neg (by simp [ignores]))⟩

/-- Without auxiliary power a TAP operation changes nothing. -/
theorem becomes_boundaryScan_off (off : s.dev.power.auxOn = false) (op : TapOp) : Becomes (.boundaryScan op) s s.dev :=
  row_becomes rfl quiet (boundaryScan_off off)

/-- Without auxiliary power no row of the unit, the sidebands or the power inputs changes anything but AUX_POWER_UP
and the loss of the main input. -/
theorem becomes_unpowered (off : s.dev.power.auxOn = false) (readings : List (Option (BitVec 16))) (addr : BitVec 7)
    (len : Nat) (b : Bool) : ∀ i ∈ [Instr.hguSample readings, .telemetryNotify, .i3cEntdaa addr, .i3cPrivateRead len,
      .i3cWake, .i3cShutdown, .auxPowerLoss, .mainPresent, .phyResetRelease, .boundaryScan .reset, .boundaryScan .idcode,
      .boundaryScan (.bypass b), .boundaryScan .boundarySample, .boundaryScan (.boundaryShift b)], Becomes i s s.dev := by
  obtain ⟨wake, shutdown⟩ := becomes_i3c_ignored quiet (Dev.i3cTakes_eq_false_iff.2 (.inl off))
  have tap := becomes_boundaryScan_off quiet off
  simp only [List.forall_mem_cons, List.not_mem_nil, false_implies, implies_true, and_true]
  exact ⟨row_becomes rfl quiet (hguSample_off off), row_becomes rfl quiet (telemetryNotify_off off),
    row_becomes rfl quiet (i3cEntdaa_off off), row_becomes rfl quiet (i3cPrivateRead_off (.inl off)), wake, shutdown,
    row_becomes rfl quiet (auxPowerLoss_off off), row_becomes rfl quiet (mainPresent_off off),
    row_becomes rfl quiet (phyResetRelease_not_due (.inl off)), tap _, tap _, tap _, tap _, tap _⟩

/-- A sample applies what its rules do, and the module wakes where one of them says so. -/
theorem becomes_hguSample (on : s.dev.power.auxOn = true) (readings : List (Option (BitVec 16))) :
    let e := s.dev.sampled readings
    (e.rulesWake = false → Becomes (.hguSample readings) s e.rulesApplied) ∧
    (e.rulesWake = true → Becomes (.hguSample readings) s (wakeUp s.mem e.rulesApplied)) :=
  ⟨fun h => row_becomes rfl quiet ((hguSample_on on).trans (if_neg (by simp [h]))),
    fun h => row_becomes rfl quiet ((hguSample_on on).trans (if_pos h))⟩

/-- What I3C_WAKE and I3C_SHUTDOWN do by the phase of the module, once the unit takes them. -/
theorem becomes_i3c_power (on : s.dev.power.auxOn = true) (addr : s.dev.power.i3cAddr ≠ none)
    (power : s.dev.flag F.HGU_CTL_I3C_POWER = true) :
    (s.dev.power.phase = .asleep → s.dev.shutRule = false → s.dev.flag F.HGU_STATUS_MAIN_PRESENT = true →
      s.dev.flag F.HGU_STATUS_PUF_FAIL = false → Becomes .i3cWake s (startUp s.mem s.dev)) ∧
    (s.dev.power.phase = .asleep → s.dev.shutRule = true →
      Becomes .i3cWake s (s.dev.setFld F.HGU_STATUS_WAKE_REFUSED 1)) ∧
    (s.dev.power.phase ≠ .asleep → Becomes .i3cWake s s.dev ∧ Becomes .i3cShutdown s s.dev.mainOff) ∧
    (s.dev.power.phase = .asleep → Becomes .i3cShutdown s s.dev) := by
  obtain ⟨wake, shutdown⟩ := becomes_i3c_taken quiet (Dev.i3cTakes_eq_true_iff.2 ⟨on, addr, power⟩)
  refine ⟨fun asleep shut main puf => ?_, fun asleep shut => ?_, fun awake => ⟨?_, ?_⟩, fun asleep => ?_⟩
  · rwa [wakeUp_starts on asleep shut main puf] at wake
  · rwa [wakeUp_refused on asleep shut] at wake
  · rwa [wakeUp_awake awake] at wake
  · rwa [shutDown_awake awake] at shutdown
  · rwa [shutDown_asleep asleep] at shutdown

/-- The main input has come: the module wakes the first time, where AUTO_ON says so. -/
theorem becomes_mainPresent {t : Nat} (on : s.dev.power.auxOn = true) (since : s.dev.power.okSince = some t)
    (due : t + 10000000 ≤ s.dev.now) (absent : s.dev.flag F.HGU_STATUS_MAIN_PRESENT = false) :
    let up := s.dev.mainSeen
    (s.dev.power.firstMain = false → Becomes .mainPresent s up) ∧
    (s.dev.power.firstMain = true → up.flag F.HGU_CTL_AUTO_ON = false → Becomes .mainPresent s up) ∧
    (s.dev.power.firstMain = true → up.flag F.HGU_CTL_AUTO_ON = true → Becomes .mainPresent s (wakeUp s.mem up)) := by
  have seen := mainPresent_due (m := s.mem) on since due absent
  refine ⟨fun later => ?_, fun first manual => ?_, fun first auto => ?_⟩
  · exact row_becomes rfl quiet (seen.trans (if_neg (by simp [later])))
  · exact row_becomes rfl quiet (seen.trans (if_neg (by simp [manual])))
  · exact row_becomes rfl quiet (seen.trans (if_pos (by simp [first, auto])))

end

/-- Settles O60: each row is the meaning of its case, and the bookkeeping follows TRIAL_EXPIRY only. The fields that
auxiliary power-up takes from flash rest on log 3 of NOTES.md, what the TAP holds and captures on log 4, the flag that
an I3C read clears and the first coming of the main input on log 42. -/
theorem moduleEventsAct : Obligations.ModuleEventsAct := by
  unfold Obligations.ModuleEventsAct
  intro s readings addr len t b d span e evs wake f up off ir quiet
  refine ⟨fun hub trial due => row_after rfl quiet (trialExpiry_due hub trial due),
    fun h => row_after rfl quiet (trialExpiry_not_due h), fun aux => ⟨?_, ?_⟩, fun aux => ?_,
    fun asleep => row_becomes rfl quiet (mainPowerLoss_asleep asleep),
    fun awake => row_becomes rfl quiet (mainPowerLoss_awake awake)⟩
  · exact becomes_unpowered quiet aux readings addr len b
  · exact row_becomes rfl quiet (auxPowerUp_off aux)
  · obtain ⟨sample, sampleWakes⟩ := becomes_hguSample quiet aux readings
    have ignored := fun h => becomes_i3c_ignored quiet (Dev.i3cTakes_eq_false_iff.2 (.inr h))
    have tap := fun op => row_becomes (i := .boundaryScan op) rfl quiet (boundaryScan_on aux)
    refine ⟨sample, sampleWakes,
      fun period => row_becomes rfl quiet (telemetryNotify_on aux period),
      fun noPeriod => row_becomes rfl quiet (telemetryNotify_no_period noPeriod),
      row_becomes rfl quiet (i3cEntdaa_on aux),
      fun bound => row_becomes rfl quiet (i3cPrivateRead_on aux bound), ?unbound, ?noPower,
      fun bound power => becomes_i3c_power quiet aux bound power,
      row_becomes rfl quiet (auxPowerUp_on aux),
      row_becomes rfl quiet (auxPowerLoss_on aux),
      fun since due absent => becomes_mainPresent quiet aux since due absent,
      fun low => row_becomes rfl quiet (mainPresent_out_of_range low),
      fun due => row_becomes rfl quiet (phyResetRelease_due aux due),
      fun early => row_becomes rfl quiet (phyResetRelease_not_due (.inr early)),
      tap .reset, tap .idcode, tap (.bypass b), tap .boundarySample, tap (.boundaryShift b)⟩
    case unbound =>
      intro unbound
      obtain ⟨wake, shutdown⟩ := ignored (.inl unbound)
      simp only [List.forall_mem_cons, List.not_mem_nil, false_implies, implies_true, and_true]
      exact ⟨row_becomes rfl quiet (i3cPrivateRead_off (.inr unbound)), wake, shutdown⟩
    case noPower =>
      intro noPower
      simpa only [List.forall_mem_cons, List.not_mem_nil, false_implies, implies_true, and_true] using
        ignored (.inr noPower)

end Sys2Proof.Machine
end

section
/-! What happens to flows with a gap, to ring credits, to rings that do not drain, and to mirrors: each meaning case by
case, then the statement. -/

namespace Sys2Proof.Machine

variable {m : Mem} {d : Dev}

/-! ### A flow with a gap (R311) -/

theorem flowFailed_late {src job : Nat} {f : FlowIn} {h : EarlyPacket}
    (flow : tFind (flowKey src job) d.flowIn = some f)
    (late : (f.held.find? fun h => decide (h.at_ + 5000000 ≤ d.now)) = some h) :
    flowFailed m src job d = failJob m job 8 (failRings m src job false
      (({ d with flowIn := tPut (flowKey src job) { f with held := [] } d.flowIn } : Dev).errorNotice h.pkt true)) := by
  simp only [flowFailed, flow, late]

/-! ### Credit returns (R328) -/

/-- How far CONSUMED of a ring has advanced since it was last reported. -/
def Dev.creditDue (d : Dev) (r : Nat) : Nat := (d.rf r RF.consumed + 2 ^ 32 - (d.ring r).returned) % 2 ^ 32

/-- The packet of a credit return goes out to the ring's peer. -/
def Dev.emitCredit (d : Dev) (r : Nat) : Dev :=
  d.emitFlow (d.rf r RF.peerDevice) (d.rf r RF.job) 0 (d.rf r RF.peerRing) 0 (d.rf r RF.consumed + 2 ^ 52) true
    (List.replicate 64 0)

theorem ringCreditReturn_quarter {r : Nat} (message : d.rf r RF.kind = 1) (remote : d.rf r RF.remote = 1)
    (advanced : d.creditDue r ≠ 0) (quarter : 2 ^ d.rf r RF.slotsLog ≤ 4 * d.creditDue r) :
    ringCreditReturn r d = (d.emitCredit r).setRing r
      { (d.emitCredit r).ring r with returned := d.rf r RF.consumed, advancedAt := none } :=
  if_pos ⟨message, remote, advanced, .inr quarter⟩

/-! ### Rings of a turn (R330) -/

theorem turnScopedTimeout_late {j : Nat} (isJob : j ≠ 0) (hub : d.hubOn = true) (hosted : jobParts m d j ≠ [])
    (still : ∀ p ∈ jobParts m d j, ∃ t, tFind p.val d.stillSince = some t ∧ t + 10000000 ≤ d.now)
    (runs : (d.job j).failed = false) (full : ringsDrained m d j = false) :
    turnScopedTimeout m j d = failJob m j 8 d := by
  refine if_pos ⟨isJob, hub, ?_, by simp [runs], by simp [full]⟩
  rw [Bool.and_eq_true, List.all_eq_true]
  refine ⟨by simpa using hosted, fun p hp => ?_⟩
  obtain ⟨t, since, due⟩ := still p hp
  simpa only [since] using decide_eq_true due

/-! ### Mirrors (R28, R217, R218) -/

theorem Dev.buddy_podOfOne (h : d.podOfOne = true) (j : Nat) : d.buddy j = none := if_pos h

theorem sendMember_readable {dst j e to_ : Nat} (h : d.badRead (e * extentSize) extentSize = false) :
    sendMember m dst j e to_ d = (sendExtent m dst j e to_ d).modJob j
      fun x => { x with unacked := x.unacked ++ [(dst, lastPacket to_)] } := if_neg (by simp [h])

theorem sendMember_bad {dst j e to_ : Nat} (h : d.badRead (e * extentSize) extentSize = true) :
    sendMember m dst j e to_ d = failJob m j 8 (raiseBad m (e * extentSize) extentSize (d.extentOwner e) d) := if_pos h

theorem mirrorSend_no_buddy {e : Nat} (h : d.buddy (partJob m d (partOf (d.xf e XF.owner))) = none) :
    mirrorSend m e d = d := by
  simp only [mirrorSend, h]

/-- The device with an extent that is no longer waiting to be sent. -/
def Dev.takeUnsent (d : Dev) (e : Nat) : Dev := { d with unsent := d.unsent.filter fun x => decide (x ≠ e) }

/-- A shadow member whose last write has completed is one to send. -/
theorem mirrorSend_written {e b j : Nat} (job : partJob m d (partOf (d.xf e XF.owner)) = j) (buddy : d.buddy j = some b)
    (isJob : j ≠ 0) (kind : d.xf e XF.kind = 3) (valid : d.xf e XF.state = 3) (shadow : d.isLive e = false)
    (unsent : e ∈ d.unsent) (done : d.extentBusy e = false) (fabric : d.fabricOn = true) :
    mirrorSend m e d = sendMember m b j e (d.mirrorOf j e) (d.takeUnsent e) := by
  subst job
  simp only [mirrorSend, buddy]
  exact if_neg (by simp [isJob, kind, valid, shadow, unsent, done, fabric])

/-- Settles O46: each row is the meaning of its case. What an error notice carries and which acknowledgement a sent member
awaits rest on log 31 of NOTES.md, the buddy and the place of a mirror on log 32. -/
theorem flowsAndMirrors : Obligations.FlowsAndMirrors := by
  unfold Obligations.FlowsAndMirrors
  intro s src job f h r ext d key c adv ps e j quiet
  refine ⟨fun flow late => row_after rfl quiet (flowFailed_late flow late),
    fun message remote advanced quarter => row_after rfl quiet (ringCreditReturn_quarter message remote advanced quarter),
    fun isJob hub hosted still runs full => row_after rfl quiet (turnScopedTimeout_late isJob hub hosted still runs full),
    fun b buddy isJob kind valid shadow unsent done fabric => ?_,
    fun alone => row_after rfl quiet (mirrorSend_no_buddy (Dev.buddy_podOfOne alone _))⟩
  have sends := mirrorSend_written (m := s.mem) rfl buddy isJob kind valid shadow unsent done fabric
  exact ⟨fun readable => row_after rfl quiet (sends.trans (sendMember_readable readable)),
    fun bad => row_after rfl quiet (sends.trans (sendMember_bad bad))⟩

end Sys2Proof.Machine
end

section
/-! What a banker, its standby and the devices of a job do with the banker's messages and limits: each meaning case by
case, then the statement. -/

namespace Sys2Proof.Machine

variable {m : Mem} {d : Dev} {x : BankerMsg}

/-! ### Rows of banker messages (R465) -/

section
variable {i : Instr} {s : State} {code : Nat} {e : Dev} {f : Mem → Dev → Dev}

/-- A message that the device takes has the effect of its meaning, once its number is recorded. -/
theorem row_newMessage (hx : exec i s = .next (s.run fun m d => takeMsg code x (f m) d)) (quiet : s.dev.stores = [])
    (new : s.dev.isNew code x) (he : f s.mem (s.dev.noted code x) = e) : Becomes i s e :=
  row_becomes hx quiet ((takeMsg_new _ new).trans he)

theorem row_oldMessage (hx : exec i s = .next (s.run fun m d => takeMsg code x (f m) d)) (quiet : s.dev.stores = [])
    (old : ¬ s.dev.isNew code x) : Becomes i s s.dev := row_becomes hx quiet (takeMsg_old _ old)

end

/-! ### Decisions (R28, R220, R416) -/

theorem Dev.decide_direct {j : Nat} {k : Decision}
    (h : d.role ≠ 4 ∨ d.flag F.BNK_STATUS_STANDBY_VALID = false) : d.decide_ j k = d.sendDecision j k := by
  refine if_neg fun ⟨active, standby⟩ => ?_
  rcases h with other | none
  · exact other active
  · simp [none] at standby

theorem Dev.decide_recorded {j : Nat} {k : Decision} (active : d.role = 4)
    (standby : d.flag F.BNK_STATUS_STANDBY_VALID = true) :
    let u := d.sendBanker (some (BitVec.ofNat 20 (d.fld F.BNK_STATUS_STANDBY))) 0x19 j k.turn (if k.commit then 1 else 2)
      k.castle 0
    d.decide_ j k = u.setBankJob j
      { u.bankJob j with decision := some { k with awaits := some (tGet 0 d.bankSeq 0x19) } } :=
  if_pos ⟨active, standby⟩

theorem Dev.declareFailure_podOfOne (alone : d.podOfOne = true) (j : Nat) : d.declareFailure j = d.endJob j :=
  if_pos ⟨alone, rfl⟩

theorem Dev.declareFailure_undecided {j : Nat} {cured : Bool} (goesOn : d.podOfOne = false ∨ cured = true)
    (runs : (d.bankJob j).failedAt = none) (undecided : (d.bankJob j).decision = none) :
    d.declareFailure j cured = d.decide_ j ⟨(d.bankJob j).turn, false, 0, none⟩ := by
  have notEnded : ¬ (d.podOfOne = true ∧ (!cured) = true) := by
    rcases goesOn with pod | cure
    · simp [pod]
    · simp [cure]
  unfold Dev.declareFailure
  rw [if_neg notEnded, runs, undecided]
  rfl

/-! ### Ready reports (R219, R220) -/

/-- The record of a job once a report of turn n has come: a turn after the record's opens it anew. -/
def BankJob.atTurn (b : BankJob) (n now : Nat) : BankJob :=
  if b.turn < n then { b with turn := n, ready := [], firstAt := none, since := now, attempts := 0 } else b

/-- The record of a job with a device's ready report in it. -/
def BankJob.withReady (b : BankJob) (x : BankerMsg) (now : Nat) : BankJob :=
  { b with ready := tPut x.device.toNat (x.f0.toNat, x.f1.toNat) b.ready, firstAt := some (b.firstAt.getD now) }

/-- The device with a ready report recorded for a job. -/
def Dev.recordReady (d : Dev) (x : BankerMsg) : Dev :=
  d.setBankJob x.job.toNat (((d.bankJob x.job.toNat).atTurn x.turn.toNat d.now).withReady x d.now)

theorem bankReady_idle (h : d.banks = false) : bankReady x d = d := if_pos (by simp [h])

section
variable (banks : d.banks = true)
include banks

/-- Without a decision of its turn a report is taken. -/
theorem bankReady_undecided (undecided : ((d.bankJob x.job.toNat).decision.bind fun e =>
    if e.turn = x.turn.toNat then some e else none) = none) :
    bankReady x d = bankReady.take x x.job.toNat x.turn.toNat (d.bankJob x.job.toNat) d := by
  simp only [bankReady, banks, undecided]
  rfl

section
variable {k : Decision} (decision : (d.bankJob x.job.toNat).decision = some k) (turn : k.turn = x.turn.toNat)
include decision turn

/-- A decision of the report's turn answers it, but for a failure whose replay has begun. -/
theorem bankReady_decided : bankReady x d =
    if k.awaits.isSome then d
    else if k.commit then d.sendBanker (some x.device) 0x13 x.job.toNat x.turn.toNat k.castle 0 0
    else if (d.bankJob x.job.toNat).failedAt.isSome then d.sendBanker (some x.device) 0x15 x.job.toNat x.turn.toNat 0 0 0
    else bankReady.take x x.job.toNat x.turn.toNat (d.bankJob x.job.toNat) d := by
  simp only [bankReady, banks, decision, Option.bind_some, turn, if_true]
  rfl

theorem bankReady_awaiting (awaits : k.awaits ≠ none) : bankReady x d = d :=
  (bankReady_decided banks decision turn).trans (if_pos (Option.isSome_iff_ne_none.2 awaits))

theorem bankReady_committed (released : k.awaits = none) (commit : k.commit = true) :
    bankReady x d = d.sendBanker (some x.device) 0x13 x.job.toNat x.turn.toNat k.castle 0 0 := by
  rw [bankReady_decided banks decision turn, if_neg (by simp [released]), if_pos commit]

theorem bankReady_failed (released : k.awaits = none) (failure : k.commit = false)
    (failed : (d.bankJob x.job.toNat).failedAt ≠ none) :
    bankReady x d = d.sendBanker (some x.device) 0x15 x.job.toNat x.turn.toNat 0 0 0 := by
  rw [bankReady_decided banks decision turn, if_neg (by simp [released]), if_neg (by simp [failure]),
    if_pos (Option.isSome_iff_ne_none.2 failed)]

end

end

theorem bankReady_take_past {j n : Nat} {b : BankJob} (past : n < b.turn) : bankReady.take x j n b d = d := if_pos past

/-- A report is recorded, and the last one decides the turn. -/
theorem bankReady_take_record (notPast : (d.bankJob x.job.toNat).turn ≤ x.turn.toNat) :
    let z := ((d.bankJob x.job.toNat).atTurn x.turn.toNat d.now).withReady x d.now
    let u := d.recordReady x
    bankReady.take x x.job.toNat x.turn.toNat (d.bankJob x.job.toNat) d =
      if (u.jobDevices x.job.toNat).all fun v => (tFind v z.ready).isSome then
        if x.turn.toNat + 1 = 2 ^ 48 then u.endJob x.job.toNat
        else u.decide_ x.job.toNat ⟨x.turn.toNat, true, b2n (z.ready.all fun e => decide (e.2.2 = 1)), none⟩
      else u :=
  if_neg (Nat.not_lt.2 notPast)

theorem all_reported_iff {α : Type} {l : List Nat} {t : Table α} :
    (l.all fun v => (tFind v t).isSome) = true ↔ ∀ v ∈ l, tFind v t ≠ none := by
  simp only [List.all_eq_true, Option.isSome_iff_ne_none]

/-! ### The standby (R220, R467) -/

theorem bankDecision_known (role : d.role = 3 ∨ d.role = 2) (active : d.fld F.BNK_STATUS_ACTIVE = x.device.toNat) :
    let u := (d.setRole 3).setStandby (some d.deviceId)
    bankDecision x d = ({ u with bank := { u.bank with
      heardAt := u.now
      decisions := tPut x.job.toNat ⟨x.turn.toNat, decide (x.f0 = 1), x.f1.toNat, none⟩ u.bank.decisions } } : Dev).sendBanker
        (some x.device) 0x1A x.job.toNat x.turn.toNat x.seq.toNat 0 0 := by
  have known : ((decide (d.role = 3) || decide (d.role = 2)) && decide (d.fld F.BNK_STATUS_ACTIVE = x.device.toNat)) = true := by
    simp [role, active]
  simp only [bankDecision, known]
  rfl

theorem bankDecision_unknown (h : ¬ ((d.role = 3 ∨ d.role = 2) ∧ d.fld F.BNK_STATUS_ACTIVE = x.device.toNat)) :
    bankDecision x d = d.sendBanker (some x.device) 0x1A x.job.toNat x.turn.toNat x.seq.toNat 1 0 := by
  have unknown : ((decide (d.role = 3) || decide (d.role = 2)) && decide (d.fld F.BNK_STATUS_ACTIVE = x.device.toNat)) = false := by
    simpa using h
  simp only [bankDecision, unknown]
  rfl

/-! ### Acknowledgements (R220, R466, R467) -/

theorem bankAck_electing (role : d.role = 1) : bankAck x d =
    if x.f1 = 0 then d.follow x.device.toNat (max x.epoch.toNat (d.fld F.BNK_EPOCH_EPOCH)) else d := by
  simp only [bankAck, role, decide_eq_true_eq]

/-- The standby's acknowledgement releases the decision whose message it names. -/
theorem bankAck_active {j : Nat} {z : BankJob} {k : Decision} (role : d.role = 4) (ok : x.f1 = 0)
    (standby : d.flag F.BNK_STATUS_STANDBY_VALID = true) (sender : d.fld F.BNK_STATUS_STANDBY = x.device.toNat)
    (awaiting : d.bank.jobs.find? (fun r => decide (r.2.decision.bind (fun y => y.awaits) = some x.f0.toNat)) = some (j, z))
    (decision : z.decision = some k) : bankAck x d = d.releaseDecision j k := by
  simp only [bankAck, role, ok, standby, sender, awaiting, decision]
  rfl

theorem bankAck_standby (role : d.role = 3) (active : d.fld F.BNK_STATUS_ACTIVE = x.device.toNat) :
    bankAck x d = { d with bank := { d.bank with heardAt := d.now, lostAt := none } } := by
  simp only [bankAck, role, active]
  rfl

/-! ### Limits (R220, R416, R421, R473) -/

theorem readyLimitExpiry_open {j t : Nat} (first : (d.bankJob j).firstAt = some t) (hub : d.hubOn = true)
    (banks : d.banks = true) (waits : (d.bankJob j).waits = false) : readyLimitExpiry j d =
      if t + 1000000 * d.fld F.BNK_READY_LIMIT_MS ≤ d.now then d.declareFailure j else d := by
  simp [readyLimitExpiry, first, hub, banks, waits]

theorem turnLimitExpiry_open {j : Nat} (hub : d.hubOn = true) (banks : d.banks = true) (known : tFind j d.bank.jobs ≠ none)
    (waits : (d.bankJob j).waits = false) (runs : (d.bankJob j).failedAt = none) : turnLimitExpiry j d =
      if (d.bankJob j).since + 1000000 * max 1 (d.fld F.BNK_TURN_LIMIT_MS) ≤ d.now then d.declareFailure j else d := by
  simp [turnLimitExpiry, hub, banks, Option.isSome_iff_ne_none.2 known, waits, runs]

theorem quiesceTimeout_failed {j t : Nat} (failed : (d.bankJob j).failedAt = some t) (hub : d.hubOn = true)
    (banks : d.banks = true) : quiesceTimeout j d =
      if t + 1000000000 ≤ d.now then
        ((d.jobDevices j).filter fun v => !(d.bankJob j).quiesced.contains v).foldl Dev.failMember d
      else d := by
  simp [quiesceTimeout, failed, hub, banks]

/-! ### Failure reports (R28, R415, R416, R421) -/

/-- The device once a failure report has come, with the sender failed where the report names a failure of the whole
device. -/
def Dev.failureSender (d : Dev) (x : BankerMsg) : Dev :=
  if 5 ≤ x.f0.toNat ∧ x.f0.toNat ≤ 7 then d.failMember x.device.toNat else d

/-- The record of the job that a failure report names, at the report's turn. -/
def Dev.failureJob (d : Dev) (x : BankerMsg) : BankJob :=
  ((d.failureSender x).bankJob x.job.toNat).atTurn x.turn.toNat (d.failureSender x).now

/-- The device with a failure report taken in, before the failure is declared. -/
def Dev.recordFailure (d : Dev) (x : BankerMsg) : Dev := (d.failureSender x).setBankJob x.job.toNat (d.failureJob x)

theorem failureSender_of_code : (if (decide (5 ≤ x.f0.toNat) && decide (x.f0.toNat ≤ 7)) = true then
    d.failMember x.device.toNat else d) = d.failureSender x := by
  simp only [Dev.failureSender, Bool.and_eq_true, decide_eq_true_eq]

theorem failureReport_idle (h : d.banks = false) : failureReport m x d = d := if_pos (by simp [h])

section
variable (banks : d.banks = true)
include banks

theorem failureReport_undecided (undecided : (d.failureJob x).decision = none) :
    failureReport m x d =
      (d.recordFailure x).declareFailure x.job.toNat (fencingCured m x (d.recordFailure x)) := by
  unfold Dev.failureJob BankJob.atTurn at undecided
  unfold failureReport
  rw [if_neg (by simp [banks])]
  dsimp only
  rw [failureSender_of_code, undecided]
  rfl

/-- Where the turn is already committed, the notice is repeated before the failure is declared. -/
theorem failureReport_decided {k : Decision} (decision : (d.failureJob x).decision = some k) :
    failureReport m x d =
      let v := d.recordFailure x
      let cured := fencingCured m x v
      if k.commit = true ∧ k.turn = x.turn.toNat ∧ k.awaits = none then
        (v.sendJob 0x13 x.job.toNat x.turn.toNat k.castle).declareFailure x.job.toNat cured
      else v.declareFailure x.job.toNat cured := by
  unfold Dev.failureJob BankJob.atTurn at decision
  unfold failureReport
  rw [if_neg (by simp [banks])]
  dsimp only
  rw [failureSender_of_code, decision]
  simp only [Bool.and_eq_true, decide_eq_true_eq, Option.isNone_iff_eq_none, and_assoc]
  rfl

end

/-! ### Quiesced devices (R416) -/

theorem bankQuiesced_failed (banks : d.banks = true) (failed : (d.bankJob x.job.toNat).failedAt ≠ none)
    (turn : (d.bankJob x.job.toNat).turn = x.turn.toNat) : bankQuiesced x d =
      (d.setBankJob x.job.toNat { d.bankJob x.job.toNat with
        quiesced := (d.bankJob x.job.toNat).quiesced ++ [x.device.toNat] }).checkQuiet x.job.toNat :=
  if_pos (by simp [banks, Option.isSome_iff_ne_none.2 failed, turn])

theorem bankQuiesced_other (h : (d.bankJob x.job.toNat).failedAt = none ∨ (d.bankJob x.job.toNat).turn ≠ x.turn.toNat) :
    bankQuiesced x d = d := by
  refine if_neg ?_
  rcases h with runs | turn
  · simp [runs]
  · simp [turn]

/-! ### Spares (R221, R425) -/

theorem Dev.substitutes_eq_true_iff {j failed spare : Nat} : d.substitutes j failed spare = true ↔
    d.role = 4 ∧ failed ∈ d.jobDevices j ∧ (d.member (podIndex failed)).state = 2 ∧
      (d.member (podIndex spare)).spare = true ∧ (d.member (podIndex spare)).state = 1 ∧ tFind j d.bank.jobs ≠ none := by
  simp [Dev.substitutes, Option.isSome_iff_ne_none, and_assoc]

section
variable {j failed spare : Nat} (hub : d.hubOn = true)
include hub

/-- The active banker fails the turn, and where that leaves the job its record, the spare takes the place. -/
theorem spareSubstitution_active (active : d.role = 4) (substitutes : d.substitutes j failed spare = true) :
    let e := d.declareFailure j
    let z := e.bankJob j
    spareSubstitution m j failed spare d =
      if tFind j e.bank.jobs = none then e
      else ((restoreTo m j failed spare (e.setBankJob j { z with quiesced := z.quiesced ++ [spare] })).modMember
        (podIndex spare) fun r => { r with state := 3 }).checkQuiet j := by
  simp only [spareSubstitution, hub, active, substitutes, Option.isNone_iff_eq_none]
  rfl

theorem spareSubstitution_refused (active : d.role = 4) (refused : d.substitutes j failed spare = false) :
    spareSubstitution m j failed spare d = d := by
  simp [spareSubstitution, hub, active, refused]

theorem spareSubstitution_elsewhere (other : d.role ≠ 4) : spareSubstitution m j failed spare d =
    if failed ∈ d.jobDevices j then restoreTo m j failed spare d else d := by
  simp [spareSubstitution, hub, other]

end

/-! ### Reports about ports (R312) -/

theorem bankPartner_banks (banks : d.banks = true) : bankPartner x d = { d with bank := { d.bank with
    reports := tPut (x.device.toNat * 16 + x.f0.toNat % 16) x.f1.toNat d.bank.reports } } := if_pos banks

/-! ### The statement -/

/-- Settles O57: each row is the meaning of its case, on the device with the message's number recorded. That a decision
without a standby is sent at once, that a member becomes standby by a DECISION and that the last turn number ends the job
(R197) rest on log 39 of NOTES.md, that a substituted spare counts as quiesced and what ends the job of a pod of one on
log 40, what goes to a spare on log 32. -/
theorem bankersDecide : Obligations.BankersDecide := by
  unfold Obligations.BankersDecide
  intro s x j a b k t d n job dev y quiet
  refine ⟨?ready, ?decision, ?ack, ?readyLimit, ?turnLimit, fun d i alone => Dev.declareFailure_podOfOne alone i,
    fun d i cured goesOn runs undecided => Dev.declareFailure_undecided goesOn runs undecided,
    fun d i v => Dev.decide_direct, fun d i v => Dev.decide_recorded, ?failure, ?quiesced, ?quiesceLimit, ?spare,
    fun hub active refused => row_after rfl quiet (spareSubstitution_refused hub active refused),
    fun hub other hosted => row_after rfl quiet ((spareSubstitution_elsewhere hub other).trans (if_pos hosted)),
    fun hub other apart => row_after rfl quiet ((spareSubstitution_elsewhere hub other).trans (if_neg apart)),
    fun new banks => row_newMessage rfl quiet new (bankPartner_banks banks), ?old⟩
  case ready =>
    intro new e z has
    have row : ∀ {u}, bankReady x e = u → Becomes (.ready x) s u :=
      row_newMessage (f := fun _ => bankReady x) rfl quiet new
    refine ⟨fun idle => row (bankReady_idle idle),
      fun banks undecided past => row ((bankReady_undecided banks undecided).trans (bankReady_take_past past)),
      fun banks undecided notPast => ?recorded,
      fun banks decision turn awaits => row (bankReady_awaiting banks decision turn awaits),
      fun banks decision turn released commit => row (bankReady_committed banks decision turn released commit),
      fun banks decision turn released failure failed =>
        row (bankReady_failed banks decision turn released failure failed)⟩
    have taken := (bankReady_undecided banks undecided).trans (bankReady_take_record notPast)
    exact ⟨fun ⟨v, hv, missing⟩ => row (taken.trans (if_neg fun all => all_reported_iff.1 all v hv missing)),
      fun all next => row (taken.trans ((if_pos (all_reported_iff.2 all)).trans (if_neg next))),
      fun all last => row (taken.trans ((if_pos (all_reported_iff.2 all)).trans (if_pos last)))⟩
  case decision =>
    intro new e known
    exact ⟨fun unknown => row_newMessage rfl quiet new (bankDecision_unknown unknown),
      fun ⟨role, active⟩ => row_newMessage rfl quiet new (bankDecision_known role active)⟩
  case ack =>
    intro new e
    have row : ∀ {u}, bankAck x e = u → Becomes (.ack x) s u := row_newMessage (f := fun _ => bankAck x) rfl quiet new
    exact ⟨fun role ok => row ((bankAck_electing role).trans (if_pos ok)),
      fun role refused => row ((bankAck_electing role).trans (if_neg refused)),
      fun i z role ok standby sender awaiting decision =>
        row (bankAck_active role ok standby sender awaiting decision),
      fun role active => row (bankAck_standby role active)⟩
  case readyLimit =>
    intro first hub banks waits
    have limit := readyLimitExpiry_open first hub banks waits
    exact ⟨fun due => row_becomes rfl quiet (limit.trans (if_pos due)),
      fun early => row_becomes rfl quiet (limit.trans (if_neg (Nat.not_le.2 early)))⟩
  case turnLimit =>
    intro hub banks known waits runs
    have limit := turnLimitExpiry_open hub banks known waits runs
    exact ⟨fun due => row_becomes rfl quiet (limit.trans (if_pos due)),
      fun early => row_becomes rfl quiet (limit.trans (if_neg (Nat.not_le.2 early)))⟩
  case failure =>
    intro new e u z z0 v cured
    have row : ∀ {u}, failureReport s.mem x e = u → Becomes (.failureReport x) s u :=
      row_newMessage (f := fun m => failureReport m x) rfl quiet new
    refine ⟨fun idle => row (failureReport_idle idle),
      fun banks undecided => row (failureReport_undecided banks undecided),
      fun banks decision commit turn released => row ((failureReport_decided banks decision).trans
        (if_pos ⟨commit, turn, released⟩)),
      fun banks decision other => row ((failureReport_decided banks decision).trans
        (if_neg fun ⟨commit, turn, released⟩ => ?_))⟩
    rcases other with failure | otherTurn | awaits
    · simp [failure] at commit
    · exact otherTurn turn
    · exact awaits released
  case quiesced =>
    intro new e z
    exact ⟨fun banks failed turn => row_newMessage rfl quiet new (bankQuiesced_failed banks failed turn),
      fun other => row_newMessage rfl quiet new (bankQuiesced_other other)⟩
  case quiesceLimit =>
    intro failed hub banks
    have limit := quiesceTimeout_failed failed hub banks
    exact ⟨fun due => row_becomes rfl quiet (limit.trans (if_pos due)),
      fun early => row_becomes rfl quiet (limit.trans (if_neg (Nat.not_le.2 early)))⟩
  case spare =>
    intro hub active hosted failed spare live known e z u
    have placed := spareSubstitution_active (m := s.mem) hub active
      (Dev.substitutes_eq_true_iff.2 ⟨active, hosted, failed, spare, live, known⟩)
    exact ⟨fun ended => row_after rfl quiet (placed.trans (if_pos ended)),
      fun goesOn => row_after rfl quiet (placed.trans (if_neg goesOn))⟩
  case old =>
    intro i c mem old
    simp only [List.mem_cons, Prod.mk.injEq, List.not_mem_nil, or_false] at mem
    obtain ⟨rfl, rfl⟩ | ⟨rfl, rfl⟩ | ⟨rfl, rfl⟩ | ⟨rfl, rfl⟩ | ⟨rfl, rfl⟩ | ⟨rfl, rfl⟩ := mem
    all_goals exact row_oldMessage rfl quiet old

end Sys2Proof.Machine
end

section
/-! What an integer and a block scale decode to (R31, R32): first the two's-complement value of the low bits for every
width, then the statements. -/

namespace Sys2Proof.Machine

/-! ### Two's complement (R31) -/

theorem sext_eq_bmod {w : Nat} (hw : 0 < w) (n : Nat) : sext n w = (n : Int).bmod (2 ^ w) := by
  obtain ⟨v, rfl⟩ : ∃ v, w = v + 1 := ⟨w - 1, by omega⟩
  have half : (((2 ^ (v + 1) : Nat) : Int) + 1) / 2 = (2 ^ v : Nat) := by
    rw [pow_succ]
    omega
  simp only [sext, Int.bmod, half, Nat.add_sub_cancel, ← Int.natCast_emod, Nat.cast_lt]

theorem neg_le_sext {w : Nat} (hw : 0 < w) (n : Nat) : -(2 ^ w / 2) ≤ sext n w := by
  rw [sext_eq_bmod hw]
  exact_mod_cast Int.le_bmod (x := n) (Nat.two_pow_pos w)

theorem sext_lt {w : Nat} (hw : 0 < w) (n : Nat) : sext n w < (2 ^ w + 1) / 2 := by
  rw [sext_eq_bmod hw]
  exact_mod_cast Int.bmod_lt (x := n) (Nat.two_pow_pos w)

theorem sext_emod {w : Nat} (hw : 0 < w) (n : Nat) : sext n w % 2 ^ w = n % 2 ^ w := by
  rw [sext_eq_bmod hw]
  exact_mod_cast Int.bmod_emod (x := n) (m := 2 ^ w)

theorem toBits_lt (x : Int) (w : Nat) : toBits x w < 2 ^ w := by
  have := Int.emod_lt_of_pos x (Int.natCast_pos.2 (Nat.two_pow_pos w))
  unfold toBits
  omega

/-- Two's complement of width `w` represents every integer of its range. -/
theorem sext_toBits {w : Nat} (hw : 0 < w) {x : Int} (low : -(2 ^ w / 2) ≤ x) (high : x < (2 ^ w + 1) / 2) :
    sext (toBits x w) w = x := by
  have cast : (toBits x w : Int) = x % (2 ^ w : Nat) :=
    Int.toNat_of_nonneg (Int.emod_nonneg x (by exact_mod_cast (Nat.two_pow_pos w).ne'))
  rw [sext_eq_bmod hw, cast, Int.emod_bmod]
  exact Int.bmod_eq_of_le (by exact_mod_cast low) (by exact_mod_cast high)

/-! ### Integers as values (R31) -/

theorem decodeVal_int8 (n : Nat) : decodeVal .int8 n = Val.ofInt (sext n 8) := rfl

theorem decodeVal_int4 (n : Nat) : decodeVal .int4 n = Val.ofInt (sext n 4) := rfl

theorem Val.ofInt_ne_negZero (x e : Int) : Val.ofInt x ≠ .fin true 0 e := by
  intro h
  obtain ⟨negative, zero, -⟩ := Val.fin.inj h
  have := of_decide_eq_true negative
  omega

theorem Val.ofInt_ne_inf (x : Int) (s : Bool) : Val.ofInt x ≠ .inf s := nofun

theorem Val.ofInt_ne_nan (x : Int) : Val.ofInt x ≠ .nan := nofun

/-- Settles O34: an integer encoding decodes to the two's-complement value of its low bits, whose range, residue and
inverse hold for every width. -/
theorem integersDecode : Obligations.IntegersDecode := by
  unfold Obligations.IntegersDecode
  refine ⟨fun n => ⟨sext n 8, decodeVal_int8 n, neg_le_sext (by decide) n,
      Int.le_of_lt_add_one (sext_lt (by decide) n), sext_emod (by decide) n⟩,
    fun n => ⟨sext n 4, decodeVal_int4 n, neg_le_sext (by decide) n,
      Int.le_of_lt_add_one (sext_lt (by decide) n), sext_emod (by decide) n⟩,
    fun x low high => ⟨toBits x 8, toBits_lt x 8, (decodeVal_int8 _).trans
      (congrArg Val.ofInt (sext_toBits (by decide) low (Int.lt_add_one_of_le high)))⟩,
    fun x low high => ⟨toBits x 4, toBits_lt x 4, (decodeVal_int4 _).trans
      (congrArg Val.ofInt (sext_toBits (by decide) low (Int.lt_add_one_of_le high)))⟩, ?special⟩
  case special =>
    intro n s e f integer
    obtain ⟨x, decodes⟩ : ∃ x, decodeVal f n = Val.ofInt x := by
      simp only [List.mem_cons, List.not_mem_nil, or_false] at integer
      obtain rfl | rfl := integer
      · exact ⟨_, decodeVal_int8 n⟩
      · exact ⟨_, decodeVal_int4 n⟩
    rw [decodes]
    exact ⟨Val.ofInt_ne_negZero x e, Val.ofInt_ne_inf x s, Val.ofInt_ne_nan x⟩

/-! ### Block scales (R32) -/

theorem decodeVal_e8m0_nan {n : Nat} (ones : n % 256 = 255) : decodeVal .e8m0 n = .nan := if_pos ones

theorem decodeVal_e8m0_power {n : Nat} (scale : n % 256 ≠ 255) :
    decodeVal .e8m0 n = .fin false 1 ((n % 256 : Nat) - 127) := if_neg scale

/-- Settles O35: an encoding whose low byte is 255 decodes to NaN, every other one to a positive power of two. -/
theorem scalesDecode : Obligations.ScalesDecode := by
  unfold Obligations.ScalesDecode
  intro n
  refine ⟨fun scale => decodeVal_e8m0_power (by omega), decodeVal_e8m0_nan, fun m e s => ?_⟩
  by_cases ones : n % 256 = 255
  · simp [decodeVal_e8m0_nan ones]
  · simp [decodeVal_e8m0_power ones]

end Sys2Proof.Machine
end

section
/-! What the matrix unit of a core does by itself: each meaning in the case where its moment has come, then the
statement. -/

namespace Sys2Proof.Machine

variable {d : Dev} {c : CoreId}

/-! ### Tile loads and passes end (R63, R67 to R69, R117) -/

theorem tileLoadDone_due {t : TileLoad} (loads : (d.core c).tileLoad = some t) (due : t.due ≤ d.cycle c) :
    tileLoadDone c d = ((d.modCore c fun x => { x with tileLoad := none, shadow := some t.tile, shadowFresh := true }).modSlot
      c t.slot fun y => y.complete t.cmd).restartTimer c 0 := by
  unfold tileLoadDone
  rw [loads]
  exact if_neg (Nat.not_lt.2 due)

theorem passComplete_due {p : PassRec} {l : List PassRec} (oldest : (d.core c).passes = p :: l) (entered : p.edge = false)
    (due : p.due ≤ d.cycle c) : passComplete c d = d.finishPass c p l := by
  unfold passComplete
  rw [oldest]
  exact if_neg (by simp [entered, due])

/-! ### Drains of groups (R80, R92, R158) -/

/-- Cycles in which the rows of a group enter the epilogue. -/
def Group.drainCycles (gr : Group) (epi : Nat) : Nat :=
  (if gr.long then 8 else 32) * gr.count * epiRowCycles epi (512 / widthOf gr.width) (widthOf gr.width)

/-- The closed group's drain has the copy of its entries, and the group is free once its rows are in the epilogue. -/
theorem groupDrainStart_ready {g : GroupId} {cl : Closing} (closes : ((d.core c).group g).closing = some cl)
    (ready : cl.ready = true) (visible : cl.startAt ≤ d.cycle c) :
    let x := d.core c
    let gr := x.group g
    let free := d.cycle c + gr.drainCycles cl.epi
    groupDrainStart c g d = d.setCore c { x.setGroup g { gr with closing := none, freeAt := some free } with
      drains := x.drains ++ [⟨g, gr, cl, free - 1 + 12⟩] } := by
  unfold groupDrainStart
  dsimp only
  rw [closes]
  exact if_neg (by simp [ready, visible])

theorem groupDrainEnd_due {g : GroupId} {y : GroupDrain} (drains : (d.core c).drainOf g = some y)
    (due : y.endAt ≤ d.cycle c) : groupDrainEnd c g d = d.drainGroup c y := by
  unfold groupDrainEnd
  rw [drains]
  exact if_neg (Nat.not_lt.2 due)

/-! ### Drains of the outer product (R72, R81, R158) -/

/-- Cycles in which the rows of the outer-product registers leave the cells. -/
def OpRegs.drainCycles (o : OpRegs) (epi : Nat) : Nat := 128 * epiRowCycles epi 1 (opWidth o.cls)

/-- The registers' drain has the copy of them, and the cells are held until its rows have left them. -/
theorem outerProductDrainStart_ready {cl : Closing} (closes : (d.core c).op.closing = some cl) (ready : cl.ready = true)
    (idle : (d.core c).opDrain = none) (absorbed : cl.startAt < d.cycle c) :
    let x := d.core c
    let free := d.cycle c + x.op.drainCycles cl.epi
    outerProductDrainStart c d = d.setCore c { x with
      op := {}, opDrain := some ⟨x.op, cl, free - 1 + 15⟩, cellsFreeFrom := free
      cellSpans := x.cellSpans ++ [(d.cycle c, free)] } := by
  unfold outerProductDrainStart
  dsimp only
  rw [closes]
  exact if_neg (by simp [ready, idle, absorbed])

theorem outerProductDrainEnd_due {y : OpDrain} (drains : (d.core c).opDrain = some y) (due : y.endAt ≤ d.cycle c) :
    outerProductDrainEnd c d = d.drainOuter c y := by
  unfold outerProductDrainEnd
  rw [drains]
  exact if_neg (Nat.not_lt.2 due)

/-! ### The holder of the unit (R116, R126, R149) -/

/-- The cycle in which the last pass has left the cells; the present one when there is none. -/
def Core.passLeaves (x : Core) (now : Nat) : Nat :=
  match x.lastPass with
  | none => now
  | some l => l.lastIssue + (if l.wide then 383 else 639)

/-- The cycle in which no tile load is in flight. -/
def Core.loadEnds (x : Core) (now : Nat) : Nat :=
  match x.tileLoad with
  | some t => t.due
  | none => now

/-- The cycle in which a change to a holder ends that begins now: once the pass, the tile load and the cells leave the
unit free, the outgoing holder's tiles are saved and the incoming one's loaded. -/
def Core.changeEnds (x : Core) (next : Ctx) (now : Nat) : Nat :=
  max now (max (x.passLeaves now) (max (x.loadEnds now) x.cellsFreeFrom)) +
    (if x.holder.isSome then 132 else 0) + (if next.loadedTile then 66 else 0)

theorem holderChange_begins {i : Nat} {y : Ctx} (idle : (d.core c).change = none) (free : (d.core c).edgeHeld = false)
    (gives : d.holderGives c = true)
    (picked : arbPick (d.core c).arb.matrix (fun i => d.matrixReady c (slotOf i) &&
      decide ((d.core c).holder ≠ some (slotOf i))) = some i)
    (resident : d.slotCtx c (slotOf i) = some y) :
    let x := d.core c
    holderChange c d = d.setCore c { x with
      change := some ⟨slotOf i, d.cycle c, x.changeEnds y (d.cycle c)⟩, arb := { x.arb with matrix := arbNext i } } := by
  have goes : ¬ ((d.core c).change.isSome || (d.core c).edgeHeld || !d.holderGives c) = true := by simp [idle, free, gives]
  unfold holderChange
  dsimp only
  rw [if_neg goes, picked]
  dsimp only
  rw [resident]
  rfl

theorem Dev.holderGives_of_ready {h : SlotId} (holds : (d.core c).holder = some h) (ready : d.matrixReady c h = true) :
    d.holderGives c = false := by
  unfold Dev.holderGives
  rw [holds]
  simp [ready]

/-- A holder that has a command ready keeps the unit. -/
theorem holderChange_keeps {h : SlotId} (holds : (d.core c).holder = some h) (ready : d.matrixReady c h = true) :
    holderChange c d = d :=
  if_pos (by simp [Dev.holderGives_of_ready holds ready])

theorem holderChangeDone_due {ch : HolderChange} {y : Ctx} (changes : (d.core c).change = some ch)
    (due : ch.endAt ≤ d.cycle c) (loaded : (d.core c).tileLoad = none)
    (resident : (d.tilesOut c).slotCtx c ch.next = some y) :
    holderChangeDone c d = ((d.tilesOut c).setCore c { d.core c with
      holder := some ch.next, change := none, active := y.tiles.1, shadow := y.tiles.2, shadowFresh := y.tilesFresh
      lastPass := none }).count F.CORE_HOLDER_CYCLES_CYCLES (ch.endAt - ch.startAt) c.val := by
  have goes : ¬ (decide (d.cycle c < ch.endAt) || (d.core c).tileLoad.isSome) = true := by simp [due, loaded]
  unfold holderChangeDone
  dsimp only
  rw [changes]
  dsimp only
  rw [if_neg goes, resident]

/-! ### The statement -/

/-- Settles O39: each row is its meaning in the case that its moment has come. -/
theorem matrixEventsAct : Obligations.MatrixEventsAct := by
  unfold Obligations.MatrixEventsAct
  refine ⟨fun s c g quiet => ⟨?loadEnds, ?passEnds, ?groupStarts, ?groupEnds, ?outerStarts, ?outerEnds⟩,
    fun s c i ch y quiet => ⟨?begins, ?keeps, ?ends⟩⟩
  case loadEnds => exact fun t loads due => row_afterOn rfl quiet (tileLoadDone_due loads due)
  case passEnds => exact fun p l oldest entered due => row_afterOn rfl quiet (passComplete_due oldest entered due)
  case groupStarts => exact fun cl closes ready visible => row_afterOn rfl quiet (groupDrainStart_ready closes ready visible)
  case groupEnds => exact fun y drains due => row_afterOn rfl quiet (groupDrainEnd_due drains due)
  case outerStarts =>
    exact fun cl closes ready idle absorbed =>
      row_afterOn rfl quiet (outerProductDrainStart_ready closes ready idle absorbed)
  case outerEnds => exact fun y drains due => row_afterOn rfl quiet (outerProductDrainEnd_due drains due)
  case begins =>
    exact fun idle free gives picked resident =>
      row_afterOn rfl quiet (holderChange_begins idle free gives picked resident)
  case keeps => exact fun h holds ready => row_afterOn rfl quiet (holderChange_keeps holds ready)
  case ends =>
    exact fun changes due loaded resident => row_afterOn rfl quiet (holderChangeDone_due changes due loaded resident)

end Sys2Proof.Machine
end

section
/-! The hart that round robin picks: what it executes, the end of its wait, its exceptions, and the tensor-issue
instructions (R108, R109, R113, R115, R257). -/

namespace Sys2Proof.Machine

variable {d : Dev} {c : CoreId} {k : SlotId} {key : Nat} {y : Ctx}

/-! ### The resident context of a slot -/

theorem Dev.slotCtx_of_key (holds : (d.core c).slotKey k = some key) : d.slotCtx c k = d.ctx? key := by
  unfold Dev.slotCtx
  rw [holds]
  rfl

/-! ### The pick (R108, R115) -/

section
variable (holds : (d.core c).slotKey k = some key) (resident : d.ctx? key = some y) (picked : d.hartPick c = some k)
include holds resident picked

theorem issueHart_picked (f : Ctx → HOut) :
    issueHart c k f d = finishInstr c k y key (if y.wait.isSome then .next y.endWait else f y) d := by
  unfold issueHart
  rw [if_pos picked, Dev.slotCtx_of_key holds, holds, resident]

theorem hartInstruction_executes (free : y.wait = none) :
    hartInstruction c d = finishInstr c k y key (y.fetchExec d.now fun q => (d.core c).executing k q) d := by
  unfold hartInstruction
  rw [picked]
  dsimp only
  rw [issueHart_picked holds resident picked, free]
  rfl

theorem hartInstruction_endsWait (waits : y.wait.isSome = true) :
    hartInstruction c d = (d.hartServed c k).setCtx key y.endWait := by
  unfold hartInstruction
  rw [picked]
  dsimp only
  rw [issueHart_picked holds resident picked, if_pos waits]
  rfl

theorem issueTensor_picked (free : y.wait = none) (f : Ctx → HOut) :
    issueTensor c k f d = finishInstr c k y key (f y) d := by
  unfold issueTensor
  rw [Dev.slotCtx_of_key holds, resident]
  dsimp only
  rw [issueHart_picked holds resident picked, free]
  rfl

/-- An instruction of the extension leaves the context of the picked slot as its meaning says. -/
theorem issueTensor_next (free : y.wait = none) {f : Ctx → HOut} {z : Ctx} (next : f y = .next z) :
    issueTensor c k f d = (d.hartServed c k).setCtx key z := by
  rw [issueTensor_picked holds resident picked free, next]
  rfl

theorem issueTensor_trap (free : y.wait = none) {f : Ctx → HOut} {cause tval : Nat} (trap : f y = .trap cause tval) :
    issueTensor c k f d = ((d.hartServed c k).setCtx key (y.trapped cause tval)).contextFault key cause tval := by
  rw [issueTensor_picked holds resident picked free, trap]
  rfl

end

/-- Settles O9: a picked hart executes at its pc or ends its wait, and what follows is the outcome's effect. -/
theorem hartsRun : Obligations.HartsRun := by
  unfold Obligations.HartsRun
  intro s c k key y d busy quiet holds resident picked
  refine ⟨?goesOn, ?traps, ?endsWait⟩
  case goesOn =>
    intro z free next
    refine row_afterOn rfl quiet ((hartInstruction_executes holds resident picked free).trans ?_)
    rw [next]
    rfl
  case traps =>
    intro cause tval free trap
    refine row_afterOn rfl quiet ((hartInstruction_executes holds resident picked free).trans ?_)
    rw [trap]
    rfl
  case endsWait => exact fun waits => row_afterOn rfl quiet (hartInstruction_endsWait holds resident picked waits)

/-! ### The tensor-issue extension (R112, R113) -/

section
variable {q : QueueId} {rd : BitVec 5} {rs1 rs2 : Nat} {busy : QueueId → Bool}

theorem Ctx.tpush_misaligned (odd : (y.x rs1).toNat % 64 ≠ 0) : y.tpush q rd.toNat rs1 = .trap 4 (y.x rs1).toNat := if_pos odd

/-- What a push of an aligned command of the data window does depends on the room of its queue alone. -/
theorem Ctx.tpush_aligned (aligned : (y.x rs1).toNat % 64 = 0) (low : dataBase ≤ (y.x rs1).toNat)
    (high : (y.x rs1).toNat + 64 ≤ dataBase + winBytes) :
    let word := BitVec.ofNat 512 (bNat y.dmem ((y.x rs1).toNat - dataBase) 64)
    y.tpush q rd.toNat rs1 = if y.full q then .next { y with wait := some (.push q rd word) }
      else .next ((y.push q rd.toNat word).adv 4) := by
  unfold Ctx.tpush
  dsimp only
  rw [if_neg (not_not_intro aligned), if_neg (by omega), BitVec.ofNat_toNat, BitVec.setWidth_eq]

theorem Ctx.full_iff : y.full q = true ↔ 64 ≤ (y.queue q).cmds.length := decide_eq_true_iff

theorem Ctx.semwait_goesOn (ok : semOk (y.sem ((y.x rs1).toNat % 32)) ((y.x rs2).setWidth 16) = true) :
    y.semwait rs1 rs2 = .next (y.adv 4) := if_pos ok

theorem Ctx.semwait_waits (short : semOk (y.sem ((y.x rs1).toNat % 32)) ((y.x rs2).setWidth 16) = false) :
    y.semwait rs1 rs2 =
      .next { y with wait := some (.sem (BitVec.ofNat 5 ((y.x rs1).toNat % 32)) ((y.x rs2).setWidth 16)) } :=
  if_neg (by simp [short])

/-- A fence goes on when each queue that it selects is empty and idle. -/
theorem Ctx.tfence_goesOn
    (idle : ∀ q : QueueId, ((y.x rs1).setWidth 3).getLsbD q.val = true → (y.queue q).cmds = [] ∧ busy q = false) :
    y.tfence rs1 busy = .next (y.adv 4) := by
  refine if_pos (List.all_eq_true.2 fun q _ => ?_)
  cases selected : ((y.x rs1).setWidth 3).getLsbD q.val with
  | false => rfl
  | true =>
    obtain ⟨empty, rests⟩ := idle q selected
    simp [empty, rests]

/-- One selected queue that holds or executes a command keeps a fence waiting. -/
theorem Ctx.tfence_waits (selected : ((y.x rs1).setWidth 3).getLsbD q.val = true)
    (works : (y.queue q).cmds ≠ [] ∨ busy q = true) :
    y.tfence rs1 busy = .next { y with wait := some (.fence ((y.x rs1).setWidth 3)) } := by
  have everyQueue : q ∈ [(0 : QueueId), 1, 2] := by fin_cases q <;> simp
  refine if_neg fun free => ?_
  have idle := List.all_eq_true.1 free q everyQueue
  simp only [selected, Bool.not_true, Bool.false_or, Bool.and_eq_true, List.isEmpty_iff, Bool.not_eq_true'] at idle
  obtain ⟨empty, rests⟩ := idle
  obtain holds | executes := works
  · exact holds empty
  · exact Bool.false_ne_true (rests.symm.trans executes)

end

/-- Settles O10: each instruction is its meaning on the picked context. That a misaligned command takes mcause 4 rests on
log 11 of NOTES.md. -/
theorem tensorInstructionsAct : Obligations.TensorInstructionsAct := by
  unfold Obligations.TensorInstructionsAct
  intro s c k key y rd rs1 rs2 d busy went a n v sel word quiet holds resident picked free
  have goes {i : Instr} {f : Dev → Ctx → HOut} {z : Ctx}
      (row : exec i s = .next (s.run fun m d => afterCore m c false (issueTensor c k (f d) d))) (next : f d y = .next z) :
      AfterOn i s c (went z) := row_afterOn row quiet (issueTensor_next holds resident picked free next)
  refine ⟨?push, fun ok => goes rfl (Ctx.semwait_goesOn ok), fun short => goes rfl (Ctx.semwait_waits short),
    goes rfl rfl, goes rfl rfl, fun idle => goes rfl (Ctx.tfence_goesOn idle),
    fun q selected works => goes rfl (Ctx.tfence_waits selected works)⟩
  case push =>
    intro q i instr
    have row : exec i s = .next (s.run fun m d => afterCore m c false
        (issueTensor c k (fun y => y.tpush q rd.toNat rs1.toNat) d)) := by
      simp only [List.mem_cons, Prod.mk.injEq, List.not_mem_nil, or_false] at instr
      obtain ⟨rfl, rfl⟩ | ⟨rfl, rfl⟩ | ⟨rfl, rfl⟩ := instr
      all_goals rfl
    refine ⟨fun aligned low high room => goes row ?_, fun aligned low high full => goes row ?_,
      fun odd => row_afterOn row quiet (issueTensor_trap holds resident picked free (Ctx.tpush_misaligned odd))⟩
    · exact (Ctx.tpush_aligned aligned low high).trans (if_neg fun full => Nat.not_lt.2 (Ctx.full_iff.1 full) room)
    · exact (Ctx.tpush_aligned aligned low high).trans (if_pos (Ctx.full_iff.2 full))

end Sys2Proof.Machine
end

section
/-! The control registers of a core's units (R101, R144, R151, R179), and swaps: what a write of CORE_c_SWAP asks for, when
a swap begins, and what its end leaves (R140, R141, R146, R232, R260). -/

namespace Sys2Proof.Machine

variable {d : Dev} {c : CoreId}

/-! ### Control registers -/

theorem aryCtl_hold (hold : Bool) : aryCtl c (b2n hold) d = d.setFld F.ARY_CTL_HOLD (b2n hold) c.val := by
  cases hold
  · rfl
  · rfl

theorem aryCtl_clears {r : Nat} (bit : r < 2) : aryCtl c (2 + r) d =
    (((((d.setFld F.ARY_CTL_HOLD r c.val).setFld F.ARY_RANGE_COUNT_COUNT 0 c.val).setFld F.ARY_FLUSH_COUNT_COUNT 0 c.val).setFld
      F.ARY_ABOVE_COUNT_COUNT 0 c.val).setFld F.ARY_BUSY_CYCLES_CYCLES 0 c.val).setFld F.ARY_SWITCH_CYCLES_CYCLES 0 c.val := by
  obtain rfl | rfl : r = 0 ∨ r = 1 := by omega
  · rfl
  · rfl

section
variable {i : Instr} {s : State} {w : Path} {code v : Nat} {e : Dev}

/-- A row that writes the control register of a core's unit has the effect of that write, and bookkeeping of the core
follows it. -/
theorem row_control (takes : s.Takes i) (row : writeOf i s.dev = some (w, page code c.val 0x100, v)) (core : code ≤ 6)
    (acts : writeCore s.mem w (page code c.val 0x100) v code 0x100 c s.dev = settle s.mem c false e)
    (desk : e.desk = s.dev.desk) : Does i s e :=
  row_settles takes row (settles ((effect_core s.mem w c s.dev rfl core (by decide)).trans acts)) desk

end

/-- Settles O12: each row is the write of one control register, whose value names its fields. -/
theorem coreControlsAct : Obligations.CoreControlsAct := by
  unfold Obligations.CoreControlsAct
  intro s w c mask hold
  refine ⟨?halt, ?resume, ?movers, ?hold, ?arrayCounts, ?vectorCounts⟩
  case halt =>
    exact fun takes => row_control takes rfl (by decide)
      ((writeCore_ctl1 ..).trans (congrArg _ (coreCtl_halt c mask s.dev))) (desk_setFld ..)
  case resume =>
    exact fun takes => row_control takes rfl (by decide)
      ((writeCore_ctl1 ..).trans (congrArg _ (coreCtl_eq c mask _ (s.dev.fld_lt ..) s.dev)))
      ((fold_desk _ (fun a i => by split <;> simp) _ _).trans (desk_setFld ..))
  case movers =>
    exact fun takes => row_control takes rfl (by decide)
      ((writeCore_ctl6 ..).trans (congrArg _ (movCtl_eq c mask s.dev))) (fold_desk _ (fun a i => by split <;> simp) _ _)
  case hold =>
    exact fun takes => row_control takes rfl (by decide)
      ((writeCore_ctl2 ..).trans (congrArg _ (aryCtl_hold hold))) (desk_setFld ..)
  case arrayCounts =>
    exact fun takes => row_control takes rfl (by decide)
      ((writeCore_ctl2 ..).trans (congrArg _ (aryCtl_clears (s.dev.fld_lt ..)))) (by simp)
  case vectorCounts =>
    exact fun takes => row_effect takes rfl
      ((effect_core s.mem w c s.dev rfl (by decide) (by decide)).trans (writeCore_ctl3 ..)) (by simp)

/-! ### Which swaps may begin (R160, R255, R259, R260) -/

/-- The device with another list of the swaps that wait on a core. -/
def Dev.setWaiting (d : Dev) (c : CoreId) (l : List Swap) : Dev := d.modCore c fun x => { x with waiting := l }

@[simp] theorem Dev.core_setWaiting (l : List Swap) : (d.setWaiting c l).core c = { d.core c with waiting := l } := by
  unfold Dev.setWaiting
  rw [core_modCore, if_pos rfl]

@[simp] theorem Dev.schedulable_setWaiting (l : List Swap) : (d.setWaiting c l).schedulable c = d.schedulable c := by
  unfold Dev.schedulable
  rw [Dev.core_setWaiting]
  rfl

@[simp] theorem Dev.swapMay_setWaiting (l : List Swap) (r : Swap) : (d.setWaiting c l).swapMay c r = d.swapMay c r := by
  unfold Dev.swapMay Dev.mayEnter
  rw [Dev.schedulable_setWaiting]
  rfl

@[simp] theorem Dev.windowFits_setWaiting (l : List Swap) (k : SlotId) (y : Ctx) :
    (d.setWaiting c l).windowFits c k y = d.windowFits c k y := by
  unfold Dev.windowFits
  rw [Dev.core_setWaiting]
  rfl

theorem Dev.schedulable_none (taken : (d.core c).swap.isSome = true ∨ (d.core c).clearing.isSome = true ∨
    (d.core c).fenced = true ∨ (d.core c).plan.isSome = true) : d.schedulable c = none := by
  unfold Dev.schedulable
  refine if_pos ?_
  obtain h | h | h | h := taken
  all_goals simp [h]

/-- No swap begins on a core on which none can be scheduled. -/
theorem Dev.swapMay_unschedulable (none : d.schedulable c = none) (r : Swap) : d.swapMay c r = false := by
  unfold Dev.swapMay
  cases d.ctx? r.ctx with
  | none => rfl
  | some y =>
    cases hdir : r.dirIn
    · simp [none]
    · unfold Dev.mayEnter
      cases d.ctx? r.ctx with
      | none => simp
      | some z => simp [none]

/-! ### What differs on one core only -/

/-- e is d but for the core c, which is x. -/
def Dev.OnCore (d : Dev) (c : CoreId) (x : Core) (e : Dev) : Prop :=
  e = { d with cores := e.cores } ∧ ∀ c', e.core c' = if c = c' then x else d.core c'

theorem Dev.OnCore.modCore {x : Core} {e : Dev} (on : d.OnCore c x e) (f : Core → Core) :
    d.OnCore c (f x) (e.modCore c f) := by
  obtain ⟨rest, cores⟩ := on
  constructor
  · show ({ e with cores := _ } : Dev) = _
    rw [rest]
    rfl
  · intro c'
    rw [core_modCore, cores, if_pos rfl, cores]
    split <;> rfl

theorem Dev.onCore_self : d.OnCore c (d.core c) d := by
  refine ⟨rfl, fun c' => ?_⟩
  split
  · subst_vars; rfl
  · rfl

theorem Dev.onCore_setWaiting (l : List Swap) : d.OnCore c { d.core c with waiting := l } (d.setWaiting c l) :=
  Dev.onCore_self.modCore _

/-! ### What a request does (R146) -/

/-- The device on which a swap is asked for: it waits with those before it, and the first that may begin does. -/
def Dev.askSwap (d : Dev) (c : CoreId) (r : Swap) : Dev := (d.setWaiting c ((d.core c).waiting ++ [r])).startWaiting c

section
variable {r : Swap}

theorem Dev.askSwap_waits (idle : ∀ v ∈ (d.core c).waiting, d.swapMay c v = false) (held : d.swapMay c r = false) :
    d.askSwap c r = d.setWaiting c ((d.core c).waiting ++ [r]) := by
  have none_may : ((d.core c).waiting ++ [r]).find? (d.swapMay c) = none := by
    refine List.find?_eq_none.2 fun v hv => Bool.not_eq_true _ ▸ ?_
    obtain earlier | asked := List.mem_append.1 hv
    · exact idle v earlier
    · exact List.mem_singleton.1 asked ▸ held
  unfold Dev.askSwap Dev.startWaiting
  rw [Dev.core_setWaiting, funext (Dev.swapMay_setWaiting _)]
  dsimp only
  rw [none_may]

/-- A swap that may begin and has none before it leaves the list at once. -/
theorem Dev.askSwap_begins (alone : (d.core c).waiting = []) (may : d.swapMay c r = true) :
    let e := (d.setWaiting c [r]).setWaiting c []
    d.askSwap c r = if r.dirIn then e.beginSwapIn c r.slot r.ctx else e.modCore c fun x => { x with swap := some r } := by
  have leaves : (d.setWaiting c [r]).modCore c (fun x => { x with waiting := x.waiting.filter fun v => decide (v ≠ r) }) =
      (d.setWaiting c [r]).setWaiting c [] := by
    show Dev.setWaiting _ c (List.filter _ (Core.waiting (Dev.core _ c))) = _
    rw [Dev.core_setWaiting]
    simp
  unfold Dev.askSwap Dev.startWaiting
  rw [Dev.core_setWaiting, funext (Dev.swapMay_setWaiting _), alone, List.nil_append, List.find?_cons_of_pos may]
  dsimp only
  rw [leaves]

/-- The device on which a swap has left the list and runs. -/
theorem Dev.onCore_runs (alone : (d.core c).waiting = []) : d.OnCore c { d.core c with swap := some r }
    (((d.setWaiting c [r]).setWaiting c []).modCore c fun x => { x with swap := some r }) := by
  have on : d.OnCore c { d.core c with waiting := [] } ((d.setWaiting c [r]).setWaiting c []) :=
    (Dev.onCore_setWaiting [r]).modCore fun x => { x with waiting := [] }
  have empty : ({ d.core c with waiting := [] } : Core) = d.core c := by rw [← alone]
  rw [empty] at on
  exact on.modCore fun x => { x with swap := some r }

/-- A swap-out that may begin and has none before it runs. -/
theorem Dev.askSwap_out_runs (alone : (d.core c).waiting = []) (may : d.swapMay c r = true) (out : r.dirIn = false) :
    d.OnCore c { d.core c with swap := some r } (d.askSwap c r) := by
  rw [Dev.askSwap_begins alone may, if_neg (Bool.eq_false_iff.1 out)]
  exact Dev.onCore_runs alone

theorem Dev.beginSwapIn_fits {k : SlotId} {key : Nat} {y : Ctx} (resident : d.ctx? key = some y)
    (fits : d.windowFits c k y = true) :
    d.beginSwapIn c k key = d.modCore c fun x => { x with swap := some ⟨k, true, y.ext, key⟩ } := by
  unfold Dev.beginSwapIn
  rw [resident]
  exact if_pos fits

/-- A swap-in that may begin, has none before it and whose window fits runs. -/
theorem Dev.askSwap_in_runs {y : Ctx} (alone : (d.core c).waiting = []) (may : d.swapMay c r = true) (inward : r.dirIn = true)
    (image : d.ctx? r.ctx = some y) (fits : d.windowFits c r.slot y = true) (ext : y.ext = r.ext) :
    d.OnCore c { d.core c with swap := some r } (d.askSwap c r) := by
  have begins : ((d.setWaiting c [r]).setWaiting c []).beginSwapIn c r.slot r.ctx =
      ((d.setWaiting c [r]).setWaiting c []).modCore c fun x => { x with swap := some r } := by
    rw [Dev.beginSwapIn_fits (d := (d.setWaiting c [r]).setWaiting c []) image (by simp [fits]), ext, ← inward]
  rw [Dev.askSwap_begins alone may, if_pos inward, begins]
  exact Dev.onCore_runs alone

theorem Dev.askSwap_queues (idle : ∀ v ∈ (d.core c).waiting, d.swapMay c v = false) (held : d.swapMay c r = false) :
    d.OnCore c { d.core c with waiting := (d.core c).waiting ++ [r] } (d.askSwap c r) := by
  rw [Dev.askSwap_waits idle held]
  exact Dev.onCore_setWaiting _

end

/-! ### A write of CORE_c_SWAP (R146) -/

/-- The value written names a slot, a direction and an extent. -/
structure NamesSwap (v : Nat) (k : SlotId) (dirIn : Bool) (ext : Nat) : Prop where
  slot : slotOf (bits v 0 2) = k
  dir : bitAt v 2 = dirIn
  extent : bits v 3 19 = ext

theorem namesSwap_out (k : SlotId) (ext : ExtentId) : NamesSwap (k.val + 8 * ext.toNat) k false ext.toNat := by
  have hk := k.isLt
  have he := ext.isLt
  refine ⟨Fin.ext ?_, ?_, ?_⟩
  · simp only [slotOf, bits]; omega
  · simp only [bitAt, beq_eq_false_iff_ne]; omega
  · simp only [bits]; omega

theorem namesSwap_in (k : SlotId) (ext : ExtentId) : NamesSwap (k.val + 4 + 8 * ext.toNat) k true ext.toNat := by
  have hk := k.isLt
  have he := ext.isLt
  refine ⟨Fin.ext ?_, ?_, ?_⟩
  · simp only [slotOf, bits]; omega
  · simp only [bitAt, beq_iff_eq]; omega
  · simp only [bits]; omega

/-- The device on which a swap is refused. -/
def Dev.refuseSwap (d : Dev) (c : CoreId) : Dev := d.setFld F.CORE_STATUS_SWAP_ERR 1 c.val

section
variable {v ext key : Nat} {k : SlotId} {dirIn : Bool} {y : Ctx}

/-- What a write asks for, by its fields. -/
theorem coreSwap_named (names : NamesSwap v k dirIn ext) : coreSwap c v d =
    if (d.core c).swapping k then d.refuseSwap c
    else match (d.core c).slotKey k with
      | some key => match d.ctx? key with
        | none => d.refuseSwap c
        | some y => if dirIn || !d.swapAccess y.part ext true then d.refuseSwap c else d.askSwap c ⟨k, false, ext, key⟩
      | none => if !dirIn then d.refuseSwap c else match d.imageAt c ext with
        | none => d.refuseSwap c
        | some key => d.askSwap c ⟨k, true, ext, key⟩ := by
  obtain ⟨rfl, rfl, rfl⟩ := names
  rfl

theorem coreSwap_swapping (names : NamesSwap v k dirIn ext) (swaps : (d.core c).swapping k = true) :
    coreSwap c v d = d.refuseSwap c := by
  rw [coreSwap_named names, if_pos swaps]

theorem coreSwap_out_empty (names : NamesSwap v k false ext) (empty : (d.core c).slotKey k = none) :
    coreSwap c v d = d.refuseSwap c := by
  rw [coreSwap_named names, empty]
  exact ite_id _

theorem coreSwap_out_denied (names : NamesSwap v k false ext) (holds : (d.core c).slotKey k = some key)
    (resident : d.ctx? key = some y) (denied : d.swapAccess y.part ext true = false) :
    coreSwap c v d = d.refuseSwap c := by
  rw [coreSwap_named names, holds]
  dsimp only
  rw [resident]
  dsimp only
  rw [denied]
  exact ite_id _

theorem coreSwap_out_asks (names : NamesSwap v k false ext) (free : (d.core c).swapping k = false)
    (holds : (d.core c).slotKey k = some key) (resident : d.ctx? key = some y)
    (permits : d.swapAccess y.part ext true = true) : coreSwap c v d = d.askSwap c ⟨k, false, ext, key⟩ := by
  rw [coreSwap_named names, free, holds]
  dsimp only
  rw [resident]
  dsimp only
  rw [permits]
  rfl

theorem coreSwap_in_occupied (names : NamesSwap v k true ext) (occupied : ((d.core c).slotKey k).isSome = true) :
    coreSwap c v d = d.refuseSwap c := by
  obtain ⟨key, holds⟩ := Option.isSome_iff_exists.1 occupied
  rw [coreSwap_named names, holds]
  dsimp only
  cases d.ctx? key with
  | none => exact ite_id _
  | some y => exact ite_id _

theorem coreSwap_in_absent (names : NamesSwap v k true ext) (absent : d.imageAt c ext = none) :
    coreSwap c v d = d.refuseSwap c := by
  cases holds : (d.core c).slotKey k with
  | some key => exact coreSwap_in_occupied names (by rw [holds]; rfl)
  | none =>
    rw [coreSwap_named names, holds]
    dsimp only
    rw [absent]
    exact ite_id _

theorem coreSwap_in_asks (names : NamesSwap v k true ext) (free : (d.core c).swapping k = false)
    (empty : (d.core c).slotKey k = none) (image : d.imageAt c ext = some key) :
    coreSwap c v d = d.askSwap c ⟨k, true, ext, key⟩ := by
  rw [coreSwap_named names, free, empty]
  dsimp only
  rw [image]
  rfl

/-- A row that writes CORE_c_SWAP. -/
theorem row_coreSwap {i : Instr} {s : State} {w : Path} {e : Dev} (takes : s.Takes i)
    (row : writeOf i s.dev = some (w, page 0x01 c.val 0x110, v)) (acts : coreSwap c v s.dev = e) : WroteOn i s c e :=
  row_wroteOn takes row ((effect_core s.mem w c s.dev rfl (by decide) (by decide)).trans
    ((writeCore_swap ..).trans (congrArg _ acts)))

end

/-- Settles O13: the write names the swap, its checks refuse it or ask for it, and what is asked for begins or waits. The
cases of SWAP_ERR beside those of R146, and that requests wait, rest on log 23 of NOTES.md. -/
theorem swapsBegin : Obligations.SwapsBegin := by
  unfold Obligations.SwapsBegin
  intro s w c k ext d x out inn onCore starts waits refused idle
  have asks {i : Instr} {v : Nat} {r : Swap} {y : Core} (takes : s.Takes i)
      (row : writeOf i s.dev = some (w, page 0x01 c.val 0x110, v)) (acts : coreSwap c v d = d.askSwap c r)
      (on : d.OnCore c y (d.askSwap c r)) : onCore i y := ⟨_, row_coreSwap takes row acts, on⟩
  refine ⟨fun takes => ?outward, fun takes => ?inward,
    fun r taken => Dev.swapMay_unschedulable (Dev.schedulable_none taken) r,
    fun m b c' r e runs => swap_settle m e c c' b runs⟩
  case outward =>
    have names := namesSwap_out k ext
    refine ⟨?_, fun key y holds resident =>
      ⟨fun denied => row_coreSwap takes rfl (coreSwap_out_denied names holds resident denied), fun free permits => ?_⟩⟩
    · rintro (swaps | empty)
      · exact row_coreSwap takes rfl (coreSwap_swapping names swaps)
      · exact row_coreSwap takes rfl (coreSwap_out_empty names empty)
    · have asked := coreSwap_out_asks names free holds resident permits
      exact ⟨fun alone may => asks takes rfl asked (Dev.askSwap_out_runs alone may rfl),
        fun idle held => asks takes rfl asked (Dev.askSwap_queues idle held)⟩
  case inward =>
    have names := namesSwap_in k ext
    refine ⟨?_, fun key y free empty image resident => ?_⟩
    · rintro (swaps | occupied | absent)
      · exact row_coreSwap takes rfl (coreSwap_swapping names swaps)
      · exact row_coreSwap takes rfl (coreSwap_in_occupied names occupied)
      · exact row_coreSwap takes rfl (coreSwap_in_absent names absent)
    · have asked := coreSwap_in_asks names free empty image
      exact ⟨fun alone may own fits => asks takes rfl asked (Dev.askSwap_in_runs alone may rfl resident fits own),
        fun idle held => asks takes rfl asked (Dev.askSwap_queues idle held)⟩

/-! ### The end of a swap (R140, R141) -/

section
variable {r : Swap} {y : Ctx} (swaps : (d.core c).swap = some r)
include swaps

/-- Once no command of the slot executes, only the extents of the image keep a swap-out waiting. -/
theorem swapOutDone_idle (out : r.dirIn = false) (idle : (d.core c).executingAny r.slot = false)
    (still : (d.core c).changing r.slot = false) (resident : d.slotCtx c r.slot = some y) :
    swapOutDone c d = if d.swapAccess y.part r.ext true then (d.swappedOut c r y).swapEnded c r.slot else d := by
  unfold swapOutDone
  dsimp only
  rw [swaps]
  dsimp only
  rw [out, idle, still, resident]
  rfl

/-- A swap-in restores when its groups have a place and its extents permit the read. -/
theorem swapInDone_placed {z : Core} (inward : r.dirIn = true) (image : d.ctx? r.ctx = some y)
    (placed : placeCtx (d.core c) r.slot y = some z) (permits : d.swapAccess y.part y.ext false = true) :
    swapInDone c d = (d.swappedIn c r y z).swapEnded c r.slot := by
  unfold swapInDone
  rw [swaps]
  dsimp only
  rw [inward, image]
  dsimp only
  rw [placed]
  exact if_pos permits

/-- Without a plan for the core a swap-in waits for a place and for its extents. -/
theorem swapInDone_waits (inward : r.dirIn = true) (image : d.ctx? r.ctx = some y) (unplanned : (d.core c).plan = none)
    (waits : placeCtx (d.core c) r.slot y = none ∨ d.swapAccess y.part y.ext false = false) : swapInDone c d = d := by
  unfold swapInDone
  rw [swaps]
  dsimp only
  rw [inward, image, unplanned]
  dsimp only
  cases placed : placeCtx (d.core c) r.slot y with
  | none => rfl
  | some z =>
    have denied := waits.resolve_left (placed ▸ Option.some_ne_none z)
    dsimp only
    rw [denied]
    rfl

end

theorem Dev.swapEnded_unplanned (k : SlotId) (unplanned : (d.core c).plan = none) : d.swapEnded c k = d.nextSwap c k :=
  if_neg (by simp [unplanned])

theorem swappedIn_ctx (r : Swap) (y : Ctx) (z : Core) :
    (d.swappedIn c r y z).ctx? r.ctx = some (restoredCtx d c r.slot y) := by
  unfold Dev.swappedIn
  dsimp only
  rw [ctx_count, ctx_count, Dev.ctx?_setCtx_self]

/-- Settles O14: the row is the end of the swap that runs, by its direction. That a swap goes on while its extents do not
permit the access rests on log 23 of NOTES.md. -/
theorem swapsEnd : Obligations.SwapsEnd := by
  unfold Obligations.SwapsEnd
  intro s c r y d x out quiet swaps
  refine ⟨fun outward idle still resident => ?outward, fun inward image => ?inward⟩
  case outward =>
    have ends := swapOutDone_idle swaps outward idle still resident
    have outCore : out.core c = x.release r.slot := swappedOut_core d c r y
    refine ⟨fun denied => ?_, fun permits => ⟨?_, fun unplanned => ?_, swappedOut_ctx d c r y, outCore⟩⟩
    · exact row_becomes rfl quiet (congrArg (swapEvent s.mem c · d) (ends.trans (if_neg (Bool.eq_false_iff.1 denied))))
    · exact row_becomes rfl quiet (congrArg (swapEvent s.mem c · d) (ends.trans (if_pos permits)))
    · exact Dev.swapEnded_unplanned r.slot ((congrArg Core.plan outCore).trans unplanned)
  case inward =>
    refine ⟨fun unplanned waits => ?_, fun z placed permits => ⟨?_, swappedIn_ctx r y z, swappedIn_core d c r y z⟩⟩
    · exact row_becomes rfl quiet (congrArg (swapEvent s.mem c · d) (swapInDone_waits swaps inward image unplanned waits))
    · exact row_becomes rfl quiet (congrArg (swapEvent s.mem c · d) (swapInDone_placed swaps inward image placed permits))

end Sys2Proof.Machine
end

section
/-! Commands at the head of the matrix and vector queues: each unit takes, refuses or leaves its head by its verdict, and
the vector command that executes completes at its cycle (R116, R117, R119, R120, R123, R124, R127, R131). -/

namespace Sys2Proof.Machine

variable {d : Dev} {c : CoreId} {k : SlotId} {y : Ctx} {cmd : Cmd}

/-! ### MATRIX_PASS (R124) -/

/-- The array could take a pass now, and HOLD is 0 (R70, R71, R101). -/
def Dev.passGoes (d : Dev) (c : CoreId) (a : PassArgs) : Bool :=
  !d.flag F.ARY_CTL_HOLD c.val && (d.core c).takesPass a.mode a.wide (d.cycle c)

theorem Dev.passGoes_iff {a : PassArgs} : d.passGoes c a = true ↔
    d.flag F.ARY_CTL_HOLD c.val = false ∧ (d.core c).takesPass a.mode a.wide (d.cycle c) = true := by
  simp [Dev.passGoes]

section
variable {key : Nat} {a : PassArgs} (serves : (d.core c).serves k = true) (head : d.head c k 0 = some (y, cmd))
include serves head

/-- A served head of another queue's opcode is rejected. -/
theorem matrixPass_foreign (command : cmd.f CF.op ≠ 0) (foreign : opQueue (cmd.f CF.op) ≠ some 0) :
    matrixPass c k d = d.rejectHead c k 0 rOpcode := by
  unfold matrixPass
  dsimp only
  rw [serves]
  exact takeHead_code head command foreign

variable (op : cmd.f CF.op = 1) (reserved : cmd.f CF.res = 0)
include op reserved

theorem matrixPass_unsound {r : Nat} (unsound : passArgs cmd = .error r) :
    matrixPass c k d = d.rejectHead c k 0 r := by
  unfold matrixPass
  dsimp only
  rw [serves]
  refine (takeHead_op head op reserved (.inr rfl)).trans ?_
  rw [unsound]

/-- A pass with sound codes waits while the array does not take it, and else goes by its verdict. -/
theorem matrixPass_sound (holds : (d.core c).slotKey k = some key) (sound : passArgs cmd = .ok a) :
    matrixPass c k d = if d.passGoes c a then
      match passVerdict d c k key cmd a with
      | .reject r => d.rejectHead c k 0 r
      | .wait => d
      | .accept => d.issuePass c k cmd a
    else d := by
  unfold matrixPass Dev.passGoes
  dsimp only
  rw [serves]
  refine (takeHead_op head op reserved (.inr rfl)).trans ?_
  rw [sound, holds]
  dsimp only
  cases d.flag F.ARY_CTL_HOLD c.val with
  | true => rfl
  | false =>
    cases (d.core c).takesPass a.mode a.wide (d.cycle c) with
    | true => rfl
    | false => rfl

end

/-! ### TILE_LOAD (R63, R123, R153) -/

/-- The formats that a tile may have are the first seven codes, and none of them is reserved. -/
theorem code_le_of_tileFmt {n : Nat} {mx : Bool} (allowed : tileFmtBad n mx = false) : n ≤ 6 := by
  simp only [tileFmtBad, Bool.or_eq_false_iff, decide_eq_false_iff_not] at allowed
  omega

section
variable {key : Nat} {f : Fmt} (serves : (d.core c).serves k = true) (head : d.head c k 0 = some (y, cmd))
  (op : cmd.f CF.op = 2) (reserved : cmd.f CF.res = 0) (low : cmd.f TF.res0 = 0) (high : cmd.f TF.res1 = 0)
include serves head op reserved low high

theorem tileLoad_badFormat (bad : tileFmtBad (cmd.f TF.wFmt) (cmd.f TF.wMx == 1) = true) (listed : cmd.f TF.wFmt < 12) :
    tileLoad c k d = d.rejectHead c k 0 rFormat := by
  unfold tileLoad
  dsimp only
  rw [serves]
  refine (takeHead_op head op reserved (.inr rfl)).trans ?_
  rw [if_neg (by omega), if_pos bad]

variable (format : Fmt.ofCode (cmd.f TF.wFmt) = some f)
  (good : tileFmtBad (cmd.f TF.wFmt) (cmd.f TF.wMx == 1) = false)
include format good

/-- A load in a format of tiles is rejected for its window, waits, or issues. -/
theorem tileLoad_goodFormat (holds : (d.core c).slotKey k = some key) :
    tileLoad c k d =
      if !d.rangesOk c k (tileRanges cmd f ++ tileScaleRanges cmd) then d.rejectHead c k 0 rWindow
      else if (d.core c).tileLoad.isSome || (d.core c).edgeHeld ||
        ((d.core c).lastPass.isSome && decide (d.cycle c ≤ (d.core c).firstIssue)) then d
      else d.issueTileLoad c k key cmd f := by
  have code := code_le_of_tileFmt good
  unfold tileLoad
  dsimp only
  rw [serves]
  refine (takeHead_op head op reserved (.inr rfl)).trans ?_
  rw [if_neg (by omega), good, format, holds]
  rfl

end

/-! ### NOP (R120) -/

theorem nop_turn {m : Mem} {q : QueueId} {key : Nat} (turn : nopTurn m d c k q = true) (head : d.head c k q = some (y, cmd))
    (op : cmd.f CF.op = 0) (reserved : cmd.f CF.res = 0) (holds : (d.core c).slotKey k = some key) :
    nop m c k q d = (d.modCore c fun x => { x with arb := x.arb.granted q k }).modCtx key fun y =>
      (y.popHead q).complete cmd := by
  have granted : ((d.modCore c fun x => { x with arb := x.arb.granted q k }).core c).slotKey k = some key := by
    rw [core_modCore, if_pos rfl]
    exact holds
  unfold nop
  rw [turn]
  exact (takeHead_op head op reserved (.inl rfl)).trans (modSlot_key granted _)

/-- Settles O38: the head is handed to the unit, which rejects it, leaves it or issues it. When fields reject and when the
other rejections are made rest on log 16 of NOTES.md, that operands are read at issue on log 8. -/
theorem matrixCommandsIssue : Obligations.MatrixCommandsIssue := by
  unfold Obligations.MatrixCommandsIssue
  intro s c k q y cmd key d x op quiet reserved holds
  refine ⟨fun a serves head one sound => ?pass, fun r serves head one unsound => ?unsound,
    fun f serves head two low high format => ?tile, fun turn head zero => ?nop, fun serves head command foreign => ?foreign⟩
  case pass =>
    have goes := matrixPass_sound serves head one reserved holds sound
    refine ⟨fun free accept => row_afterOn rfl quiet ?_, fun r free reject => row_afterOn rfl quiet ?_,
      fun waits => row_afterOn rfl quiet ?_⟩
    · rw [goes, if_pos (Dev.passGoes_iff.2 free), accept]
    · rw [goes, if_pos (Dev.passGoes_iff.2 free), reject]
    · rw [goes]
      obtain held | wait := waits
      · exact if_neg (mt Dev.passGoes_iff.1 held)
      · rw [wait]
        exact ite_id _
  case unsound => exact row_afterOn rfl quiet (matrixPass_unsound serves head one reserved unsound)
  case tile =>
    refine ⟨fun good fits free edge apart => row_afterOn rfl quiet ?_, fun good outside => row_afterOn rfl quiet ?_,
      fun bad listed => row_afterOn rfl quiet (tileLoad_badFormat serves head two reserved low high bad listed)⟩
    · have shadowFree : ¬ (x.tileLoad.isSome || x.edgeHeld ||
          (x.lastPass.isSome && decide (d.cycle c ≤ x.firstIssue))) = true := by
        obtain none | later := apart
        · simp [free, edge, none]
        · simp [free, edge, Nat.not_le.2 later]
      rw [tileLoad_goodFormat serves head two reserved low high format good holds, fits, if_neg (by decide), if_neg shadowFree]
    · rw [tileLoad_goodFormat serves head two reserved low high format good holds, outside]
      rfl
  case nop => exact row_afterOn rfl quiet (nop_turn turn head zero reserved holds)
  case foreign => exact row_afterOn rfl quiet (matrixPass_foreign serves head command foreign)

/-! ### The vector engine (R127) -/

theorem VOp.opQueue_code (op : VOp) : opQueue op.code = some 1 := by cases op <;> rfl

section
variable {op : VOp} (turn : d.vectorTurn c k = true) (head : d.head c k 1 = some (y, cmd)) (code : cmd.f CF.op = op.code)
  (reserved : cmd.f CF.res = 0)
include turn head code reserved

/-- The head whose turn it is goes by its verdict. -/
theorem vectorIssue_turn : vectorIssue op c k d =
    match vecVerdict d c k op cmd with
    | .reject r => d.rejectHead c k 1 r
    | .wait => d
    | .accept => d.issueVector c k op cmd := by
  unfold vectorIssue
  rw [turn]
  exact takeHead_op head code reserved (.inr (code ▸ op.opQueue_code))

end

theorem vectorComplete_due {v : VecExec} (executes : (d.core c).vec = some v) (due : v.due ≤ d.cycle c) :
    let e := ((d.modCore c fun x => { x with vec := none, spd := applyWrites v.writes x.spd }).count
      F.VEC_INVCVT_COUNT_COUNT v.invalids c.val).count F.VEC_RANGE_COUNT_COUNT v.ranges c.val
    vectorComplete c d = (e.modSlot c v.slot fun y =>
      { y.complete v.cmd with hart := { y.hart with kfpflags := orFlags y.hart.kfpflags v.flags } }).restartTimer c 1 := by
  unfold vectorComplete
  rw [executes]
  exact if_neg (Nat.not_lt.2 due)

/-- Settles O40: every command is the same issue under its own operation. That operands are read at issue and results
written at completion rests on log 8 of NOTES.md. -/
theorem vectorCommandsAct : Obligations.VectorCommandsAct := by
  unfold Obligations.VectorCommandsAct
  refine ⟨fun s c k y cmd i op => ?issue, fun s c v => ?complete⟩
  case issue =>
    intro d command quiet turn head code reserved
    have row : exec i s = .next (s.run fun m d => afterCore m c false (vectorIssue op c k d)) := by
      generalize named : (i, op) = row at command
      fin_cases command
      all_goals
        cases named
        rfl
    have goes := vectorIssue_turn turn head code reserved
    refine ⟨fun accept => row_afterOn row quiet ?_, fun r reject => row_afterOn row quiet ?_⟩
    · rw [goes, accept]
      rfl
    · rw [goes, reject]
  case complete =>
    intro d quiet executes due
    exact row_afterOn rfl quiet (vectorComplete_due executes due)

end Sys2Proof.Machine
end

section
/-! Commands of the stream mover: what the head of a queue does, what a completion moves and leaves, and what an error does
(R116, R119, R139, R166 to R174, R323 to R325). -/

namespace Sys2Proof.Machine

variable {m : Mem} {d : Dev} {c : CoreId} {k : SlotId} {y : Ctx} {cmd : Cmd} {o : MOp}

/-! ### The head of a queue (R116, R119) -/

theorem MOp.opQueue_code (o : MOp) : opQueue o.code = some 2 := by cases o <;> rfl

/-- The head whose turn it is goes by its verdict. -/
theorem moverIssue_turn (turn : moverTurn m d c k = true) (head : d.head c k 2 = some (y, cmd)) (code : cmd.f CF.op = o.code)
    (reserved : cmd.f CF.res = 0) : moverIssue o m c k d =
    match moverVerdict m d c k y.part o cmd with
    | .reject r => d.rejectHead c k 2 r
    | .wait => d
    | .accept => issueMover m c k y.part o cmd d := by
  unfold moverIssue
  rw [turn]
  exact takeHead_op head code reserved (.inr (code ▸ o.opQueue_code))

/-! ### Issue (R163, R164, R323, R325) -/

/-- The segments of the group image that a command moves, as it issues. -/
def Dev.imageCount (d : Dev) (c : CoreId) (k : SlotId) (o : MOp) (cmd : Cmd) : Nat :=
  if o = .acfsave then ((d.core c).group (cmd.f MF.group)).count
  else if o = .acfload then bits (d.groupImage c k (cmd.f MF.auxAddr)) 4 5 else 0

/-- The group of a command that issues: ACFSAVE's drains, ACFLOAD's opens. -/
def Core.groupIssued (z : Core) (k : SlotId) (o : MOp) (cmd : Cmd) (image : Nat) : Core :=
  let g := cmd.f MF.group
  match o with
  | .acfsave => z.setGroup g { z.group g with st := .draining }
  | .acfload => z.setGroup g (loadedGroup k cmd image)
  | _ => z

/-- A command leaves its queue and enters the mover: with the segments and the record of its group image, a message number,
and whether its ring was in error. -/
def Dev.enterMover (d : Dev) (c : CoreId) (k : SlotId) (p : PartId) (o : MOp) (cmd : Cmd) (count image n : Nat)
    (doomed : Bool) : Dev :=
  ((d.startTimer c 2 (!(d.core c).mover.isEmpty)).modSlot c k fun y => y.popHead 2).modCore c fun z =>
    Core.groupIssued { z with
      mover := z.mover ++ [{ slot := k, cmd := cmd, slotNo := n, turn := d.turnOf p, doomed := doomed
                             due := d.cycle c + o.cycles cmd count }]
      arb := { z.arb with mover := arbNext k.val } } k o cmd image

section
variable {p : PartId}

theorem issueMover_ringless (notSend : o ≠ .send) (notRecv : o ≠ .recv) : issueMover m c k p o cmd d =
    d.enterMover c k p o cmd (d.imageCount c k o cmd) (d.groupImage c k (cmd.f MF.auxAddr)) 0 false := by
  unfold issueMover
  simp only [notSend, notRecv]
  rfl

section
variable (whole : d.rf (cmd.f MF.ring) RF.kind = 1 → d.bufferOk (cmd.f MF.ring) = true)
include whole

/-- The buffer of the ring that a command names stands: the access puts no ring in error. -/
theorem bufferStands : (decide (d.rf (cmd.f MF.ring) RF.kind = 1) && !d.bufferOk (cmd.f MF.ring)) = false := by
  by_cases message : d.rf (cmd.f MF.ring) RF.kind = 1
  · simp [whole message]
  · simp [message]

theorem issueMover_send (sound : d.rf (cmd.f MF.ring) RF.error = 0) :
    let r := cmd.f MF.ring
    issueMover m c k p .send cmd d =
      (d.setRf r RF.produced (d.rf r RF.produced + 1)).enterMover c k p .send cmd 0 0 (d.rf r RF.produced) false := by
  unfold issueMover
  simp only [Bool.and_assoc, bufferStands whole, Bool.and_false, Bool.false_eq_true, ↓reduceIte, sound]
  rfl

theorem issueMover_recv (sound : d.rf (cmd.f MF.ring) RF.error = 0) :
    let r := cmd.f MF.ring
    issueMover m c k p .recv cmd d =
      (d.setRing r { d.ring r with recvPtr := (c.val + 1) % 144 }).enterMover c k p .recv cmd 0 0 (d.nextRecv r) false := by
  unfold issueMover
  simp only [Bool.and_assoc, bufferStands whole, Bool.and_false, Bool.false_eq_true, ↓reduceIte, sound]
  rfl

/-- A command of a ring in error enters the mover to end there: it claims no number. -/
theorem issueMover_doomed (onRing : o = .send ∨ o = .recv) (failed : d.rf (cmd.f MF.ring) RF.error = 1) :
    issueMover m c k p o cmd d =
      d.enterMover c k p o cmd (d.imageCount c k o cmd) (d.groupImage c k (cmd.f MF.auxAddr)) 0 true := by
  unfold issueMover
  simp only [Bool.and_assoc, bufferStands whole, Bool.and_false, Bool.false_eq_true, ↓reduceIte, failed]
  obtain rfl | rfl := onRing
  · rfl
  · rfl

end

end

/-! ### What counting the stacks' bytes leaves (R239, R247, R250) -/

/-- The device with other records of the stacks' use, errors and marks, and of the members that were written. -/
def Dev.restack (d : Dev) (use : Table Nat) (ecc : Ecc) (flash : Flash) (written unsent : List Nat) : Dev :=
  { d with stackUse := use, ecc := ecc, flash := flash, written := written, unsent := unsent }

/-- What a view of the device needs so that counting a stack's bytes leaves it. -/
structure BesideStacks {α : Type} (view : Dev → α) : Prop where
  restack : ∀ d use ecc flash written unsent, view (Dev.restack d use ecc flash written unsent) = view d
  setFld : ∀ (d : Dev) (f : Fld) (v s : Nat), f.blk = 0x11 → view (d.setFld f v s) = view d

section
variable {α : Type} {view : Dev → α} (beside : BesideStacks view)
include beside

theorem BesideStacks.count (d : Dev) (f : Fld) (n s : Nat) (stack : f.blk = 0x11) : view (d.count f n s) = view d := by
  unfold Dev.count
  split
  · rfl
  · exact beside.setFld _ _ _ _ stack

theorem BesideStacks.dieError (d : Dev) (now line : Nat) (w : BitVec 80) (die : Nat) :
    view (d.dieError now line w die) = view d := by
  unfold Dev.dieError
  dsimp only
  split
  · rfl
  · split
    · exact beside.restack d d.stackUse _ _ d.written d.unsent
    · exact beside.restack d d.stackUse _ d.flash d.written d.unsent

theorem BesideStacks.findWrong (d : Dev) (e : Nat × BitVec 80) : view (d.findWrong e) = view d := by
  have counted := beside.count d F.STK_ECC_COUNT_CORRECTED 1 (stackOf e.1) rfl
  unfold Dev.findWrong
  split
  · rfl
  · dsimp only
    split
    · exact counted
    · refine (beside.restack (List.foldl _ _ _) _ _ _ _ _).trans ?_
      exact (foldl_keep view _ (fun d die => beside.dieError d _ _ _ die) _ _).trans counted

theorem BesideStacks.findIn (d : Dev) (a n : Nat) : view (d.findIn a n) = view d :=
  foldl_keep view _ beside.findWrong _ _

theorem BesideStacks.noteShadow (d : Dev) (e : Nat) : view (d.noteShadow e) = view d := by
  unfold Dev.noteShadow
  split
  · exact beside.restack d d.stackUse d.ecc d.flash _ _
  · rfl

theorem BesideStacks.useStk (write : Bool) (a n : Nat) (d : Dev) (e : Nat) : view (d.useStk write a n e) = view d := by
  have used := beside.restack d (tPut (e / 16384) d.now d.stackUse) d.ecc d.flash d.written d.unsent
  unfold Dev.useStk
  dsimp only
  rw [beside.setFld _ _ _ _ rfl, beside.count _ _ _ _ (by cases write <;> rfl)]
  cases write
  · exact (beside.findIn _ _ _).trans used
  · exact (beside.noteShadow _ _).trans used

theorem BesideStacks.countStk (d : Dev) (write : Bool) (a n : Nat) : view (d.countStk write a n) = view d :=
  foldl_keep view _ (fun d e => beside.useStk write a n d e) _ _

end

theorem besideStacks_stores : BesideStacks Dev.stores := ⟨fun _ _ _ _ _ _ => rfl, fun _ _ _ _ _ => rfl⟩

/-- A word below the pages of the stacks. -/
theorem besideStacks_word {a : Nat} (low : a < page 0x11 0 0) : BesideStacks fun d => d.word a := by
  refine ⟨fun _ _ _ _ _ _ => rfl, fun d f v s stack => ?_⟩
  have apart : f.addr s 0 ≠ a := by
    simp only [Fld.addr, Fld.byteAddr, stack, page] at low ⊢
    omega
  exact (Dev.word_setWord ..).trans (if_neg apart)

theorem winBase_apart (c : CoreId) (k : SlotId) : F.CORE_CTX_SPD_BASE.addr c.val k.val < page 0x06 0 0 := by
  have core := c.isLt
  have slot := k.isLt
  simp only [Fld.addr, Fld.byteAddr, F.CORE_CTX_SPD_BASE, page]
  omega

@[simp] theorem winBase_countStk (c : CoreId) (k : SlotId) (write : Bool) (a n : Nat) :
    (d.countStk write a n).winBase c k = d.winBase c k := by
  have low := (winBase_apart c k).trans (show page 0x06 0 0 < page 0x11 0 0 by decide)
  unfold Dev.winBase Dev.fld
  rw [(besideStacks_word low).countStk]

theorem winBase_countMover (c : CoreId) (k : SlotId) {f : Fld} (mover : f.blk = 0x06) (n i : Nat) :
    (d.count f n i).winBase c k = d.winBase c k := by
  have low := winBase_apart c k
  unfold Dev.winBase
  rw [Dev.fld_count_ne]
  simp only [Fld.addr, Fld.byteAddr, mover, page] at low ⊢
  omega

@[simp] theorem stores_countStk (write : Bool) (a n : Nat) : (d.countStk write a n).stores = d.stores :=
  besideStacks_stores.countStk d write a n

@[simp] theorem stores_count (f : Fld) (n i j : Nat) : (d.count f n i j).stores = d.stores := by
  unfold Dev.count
  split
  · rfl
  · rfl

/-! ### Rows (R168, R169) -/

section
variable (spd a n : Nat)

theorem loadRow_stores : (loadRow m c k spd a n d).stores = d.stores := by
  unfold loadRow
  rw [stores_count, stores_countStk]
  rfl

theorem loadRow_winBase : (loadRow m c k spd a n d).winBase c k = d.winBase c k := by
  unfold loadRow
  rw [winBase_countMover c k rfl, winBase_countStk]
  rfl

theorem loadRow_spd : ((loadRow m c k spd a n d).core c).spd =
    bWrite (d.winBase c k + spd) (memRead m d a n) (d.core c).spd := by
  unfold loadRow Dev.winWrite
  rw [core_count, core_countStk, core_modCore, if_pos rfl]

theorem storeRow_stores : (storeRow c k spd a n d).stores = .bytes a (d.winRead c k spd n) :: d.stores := by
  unfold storeRow
  rw [stores_count, stores_countStk]
  rfl

theorem storeRow_winBase : (storeRow c k spd a n d).winBase c k = d.winBase c k := by
  unfold storeRow
  rw [winBase_countMover c k rfl, winBase_countStk]
  rfl

theorem storeRow_core : (storeRow c k spd a n d).core c = d.core c := by
  unfold storeRow
  rw [core_count, core_countStk, core_store]

theorem storeRow_winRead (b l : Nat) : (storeRow c k spd a n d).winRead c k b l = d.winRead c k b l := by
  unfold Dev.winRead
  rw [storeRow_core, storeRow_winBase]

end

/-- What memory reads as depends on the stores alone. -/
theorem memRead_congr {e : Dev} (same : e.stores = d.stores) (a n : Nat) : memRead m e a n = memRead m d a n := by
  unfold memRead memByte
  rw [same]

/-- Rows that are loaded one after the other store nothing, and each lands in the window as memory was before them. -/
theorem loadRows_effect (n : Nat) (rows : List ((Nat × Nat) × Nat × Nat)) (d : Dev) :
    let e := rows.foldl (fun d x => loadRow m c k x.1.1 x.2.1 n d) d
    (e.core c).spd = rows.foldl (fun t z => bWrite (d.winBase c k + z.1.1) (memRead m d z.2.1 n) t) (d.core c).spd ∧
      e.stores = d.stores := by
  induction rows generalizing d with
  | nil => exact ⟨rfl, rfl⟩
  | cons row rows ih =>
    obtain ⟨spd, stores⟩ := ih (loadRow m c k row.1.1 row.2.1 n d)
    refine ⟨?_, stores.trans (loadRow_stores ..)⟩
    simp only [loadRow_winBase, memRead_congr (loadRow_stores ..), loadRow_spd] at spd
    exact spd

/-- Rows that are stored one after the other leave the scratchpad, and each stores what the window held before them. -/
theorem storeRows_effect (n : Nat) (rows : List ((Nat × Nat) × Nat × Nat)) (d : Dev) :
    let e := rows.foldl (fun d x => storeRow c k x.1.1 x.2.1 n d) d
    e.stores = (rows.map fun z => Store.bytes z.2.1 (d.winRead c k z.1.1 n)).reverse ++ d.stores ∧ e.core c = d.core c := by
  induction rows generalizing d with
  | nil => exact ⟨rfl, rfl⟩
  | cons row rows ih =>
    obtain ⟨stores, core⟩ := ih (storeRow c k row.1.1 row.2.1 n d)
    refine ⟨?_, core.trans (storeRow_core ..)⟩
    simp only [storeRow_winRead, storeRow_stores] at stores
    simpa using stores

/-- The rows of all planes are all rows of a command. -/
theorem rows_take (cmd : Cmd) :
    (cmd.spdRows.zip cmd.memRows).take (cmd.mplanes * cmd.mrows) = cmd.spdRows.zip cmd.memRows := by
  refine List.take_of_length_le ?_
  simp [Cmd.spdRows]

theorem plainRows_load : plainRows m c k cmd false (cmd.mplanes * cmd.mrows) d =
    (cmd.spdRows.zip cmd.memRows).foldl (fun d x => loadRow m c k x.1.1 x.2.1 cmd.rowBytes d) d := by
  simp only [plainRows, rows_take, Bool.false_eq_true, ↓reduceIte]

theorem plainRows_store : plainRows m c k cmd true (cmd.mplanes * cmd.mrows) d =
    (cmd.spdRows.zip cmd.memRows).foldl (fun d x => storeRow c k x.1.1 x.2.1 cmd.rowBytes d) d := by
  simp only [plainRows, rows_take, ↓reduceIte]

/-! ### What a completion moves -/

section
variable {p : PartId} {x : MovExec}

theorem moverEffect_load : let e := moverEffect m c p x .load d
    (e.core c).spd = (x.cmd.spdRows.zip x.cmd.memRows).foldl (fun t z =>
      bWrite (d.winBase c x.slot + z.1.1) (memRead m d z.2.1 x.cmd.rowBytes) t) (d.core c).spd ∧ e.stores = d.stores := by
  have effect : moverEffect m c p x .load d = _ := plainRows_load
  rw [effect]
  exact loadRows_effect x.cmd.rowBytes _ d

theorem moverEffect_store : let e := moverEffect m c p x .store d
    e.stores = ((x.cmd.spdRows.zip x.cmd.memRows).map fun z =>
      Store.bytes z.2.1 (d.winRead c x.slot z.1.1 x.cmd.rowBytes)).reverse ++ d.stores ∧ e.core c = d.core c := by
  have effect : moverEffect m c p x .store d = _ := plainRows_store
  rw [effect]
  exact storeRows_effect x.cmd.rowBytes _ d

/-! ### When a command may complete (R171, R174) -/

/-- A command of no ring completes once its time has passed, and its indexes and lines are sound. -/
theorem canComplete_of_clean (notSend : o ≠ .send) (notRecv : o ≠ .recv) (due : x.due ≤ d.cycle c)
    (index : d.badIndex c p x o = none)
    (clean : ∀ r, r ∈ d.moveRanges c p x o → d.readFails r.1 r.2 = false ∧ d.badWrite r.1 r.2 = false) :
    canComplete m d c p x o = true := by
  have sound : d.moveFails c p x o = false := by
    have ranges : (d.moveRanges c p x o).any (fun r =>
        if o = .load ∨ o = .gather then d.readFails r.1 r.2 else d.badWrite r.1 r.2) = false := by
      refine List.any_eq_false.2 fun r mem => ?_
      obtain ⟨reads, writes⟩ := clean r mem
      simp [reads, writes]
    simp [Dev.moveFails, ranges, notSend, notRecv]
  simp [canComplete, Dev.ringFails, tooLong, due, index, sound, notSend, notRecv]

end

/-! ### Completion and errors (R171, R174) -/

/-- A command stops without a signal: it leaves the mover and its queue halts. -/
def Dev.stopMove (d : Dev) (c : CoreId) (k : SlotId) (x : MovExec) : Dev :=
  ((d.modCore c fun z => { z with mover := z.mover.erase x }).modSlot c k fun z =>
    z.setQueue 2 { z.queue 2 with failed := true }).restartTimer c 2

/-- MOV_ERR of a slot holds the first error. -/
def Dev.holdMovErr (d : Dev) (c : CoreId) (k : SlotId) (x : MovExec) (code : Nat) : Dev :=
  if d.flag F.MOV_ERR_VALID c.val k.val then d
  else ((((d.setFld F.MOV_ERR_OP (x.cmd.f CF.op) c.val k.val).setFld F.MOV_ERR_CODE code c.val k.val).setFld
    F.MOV_ERR_VALID 1 c.val k.val).setFld F.MOV_ERR_SEQ x.cmd.seq.toNat c.val k.val).setFld F.MOV_ERR_TAG
    (x.cmd.f CF.tag) c.val k.val

/-- The end of a command in error, before the fault source that its code raises. -/
def endInError (m : Mem) (c : CoreId) (k : SlotId) (y : Ctx) (x : MovExec) (o : MOp) (code : BitVec 4) (row : Nat)
    (d : Dev) : Dev :=
  let f := ((partialRows m c y.part x o code.toNat row d).stopMove c k x).holdMovErr c k x code.toNat
  let g := f.postEvent y.part 2 c.val ((f.word (F.MOV_ERR_OP.addr c.val k.val)).toNat + k.val * 2 ^ 64)
  if code = 2 ∨ code = 5 ∨ x.cmd.seq ∈ y.collCmds then failJobTurn m y.part 8 g else g

section
variable {x : MovExec} (oldest : (d.core c).oldestMove k = some x) (resident : d.slotCtx c k = some y)
  (op : MOp.ofCode (x.cmd.f CF.op) = some o)
include oldest resident op

theorem moverComplete_can (can : canComplete m d c y.part x o = true) :
    moverComplete m c k d = ((((moverEffect m c y.part x o d).modCore c fun z => { z with mover := z.mover.erase x }).modSlot
      c k fun z => z.complete x.cmd).restartTimer c 2) := by
  unfold moverComplete
  rw [oldest, resident]
  dsimp only
  rw [op]
  exact if_pos can

variable {code : BitVec 4} {row : Nat} (befalls : errorHolds m d c y.part x o code.toNat row = true)
include befalls

theorem moverError_befalls : moverError m c k code row d = endInError m c k y x o code row d := by
  unfold moverError
  rw [oldest, resident]
  dsimp only
  rw [op]
  exact if_pos befalls

/-- Codes MEMORY and SRAM raise the source of the stack and of the core. -/
theorem moverFault_befalls : moverFault m c k code row d =
    let h := endInError m c k y x o code row d
    let line := d.failedLine c y.part x o row
    if code = 2 then raiseLine m (some line) (some y.part) (h.failLine line)
    else if code = 5 then raiseOwn m (16 * c.val + 3) none (some y.part) (h.count F.SPD_ECC_COUNT_UNCORRECTED 1 c.val)
    else h := by
  unfold moverFault
  rw [oldest, resident]
  dsimp only
  rw [op]
  dsimp only
  rw [moverError_befalls oldest resident op befalls]
  exact if_neg (by simp [befalls])

end

/-- Settles O41: every command is the same issue, completion and end in error under its own operation; what the rows of
loads and stores add up to is by induction on them. That a command reads and writes at completion rests on log 8 of
NOTES.md, its end with a ring in error and its failure of the turn on log 21. -/
theorem moverCommandsAct : Obligations.MoverCommandsAct := by
  unfold Obligations.MoverCommandsAct
  refine ⟨fun s c k y cmd i o => ?issue, fun s c k x y o code row => ?ends⟩
  case issue =>
    intro d command quiet turn head op reserved r g count enters whole
    have row : exec i s = .next (s.run fun m d => afterCore m c false (moverIssue o m c k d)) := by
      generalize named : (i, o) = row at command
      fin_cases command
      all_goals
        cases named
        rfl
    have goes := moverIssue_turn turn head op reserved
    have issues : ∀ {e}, moverVerdict s.mem d c k y.part o cmd = .accept → issueMover s.mem c k y.part o cmd d = e →
        AfterOn i s c e := fun accept entered => row_afterOn row quiet (by rw [goes, accept]; exact entered)
    refine ⟨fun accept => ⟨fun notSend notRecv => issues accept (issueMover_ringless notSend notRecv), ?send, ?recv,
        fun onRing failed whole => issues accept (issueMover_doomed whole onRing failed), issues accept rfl⟩,
      fun r reject => row_afterOn row quiet (by rw [goes, reject]), fun wait => row_afterOn row quiet (by rw [goes, wait])⟩
    case send =>
      rintro rfl sound whole
      exact issues accept (issueMover_send whole sound)
    case recv =>
      rintro rfl sound whole
      exact issues accept (issueMover_recv whole sound)
  case ends =>
    intro d quiet oldest resident op p cmd clean moved
    refine ⟨fun can => row_after rfl quiet (moverComplete_can oldest resident op can), ?onCore, ?lines, ?indexed,
      ?copy, ?load, ?store, ?gather, ?scatter, ?error⟩
    case copy | gather | scatter =>
      rintro rfl
      rfl
    case onCore =>
      intro member due
      simp only [List.mem_cons, List.not_mem_nil, or_false] at member
      obtain rfl | rfl | rfl := member
      all_goals exact canComplete_of_clean nofun nofun due rfl fun r none => (List.not_mem_nil none).elim
    case lines =>
      intro member due sound
      simp only [List.mem_cons, List.not_mem_nil, or_false] at member
      obtain rfl | rfl := member
      all_goals exact canComplete_of_clean nofun nofun due rfl sound
    case indexed =>
      intro member due sound index
      simp only [List.mem_cons, List.not_mem_nil, or_false] at member
      obtain rfl | rfl := member
      all_goals exact canComplete_of_clean nofun nofun due index sound
    case load =>
      rintro rfl
      obtain ⟨spd, stores⟩ := moverEffect_load (m := s.mem) (d := d) (c := c) (p := p) (x := x)
      exact ⟨spd, stores.trans quiet⟩
    case store =>
      rintro rfl
      obtain ⟨stores, core⟩ := moverEffect_store (m := s.mem) (d := d) (c := c) (p := p) (x := x)
      exact ⟨stores.trans (by rw [quiet, List.append_nil]), congrArg Core.spd core⟩
    case error =>
      intro befalls
      have fault := moverFault_befalls oldest resident op befalls
      refine ⟨fun notMemory notSram => row_after rfl quiet ?_, fun memory => row_after rfl quiet ?_,
        fun sram => row_after rfl quiet ?_⟩
      · exact fault.trans ((if_neg notMemory).trans (if_neg notSram))
      · exact fault.trans (if_pos memory)
      · exact fault.trans ((if_neg (by rw [sram]; decide)).trans (if_pos sram))

end Sys2Proof.Machine
end

section
/-! The end of ko holds and of the clearing of a core, with what was planned for the core (R160, R253, R260). -/

namespace Sys2Proof.Machine

variable {m : Mem} {d e : Dev} {c : CoreId}

/-! ### Ko holds (R259, R260) -/

/-- A ko hold of the context is over. -/
def Ctx.koOver (y : Ctx) (now : Nat) : Bool :=
  (decide (0 < y.sched.koIn) && decide (y.sched.koIn ≤ now)) || (decide (0 < y.sched.koOut) && decide (y.sched.koOut ≤ now))

/-- The context without its ko holds that are over. -/
def Ctx.endKo (y : Ctx) (now : Nat) : Ctx :=
  { y with sched := { y.sched with
      koIn := if y.sched.koIn ≤ now then 0 else y.sched.koIn
      koOut := if y.sched.koOut ≤ now then 0 else y.sched.koOut } }

theorem koHoldEnd_over {key : Nat} {y : Ctx}
    (first : (d.homedOn c).find? (fun e => e.2.koOver d.now) = some (key, y)) :
    koHoldEnd c d = (d.setCtx key (y.endKo d.now), true) := by
  unfold Ctx.koOver at first
  unfold koHoldEnd
  dsimp only
  rw [first]
  rfl

/-! ### The end of a clearing (R160, R253) -/

/-- The device on which the clearing of a core has ended, before what was planned for the core comes about. -/
def Dev.endClearing (d : Dev) (c : CoreId) : Dev :=
  (d.modCore c fun x => { x with clearing := none }).setFld F.SPD_STATUS_INIT_BUSY 0 c.val

@[simp] theorem Dev.core_endClearing : (d.endClearing c).core c = { d.core c with clearing := none } := by
  unfold Dev.endClearing
  rw [core_setFld, core_modCore, if_pos rfl]

@[simp] theorem Dev.core_setWindows (p : Option PartId) (b : CoreId) : (d.setWindows c p).core b = d.core b := by
  unfold Dev.setWindows
  refine foldl_keep (fun d : Dev => d.core b) _ (fun a k => ?_) _ _
  split
  · split <;> simp
  · simp

theorem Dev.planDone_clearing (pl : CorePlan) : ((d.planDone c pl).core c).clearing = (d.core c).clearing := by
  unfold Dev.planDone
  rw [Dev.core_setWindows, core_modCore, if_pos rfl]

section
variable {n : Nat} (clears : (d.core c).clearing = some n) (due : n ≤ d.cycle c)
include clears due

theorem scratchpadInitDone_unplanned (unplanned : (d.core c).plan = none) :
    scratchpadInitDone c d = (d.endClearing c, none) := by
  unfold scratchpadInitDone
  dsimp only
  rw [clears, unplanned]
  exact if_neg (Nat.not_lt.2 due)

theorem scratchpadInitDone_planned {pl : CorePlan} (planned : (d.core c).plan = some pl) :
    scratchpadInitDone c d = ((d.endClearing c).planDone c pl, pl.page (d.core c)) := by
  unfold scratchpadInitDone
  dsimp only
  rw [clears, planned]
  exact if_neg (Nat.not_lt.2 due)

end

/-- A clearing that ends makes a scheduling decision due, and the command of the partition that it answers ends. -/
theorem initDone_ended {p : Option PartId} (clears : (d.core c).clearing ≠ none) (ends : scratchpadInitDone c d = (e, p))
    (cleared : (e.core c).clearing = none) : initDone m c d =
      p.elim (afterCore m c true e) fun q => eventEnds m (0x3000 + q.val) (coreMoved c) (afterCore m c true e) := by
  unfold initDone
  rw [ends]
  dsimp only
  rw [cleared, decide_eq_true clears.symm]
  cases p with
  | none => rfl
  | some q => rfl

/-- Settles O15: a hold that is over ends with its decision, and a clearing that is due ends with what was planned. -/
theorem holdsAndClearingsEnd : Obligations.HoldsAndClearingsEnd := by
  unfold Obligations.HoldsAndClearingsEnd
  intro s c d x cleared ended quiet
  refine ⟨fun key y first => ?hold, fun n clears due => ?clearing⟩
  case hold =>
    exact row_becomes rfl quiet (congrArg (fun r : Dev × Bool => afterCore s.mem c r.2 r.1) (koHoldEnd_over first))
  case clearing =>
    have busy : x.clearing ≠ none := clears ▸ Option.some_ne_none n
    have idle : (cleared.core c).clearing = none := congrArg Core.clearing (Dev.core_endClearing (d := d))
    have done := fun {pl} (planned : x.plan = some pl) =>
      initDone_ended (m := s.mem) busy (scratchpadInitDone_planned clears due planned) ((Dev.planDone_clearing pl).trans idle)
    refine ⟨fun unplanned => row_becomes rfl quiet ?unplanned, fun pl planned unnamed => row_becomes rfl quiet ?silent,
      fun pl p planned named => row_becomes rfl quiet ?answered⟩
    case unplanned => exact initDone_ended busy (scratchpadInitDone_unplanned clears due unplanned) idle
    case silent => exact (done planned).trans (by rw [unnamed]; rfl)
    case answered => exact (done planned).trans (by rw [named]; rfl)

end Sys2Proof.Machine
end

section
/-! Errors reach the fault collector with what their cause does besides, hourglass timers, stalemates and entropy failures
raise their sources, and a reset ends (R159, R224, R240, R400 to R402, R406, R408 to R410, R432). -/

namespace Sys2Proof.Machine

variable {m : Mem} {d e : Dev} {c : CoreId} {src code detail : Nat} {req : Option PartId}

/-! ### Sources (R399) -/

theorem sourceCore_of_core (c : CoreId) {i : Nat} (unit : i < 16) : sourceCore (16 * c.val + i) = some c := by
  have number : (16 * c.val + i) / 16 = c.val := by omega
  unfold sourceCore
  simp [number]

theorem sourceCore_beyond (beyond : 2304 ≤ src) : sourceCore src = none := dif_neg (by omega)

theorem sourceCore_low (low : src < 2304) : ∃ c, sourceCore src = some c := ⟨_, dif_pos (by omega)⟩

/-! ### What an error's cause does besides (R159, R224, R240) -/

theorem badLine_elsewhere {line : Nat} (elsewhere : line / 2 ^ 30 ≠ (src - 2304) / 8) : badLine src line d = d :=
  if_pos elsewhere

section
variable {line : Nat} (inStack : line / 2 ^ 30 = (src - 2304) / 8)
include inStack

theorem badLine_uncorrectable (kind : (src - 2304) % 8 = 0) : badLine src line d = (d.failLine line).noteBad line := by
  unfold badLine
  rw [if_neg (not_not.2 inStack), if_pos kind]

theorem badLine_transfer (kind : (src - 2304) % 8 = 4) :
    badLine src line d = { d with ecc := { d.ecc with failing := d.ecc.failing ++ [line] } } := by
  unfold badLine
  rw [if_neg (not_not.2 inStack), if_neg (by rw [kind]; decide), if_pos kind]

theorem badLine_other (notUncorrectable : (src - 2304) % 8 ≠ 0) (notTransfer : (src - 2304) % 8 ≠ 4) :
    badLine src line d = d := by
  unfold badLine
  rw [if_neg (not_not.2 inStack), if_neg notUncorrectable, if_neg notTransfer]

end

theorem badWord_other {i : Nat} (notScratchpad : i ≠ 3) (notAccumulator : i ≠ 4) (notStaging : i ≠ 5) :
    badWord c i d = d := by
  unfold badWord
  split
  · exact absurd rfl notScratchpad
  · exact absurd rfl notAccumulator
  · exact absurd rfl notStaging
  · rfl

/-! ### FAULT_RAISE and WIRE_FAULT (R400 to R402) -/

/-- The error reaches the collector and every core's bookkeeping follows. -/
def Dev.reported (d : Dev) (m : Mem) (src code detail : Nat) (req : Option PartId) : Dev :=
  settleAll m (raiseFault m src code detail false false req d)

theorem faultRaise_asleep (asleep : d.power.phase = .asleep) : faultRaise m src code detail req d = d := if_pos asleep

theorem wireFault_asleep (asleep : d.power.phase = .asleep) : wireFault m src d = d := if_pos asleep

section
variable (awake : d.power.phase ≠ .asleep)
include awake

theorem faultRaise_stack (low : 2304 ≤ src) (high : src < 2560) (acts : badLine src (detail % 2 ^ 35) d = e) :
    faultRaise m src code detail req d = e.reported m src code detail req := by
  unfold faultRaise
  rw [if_neg awake, if_pos ⟨low, high⟩, acts]
  dsimp only
  rw [if_neg (show src ≠ 2955 by omega)]
  rfl

theorem faultRaise_core (low : src < 2304) (core : sourceCore src = some c) (acts : badWord c (src % 16) d = e) :
    faultRaise m src code detail req d = e.reported m src code detail req := by
  unfold faultRaise
  rw [if_neg awake, if_neg (by omega), core]
  dsimp only
  rw [acts, if_neg (show src ≠ 2955 by omega)]
  rfl

theorem faultRaise_beyond (beyond : 2560 ≤ src) (notSeal : src ≠ 2955) : faultRaise m src code detail req d =
    d.reported m src code detail req := by
  unfold faultRaise
  rw [if_neg awake, if_neg (by omega), sourceCore_beyond (by omega)]
  dsimp only
  rw [if_neg notSeal]
  rfl

/-- A change journal seal fault shows in JNL_STATUS. -/
theorem faultRaise_seal : faultRaise m 2955 code detail req d =
    (d.setFld F.JNL_STATUS_SEAL_ERR 1).reported m 2955 code detail req := by
  unfold faultRaise
  rw [if_neg awake, if_neg (by decide), sourceCore_beyond (by decide)]
  rfl

/-- The source of a unit of a core raises on the device that its bad word leaves. -/
theorem faultRaise_unit {i : Nat} (unit : i < 16) (names : src = 16 * c.val + i) : faultRaise m src code detail req d =
    (badWord c i d).reported m src code detail req := by
  subst names
  have word : (16 * c.val + i) % 16 = i := by omega
  exact faultRaise_core awake (by omega) (sourceCore_of_core c unit) (by rw [word])

theorem faultRaise_silentUnit (low : src < 2304) (notScratchpad : src % 16 ≠ 3) (notAccumulator : src % 16 ≠ 4)
    (notStaging : src % 16 ≠ 5) : faultRaise m src code detail req d = d.reported m src code detail req := by
  obtain ⟨c, core⟩ := sourceCore_low low
  exact faultRaise_core awake low core (badWord_other notScratchpad notAccumulator notStaging)

/-- Beyond the cores, a source whose detail names no line of its stack does nothing besides. -/
theorem faultRaise_offStack (beyond : 2304 ≤ src)
    (off : ¬ (2304 ≤ src ∧ src < 2560 ∧ detail % 2 ^ 35 / 2 ^ 30 = (src - 2304) / 8)) (notSeal : src ≠ 2955) :
    faultRaise m src code detail req d = d.reported m src code detail req := by
  by_cases stack : src < 2560
  · exact faultRaise_stack awake beyond stack (badLine_elsewhere fun inStack => off ⟨beyond, stack, inStack⟩)
  · exact faultRaise_beyond awake (Nat.not_lt.1 stack) notSeal

theorem wireFault_awake : wireFault m src d =
    settleAll m (raiseFault m src ((Config.fresh d.draw.1).toNat % 256) (Config.fresh d.draw.2.draw.1).toNat false true none
      d.draw.2.draw.2) := if_neg awake

/-- A record that is VALID takes OVERFLOW, and WIRE from a wire fault. -/
theorem raiseFault_valid {forced wire : Bool} (listed : assigned src = true) (free : d.captureEnd ≤ d.now)
    (runs : ∀ r ∈ d.power.running, r.domain ≠ 5) (valid : (d.src src).valid = true) :
    raiseFault m src code detail forced wire req d = (d.setSrc src { d.src src with
      overflow := true, wire := (d.src src).wire || wire }).count F.FLT_COUNTS_WIRE_FAULTS (b2n wire) := by
  unfold raiseFault
  rw [if_neg (by simpa [listed, awake, Nat.not_lt.2 free] using runs), if_pos valid]

end

/-! ### RESET_DONE (R410) -/

/-- The reset that ends is the one of the widest domain, or the first of the CORE resets. -/
def Dev.endingReset (d : Dev) : Option ResetRun :=
  (d.power.running.find? fun r => decide (r.domain ≠ 1)).or d.power.running.head?

theorem resetDone_none (none : d.power.running = []) : resetDone m d = d := by
  unfold resetDone
  rw [none]
  rfl

theorem resetDone_ends {r : ResetRun} (ends : d.endingReset = some r) :
    resetDone m d = settleAll m ((endReset m r d).endAwaits).endAbandoned := by
  unfold resetDone
  rw [show Option.or _ _ = some r from ends]

/-! ### Timers and health tests (R408, R409, R432) -/

section
variable {u t : Nat} {cmd : Cmd} (oldest : (d.core c).oldest u = some cmd) (since : tFind u (d.core c).hang = some t)
include oldest since

theorem hourglassTimerExpiry_due (hub : d.hubOn = true) (due : t + 1000000 * d.fld F.FLT_HANG_LIMIT_MS ≤ d.now) :
    hourglassTimerExpiry m c u d = settleAll m (raiseOwn m (16 * c.val + u) (some (cmd.f CF.tag + cmd.seq.toNat * 2 ^ 16))
      none (d.modCore c fun x => { x with hang := tPut u d.now x.hang })) := by
  simp [hourglassTimerExpiry, oldest, since, hub, due]

theorem hourglassTimerExpiry_early (early : d.now < t + 1000000 * d.fld F.FLT_HANG_LIMIT_MS) :
    hourglassTimerExpiry m c u d = d := by
  simp [hourglassTimerExpiry, oldest, since, Nat.not_le.2 early]

end

theorem stalemateDetected_due {p : PartId} {t : Nat} (hub : d.hubOn = true) (since : tFind p.val d.staleSince = some t)
    (runs : detectorRuns m d p = true) (stale : inStalemate m d p = true)
    (due : t + 1000000 * d.fld F.FLT_STALEMATE_LIMIT_MS ≤ d.now) :
    stalemateDetected m p d = settleAll m (raiseOwn m (2880 + p.val) none (some p)
      { d.count F.FLT_STALEMATE_FIRED 1 with staleSince := tPut p.val d.now d.staleSince }) := by
  simp [stalemateDetected, hub, since, runs, stale, due]

theorem stalemateDetected_live {p : PartId} (live : inStalemate m d p = false) : stalemateDetected m p d = d := by
  unfold stalemateDetected
  cases tFind p.val d.staleSince with
  | none => rfl
  | some t => simp [live]

theorem entropyHealthFail_on (hub : d.hubOn = true) :
    entropyHealthFail m d = raiseOwn m 2950 none none (d.setFld F.SEC_STATUS_ENTROPY_FAIL 1) := if_pos hub

/-! ### The rows -/

/-- FAULT_RAISE on a device that is awake: what each source does besides reaching the collector. -/
theorem faultRaise_rows {s : State} {src : Fin 4096} {code : BitVec 8} {detail : BitVec 64} {req : Option PartId} {c : CoreId}
    (quiet : s.dev.stores = []) (awake : s.dev.power.phase ≠ .asleep) :
    let d := s.dev
    let line := detail.toNat % 2 ^ 35
    let stack := 2304 ≤ src.val ∧ src.val < 2560 ∧ line / 2 ^ 30 = (src.val - 2304) / 8
    let raises := fun (d : Dev) => Becomes (.faultRaise src code detail req) s
      (pumpAll s.mem (d.reported s.mem src.val code.toNat detail.toNat req))
    (stack → (src.val - 2304) % 8 = 0 → raises ((d.failLine line).noteBad line)) ∧
    (stack → (src.val - 2304) % 8 = 4 → raises { d with ecc := { d.ecc with failing := d.ecc.failing ++ [line] } }) ∧
    (stack → (src.val - 2304) % 8 ≠ 0 → (src.val - 2304) % 8 ≠ 4 → raises d) ∧
    (∀ i < 16, src.val = 16 * c.val + i → raises (badWord c i d)) ∧
    (src.val < 2304 → src.val % 16 ≠ 3 → src.val % 16 ≠ 4 → src.val % 16 ≠ 5 → raises d) ∧
    (2304 ≤ src.val → ¬ stack → src.val ≠ 2955 → raises d) ∧
    (src.val = 2955 → raises (d.setFld F.JNL_STATUS_SEAL_ERR 1)) := by
  intro d line stack raises
  have row : ∀ {e : Dev}, faultRaise s.mem src.val code.toNat detail.toNat req d =
      e.reported s.mem src.val code.toNat detail.toNat req → raises e :=
    fun effect => row_becomes rfl quiet (congrArg (pumpAll s.mem) effect)
  exact ⟨fun ⟨low, high, inStack⟩ kind => row (faultRaise_stack awake low high (badLine_uncorrectable inStack kind)),
    fun ⟨low, high, inStack⟩ kind => row (faultRaise_stack awake low high (badLine_transfer inStack kind)),
    fun ⟨low, high, inStack⟩ bad transfer => row (faultRaise_stack awake low high (badLine_other inStack bad transfer)),
    fun i unit names => row (faultRaise_unit awake unit names),
    fun low spd acf staging => row (faultRaise_silentUnit awake low spd acf staging),
    fun beyond off notSeal => row (faultRaise_offStack awake beyond off notSeal),
    fun isSeal => row (isSeal ▸ faultRaise_seal awake)⟩

/-- Settles O59: each row is the meaning of its case. Free codes and details rest on log 5 of NOTES.md, a line whose
transfers fail on log 26, WIRE on a VALID record and timers that start again on log 37, and the command that an
uncorrectable word ends on log 47. -/
theorem faultsRaise : Obligations.FaultsRaise := by
  unfold Obligations.FaultsRaise
  intro s src code detail req c u p r cmd t d line stack all raises quiet
  refine ⟨fun awake => ?awake, fun asleep => ⟨?_, ?_⟩, ?valid, fun idle => row_after rfl quiet (resetDone_none idle),
    fun wide => row_after rfl quiet (resetDone_ends ?wide),
    fun narrow first => row_after rfl quiet (resetDone_ends ?narrow),
    fun hub oldest since => ⟨fun due => ?_, fun early => ?_⟩, fun hub since runs stale due => ?_, fun live => ?_, fun hub => ?_⟩
  case awake =>
    obtain ⟨uncorrectable, transfer, other, units, silent, off, isSeal⟩ :=
      faultRaise_rows (src := src) (code := code) (detail := detail) (req := req) (c := c) quiet awake
    exact ⟨uncorrectable, transfer, other, units 3 (by decide), units 4 (by decide), units 5 (by decide), silent, off, isSeal,
      row_becomes rfl quiet (congrArg (pumpAll s.mem) (wireFault_awake awake))⟩
  · exact row_becomes rfl quiet (congrArg (pumpAll s.mem) (faultRaise_asleep asleep))
  · exact row_becomes rfl quiet (congrArg (pumpAll s.mem) (wireFault_asleep asleep))
  case valid => exact fun d w forced listed free awake runs valid => raiseFault_valid awake listed free runs valid
  case wide => exact congrArg (Option.or · d.power.running.head?) wide
  case narrow => exact (congrArg (Option.or · d.power.running.head?) narrow).trans first
  · exact row_becomes rfl quiet (congrArg (pumpAll s.mem) (hourglassTimerExpiry_due oldest since hub due))
  · exact row_becomes rfl quiet (congrArg (pumpAll s.mem) (hourglassTimerExpiry_early oldest since early))
  · exact row_becomes rfl quiet (congrArg (pumpAll s.mem) (stalemateDetected_due hub since runs stale due))
  · exact row_becomes rfl quiet (congrArg (pumpAll s.mem) (stalemateDetected_live live))
  · exact row_becomes rfl quiet (congrArg (pumpAll s.mem) (entropyHealthFail_on hub))

end Sys2Proof.Machine
end

section
/-! What a packet does that reaches this device: by its kind once it is its turn (R297, R329), by its place in its flow
(R298), and an error notice; each meaning case by case, then the statement. -/

namespace Sys2Proof.Machine

variable {m : Mem} {d : Dev} {p : Packet}

/-! ### Ring messages and credit returns (R322, R326, R328, R329) -/

theorem deliverPacket_message (kind : p.pkind.toNat = 0) : deliverPacket m p d = ringArrive m p d := by
  simp only [deliverPacket, kind]

theorem ringArrive_error (error : d.rf p.ring.toNat RF.error = 1) : ringArrive m p d = d := if_pos error

section
variable (runs : d.rf p.ring.toNat RF.error ≠ 1)
include runs

theorem ringArrive_stranger (stranger : d.fromPeer p.ring.toNat p = false) :
    ringArrive m p d = ringFault m p.ring.toNat 2 p d :=
  (if_neg runs).trans (if_pos (by simp [stranger]))

variable (peer : d.fromPeer p.ring.toNat p = true)
include peer

theorem ringArrive_credit (credit : KF.credit.get p.kindData.toNat = 1) :
    ringArrive m p d = takeCredit m p.ring.toNat p d :=
  (if_neg runs).trans ((if_neg (by simp [peer])).trans (if_pos credit))

variable (message : KF.credit.get p.kindData.toNat ≠ 1)
include message

theorem ringArrive_refused {c : Nat} (cause : messageCause d p.ring.toNat p = some c) :
    ringArrive m p d = ringFault m p.ring.toNat c p d := by
  simp [ringArrive, runs, peer, message, cause]

variable (allowed : messageCause d p.ring.toNat p = none)
include allowed

theorem ringArrive_accepted (uncut : messageCut d p.ring.toNat p = none) :
    ringArrive m p d = takeMessage p.ring.toNat p d := by
  simp [ringArrive, runs, peer, message, allowed, uncut]

theorem ringArrive_cut {a n : Nat} (cut : messageCut d p.ring.toNat p = some (a, n)) :
    ringArrive m p d = raiseCut m a n (some (partOf (d.rf p.ring.toNat RF.owner))) (d.errorNotice p false) := by
  simp [ringArrive, runs, peer, message, allowed, cut]

end

/-- How many messages of a SEND ring a credit return leaves unconsumed, modulo 2^32. -/
def Dev.creditLag (d : Dev) (p : Packet) : Nat :=
  (d.rf p.ring.toNat RF.produced + 2 ^ 32 - KF.seq.get p.kindData.toNat) % 2 ^ 32

theorem takeCredit_within (within : d.creditLag p < 2 ^ 31) :
    takeCredit m p.ring.toNat p d = d.setRf p.ring.toNat RF.consumed (KF.seq.get p.kindData.toNat) :=
  if_neg (Nat.not_le.2 within)

theorem takeCredit_beyond (beyond : 2 ^ 31 ≤ d.creditLag p) :
    takeCredit m p.ring.toNat p d = ringFault m p.ring.toNat 6 p d := if_pos beyond

/-! ### Bulk writes (R240, R297, R298) -/

theorem deliverPacket_write (kind : p.pkind.toNat = 1) : deliverPacket m p d = bulkArrive m p d := by
  simp only [deliverPacket, kind]

/-- A bulk write is one of whole lines within memory, into extents that take it. -/
def Dev.takesBulk (d : Dev) (p : Packet) : Prop :=
  p.addr.toNat % 64 = 0 ∧ p.addr.toNat + p.payload.length ≤ 2 ^ 41 ∧
    (extentsOf p.addr.toNat p.payload.length).all d.bulkWrites = true

/-- The device with a bulk write's bytes stored. -/
def Dev.storeBulk (d : Dev) (m : Mem) (p : Packet) : Dev :=
  accumulate m p.addr.toNat p.payload.length
    ((d.store p.addr.toNat p.payload).countStk true p.addr.toNat p.payload.length)

/-- The flow that a packet is of, as this device has received it. -/
def Dev.flowOf (d : Dev) (p : Packet) : FlowIn := tGet {} d.flowIn (flowKey p.src.toNat p.job.toNat)

/-- The device with a mirror noted as arrived, where the extent is one that waits for it. -/
def Dev.noteMirror (d : Dev) (e : Nat) : Dev :=
  if decide (d.xf e XF.kind = 4) && decide (d.xf e XF.state = 3) && !d.arrived.contains e then
    { d with arrived := d.arrived ++ [e] }
  else d

theorem Dev.noteMirror_other {e : Nat}
    (h : d.xf e XF.kind ≠ 4 ∨ d.xf e XF.state ≠ 3 ∨ d.arrived.contains e = true) : d.noteMirror e = d := by
  refine if_neg ?_
  rcases h with kind | state | known
  · simp [kind]
  · simp [state]
  · simp only [known, Bool.not_true, Bool.and_false, Bool.false_eq_true, not_false_eq_true]

theorem Dev.takesBulk.not_refused (h : d.takesBulk p) :
    ¬ (p.addr.toNat % 64 ≠ 0 ∨ 2 ^ 41 < p.addr.toNat + p.payload.length ∨
      (!(extentsOf p.addr.toNat p.payload.length).all d.bulkWrites) = true) := by
  obtain ⟨lines, inside, extents⟩ := h
  simp only [lines, extents, Nat.not_lt.2 inside, ne_eq, not_true_eq_false, Bool.not_true, Bool.false_eq_true, or_self,
    not_false_eq_true]

theorem bulkArrive_refused (h : p.addr.toNat % 64 ≠ 0 ∨ 2 ^ 41 < p.addr.toNat + p.payload.length ∨
    (extentsOf p.addr.toNat p.payload.length).all d.bulkWrites = false) : bulkArrive m p d = refuseBulk p d :=
  if_pos (by simpa only [Bool.not_eq_true'] using h)

section
variable (takes : d.takesBulk p)
include takes

theorem bulkArrive_cut (cut : d.badWrite p.addr.toNat p.payload.length = true) : bulkArrive m p d =
    raiseCut m p.addr.toNat p.payload.length (d.extentOwner (extentOf p.addr.toNat)) (refuseBulk p d) :=
  (if_neg takes.not_refused).trans (if_pos cut)

variable (uncut : d.badWrite p.addr.toNat p.payload.length = false) (memory : d.shardAt p.addr.toNat = none)
include uncut memory

/-- A bulk write outside a shard that loads is stored, and the last of a transfer is answered where none was refused. -/
theorem bulkArrive_stored : bulkArrive m p d =
    if p.last = false then d.storeBulk m p
    else if (d.flowOf p).refused = true then (d.storeBulk m p).setRefused p false
    else ((d.storeBulk m p).noteMirror (extentOf p.addr.toNat)).emitFlow
      p.src.toNat p.job.toNat 2 0 p.addr.toNat 0 true [0] := by
  refine (if_neg takes.not_refused).trans ?_
  rw [if_neg (by simp [uncut])]
  simp only [memory, Bool.not_not, Bool.not_eq_true']
  rfl

theorem bulkArrive_more (more : p.last = false) : bulkArrive m p d = d.storeBulk m p :=
  (bulkArrive_stored takes uncut memory).trans (if_pos more)

variable (last : p.last = true)
include last

theorem bulkArrive_last_refused (refused : (d.flowOf p).refused = true) :
    bulkArrive m p d = (d.storeBulk m p).setRefused p false :=
  (bulkArrive_stored takes uncut memory).trans ((if_neg (by simp [last])).trans (if_pos refused))

theorem bulkArrive_last_whole (whole : (d.flowOf p).refused = false) : bulkArrive m p d =
    ((d.storeBulk m p).noteMirror (extentOf p.addr.toNat)).emitFlow p.src.toNat p.job.toNat 2 0 p.addr.toNat 0 true [0] :=
  (bulkArrive_stored takes uncut memory).trans ((if_neg (by simp [last])).trans (if_neg (by simp [whole])))

end

/-! ### Acknowledgements (R218, R264) -/

theorem deliverPacket_ack (kind : p.pkind.toNat = 2) : deliverPacket m p d =
    (d.moveAcked p.src.toNat p.addr.toNat).modJob p.job.toNat
      fun x => { x with unacked := x.unacked.erase (p.src.toNat, p.addr.toNat) } := by
  simp only [deliverPacket, kind, ackArrive]

/-! ### Flows (R298, R299) -/

/-- The device with the flow of a packet changed. -/
def Dev.setFlowOf (d : Dev) (p : Packet) (f : FlowIn) : Dev :=
  { d with flowIn := tPut (flowKey p.src.toNat p.job.toNat) f d.flowIn }

/-- How far a packet is ahead of the one that its flow expects, modulo 2^32. -/
def Dev.ahead (d : Dev) (p : Packet) : Nat := (p.flowSeq.toNat + 2 ^ 32 - (d.flowOf p).next) % 2 ^ 32

section
variable {die : Nat} (known : tFind (flowKey p.src.toNat p.job.toNat) d.flowIn ≠ none)
include known

theorem flowArrive_known : flowArrive m p die d =
    if d.ahead p = 0 then
      deliverHeld m (flowKey p.src.toNat p.job.toNat) (d.flowOf p).held.length
        (deliverPacket m p (d.setFlowOf p { d.flowOf p with next := ((d.flowOf p).next + 1) % 2 ^ 32 }))
    else if 2 ^ 31 ≤ d.ahead p ∨ (d.flowOf p).held.any (fun h => decide (h.pkt.flowSeq = p.flowSeq)) then
      d.count F.FAB_DROPS_DUP 1
    else if 1048576 < d.reorderBytes die + 32 + p.payload.length then d.count F.FAB_DROPS_REORDER 1
    else d.setFlowOf p
      { d.flowOf p with held := (d.flowOf p).held ++ [({ pkt := p, die := die, at_ := d.now } : EarlyPacket)] } :=
  if_neg fun ⟨unknown, _⟩ => known (Option.isNone_iff_eq_none.1 unknown)

theorem flowArrive_next (next : d.ahead p = 0) : flowArrive m p die d =
    deliverHeld m (flowKey p.src.toNat p.job.toNat) (d.flowOf p).held.length
      (deliverPacket m p (d.setFlowOf p { d.flowOf p with next := ((d.flowOf p).next + 1) % 2 ^ 32 })) :=
  (flowArrive_known known).trans (if_pos next)

theorem flowArrive_repeated (behind : 2 ^ 31 ≤ d.ahead p) : flowArrive m p die d = d.count F.FAB_DROPS_DUP 1 :=
  (flowArrive_known known).trans ((if_neg (by omega)).trans (if_pos (.inl behind)))

theorem flowArrive_early (early : 0 < d.ahead p) (near : d.ahead p < 2 ^ 31)
    (first : (d.flowOf p).held.any (fun h => decide (h.pkt.flowSeq = p.flowSeq)) = false)
    (room : d.reorderBytes die + 32 + p.payload.length ≤ 1048576) : flowArrive m p die d =
    d.setFlowOf p
      { d.flowOf p with held := (d.flowOf p).held ++ [({ pkt := p, die := die, at_ := d.now } : EarlyPacket)] } := by
  have fresh : ¬ (2 ^ 31 ≤ d.ahead p ∨ (d.flowOf p).held.any (fun h => decide (h.pkt.flowSeq = p.flowSeq)) = true) := by
    rintro (behind | held)
    · exact Nat.not_le.2 near behind
    · exact Bool.false_ne_true (first.symm.trans held)
  rw [flowArrive_known known, if_neg (by omega), if_neg fresh, if_neg (by omega)]

end

/-! ### Taking a packet in (R297, R410) -/

/-- The device with a packet out of its inbox. -/
def Dev.outOfInbox (d : Dev) (p : Packet) : Dev :=
  { d with inbox := match d.inbox.find? fun x => decide (x.2 = p) with | some x => d.inbox.erase x | none => d.inbox }

section
variable {kind : Nat} {f : Nat → Dev → Dev} (fabric : d.fabricOn = true) (hkind : p.pkind.toNat = kind)
  (here : p.dst.toNat = d.deviceId)
include fabric hkind here

theorem takePacket_here : takePacket kind p f d =
    if d.memoryDown then (if kind < 3 then (d.outOfInbox p).errorNotice p false else d.outOfInbox p)
    else f (d.arrivalDie p) (d.outOfInbox p) :=
  if_neg (by simp [fabric, hkind, here])

theorem takePacket_down (ofFlow : kind < 3) (down : d.memoryDown = true) :
    takePacket kind p f d = (d.outOfInbox p).errorNotice p false :=
  (takePacket_here fabric hkind here).trans ((if_pos down).trans (if_pos ofFlow))

theorem takePacket_up (up : d.memoryDown = false) : takePacket kind p f d = f (d.arrivalDie p) (d.outOfInbox p) :=
  (takePacket_here fabric hkind here).trans (if_neg (by simp [up]))

end

/-- The rows of the three kinds of packets of flows. -/
theorem flowPacket_row {i : Instr} {kind : Nat}
    (mem : (i, kind) ∈ [(Instr.ringMessagePacket p, 0), (.bulkWritePacket p, 1), (.writeAckPacket p, 2)]) (s : State) :
    kind < 3 ∧ exec i s = .next (s.run fun m d => afterAll m (flowPacket m kind p d)) := by
  simp only [List.mem_cons, Prod.mk.injEq, List.not_mem_nil, or_false] at mem
  obtain ⟨rfl, rfl⟩ | ⟨rfl, rfl⟩ | ⟨rfl, rfl⟩ := mem
  all_goals exact ⟨by decide, rfl⟩

/-! ### The statement -/

/-- Settles O45: each row is the meaning of its case. What acknowledges a transfer, how long a refusal lasts and the cause of
a failure by a notice rest on log 31 of NOTES.md. -/
theorem packetsArrive : Obligations.PacketsArrive := by
  unfold Obligations.PacketsArrive
  refine ⟨?rows, ?delivery⟩
  case rows =>
    intro s p i kind d key e f ahead quiet fabric here hkind
    refine ⟨fun mem => ?flow, fun isNotice up => ?notice⟩
    case notice =>
      exact row_after rfl quiet (takePacket_up fabric (hkind.trans isNotice) here up)
    case flow =>
      obtain ⟨ofFlow, hx⟩ := flowPacket_row mem s
      have row : ∀ {u}, d.memoryDown = false → flowArrive s.mem p (d.arrivalDie p) e = u → After i s u :=
        fun up arrives => row_after hx quiet ((takePacket_up fabric hkind here up).trans arrives)
      exact ⟨fun down => row_after hx quiet (takePacket_down fabric hkind here ofFlow down),
        fun up known next => row up (flowArrive_next known next),
        fun up known behind => row up (flowArrive_repeated known behind),
        fun up known early near first room => row up (flowArrive_early known early near first room)⟩
  case delivery =>
    intro m p d r a n cr no wr
    have message : p.pkind.toNat = 0 → ∀ {u}, ringArrive m p d = u → deliverPacket m p d = u :=
      fun kind _ arrives => (deliverPacket_message kind).trans arrives
    have write : p.pkind.toNat = 1 → ∀ {u}, bulkArrive m p d = u → deliverPacket m p d = u :=
      fun kind _ arrives => (deliverPacket_write kind).trans arrives
    exact ⟨fun kind error => message kind (ringArrive_error error),
      fun kind runs stranger => message kind (ringArrive_stranger runs stranger),
      fun kind runs peer credit within => message kind ((ringArrive_credit runs peer credit).trans (takeCredit_within within)),
      fun kind runs peer credit beyond => message kind ((ringArrive_credit runs peer credit).trans (takeCredit_beyond beyond)),
      fun c kind runs peer body cause => message kind (ringArrive_refused runs peer body cause),
      fun kind runs peer body allowed uncut => message kind (ringArrive_accepted runs peer body allowed uncut),
      fun b k kind runs peer body allowed cut => message kind (ringArrive_cut runs peer body allowed cut),
      fun kind refused => write kind (bulkArrive_refused refused),
      fun kind lines inside extents cut => write kind (bulkArrive_cut ⟨lines, inside, extents⟩ cut),
      fun kind lines inside extents uncut memory more => write kind
        (bulkArrive_more ⟨lines, inside, extents⟩ uncut memory more),
      fun kind lines inside extents uncut memory last refused => write kind
        (bulkArrive_last_refused ⟨lines, inside, extents⟩ uncut memory last refused),
      fun kind lines inside extents uncut memory last whole noMirror => write kind
        ((bulkArrive_last_whole ⟨lines, inside, extents⟩ uncut memory last whole).trans
          (congrArg (Dev.emitFlow · p.src.toNat p.job.toNat 2 0 a 0 true [0]) (Dev.noteMirror_other noMirror))),
      deliverPacket_ack⟩

end Sys2Proof.Machine
end

section
/-! What a device does on its side of a turn: its ready and quiesced reports, and the banker's notices for a job; each
meaning case by case, then the statement. -/

namespace Sys2Proof.Machine

variable {m : Mem} {d : Dev} {x : BankerMsg} {j n : Nat}

/-! ### Rows of notices (R465) -/

section
variable {i : Instr} {s : State} {code : Nat} {f : Mem → Dev → Dev}
  (row : exec i s = .next (s.run fun m d => afterAll m (takeMsg code x (f m) d))) (quiet : s.dev.stores = [])
include row quiet

/-- A notice that the device takes has the effect of its meaning, once its number is recorded. -/
theorem row_newNotice {e : Dev} (new : s.dev.isNew code x) (effect : f s.mem (s.dev.noted code x) = e) : After i s e :=
  row_after row quiet ((takeMsg_new _ new).trans effect)

theorem row_oldNotice (old : ¬ s.dev.isNew code x) : After i s s.dev := row_after row quiet (takeMsg_old _ old)

end

/-! ### Ready reports (R219, R345) -/

theorem readyReportSend_ready (hub : d.hubOn = true) (ready : turnReady m d j = true) (first : (d.job j).readyAt = none)
    (hosted : jobParts m d j ≠ []) : readyReportSend m j d = sendReady m j d :=
  if_pos (by simp [hub, ready, first, hosted])

theorem readyReportSend_not_ready (h : turnReady m d j = false) : readyReportSend m j d = d := if_neg (by simp [h])

theorem readyRepeat_due {t : Nat} (hub : d.hubOn = true) (sent : (d.job j).readyAt = some t) (due : t + 1000000 ≤ d.now) :
    readyRepeat m j d = sendReady m j d := by
  simp only [readyRepeat, sent]
  exact if_pos (by simp [hub, due])

theorem readyRepeat_not_sent (h : (d.job j).readyAt = none) : readyRepeat m j d = d := by
  simp only [readyRepeat, h]

/-! ### Quiesced reports (R417) -/

theorem quiesceReportSend_quiet (hub : d.hubOn = true) (stopped : (d.job j).stopped = true)
    (first : (d.job j).quiesced = false) (quiet : d.quiet m j = true) : quiesceReportSend m j d =
    (d.modJob j fun y => { y with quiesced := true }).sendBanker (some d.activeBanker) 0x16 j (jobTurn m d j) 0 0 0 :=
  if_pos (by simp [hub, stopped, first, quiet])

theorem quiesceReportSend_idle (h : (d.job j).stopped = false ∨ (d.job j).quiesced = true) :
    quiesceReportSend m j d = d := by
  refine if_neg ?_
  rcases h with runs | reported
  · simp [runs]
  · simp [reported]

/-! ### Commits (R197, R220) -/

theorem commitPart_ignored {castle : Nat} {p : PartId} (h : d.turnOf p ≠ n ∨ n + 1 = 2 ^ 48) :
    commitPart m n castle d p = d.count F.PART_TURN_IGNORED 1 p.val := if_pos h

/-- A commit moves a partition of the job on. -/
def Dev.movesOn (d : Dev) (m : Mem) (j n : Nat) : Prop := (∃ p ∈ jobParts m d j, d.turnOf p = n) ∧ n + 1 ≠ 2 ^ 48

theorem movesOn_iff : (((jobParts m d j).any fun p => decide (d.turnOf p = n)) && decide (n + 1 ≠ 2 ^ 48)) = true ↔
    d.movesOn m j n := by
  simp only [Bool.and_eq_true, List.any_eq_true, decide_eq_true_eq, Dev.movesOn]

theorem commitApply_moves {castle : Nat} (moves : d.movesOn m j n) : commitApply m j n castle d =
    let e := (jobParts m d j).foldl (commitPart m n castle) d
    settleAll m ({ e with jobs := tSet {} j { attemptAt := e.now } e.jobs } : Dev).joinPod :=
  if_pos (movesOn_iff.2 moves)

theorem commitApply_ignored {castle : Nat} (h : (∀ p ∈ jobParts m d j, d.turnOf p ≠ n) ∨ n + 1 = 2 ^ 48) :
    commitApply m j n castle d = (jobParts m d j).foldl (commitPart m n castle) d := by
  refine if_neg fun moves => ?_
  obtain ⟨⟨p, hosted, turn⟩, notLast⟩ := movesOn_iff.1 moves
  rcases h with other | last
  · exact other p hosted turn
  · exact notLast last

/-! ### Failure notices and replays (R330, R417, R418) -/

/-- The partitions of a job at turn n. -/
def Dev.partsAt (d : Dev) (m : Mem) (j n : Nat) : List PartId := (jobParts m d j).filter fun p => decide (d.turnOf p = n)

/-- The device with the unissued commands of a list of partitions discarded. -/
def Dev.discardOf (d : Dev) (ps : List PartId) : Dev :=
  (d.ctxs.filter fun c => ps.contains c.2.part).foldl (fun d c => d.modCtx c.1 Ctx.discard) d

theorem failureApply_elsewhere (elsewhere : d.partsAt m j n = []) : failureApply m j n d = d :=
  if_pos (List.isEmpty_iff.2 elsewhere)

theorem failureApply_stops (hosted : d.partsAt m j n ≠ []) : failureApply m j n d =
    let ps := d.partsAt m j n
    let v := d.discardOf ps
    let w := resetTurnRings m j { v with failHold := (v.failHold ++ ps).dedup }
    (ps.foldl (fun d p => Dev.dropTurn p (d.postEvent p 4 0 n)) w).modJob j fun y => { y with
      failed := true, stopped := true, quiesced := false, readyAt := none, unacked := [] } :=
  if_neg (mt List.isEmpty_iff.1 hosted)

theorem replays_iff : ¬ ((d.partsAt m j n).isEmpty || !(d.job j).stopped) = true ↔
    d.partsAt m j n ≠ [] ∧ (d.job j).stopped = true := by
  simp only [Bool.or_eq_true, List.isEmpty_iff, Bool.not_eq_true', not_or, Bool.not_eq_false, ne_eq]

theorem replayApply_refused (h : d.partsAt m j n = [] ∨ (d.job j).stopped = false) : replayApply m j n d = d := by
  refine if_pos (not_not.1 fun replays => ?_)
  obtain ⟨hosted, stopped⟩ := replays_iff.1 replays
  rcases h with elsewhere | runs
  · exact hosted elsewhere
  · exact Bool.false_ne_true (runs.symm.trans stopped)

/-- The device with the partitions of a job restarted from their entry images, the job's rings and flows cleared. -/
def Dev.restarted (d : Dev) (m : Mem) (j n : Nat) (ps : List PartId) : Dev :=
  ps.foldl (fun d p => beginTurn m p (restartPart m p n d)) ((resetTurnRings m j d).clearFlows j)

theorem replayApply_restarts (hosted : d.partsAt m j n ≠ []) (stopped : (d.job j).stopped = true) :
    replayApply m j n d =
      let ps := d.partsAt m j n
      let v := d.restarted m j n ps
      let cs := ps.flatMap v.ownedCores
      settleAll m (({ v with
        failHold := v.failHold.filter fun p => !ps.contains p
        idleSpan := v.idleSpan.filter fun y => !cs.any fun c => decide (c.val = y.1)
        idleMark := v.idleMark.filter fun y => !cs.any fun c => decide (c.val = y.1)
        stillSince := v.stillSince.filter fun y => !ps.any fun p => decide (p.val = y.1)
        jobs := tSet {} j { attemptAt := v.now } v.jobs } : Dev).count F.FLT_COUNTS_REPLAYS 1) :=
  if_neg (replays_iff.2 ⟨hosted, stopped⟩)

/-! ### The statement -/

/-- Settles O56: each row is the meaning of its case, on the device with the message's number recorded. That a commit of the
last turn number (R197) moves nothing on and that a replay clears the job's turn-scoped rings again rest on log 39 of
NOTES.md. -/
theorem jobsRun : Obligations.JobsRun := by
  unfold Obligations.JobsRun
  intro s j x t d r parts u worst report job n quiet
  refine ⟨fun hub ready first hosted => row_becomes rfl quiet (readyReportSend_ready hub ready first hosted),
    fun hub sent due => row_becomes rfl quiet (readyRepeat_due hub sent due),
    fun notReady => row_becomes rfl quiet (readyReportSend_not_ready notReady),
    fun notSent => row_becomes rfl quiet (readyRepeat_not_sent notSent),
    fun hub stopped first still => row_becomes rfl quiet (quiesceReportSend_quiet hub stopped first still),
    fun idle => row_becomes rfl quiet (quiesceReportSend_idle idle), ?commit,
    fun d p k ignored => commitPart_ignored ignored, ?failure, ?replay,
    fun new => row_newNotice (f := fun m => jobEndApply m job) rfl quiet new rfl, ?old⟩
  case commit =>
    intro new e ps v
    have row : ∀ {u}, commitApply s.mem job n x.f0.toNat e = u → After (.commit x) s u :=
      row_newNotice (f := fun m => commitApply m job n x.f0.toNat) rfl quiet new
    exact ⟨fun reached next => row (commitApply_moves ⟨reached, next⟩), fun ignored => row (commitApply_ignored ignored)⟩
  case failure =>
    intro new e ps v w
    have row : ∀ {u}, failureApply s.mem job n e = u → After (.failureNotice x) s u :=
      row_newNotice (f := fun m => failureApply m job n) rfl quiet new
    exact ⟨fun elsewhere => row (failureApply_elsewhere elsewhere), fun hosted => row (failureApply_stops hosted)⟩
  case replay =>
    intro new e ps
    have row : ∀ {u}, replayApply s.mem job n e = u → After (.replay x) s u :=
      row_newNotice (f := fun m => replayApply m job n) rfl quiet new
    exact ⟨fun refused => row (replayApply_refused refused),
      fun hosted stopped => row (replayApply_restarts hosted stopped)⟩
  case old =>
    intro i code mem old
    simp only [List.mem_cons, Prod.mk.injEq, List.not_mem_nil, or_false] at mem
    obtain ⟨rfl, rfl⟩ | ⟨rfl, rfl⟩ | ⟨rfl, rfl⟩ | ⟨rfl, rfl⟩ := mem
    · exact row_oldNotice (f := fun m => commitApply m job n x.f0.toNat) rfl quiet old
    · exact row_oldNotice (f := fun m => failureApply m job n) rfl quiet old
    · exact row_oldNotice (f := fun m => replayApply m job n) rfl quiet old
    · exact row_oldNotice (f := fun m => jobEndApply m job) rfl quiet old

end Sys2Proof.Machine
end

section
/-! The invariant of memory and stores through every step (R226, R475): each command is one change of the device, run on the
state. -/

namespace Sys2Proof.Machine

/-- Every command runs a change of the device. -/
theorem exec_runs (i : Instr) (s : State) : ∃ f, exec i s = .next (s.run f) := by
  cases i
  all_goals exact ⟨_, rfl⟩

theorem State.Inv.run {s : State} (inv : s.Inv) (f : Mem → Dev → Dev) : (s.run f).Inv :=
  ⟨s.run_wf f inv.1, s.run_stores f⟩

/-- A step runs a change of the device: an idle tick, or the command at the front on the state with the rest of the queue. -/
theorem step_runs (s : State) : ∃ p f, step s = .next (({ s with pending := p } : State).run f) := by
  obtain ⟨d, m, _ | ⟨c, r⟩⟩ := s
  · exact ⟨[], tick, rfl⟩
  · obtain ⟨f, runs⟩ := exec_runs c ⟨d, m, r⟩
    exact ⟨r, f, runs⟩

/-- Settles O4: the change that a step runs leaves memory in canonical form and no store pending. -/
theorem stepKeepsInv : Obligations.StepKeepsInv := by
  unfold Obligations.StepKeepsInv
  intro s t inv steps
  obtain ⟨p, f, runs⟩ := step_runs s
  obtain rfl := Host.Outcome.next.inj (steps.symm.trans runs)
  exact State.Inv.run (s := { s with pending := p }) inv f

end Sys2Proof.Machine
end

section
/-! The commands of the extent map (R233, R235, R236, R245): what each does once its checks have passed, that none touches
the pages or the sessions but where a fault resets them, and how their rows end. -/

namespace Sys2Proof.Machine

variable {m : Mem} {d e : Dev}

/-! ### Operations on entries leave the pages and the sessions alone -/

@[simp] theorem desk_setDigests (d : Dev) (t : Table (BitVec 64)) : (d.setDigests t).desk = d.desk := (rfl)

@[simp] theorem desk_setFlash (d : Dev) (x : Flash) : (d.setFlash x).desk = d.desk := (rfl)

@[simp] theorem desk_beginClear (d : Dev) (e digest : Nat) : (d.beginClear e digest).desk = d.desk := by
  unfold Dev.beginClear
  rw [desk_setDigests, desk_setXf, desk_setXf, desk_setXf]

@[simp] theorem desk_allocExtent (d : Dev) (arg e k partner : Nat) : (d.allocExtent arg e k partner).desk = d.desk := by
  unfold Dev.allocExtent
  rw [desk_beginClear, desk_setXent]

@[simp] theorem desk_endClear (d : Dev) (e : Nat) : (d.endClear e).desk = d.desk := by
  unfold Dev.endClear
  split <;> rfl

@[simp] theorem desk_freeExtent (d : Dev) (e : Nat) : (d.freeExtent e).desk = d.desk := by
  unfold Dev.freeExtent
  dsimp only
  split <;> rfl

@[simp] theorem desk_retire (d : Dev) (e : Nat) : (d.retire e).desk = d.desk := by
  unfold Dev.retire
  dsimp only
  split
  · rw [desk_setFlash, desk_setXent]
  · split
    · rw [desk_postEvent, desk_setXf]
    · exact desk_setXf _ _ _ _

@[simp] theorem desk_updateGen (d : Dev) (p : PartId) (i : Nat) : (d.updateGen p i).desk = d.desk := by
  unfold Dev.updateGen
  split
  · rfl
  · dsimp only
    split <;> rfl

@[simp] theorem desk_updateGens (d : Dev) : d.updateGens.desk = d.desk := fold_desk _ (fun _ _ => desk_updateGen _ _ _) _ _

@[simp] theorem desk_fail (c : PageCmd) (i : Nat) (d : Dev) : (c.fail i d).desk = d.desk := by
  unfold PageCmd.fail
  split <;> rfl

theorem pathOpen_of_desk (same : e.desk = d.desk) (w : Path) : e.pathOpen w = d.pathOpen w :=
  pathOpen_sessions (sessions_of same) w

theorem PageCmd.fail_open {c : PageCmd} (isOpen : d.pathOpen c.path = true) (i : Nat) :
    c.fail i d = d.setPfld c.path F.XMAP_STATUS_FAIL_INDEX (c.a + i) c.die := if_pos isOpen

/-! ### What a command does once its checks have passed (R235, R236) -/

section
variable {c : PageCmd}

theorem xmapApply_allocate (op : c.code = 1) (single : c.pairs = false) : xmapApply m c d =
    ((List.range c.entries).foldl (fun d i =>
      d.allocExtent c.arg0 (c.first + i) (XF.member.get c.arg0) (XF.partner.get c.arg0)) (d.markApplied c.page), none) := by
  simp [xmapApply, op, single]

theorem xmapApply_allocatePairs (op : c.code = 1) (pairs : c.pairs = true) : xmapApply m c d =
    ((List.range c.entries).foldl (fun d i =>
      (d.allocExtent c.arg0 (c.first + i) 0 (XF.partner.get c.arg0 + i)).allocExtent c.arg0 (XF.partner.get c.arg0 + i) 1
        (c.first + i)) (d.markApplied c.page), none) := by
  simp [xmapApply, op, pairs]

theorem xmapApply_free (op : c.code = 2) : xmapApply m c d = (c.named.foldl Dev.freeExtent d, some 0) := by
  simp only [xmapApply, op]

theorem xmapApply_loadBegin (op : c.code = 3) : xmapApply m c d =
    (c.named.foldl (fun d e => d.beginClear e (d.xf e XF.digestMode)) (d.markApplied c.page), none) := by
  simp only [xmapApply, op]

/-- LOAD_END of extents whose digests are all off or match. -/
theorem xmapApply_loadEnd_matches (op : c.code = 4) (allMatch : (loadEnd m c d).2 = []) :
    xmapApply m c d = ((loadEnd m c d).1, some 0) := by
  simp only [xmapApply, op, allMatch]

/-- LOAD_END where the digest at some position differs: the first such position is told. -/
theorem xmapApply_loadEnd_differs {i : Nat} {l : List Nat} (op : c.code = 4) (differs : (loadEnd m c d).2 = i :: l) :
    xmapApply m c d = (c.fail i (loadEnd m c d).1, some xDigest) := by
  simp only [xmapApply, op, differs]

theorem xmapApply_freeze (op : c.code = 5) :
    xmapApply m c d = (c.named.foldl (fun d e => d.setXf e XF.state 4) d, some 0) := by
  simp only [xmapApply, op]

theorem xmapApply_thaw (op : c.code = 6) :
    xmapApply m c d = (c.named.foldl (fun d e => d.setXf e XF.state 3) d, some 0) := by
  simp only [xmapApply, op]

theorem xmapApply_setGen (op : c.code = 7) :
    xmapApply m c d = (c.named.foldl (fun d e => d.setXf e XF.gen (XF.gen.get c.arg0)) d, some 0) := by
  simp only [xmapApply, op]

theorem xmapApply_retire (op : c.code = 8) : xmapApply m c d = (c.named.foldl Dev.retire d, some 0) := by
  simp only [xmapApply, op]

/-! ### A command that changes entries until their clearing ends (R233, R236) -/

/-- The command as it reads once it has changed its entries. -/
def PageCmd.changed (c : PageCmd) : PageCmd := { c with applied := true }

theorem markApplied_single {t : Nat} (runs : d.pageCmds = [c.started t]) :
    (d.markApplied c.page).pageCmds = [c.changed.started t] := by
  show d.pageCmds.map _ = _
  rw [runs]
  simp [PageCmd.started, PageCmd.changed]

/-- While one command of a map page runs, nothing but an event lets it go on. -/
theorem settled_afterAll_running {t : Nat} (runs : d.pageCmds = [c.started t]) (onMap : c.page / 256 = 0x10) :
    Settled d (afterAll m d) := by
  have settled := Settled.settleAll m d
  unfold afterAll
  rw [pumpAll_waits (settled.pageCmds.trans runs) (continueCmd_xmap m _ onMap)]
  exact settled

end

/-! ### The rows that enter a map command (R251, R483) -/

/-- A row whose effect the bookkeeping of every core follows. -/
theorem does_settled {i : Instr} {s : State} {E : Mem → Dev → Dev}
    (hx : exec i s = .next (s.run fun m d => afterAll m (E m d))) (quiet : s.dev.stores = []) (effect : E s.mem s.dev = e)
    (settled : Settled e (afterAll s.mem e)) : Does i s e :=
  ⟨_, hx, afterAll s.mem e, settled, by rw [State.run_quiet quiet, effect]; rfl⟩

theorem xmapCheck_begun (c h : PageCmd) (t : Nat) : xmapCheck (d.begun c) (h.started t) = xmapCheck d h := rfl

theorem xmapWaits_begun (c h : PageCmd) (t : Nat) : xmapWaits (d.begun c) (h.started t) = xmapWaits d h := rfl

section
variable {c : PageCmd} (t : Nat)

theorem xmapStart_acts (pass : xmapCheck d c = none) (idle : xmapWaits d c = false) :
    xmapStart m (c.started t) (d.begun c) = xmapApply m (c.started t) (d.begun c) := by
  unfold xmapStart
  rw [xmapCheck_begun, pass, xmapWaits_begun, idle]
  rfl

/-- THAW, SET_GEN and RETIRE wait for no access (R236). -/
theorem xmapWaits_late (late : 5 < c.code) : xmapWaits d c = false := by simp [xmapWaits, Nat.not_le.2 late]

theorem xmapStart_refuses {i r : Nat} (fails : xmapCheck d c = some (i, r)) :
    xmapStart m (c.started t) (d.begun c) = (c.fail i (d.begun c), some r) := by
  unfold xmapStart
  rw [xmapCheck_begun, fails]
  rfl

end

theorem xmapCmd_die (w : Path) (k : DieId) (op : Nat) (index : BitVec 17) (n : BitVec 12) :
    (xmapCmd d w k op index n).die = k.val := by
  show (0x1000 + k.val) % 256 = k.val
  omega

section
variable {i : Instr} {s : State} {w : Path} {k : DieId} {op : Nat} {index : BitVec 17} {n : BitVec 12}
  (takes : s.Takes i) (writes : writeOf i s.dev = some (w, page 0x10 k.val 0x100, op + 16 * index.toNat + 2 ^ 21 * n.toNat))
  (code : op < 16)
include takes writes code

theorem row_mapEnds {r : Nat}
    (starts : xmapStart s.mem ((xmapCmd s.dev w k op index n).started s.dev.now) (s.dev.begun (xmapCmd s.dev w k op index n)) =
      (e, some r)) (keeps : e.desk = (s.dev.begun (xmapCmd s.dev w k op index n)).desk) :
    Does i s (e.updateGens.ended (xmapCmd s.dev w k op index n) r) :=
  row_ended takes writes (xmap_command _ w k op index n code) rfl rfl
    (by rw [startCmd_xmap _ _ (xmap_page _ w k op index n _), starts]) ((desk_updateGens e).trans keeps)

theorem row_mapRefused {j r : Nat} (fails : xmapCheck s.dev (xmapCmd s.dev w k op index n) = some (j, r)) :
    Does i s (((s.dev.begun (xmapCmd s.dev w k op index n)).setPfld w F.XMAP_STATUS_FAIL_INDEX (index.toNat + j)
      k.val).updateGens.ended (xmapCmd s.dev w k op index n) r) := by
  have isOpen : s.dev.pathOpen w = true := writeAns_open (takes.ans writes)
  have told := PageCmd.fail_open (d := s.dev.begun (xmapCmd s.dev w k op index n)) (c := xmapCmd s.dev w k op index n)
    ((pathOpen_sessions rfl w).trans isOpen) j
  rw [xmapCmd_die] at told
  exact row_mapEnds takes writes code ((xmapStart_refuses _ fails).trans (by rw [told]; rfl)) (desk_setPfld _ _ _ _ _ _)

/-- A command whose extents clear stays BUSY. -/
theorem row_mapRuns
    (starts : xmapStart s.mem ((xmapCmd s.dev w k op index n).started s.dev.now) (s.dev.begun (xmapCmd s.dev w k op index n)) =
      (e, none))
    (keeps : e.desk = ((s.dev.begun (xmapCmd s.dev w k op index n)).markApplied (xmapCmd s.dev w k op index n).page).desk) :
    Does i s e.updateGens := by
  have effect : writeEffect s.mem w (page 0x10 k.val 0x100) (op + 16 * index.toNat + 2 ^ 21 * n.toNat) s.dev = e.updateGens :=
    (writeEffect_command (xmap_command _ w k op index n code)).trans (enterAndPump_runs takes.1.2 rfl
      (by rw [startCmd_xmap _ _ (xmap_page _ w k op index n _), starts]))
  have runs : e.updateGens.pageCmds = [(xmapCmd s.dev w k op index n).changed.started s.dev.now] :=
    (pages_of ((desk_updateGens e).trans keeps)).trans (markApplied_single rfl)
  refine ⟨_, exec_write takes.1.1 writes, doWrite s.mem w _ _ s.dev, ?_, by rw [State.run_quiet takes.1.1]; rfl⟩
  unfold doWrite regWrite
  rw [if_pos (takes.ans writes), if_pos (takes.ans writes), effect]
  have journalled := Settled.journalWrite s.mem w (page 0x10 k.val 0x100) (op + 16 * index.toNat + 2 ^ 21 * n.toNat)
    (s.dev.readWord w (page 0x10 k.val 0x100)) (e.updateGens.readWord w (page 0x10 k.val 0x100)) e.updateGens
  exact journalled.trans (settled_afterAll_running (journalled.pageCmds.trans runs) (xmap_page _ w k op index n 0))

end

/-- Settles O16: each command starts on the begun device, acts on the extents that it names, and ends. -/
theorem mapCommandsEnd : Obligations.MapCommandsEnd := by
  unfold Obligations.MapCommandsEnd
  intro s w k index n d c
  refine ⟨?free, ?freeze, ?thaw, ?setGen, ?retire⟩
  case free =>
    exact fun takes pass idle => row_mapEnds takes rfl (by decide) ((xmapStart_acts _ pass idle).trans (xmapApply_free rfl))
      (fold_desk _ desk_freeExtent _ _)
  case freeze =>
    exact fun takes pass idle => row_mapEnds takes rfl (by decide) ((xmapStart_acts _ pass idle).trans (xmapApply_freeze rfl))
      (fold_desk _ (fun _ _ => desk_setXf _ _ _ _) _ _)
  case thaw =>
    exact fun takes pass => row_mapEnds takes rfl (by decide)
      ((xmapStart_acts _ pass (xmapWaits_late (show 5 < 6 by decide))).trans (xmapApply_thaw rfl))
      (fold_desk _ (fun _ _ => desk_setXf _ _ _ _) _ _)
  case setGen =>
    exact fun takes pass => row_mapEnds takes rfl (by decide)
      ((xmapStart_acts _ pass (xmapWaits_late (show 5 < 7 by decide))).trans (xmapApply_setGen rfl))
      (fold_desk _ (fun _ _ => desk_setXf _ _ _ _) _ _)
  case retire =>
    exact fun takes pass => row_mapEnds takes rfl (by decide)
      ((xmapStart_acts _ pass (xmapWaits_late (show 5 < 8 by decide))).trans (xmapApply_retire rfl))
      (fold_desk _ desk_retire _ _)

/-- Settles O17: the refused command tells its path the position and ends. -/
theorem mapChecksRefuse : Obligations.MapChecksRefuse := by
  unfold Obligations.MapChecksRefuse
  intro s w k index n i r d c
  exact ⟨fun takes fails => row_mapRefused takes rfl (by decide) fails,
    fun takes fails => row_mapRefused takes rfl (by decide) fails⟩

/-- Settles O18: each command starts on the begun device, is marked as applied, and runs on. -/
theorem mapCommandsClear : Obligations.MapCommandsClear := by
  unfold Obligations.MapCommandsClear
  intro s w k index n d c runs
  refine ⟨?single, ?pairs, ?loadBegin, ?marked⟩
  case single =>
    exact fun takes pass single => row_mapRuns takes rfl (by decide)
      ((xmapStart_acts _ pass rfl).trans (xmapApply_allocate rfl single)) (fold_desk _ (fun _ _ => desk_allocExtent _ _ _ _ _) _ _)
  case pairs =>
    exact fun takes pass pairs => row_mapRuns takes rfl (by decide)
      ((xmapStart_acts _ pass rfl).trans (xmapApply_allocatePairs rfl pairs))
      (fold_desk _ (fun _ _ => (desk_allocExtent _ _ _ _ _).trans (desk_allocExtent _ _ _ _ _)) _ _)
  case loadBegin =>
    exact fun takes pass idle => row_mapRuns takes rfl (by decide)
      ((xmapStart_acts _ pass idle).trans (xmapApply_loadBegin rfl)) (fold_desk _ (fun _ _ => desk_beginClear _ _ _) _ _)
  case marked =>
    intro op x mem _ _
    rw [show (runs op).pageCmds = [(c op).changed.started d.now] from markApplied_single rfl, List.mem_singleton] at mem
    rw [mem]
    rfl

end Sys2Proof.Machine
end

section
/-! LOAD_END (R235, R245): the digest of one extent case by case, then of a run of extents, then the row. -/

namespace Sys2Proof.Machine

variable {m : Mem} {d : Dev} {e want : Nat} {L : List PageCmd}

/-! ### One extent -/

/-- The digest that LOAD_END finds of an extent: what an earlier failure recorded, or else what its load has added up. -/
def Dev.digestFound (d : Dev) (e : Nat) : Nat := if d.xf e XF.digest = 3 then d.xf e XF.value else d.finished e

/-- The device with that digest in the extent's entry. -/
def Dev.recordDigest (d : Dev) (e : Nat) : Dev := (d.setXf e XF.value (d.digestFound e)).setDigests (tDel e d.digests)

theorem desk_recordDigest (d : Dev) (e : Nat) : (d.recordDigest e).desk = d.desk := by
  unfold Dev.recordDigest
  rw [desk_setDigests, desk_setXf]

theorem loadEndExtent_off (notOn : d.xf e XF.digest ≠ 1) (notFailed : d.xf e XF.digest ≠ 3) :
    loadEndExtent m e want d = (d.setXf e XF.state 3, false) := if_pos ⟨notOn, notFailed⟩

section
variable (compares : d.xf e XF.digest = 1 ∨ d.xf e XF.digest = 3)
include compares

theorem loadEndExtent_matches (same : d.digestFound e = want) :
    loadEndExtent m e want d = (((d.recordDigest e).setXf e XF.digest 2).setXf e XF.state 3, false) := by
  have on : ¬ (d.xf e XF.digest ≠ 1 ∧ d.xf e XF.digest ≠ 3) := by omega
  exact (if_neg on).trans (if_pos same)

theorem loadEndExtent_differs (differs : d.digestFound e ≠ want) : ∃ p : PartId, loadEndExtent m e want d =
    (raiseOwn m (2304 + 8 * (e / 16384) + 3) none (some p)
      (((d.recordDigest e).setXf e XF.digest 3).count F.XMAP_DIGEST_FAILS_COUNT 1 (e / 131072)), true) := by
  have on : ¬ (d.xf e XF.digest ≠ 1 ∧ d.xf e XF.digest ≠ 3) := by omega
  exact ⟨_, (if_neg on).trans (if_neg differs)⟩

end

theorem idle_loadEndExtent (idle : d.pageCmds.Sublist L) : (loadEndExtent m e want d).1.pageCmds.Sublist L := by
  by_cases off : d.xf e XF.digest ≠ 1 ∧ d.xf e XF.digest ≠ 3
  · rw [loadEndExtent_off off.1 off.2]
    exact idle_of _ idle (desk_setXf _ _ _ _)
  · have compares : d.xf e XF.digest = 1 ∨ d.xf e XF.digest = 3 := by omega
    by_cases same : d.digestFound e = want
    · rw [loadEndExtent_matches compares same]
      exact idle_of _ idle (by rw [desk_setXf, desk_setXf, desk_recordDigest])
    · obtain ⟨p, differs⟩ := loadEndExtent_differs (m := m) compares same
      rw [differs]
      exact idle_raiseOwn _ _ _ _ (idle_of _ idle (by rw [desk_count, desk_setXf, desk_recordDigest]))

/-! ### A run of extents -/

theorem idle_loadEnd (c : PageCmd) (idle : d.pageCmds.Sublist L) : (loadEnd m c d).1.pageCmds.Sublist L :=
  List.foldlRecOn (motive := fun s : Dev × List Nat => s.1.pageCmds.Sublist L) _ _ idle
    fun _ idle _ _ => idle_loadEndExtent idle

/-! ### The row -/

section
variable {s : State} {w : Path} {k : DieId} {index : BitVec 17} {n : BitVec 12} {f : Dev} {r : Nat}

/-- LOAD_END whose checks pass ends at once, where a fault that a digest raises has not reset the page. -/
theorem row_loadEnd_finishes (takes : s.Takes (.loadEnd w k index n)) :
    let c := xmapCmd s.dev w k 4 index n
    xmapCheck s.dev c = none → xmapWaits s.dev c = false →
    xmapApply s.mem (c.started s.dev.now) (s.dev.begun c) = (f, some r) → f.pageCmds.Sublist [c.started s.dev.now] →
    Does (.loadEnd w k index n) s (f.updateGens.finish c.page r) := by
  intro c pass idle acts pages
  exact row_finishes takes rfl (xmap_command _ w k 4 index n (by decide)) rfl
    (by rw [startCmd_xmap _ _ (xmap_page _ w k 4 index n _), xmapStart_acts _ pass idle, acts])
    (idle_of _ pages (desk_updateGens f))

end

/-- Settles O19: the row ends with the result of its run of extents, and each extent is one of three cases. That an extent
whose digest differed before is compared again by the digest it then had rests on log 24 of NOTES.md. -/
theorem loadEndChecksDigest : Obligations.LoadEndChecksDigest := by
  unfold Obligations.LoadEndChecksDigest
  intro s w k index n m e want d c r got f
  have kept : r.1.pageCmds.Sublist [c.started d.now] := idle_loadEnd c (List.Sublist.refl _)
  refine ⟨?allMatch, ?someDiffer, loadEndExtent_off, loadEndExtent_matches, loadEndExtent_differs⟩
  case allMatch =>
    exact fun takes pass idle allMatch => row_loadEnd_finishes takes pass idle (xmapApply_loadEnd_matches rfl allMatch) kept
  case someDiffer =>
    exact fun i l takes pass idle differs => row_loadEnd_finishes takes pass idle (xmapApply_loadEnd_differs rfl differs)
      (idle_of _ kept (desk_fail c i r.1))

end Sys2Proof.Machine
end

section
/-! A map command that waits or clears goes on or ends by an event (R233, R236): the end of the accesses, 10 ms of waiting,
or the end of the clearing of an extent. -/

namespace Sys2Proof.Machine

variable {m : Mem} {d e : Dev} {c : PageCmd} {t : Nat}

/-- The event leaves the command that runs on its page running. -/
theorem eventEnds_runs {f : PageCmd → Dev → Dev × Option Nat} (runs : d.pageCmds = [c.started t])
    (goesOn : f (c.started t) d = (e, none)) : eventEnds m c.page f d = e := by
  unfold eventEnds Dev.runningOn
  rw [show c.page = (c.started t).page from rfl, pageHead_single runs]
  simp only [show (c.started t).began.isSome = true from rfl, if_true, goesOn]

/-! ### Waiting (R236) -/

theorem PageCmd.waiting_started (first : 2 ≤ c.code) (last : c.code ≤ 5) (unchanged : c.applied = false) :
    (c.started t).waiting = true := by
  have code : (c.started t).code = c.code := rfl
  have applied : (c.started t).applied = c.applied := rfl
  simp [PageCmd.waiting, code, applied, first, last, unchanged, show (c.started t).began = some t from rfl]

theorem xmapWaitEnd_acts (waits : (c.started t).waiting = true) (idle : xmapWaits d c = false) :
    xmapWaitEnd m (c.started t) d = xmapApply m (c.started t) d := by
  have idle : xmapWaits d (c.started t) = false := idle
  simp [xmapWaitEnd, waits, idle]

theorem xmapTimeout_late (waits : (c.started t).waiting = true) (busy : xmapWaits d c = true)
    (late : t + 10000000 < d.now) : xmapTimeout (c.started t) d =
      (c.fail (((List.range c.entries).find? fun i => d.extentBusy (c.first + i)).getD 0) d, some xTimeout) := by
  refine if_pos ?_
  rw [waits, show xmapWaits d (c.started t) = true from busy, decide_eq_true late]
  rfl

/-! ### The rows -/

section
variable {s : State} {k : DieId} (quiet : s.dev.stores = []) (runs : s.dev.pageCmds = [c.started t])
  (onDie : c.page = 0x1000 + k.val)
include quiet runs onDie

section
variable (isOpen : s.dev.pathOpen c.path = true)
include isOpen

/-- The end of a wait lets a command act that ends at once. -/
theorem row_waitEnd_ends {r : Nat} (waits : (c.started t).waiting = true) (idle : xmapWaits s.dev c = false)
    (acts : xmapApply s.mem (c.started t) s.dev = (e, some r)) (keeps : e.desk = s.dev.desk) :
    Does (.xmapWaitEnd k) s (e.updateGens.ended c r) := by
  have same : e.updateGens.desk = s.dev.desk := (desk_updateGens e).trans keeps
  refine does_settled rfl quiet ?_ (Settled.afterAll s.mem (Dev.ended_pageCmds _ _ _))
  rw [← onDie]
  exact eventEnds_ends runs (by rw [xmapWaitEnd_acts waits idle, acts]) (pages_of same) ((pathOpen_of_desk same _).trans isOpen)

/-- 10 ms of waiting end a command. -/
theorem row_busyTimeout (waits : (c.started t).waiting = true) (busy : xmapWaits s.dev c = true)
    (late : t + 10000000 < s.dev.now) : Does (.xmapBusyTimeout k) s
      ((c.fail (((List.range c.entries).find? fun i => s.dev.extentBusy (c.first + i)).getD 0) s.dev).ended c 3) := by
  have same := desk_fail c (((List.range c.entries).find? fun i => s.dev.extentBusy (c.first + i)).getD 0) s.dev
  refine does_settled rfl quiet ?_ (Settled.afterAll s.mem (Dev.ended_pageCmds _ _ _))
  rw [← onDie]
  exact eventEnds_ends runs (xmapTimeout_late waits busy late) (pages_of same) ((pathOpen_of_desk same _).trans isOpen)

/-- The clearing of the last extent ends a command that has changed its entries. -/
theorem row_clearingDone {x : ExtentId} (changed : c.applied = true) (ofDie : x.toNat / 131072 = k.val)
    (cleared : (c.named.all fun e => decide ((s.dev.endClear x.toNat).xf e XF.state ≠ 1)) = true) :
    Does (.clearingDone x) s ((s.dev.endClear x.toNat).ended c 0) := by
  have same := desk_endClear s.dev x.toNat
  have done : xmapCleared (s.dev.endClear x.toNat) (c.started t) = true := (Bool.and_eq_true _ _).mpr ⟨changed, cleared⟩
  refine does_settled rfl quiet ?_ (Settled.afterAll s.mem (Dev.ended_pageCmds _ _ _))
  unfold clearingDone
  rw [ofDie, ← onDie]
  exact eventEnds_ends ((pages_of same).trans runs) (by rw [done, if_pos rfl]) rfl ((pathOpen_of_desk same _).trans isOpen)

end

/-- The end of a wait lets LOAD_BEGIN start its clearing. -/
theorem row_waitEnd_clears (op : c.code = 3) (unchanged : c.applied = false) (idle : xmapWaits s.dev c = false) :
    Does (.xmapWaitEnd k) s
      ((c.named.foldl (fun d e => d.beginClear e (d.xf e XF.digestMode)) (s.dev.markApplied c.page)).updateGens) := by
  have waits : (c.started t).waiting = true := PageCmd.waiting_started (by omega) (by omega) unchanged
  have clearing := (pages_of (fold_desk _ (fun d e => desk_beginClear d e (d.xf e XF.digestMode)) c.named _)).trans
    (markApplied_single runs)
  refine does_settled rfl quiet ?_ (settled_afterAll_running (c := c.changed) ((pages_of (desk_updateGens _)).trans clearing) ?_)
  · rw [← onDie]
    exact eventEnds_runs runs (by rw [xmapWaitEnd_acts waits idle, xmapApply_loadBegin (c := c.started t) op]; rfl)
  · show c.page / 256 = 0x10
    omega

end

/-- Settles O20: the event finds the command that runs on its page. Which position FAIL_INDEX names at a timeout, and that a
command that has changed its entries waits for their clearing only, rest on log 24 of NOTES.md. -/
theorem mapCommandsGoOn : Obligations.MapCommandsGoOn := by
  unfold Obligations.MapCommandsGoOn
  intro s k c t x d quiet runs onDie isOpen
  have codeOf : ∀ {op}, c.op = op → c.code = op % 256 := fun op => congrArg (· % 256) op
  refine ⟨?free, ?loadBegin, ?freeze, ?timeout, fun changed ofDie _ cleared =>
    row_clearingDone quiet runs onDie isOpen changed ofDie cleared⟩
  case free =>
    intro op unchanged idle
    have code : c.code = 2 := codeOf op
    exact row_waitEnd_ends quiet runs onDie isOpen (PageCmd.waiting_started (by omega) (by omega) unchanged) idle
      (xmapApply_free code) (fold_desk _ desk_freeExtent _ _)
  case loadBegin => exact fun op unchanged idle => row_waitEnd_clears quiet runs onDie (codeOf op) unchanged idle
  case freeze =>
    intro op unchanged idle
    have code : c.code = 5 := codeOf op
    exact row_waitEnd_ends quiet runs onDie isOpen (PageCmd.waiting_started (by omega) (by omega) unchanged) idle
      (xmapApply_freeze code) (fold_desk _ (fun _ _ => desk_setXf _ _ _ _) _ _)
  case timeout =>
    intro op unchanged busy late
    obtain ⟨first, last⟩ : 2 ≤ c.code ∧ c.code ≤ 5 := by
      simp only [List.mem_cons, List.not_mem_nil, or_false] at op
      unfold PageCmd.code
      omega
    exact row_busyTimeout quiet runs onDie isOpen (PageCmd.waiting_started first last unchanged) busy late

end Sys2Proof.Machine
end

section
/-! The events of a stack (R239 to R243, R247, R248): power states, a temperature sample, the watchdog and the patrol, each
meaning case by case, and that none enters a command of a page; then the statement. -/

namespace Sys2Proof.Machine

variable {m : Mem} {d : Dev} {L : List PageCmd} {k : StackId}

/-! ### Power states (R247) -/

theorem stackAutoIdle_quiet (on : d.stackOn k.val = true) (active : d.fld F.STK_STATUS_PSTATE k.val = 0)
    (noRequests : d.stackBusy k.val = false) (noTarget : d.fld F.STK_CTL_TARGET k.val = 0)
    (auto : d.fld F.STK_CTL_AUTO_IDLE k.val = 1) (due : tGet 0 d.stackUse k.val + 1000 ≤ d.now) :
    stackAutoIdle k d = d.setFld F.STK_STATUS_PSTATE 1 k.val := by
  simp [stackAutoIdle, Dev.flag, on, active, noRequests, noTarget, auto, due]

theorem selfRefreshEntry_quiet (on : d.stackOn k.val = true) (noRequests : d.stackBusy k.val = false) :
    selfRefreshEntry k d = d.setFld F.STK_STATUS_PSTATE 2 k.val := by
  simp [selfRefreshEntry, on, noRequests]

theorem stackPowerExit_on (on : d.stackOn k.val = true) : stackPowerExit k d = d.setFld F.STK_STATUS_PSTATE 0 k.val :=
  if_pos on

/-! ### Temperature (R248) -/

/-- The device with a sample's temperatures in the stack's registers. -/
def Dev.withTemps (d : Dev) (k : StackId) (hot logic die : Nat) : Dev :=
  ((d.setFld F.STK_TEMP_DRAM_MAX hot k.val).setFld F.STK_TEMP_LOGIC logic k.val).setFld F.STK_TEMP_HOT_DIE die k.val

theorem temp_ne_status (i : Nat) : F.STK_TEMP_DRAM_MAX.addr i 0 ≠ F.STK_STATUS_PSTATE.addr i 0 := by
  simp only [Fld.addr, Fld.byteAddr, F.STK_TEMP_DRAM_MAX, F.STK_STATUS_PSTATE]
  omega

/-- A sample's temperatures leave the flags of STK_STATUS. -/
theorem flag_withTemps {f : Fld} (hot logic die : Nat) (status : f.addr k.val 0 = F.STK_STATUS_PSTATE.addr k.val 0) :
    (d.withTemps k hot logic die).flag f k.val = d.flag f k.val := by
  have apart : F.STK_TEMP_DRAM_MAX.addr k.val 0 ≠ f.addr k.val 0 := fun same => temp_ne_status k.val (same.trans status)
  have same : (d.withTemps k hot logic die).fld f k.val = d.fld f k.val := by
    unfold Dev.withTemps
    rw [Dev.fld_setFld_ne _ _ (f := F.STK_TEMP_HOT_DIE) apart, Dev.fld_setFld_ne _ _ (f := F.STK_TEMP_LOGIC) apart,
      Dev.fld_setFld_ne _ _ apart]
  unfold Dev.flag
  rw [same]

theorem stackTempSample_serves {temps : List (BitVec 8)} {logic : BitVec 8} (on : d.stackOn k.val = true)
    (all : temps.length = 16) (firmware : d.fld F.STK_STATUS_FW_OK k.val = 1) :
    let hot := (temps.map BitVec.toNat).foldl max 0
    stackTempSample k temps logic d =
      ((d.withTemps k hot logic.toNat ((temps.map BitVec.toNat).findIdx fun x => decide (x = hot))).setFld
        F.STK_STATUS_REFRESH_2X (b2n (hysteresis 85 82 hot (d.flag F.STK_STATUS_REFRESH_2X k.val))) k.val).setFld
        F.STK_STATUS_THROTTLE (b2n (hysteresis 95 92 hot (d.flag F.STK_STATUS_THROTTLE k.val))) k.val := by
  intro hot
  have serves : ¬ (!d.stackOn k.val || decide (d.fld F.STK_STATUS_FW_OK k.val = 0)) = true := by simp [on, firmware]
  have whole : temps.take 16 = temps := List.take_of_length_le (Nat.le_of_eq all)
  have kept := fun {f : Fld} (status : f.addr k.val 0 = F.STK_STATUS_PSTATE.addr k.val 0) =>
    flag_withTemps (d := d) hot logic.toNat ((temps.map BitVec.toNat).findIdx fun x => decide (x = hot)) status
  rw [← kept (f := F.STK_STATUS_REFRESH_2X) rfl, ← kept (f := F.STK_STATUS_THROTTLE) rfl]
  unfold stackTempSample
  rw [if_neg serves, whole]
  rfl

/-! ### Firmware (R239, R242, R243) -/

theorem stackFwWatchdog_on (on : d.stackOn k.val = true) :
    stackFwWatchdog m k d = raiseOwn m (2304 + 8 * k.val + 5) none none (d.setFld F.STK_STATUS_FW_OK 0 k.val) :=
  if_neg (by simp [on])

@[simp] theorem desk_dieError (d : Dev) (now line : Nat) (w : BitVec 80) (i : Nat) : (d.dieError now line w i).desk = d.desk := by
  unfold Dev.dieError
  split
  · rfl
  · dsimp only
    split <;> rfl

@[simp] theorem desk_findWrong (d : Dev) (e : Nat × BitVec 80) : (d.findWrong e).desk = d.desk := by
  unfold Dev.findWrong
  split
  · rfl
  · dsimp only
    split
    · exact desk_count _ _ _ _ _
    · exact (fold_desk _ (fun d i => desk_dieError d _ _ _ i) _ _).trans (desk_count _ _ _ _ _)

theorem desk_setEcc (d : Dev) (x : Ecc) : ({ d with ecc := x } : Dev).desk = d.desk := rfl

@[simp] theorem desk_noteBad (d : Dev) (line : Nat) : (d.noteBad line).desk = d.desk := by
  unfold Dev.noteBad
  dsimp only
  refine (desk_setEcc _ _).trans ?_
  rw [desk_setFld, desk_setFld, desk_count]

theorem idle_spareRow (line : Nat) (idle : d.pageCmds.Sublist L) : (spareRow m line d).pageCmds.Sublist L := by
  unfold spareRow
  extract_lets r e mine own used ecc f
  have noted : f.pageCmds.Sublist L := idle_of _ idle (desk_setEcc d _)
  split
  · exact noted
  · split
    · exact noted
    · exact idle_raiseOwn _ _ _ _ (idle_of _ noted (desk_retire f e))

theorem idle_stackFirmware (idle : d.pageCmds.Sublist L) : (stackFirmware m d).pageCmds.Sublist L := by
  unfold stackFirmware
  dsimp only
  refine idle_fold _ ?spare _ (idle_fold _ ?met _ (idle_of _ (idle_fold _ ?marked _ (idle_of _ idle (desk_setEcc d _)))
    (desk_setEcc _ _)))
  case marked => exact fun _ _ h => idle_raiseOwn _ _ _ _ h
  case met => exact fun d x h => idle_raiseOwn _ _ _ _ (idle_of _ h (desk_noteBad d x))
  case spare =>
    intro d x h
    split
    · exact idle_spareRow x h
    · exact h

/-! ### The patrol (R241) -/

section
variable {line : Nat}

theorem patrolLine_clean (clean : tFind line d.ecc.wrong = none) : patrolLine m line d = d := by
  unfold patrolLine
  rw [clean]

section
variable {x : BitVec 80} (wrong : tFind line d.ecc.wrong = some x)
include wrong

theorem patrolLine_corrected (corrects : d.flash.corrects line x = true) :
    patrolLine m line d = { d.findWrong (line, x) with
      ecc := { (d.findWrong (line, x)).ecc with wrong := tDel line (d.findWrong (line, x)).ecc.wrong } } := by
  unfold patrolLine
  rw [wrong]
  exact if_pos corrects

theorem patrolLine_uncorrectable (bad : d.flash.corrects line x = false) : patrolLine m line d =
    raiseOwn m (2304 + 8 * stackOf line) (some (badDetail line)) (d.extentOwner (line / 65536)) (d.noteBad line) := by
  unfold patrolLine
  rw [wrong]
  exact if_neg (by simp [bad])

end

theorem idle_patrolLine (idle : d.pageCmds.Sublist L) : (patrolLine m line d).pageCmds.Sublist L := by
  cases wrong : tFind line d.ecc.wrong with
  | none => rwa [patrolLine_clean wrong]
  | some x =>
    cases corrects : d.flash.corrects line x with
    | true =>
      rw [patrolLine_corrected wrong corrects]
      exact idle_of _ idle (desk_findWrong d (line, x))
    | false =>
      rw [patrolLine_uncorrectable wrong corrects]
      exact idle_raiseOwn _ _ _ _ (idle_of _ idle (desk_noteBad d line))

end

/-- The patrol's position after its next line. -/
def Dev.patrolAt (d : Dev) (k : StackId) (n : Nat) : Dev :=
  ((d.setPatrol (tSet 0 k.val n d.patrol)).setFld F.STK_PATROL_POS_EXTENT (n % 2 ^ 30 / 65536) k.val).setFld
    F.STK_PATROL_POS_PASSES (min (n / 2 ^ 30) 65535) k.val

/-- A read that is not the last of an extent due for a recheck, nor the last of a pass. -/
theorem patrolRead_inside (on : d.stackOn k.val = true) (patrols : d.fld F.STK_PATROL_PERIOD k.val ≠ 0)
    (awake : d.fld F.STK_STATUS_PSTATE k.val ≠ 2) (firmware : d.fld F.STK_STATUS_FW_OK k.val = 1) :
    let n := tGet 0 d.patrol k.val
    let line := k.val * 2 ^ 30 + n % 2 ^ 30
    let e := stackFirmware m (patrolLine m line d)
    e.fld F.STK_PATROL_RECHECK k.val = 0 ∨ line % 65536 ≠ 65535 → (n + 1) % 2 ^ 30 ≠ 0 →
      patrolRead m k d = e.patrolAt k (n + 1) := by
  intro n line e noRecheck inPass
  have reads : ¬ (d.fld F.STK_PATROL_PERIOD k.val = 0 ∨ d.fld F.STK_STATUS_PSTATE k.val = 2 ∨
      d.fld F.STK_STATUS_FW_OK k.val = 0 ∨ (!d.stackOn k.val) = true) := by
    simp [patrols, awake, firmware, on]
  unfold patrolRead
  rw [if_neg reads]
  extract_lets every checked ecc passed placed
  have noCheck : checked = e := if_neg fun ⟨last, due, _⟩ => noRecheck.elim due (· last)
  have stays : passed = e := (if_neg inPass).trans noCheck
  show passed.patrolAt k (n + 1) = e.patrolAt k (n + 1)
  rw [stays]

/-! ### The statement -/

/-- Settles O21: each row is the meaning of its case, and the bookkeeping follows the watchdog and the patrol only. -/
theorem stacksAct : Obligations.StacksAct := by
  unfold Obligations.StacksAct
  intro s k temps logic d hot quiet on
  refine ⟨fun active noRequests noTarget auto due =>
      row_becomes rfl quiet (stackAutoIdle_quiet on active noRequests noTarget auto due),
    fun noRequests => row_becomes rfl quiet (selfRefreshEntry_quiet on noRequests),
    row_becomes rfl quiet (stackPowerExit_on on),
    fun all firmware => row_becomes rfl quiet (stackTempSample_serves on all firmware), ?watchdog, ?patrol⟩
  case watchdog =>
    intro idle
    have noCommand : d.pageCmds.Sublist [] := by rw [idle]
    exact does_settled rfl quiet (stackFwWatchdog_on on)
      (Settled.afterAll s.mem (List.sublist_nil.1 (idle_raiseOwn _ _ _ _ noCommand)))
  case patrol =>
    intro idle patrols awake firmware n line e
    have noCommand : e.pageCmds.Sublist [] := idle_stackFirmware (idle_patrolLine (by rw [idle]))
    refine ⟨fun noRecheck inPass => ?_, patrolLine_clean, fun x wrong corrects => ?_,
      fun x wrong bad => patrolLine_uncorrectable wrong bad⟩
    · exact does_settled rfl quiet (patrolRead_inside on patrols awake firmware noRecheck inPass)
        (Settled.afterAll s.mem (List.sublist_nil.1 noCommand))
    · rw [patrolLine_corrected wrong corrects]
      exact (tFind_tDel _ _ _).trans (if_pos rfl)

end Sys2Proof.Machine
end

section
/-! What the bookkeeping after a command may touch (R257 to R260, R462). -/

namespace Sys2Proof.Machine

/-- Settles O8: with no command on a page the pump lets none go on, so that the bookkeeping of cores is all there is. -/
theorem bookkeepingSettles : Obligations.BookkeepingSettles := by
  unfold Obligations.BookkeepingSettles
  refine ⟨?everyCore, ?oneCore, ?stamps, ?journal⟩
  case everyCore => exact fun m d idle => Settled.afterAll m idle
  case oneCore => exact fun m d c b idle => Settled.afterCore m c b idle
  case stamps => exact fun m d c b => Settled.settle m c b d
  case journal => exact fun m w a v old new d => Settled.journalWrite m w a v old new d

end Sys2Proof.Machine
end

section
/-! The commands of a partition's page (R254, R255, R261, R262): what each starts once its checks have passed or one has
failed, that a plan for a core fences nothing, and how their rows end. -/

namespace Sys2Proof.Machine

variable {m : Mem} {d e : Dev} {h : PageCmd} {c : CoreId} {p t : PartId}

theorem coreOf_val (c : CoreId) : coreOf c.val = some c := dif_pos c.isLt

theorem partOf_val (p : PartId) : partOf p.val = p := Fin.ext (Nat.mod_eq_of_lt p.isLt)

/-! ### Plans for a core (R254, R261, R262) -/

theorem fenced_modCore (d : Dev) (c c' : CoreId) (f : Core → Core) (keeps : ∀ x, (f x).fenced = x.fenced) :
    ((d.modCore c f).core c').fenced = (d.core c').fenced := by
  rw [core_modCore]
  split
  · subst_vars
    exact keeps _
  · rfl

theorem fenced_clearCore (d : Dev) (c c' : CoreId) : ((d.clearCore c).core c').fenced = (d.core c').fenced := by
  unfold Dev.clearCore
  dsimp only
  rw [foldl_keep (fun d : Dev => d.core c') _ (fun d k => (core_setWord _ _ _ _).trans (core_setWord _ _ _ _)), core_setFld,
    Dev.core_setCore]
  split
  · subst_vars
    rfl
  · rfl

theorem Settled.fenced (settled : Settled d e) (c : CoreId) : (e.core c).fenced = (d.core c).fenced :=
  (congrArg Core.fenced (settled.core c) : (e.core c).calm.fenced = (d.core c).calm.fenced)

theorem fenced_advancePlan (d : Dev) (c c' : CoreId) : ((d.advancePlan c).core c').fenced = (d.core c').fenced := by
  unfold Dev.advancePlan
  dsimp only
  split
  · rfl
  · split
    · exact (Settled.beginSwapOut d c _).fenced c'
    · split
      · exact fenced_modCore _ _ _ _ fun _ => rfl
      · exact fenced_clearCore _ _ _

/-- What a command has in mind for a core fences no core. -/
theorem fenced_beginPlan (d : Dev) (c c' : CoreId) (plan : CorePlan) :
    ((d.beginPlan c plan).core c').fenced = (d.core c').fenced := by
  unfold Dev.beginPlan Dev.abandonWait
  rw [fenced_advancePlan]
  split
  · rw [fenced_modCore, fenced_modCore] <;> exact fun _ => rfl
  · exact fenced_modCore _ _ _ _ fun _ => rfl

theorem unfenced_of_idleCore (idle : d.idleCore c = true) : (d.core c).fenced = false := by
  simp only [Dev.idleCore, Bool.and_eq_true, Bool.not_eq_true'] at idle
  exact idle.1.2

/-! ### What a command starts -/

section
variable (onPage : partOf h.page = p)
include onPage

theorem partStart_create (op : h.op = 1) (absent : d.pstate p = 0) : partStart m h d =
    (((d.setFld F.PART_STATUS_STATE 1 p.val).setFld F.PART_TURN_TURN 0 p.val).setServing (tDel p.val d.serving), some 0) := by
  simp [partStart, op, onPage, absent]

theorem partStart_create_refused (op : h.op = 1) (present : d.pstate p ≠ 0) : partStart m h d = (d, some 2) := by
  simp [partStart, op, onPage, present]

section
variable (stands : d.pstate p = 1 ∨ d.pstate p = 3)
include stands

theorem partStart_delete (op : h.op = 2) (empty : d.partEmpty p = true) : partStart m h d = (partDelete p d, some 0) := by
  have known : ¬ (d.pstate p ≠ 1 ∧ d.pstate p ≠ 3) := by omega
  simp only [partStart, op, onPage, if_neg known, empty, if_true]

theorem partStart_delete_refused (op : h.op = 2) (owns : d.partEmpty p = false) : partStart m h d = (d, some 5) := by
  have known : ¬ (d.pstate p ≠ 1 ∧ d.pstate p ≠ 3) := by omega
  simp only [partStart, op, onPage, if_neg known, owns, Bool.false_eq_true, if_false]

theorem partStart_addCore (op : h.op = 3) (named : h.a = c.val) (idle : d.idleCore c = true) :
    partStart m h d = (d.beginPlan c (.add p), none) := by
  have known : ¬ (d.pstate p ≠ 1 ∧ d.pstate p ≠ 3) := by omega
  simp only [partStart, op, onPage, named, coreOf_val, if_neg known, idle, if_true]

end

theorem partStart_removeCore (op : h.op = 4) (named : h.a = c.val) (owned : (d.core c).owner = some p)
    (homed : (d.core c).home = some p) : partStart m h d = (d.beginPlan c .idle, none) := by
  simp only [partStart, op, onPage, named, coreOf_val, owned, homed, and_self, if_true]

theorem partStart_lend (op : h.op = 5) (named : h.a = c.val) (target : h.b = t.val) (held : d.pstate p = 3)
    (owned : (d.core c).owner = some p) (homed : (d.core c).home = some p) (active : d.pstate t = 1) (other : t ≠ p) :
    partStart m h d = (d.beginPlan c (.lend t), none) := by
  simp [partStart, op, onPage, named, coreOf_val, target, partOf_val, held, owned, homed, active, other]

/-- RECALL waits for the borrower's boundary or the limit. -/
theorem partStart_recall (op : h.op = 6) (named : h.a = c.val) (homed : (d.core c).home = some p)
    (lent : (d.core c).owner ≠ some p) (owned : (d.core c).owner ≠ none) : partStart m h d = (d, none) := by
  simp only [partStart, op, onPage, named, coreOf_val, homed, lent, owned, ne_eq, not_false_eq_true, and_self, if_true]

theorem partStart_hold (op : h.op = 7) (active : d.pstate p = 1) : partStart m h d = (partHold m p d, some 0) := by
  simp [partStart, op, onPage, active]

theorem partStart_release (op : h.op = 8) (held : d.pstate p = 3) : partStart m h d = (partRelease m p d, some 0) := by
  simp [partStart, op, onPage, held]

end

/-! ### Deleting, holding and releasing -/

theorem idle_partDelete {L : List PageCmd} (p : PartId) (idle : d.pageCmds.Sublist L) : (partDelete p d).pageCmds.Sublist L :=
  idle_fold _ (fun _ _ h => idle_closeSession _ h) _ idle

/-- A partition with turns or steps is not plain whatever its state. -/
theorem partHold_turning (turns : isPlain m d p = false) : partHold m p d = d.setFld F.PART_STATUS_STATE 2 p.val := by
  have serves : (d.setFld F.PART_STATUS_STATE 2 p.val).isServing p = d.isServing p := by
    unfold Dev.isServing Dev.flag
    rw [Dev.fld_setFld_ne _ _ (by simp only [Fld.addr, Fld.byteAddr, F.PART_STATUS_STATE, F.PART_CONFIG_SERVING]; omega)]
  have plain : isPlain m (d.setFld F.PART_STATUS_STATE 2 p.val) p = isPlain m d p := by
    unfold isPlain
    rw [serves]
    rfl
  unfold partHold
  dsimp only
  rw [plain, turns, if_neg (by decide)]

/-- The device with a partition released, before the bookkeeping of its cores. -/
def Dev.released (d : Dev) (p : PartId) : Dev :=
  (d.setFld F.PART_STATUS_STATE 1 p.val).setPlainHold (d.plainHold.filter fun q => decide (q ≠ p))

theorem pstate_released (d : Dev) (p : PartId) : (d.released p).pstate p = 1 :=
  Dev.fld_setFld d 1 (by simp only [Fld.fits, Fld.pos, Fld.byteAddr, F.PART_STATUS_STATE]; omega)

theorem holdGen_of_active (active : d.pstate p = 1) : d.holdGen m p = { d with
    turnGen := tSet 0 p.val (if partJob m d p = 0 then 0 else d.fld F.GEN_LIVE_GEN p.val) d.turnGen } := by
  simp [Dev.holdGen, active]

theorem settled_partRelease (m : Mem) (p : PartId) (d : Dev) : Settled ((d.released p).holdGen m p) (partRelease m p d) :=
  Settled.foldl' _ (fun d c => Settled.settle m c true d) _ _

/-! ### The rows -/

section
variable {i : Instr} {s : State} {w : Path} {op a b : Nat} (takes : s.Takes i)
  (writes : writeOf i s.dev = some (w, page 0x30 p.val 0x100, op + 16 * a + 2 ^ 12 * b)) (fits : op < 16 ∧ a < 256 ∧ b < 64)
include takes writes fits

theorem row_partSettles {f : Dev} {r : Nat}
    (starts : partStart s.mem ((partCmd w p op a b).started s.dev.now) (s.dev.begun (partCmd w p op a b)) = (f, some r))
    (settled : Settled e f) (keeps : e.desk = (s.dev.begun (partCmd w p op a b)).desk) :
    Does i s (e.ended (partCmd w p op a b) r) := by
  obtain ⟨code, core, target⟩ := fits
  have quotient : op / 256 = 0 := by omega
  exact row_ended_settled takes writes (part_command _ w p op a b code core target) rfl rfl
    ((startCmd_part _ _ (part_page w p op a b _) quotient).trans starts) settled keeps

theorem row_partEnds {r : Nat}
    (starts : partStart s.mem ((partCmd w p op a b).started s.dev.now) (s.dev.begun (partCmd w p op a b)) = (e, some r))
    (keeps : e.desk = (s.dev.begun (partCmd w p op a b)).desk) : Does i s (e.ended (partCmd w p op a b) r) :=
  row_partSettles takes writes fits starts (.refl e) keeps

/-- A command that has a core in mind stays BUSY until the core has moved, unless the core is fenced. -/
theorem row_partRuns (named : a = c.val)
    (starts : partStart s.mem ((partCmd w p op a b).started s.dev.now) (s.dev.begun (partCmd w p op a b)) = (e, none))
    (keeps : e.pageCmds = (s.dev.begun (partCmd w p op a b)).pageCmds) (serviceable : (e.core c).fenced = false) :
    Does i s e := by
  obtain ⟨code, core, target⟩ := fits
  have quotient : op / 256 = 0 := by omega
  have waits : ∀ f, Settled e f →
      continueCmd s.mem ((partCmd w p op a b).started s.dev.now) f = (f, none) := by
    intro f settled
    have unfenced : (f.core c).fenced = false := (settled.fenced c).trans serviceable
    have continues : partContinue ((partCmd w p op a b).started s.dev.now) f = none := by
      simp [partContinue, show ((partCmd w p op a b).started s.dev.now).a = c.val from named, coreOf_val, unfenced]
    rw [continueCmd_part _ _ (part_page w p op a b _) quotient, continues]
  exact row_runs takes.1 writes (takes.ans writes) (part_command _ w p op a b code core target) rfl
    ((startCmd_part _ _ (part_page w p op a b _) quotient).trans starts) keeps waits

end

/-- Settles O22: each command starts on the begun device and ends, or stays BUSY with a plan for its core. That RELEASE lets
the turn hold the live generation rests on log 29 of NOTES.md, and the order of the checks on log 27. -/
theorem partitionCommandsAct : Obligations.PartitionCommandsAct := by
  unfold Obligations.PartitionCommandsAct
  intro s w p t c n u core target d q k l st r
  have onPage : ∀ op a b, partOf ((partCmd w p op a b).started d.now).page = p := fun _ _ _ => partOf_page p
  have coreFits : c.val < 256 := by omega
  refine ⟨?create, ?createRefused, ?delete, ?deleteRefused, ?addCore, ?removeCore, ?lend, ?recallCore, ?hold, ?release⟩
  case create =>
    exact fun takes absent => row_partEnds takes rfl (by decide) (partStart_create (onPage 1 0 0) rfl absent) rfl
  case createRefused =>
    exact fun takes present => row_partEnds takes rfl (by decide) (partStart_create_refused (onPage 1 0 0) rfl present) rfl
  case delete =>
    intro takes stands empty
    have starts := partStart_delete (m := s.mem) (d := d.begun (q 2)) (onPage 2 0 0) stands rfl empty
    exact row_finishes takes rfl (part_command _ w p 2 0 0 (by decide) (by decide) (by decide)) rfl
      ((startCmd_part _ _ (part_page w p 2 0 0 _) (show (2 : Nat) / 256 = 0 by decide)).trans starts)
      (idle_partDelete p (List.Sublist.refl _))
  case deleteRefused =>
    exact fun takes stands owns => row_partEnds takes rfl (by decide)
      (partStart_delete_refused (onPage 2 0 0) stands rfl owns) rfl
  case addCore =>
    exact fun takes stands idle => row_partRuns takes (by rw [← core]; rfl) ⟨by decide, coreFits, by decide⟩ rfl
      (partStart_addCore (onPage 3 c.val 0) stands rfl rfl idle) (idle_beginPlan c _)
      ((fenced_beginPlan _ _ _ _).trans (unfenced_of_idleCore idle))
  case removeCore =>
    exact fun takes owned homed unfenced => row_partRuns takes (by rw [← core]; rfl) ⟨by decide, coreFits, by decide⟩ rfl
      (partStart_removeCore (onPage 4 c.val 0) rfl rfl owned homed) (idle_beginPlan c _)
      ((fenced_beginPlan _ _ _ _).trans unfenced)
  case lend =>
    exact fun takes held owned homed unfenced active other =>
      row_partRuns takes (by rw [← core, ← target]; rfl) ⟨by decide, coreFits, t.isLt⟩ rfl
        (partStart_lend (onPage 5 c.val t.val) rfl rfl rfl held owned homed active other) (idle_beginPlan c _)
        ((fenced_beginPlan _ _ _ _).trans unfenced)
  case recallCore =>
    exact fun takes homed lent owned unfenced =>
      row_partRuns takes (by rw [← core]; rfl) ⟨by decide, coreFits, by decide⟩ rfl
        (partStart_recall (onPage 6 c.val 0) rfl rfl homed lent owned) rfl unfenced
  case hold =>
    intro takes active turns
    have turnsStill : isPlain s.mem (d.begun (q 7)) p = false := turns
    have starts := partStart_hold (m := s.mem) (d := d.begun (q 7)) (onPage 7 0 0) rfl active
    rw [partHold_turning turnsStill] at starts
    exact row_partEnds takes rfl (by decide) starts (desk_setFld _ _ _ _ _)
  case release =>
    intro takes held
    have settled := settled_partRelease s.mem p (d.begun (q 8))
    rw [holdGen_of_active (pstate_released _ p)] at settled
    have starts := partStart_release (m := s.mem) (d := d.begun (q 8)) (onPage 8 0 0) rfl held
    exact row_partSettles takes rfl (by decide) starts settled rfl

end Sys2Proof.Machine
end

section
/-! The context commands (R256): what each starts once its checks have passed or one has failed, that none touches the
pages or the sessions, and how their rows end. -/

namespace Sys2Proof.Machine

variable {m : Mem} {d e : Dev} {h : PageCmd} {c : CoreId} {p : PartId} {num : BitVec 16} {x : Ctx}

/-! ### The creation image (R142) -/

theorem length_memRead (m : Mem) (d : Dev) (a n : Nat) : (memRead m d a n).length = n := by
  unfold memRead
  rw [List.length_map, List.length_range]

theorem length_namedImage {l : List Byte} (long : 11 ≤ l.length) (p : PartId) (n : Nat) :
    (namedImage l p n).length = l.length := by
  unfold namedImage
  simp only [List.length_append, List.length_take, List.length_drop, leBytes_length]
  omega

theorem length_creationImage (m : Mem) (d : Dev) (a : Nat) (p : PartId) (n : Nat) :
    (namedImage (memRead m d a creationBytes) p n).length = creationBytes := by
  have long : 11 ≤ (memRead m d a creationBytes).length := by
    rw [length_memRead]
    decide
  rw [length_namedImage long, length_memRead]

/-! ### CREATE (R256) -/

/-- The device with a creation image stored as a context's image and as its entry image. -/
def Dev.imaged (d : Dev) (a e : Nat) (l : List Byte) : Dev :=
  ((((d.countStk false a creationBytes).store (e * extentSize) l).store (e * extentSize + entryOffset) l).countStk true
    (e * extentSize) creationBytes).countStk true (e * extentSize + entryOffset) creationBytes

/-- The context that CREATE makes of an image. -/
def Dev.newCtx (d : Dev) (p : PartId) (num : BitVec 16) (c : CoreId) (e : Nat) (l : List Byte) : Ctx :=
  (({ num := num, part := p, home := c, ext := e, entryExt := e } : Ctx).restore l (d.seedOf p) (d.turnOf p)).created

theorem besideStacks_desk : BesideStacks Dev.desk := ⟨fun _ _ _ _ _ _ => rfl, fun _ _ _ _ _ => rfl⟩

@[simp] theorem desk_countStk (d : Dev) (write : Bool) (a n : Nat) : (d.countStk write a n).desk = d.desk :=
  besideStacks_desk.countStk d write a n

@[simp] theorem desk_imaged (d : Dev) (a e : Nat) (l : List Byte) : (d.imaged a e l).desk = d.desk := by simp [Dev.imaged]

theorem ctxCreate_accepted (names : h.a = num.toNat) (core : h.b = c.val) (new : d.ctx? (ctxKey p num) = none)
    (owned : (d.core c).owner = some p) (room : d.swapAccess p h.c true = true) (inside : h.arg0 + creationBytes ≤ 2 ^ 41)
    (own : d.validData p.val h.arg0 creationBytes = true) (sound : d.badRead h.arg0 creationBytes = false)
    (format : imageOk (memRead m d h.arg0 creationBytes) = true) :
    let l := namedImage (memRead m d h.arg0 creationBytes) p num.toNat
    let b := d.imaged h.arg0 h.c l
    ctxCreate m h p d = (settle m c false (b.setCtx (ctxKey p num) (b.newCtx p num c h.c l)), 0) := by
  have fits : ¬ (2 ^ 41 < h.arg0 + creationBytes ∨ (!d.validData p.val h.arg0 creationBytes) = true) := by
    rw [own]
    simp only [Bool.not_true, Bool.false_eq_true, or_false]
    omega
  unfold ctxCreate
  rw [names, core, coreOf_val, BitVec.ofNat_toNat, BitVec.setWidth_eq]
  dsimp only
  rw [new, if_neg (by decide), if_neg (not_not.2 owned), room, if_neg (by decide), if_neg fits, sound, if_neg (by decide), format,
    if_neg (by decide), length_creationImage]
  rfl

/-! ### What the others start -/

theorem destroyStep_out {key : Nat} (known : d.ctx? key = some x) (still : d.swapOf key = none) (out : x.place = .out) :
    destroyStep m key d = (d.dropCtx key, some 0) := by
  unfold destroyStep
  rw [known]
  dsimp only
  rw [still]
  dsimp only
  rw [out]

section
variable (onPage : partOf h.page = p) (names : h.a = num.toNat)
include onPage names

theorem ctxStart_create (op : h.code = 1) (core : h.b = c.val) (new : d.ctx? (ctxKey p num) = none)
    (owned : (d.core c).owner = some p) (room : d.swapAccess p h.c true = true) (inside : h.arg0 + creationBytes ≤ 2 ^ 41)
    (own : d.validData p.val h.arg0 creationBytes = true) (sound : d.badRead h.arg0 creationBytes = false)
    (format : imageOk (memRead m d h.arg0 creationBytes) = true) :
    let l := namedImage (memRead m d h.arg0 creationBytes) p num.toNat
    let b := d.imaged h.arg0 h.c l
    ctxStart m h d = (settle m c false (b.setCtx (ctxKey p num) (b.newCtx p num c h.c l)), some 0) := by
  simp only [ctxStart, onPage, op, if_true, ctxCreate_accepted names core new owned room inside own sound format]

theorem ctxStart_unknown (first : 2 ≤ h.code) (last : h.code ≤ 4) (unknown : d.ctx? (ctxKey p num) = none) :
    ctxStart m h d = (d, some 2) := by
  have noCreate : h.code ≠ 1 := by omega
  have named : ¬ (h.code = 0 ∨ 4 < h.code) := by omega
  simp only [ctxStart, onPage, names, BitVec.ofNat_toNat, BitVec.setWidth_eq, if_neg noCreate, if_neg named, unknown]

section
variable (known : d.ctx? (ctxKey p num) = some x)
include known

variable (still : d.swapOf (ctxKey p num) = none) (out : x.place = .out)
include still out

/-- DESTROY of a context that is out waits for no command. -/
theorem ctxStart_destroy (op : h.code = 2) : ctxStart m h d =
    ((d.setCtx (ctxKey p num) { x with sched := { x.sched with dying := true } }).dropCtx (ctxKey p num), some 0) := by
  refine Eq.trans ?_ (destroyStep_out (m := m) (Dev.ctx?_setCtx_self _ _ _) still out)
  simp [ctxStart, onPage, names, op, known]

theorem ctxStart_rehome (op : h.code = 3) (core : h.b = c.val) (owned : (d.core c).owner = some p) : ctxStart m h d =
    (settle m c true (settle m x.home false ((d.unplanSwap (ctxKey p num)).setCtx (ctxKey p num)
      { x with home := c, sched := { x.sched with refused := false } })), some 0) := by
  simp [ctxStart, onPage, names, op, known, still, out, core, coreOf_val, owned]

theorem ctxStart_wake (op : h.code = 4) : ctxStart m h d =
    (settle m x.home false (d.setCtx (ctxKey p num) { x with sched := { x.sched with runnable := true, refused := false } }),
      some 0) := by
  simp [ctxStart, onPage, names, op, known, still, out]

end

end

theorem ctxCmd_code (d : Dev) (w : Path) (p : PartId) (num : BitVec 16) {op : Nat} (small : op < 8) (a b t : Nat) :
    ((ctxCmd d w p op num a b).started t).code = op := by
  show (256 + op) % 256 = op
  omega

/-! ### The rows -/

section
variable {i : Instr} {s : State} {w : Path} {op a b r : Nat} {f : Dev} (takes : s.Takes i)
  (writes : writeOf i s.dev =
    some (w, page 0x30 p.val 0x160, op + 8 * num.toNat + 2 ^ 19 * a + 2 ^ 27 * b)) (fits : op < 8 ∧ a < 256 ∧ b < 2 ^ 19)
  (starts : ctxStart s.mem ((ctxCmd s.dev w p op num a b).started s.dev.now) (s.dev.begun (ctxCmd s.dev w p op num a b)) =
    (f, some r))
  (settled : Settled e f)
include takes writes fits starts settled

theorem row_ctxEnds (keeps : e.desk = (s.dev.begun (ctxCmd s.dev w p op num a b)).desk) :
    Does i s (e.ended (ctxCmd s.dev w p op num a b) r) := by
  obtain ⟨code, core, extent⟩ := fits
  have quotient : (256 + op) / 256 = 1 := by omega
  exact row_ended_settled takes writes (ctx_command _ w p op a b num code core extent) rfl rfl
    ((startCmd_ctx _ _ (ctx_page _ w p op num a b _) quotient).trans starts) settled keeps

theorem row_ctxFinishes (keeps : e.desk = (s.dev.begun (ctxCmd s.dev w p op num a b)).desk) :
    Does i s (e.finish (0x3000 + p.val) r) := by
  obtain ⟨code, core, extent⟩ := fits
  have quotient : (256 + op) / 256 = 1 := by omega
  have pages : e.pageCmds = [(ctxCmd s.dev w p op num a b).started s.dev.now] := pages_of keeps
  exact row_finishes_settled takes writes (ctx_command _ w p op a b num code core extent) rfl
    ((startCmd_ctx _ _ (ctx_page _ w p op num a b _) quotient).trans starts) settled (by rw [pages])

end

/-- Settles O23: each command starts on the begun device and ends, with the bookkeeping of the cores that home the context. -/
theorem contextCommandsAct : Obligations.ContextCommandsAct := by
  unfold Obligations.ContextCommandsAct
  intro s w p num c n e core d k key a y b
  have onPage : ∀ op a b, partOf ((ctxCmd d w p op num a b).started d.now).page = p := fun _ _ _ => partOf_page p
  have coreFits : c.val < 256 := by omega
  refine ⟨?create, ?destroy, ?rehome, ?wake, ?unknown⟩
  case create =>
    intro takes new owned room inside own sound format
    have starts := ctxStart_create (m := s.mem) (d := d.begun (k 1 c.val e.toNat)) (onPage 1 c.val e.toNat) rfl
      (ctxCmd_code d w p num (by decide) _ _ _) rfl new owned room inside own sound format
    exact row_ctxFinishes takes (by rw [← core]; rfl) ⟨by decide, coreFits, e.isLt⟩ starts (.settle _ _ _ _)
      ((desk_setCtx _ _ _).trans (desk_imaged _ _ _ _))
  case destroy =>
    intro x takes known still out
    have starts := ctxStart_destroy (m := s.mem) (d := d.begun (k 2 0 0)) (onPage 2 0 0) rfl known still out
      (ctxCmd_code d w p num (by decide) _ _ _)
    exact row_ctxEnds takes rfl (by decide) starts (.refl _) rfl
  case rehome =>
    intro x takes known still out owned
    have starts := ctxStart_rehome (m := s.mem) (d := d.begun (k 3 c.val 0)) (onPage 3 c.val 0) rfl known still out
      (ctxCmd_code d w p num (by decide) _ _ _) rfl owned
    exact row_ctxEnds takes (by rw [← core]; rfl) ⟨by decide, coreFits, by decide⟩ starts
      ((Settled.settle _ _ _ _).trans (.settle _ _ _ _)) rfl
  case wake =>
    intro x takes known still out
    have starts := ctxStart_wake (m := s.mem) (d := d.begun (k 4 0 0)) (onPage 4 0 0) rfl known still out
      (ctxCmd_code d w p num (by decide) _ _ _)
    exact row_ctxEnds takes rfl (by decide) starts (.settle _ _ _ _) rfl
  case unknown =>
    intro takes unknown
    have code := ctxCmd_code d w p num (op := 4) (by decide) 0 0 d.now
    have starts := ctxStart_unknown (m := s.mem) (d := d.begun (k 4 0 0)) (onPage 4 0 0) rfl (by rw [code]; decide)
      (by rw [code]) unknown
    exact row_ctxEnds takes rfl (by decide) starts (.refl _) rfl

end Sys2Proof.Machine
end

section
/-! The commands of a generation's page (R273, R276, R279): what each starts once its checks have passed or one has failed,
that none touches the pages or the sessions, and how their rows end. -/

namespace Sys2Proof.Machine

variable {m : Mem} {d e : Dev} {h : PageCmd} {p : PartId} {g : BitVec 24} {i : Nat} {l : GenLoad}

theorem Dev.begun_memNat (d : Dev) (c : PageCmd) (m : Mem) (a n : Nat) : memNat m (d.begun c) a n = memNat m d a n := (rfl)

theorem Dev.begun_badRead (d : Dev) (c : PageCmd) (a n : Nat) : (d.begun c).badRead a n = d.badRead a n := (rfl)

/-- That a command runs changes no manifest. -/
theorem manifest_begun (m : Mem) (d : Dev) (c : PageCmd) (p : PartId) (a g : Nat) :
    manifest m (d.begun c) p a g = manifest m d p a g := by
  simp only [manifest, Dev.begun_memNat, Dev.begun_badRead, Dev.begun_validData, Dev.begun_now]

/-! ### Operations on generations leave the pages and the sessions alone -/

theorem desk_allocShard {x : Shard} (allocates : d.allocShard p l x = some e) : e.desk = d.desk := by
  unfold Dev.allocShard at allocates
  dsimp only at allocates
  split at allocates
  · cases allocates
  · obtain rfl := Option.some.inj allocates
    exact fold_desk _ (fun _ _ => desk_allocExtent _ _ _ _ _) _ _

theorem desk_freeGen (d : Dev) (p : PartId) (i : Nat) : (d.freeGen p i).1.desk = d.desk := by
  unfold Dev.freeGen
  dsimp only
  split
  · rfl
  · exact fold_desk _ desk_freeExtent _ _

/-! ### Allocating the shards of a generation (R279) -/

/-- When every shard finds its extents free, the loader allocates them all and keeps no shard that failed. -/
theorem foldl_allocNext (shards : List Shard) {d : Dev} (allocates : shards.foldlM (fun d x => d.allocShard p l x) d = some e) :
    shards.foldl (allocNext p l) (d, none) = (e, none) ∧ e.desk = d.desk := by
  induction shards generalizing d with
  | nil =>
    obtain rfl := Option.some.inj allocates
    exact ⟨rfl, rfl⟩
  | cons x shards ih =>
    rw [List.foldlM_cons, Option.bind_eq_bind, Option.bind_eq_some_iff] at allocates
    obtain ⟨d', first, rest⟩ := allocates
    obtain ⟨fold, same⟩ := ih rest
    have next : allocNext p l (d, none) x = (d', none) := by simp [allocNext, first]
    exact ⟨by rw [List.foldl_cons, next, fold], same.trans (desk_allocShard first)⟩

/-! ### What a command starts -/

theorem genStart_stages {r : Nat} (onPage : partOf h.page = p) (op : h.op = 1) (stages : genStage m p h.a h.arg0 d = (e, r)) :
    genStart m h d = (e, some r) := by
  subst onPage
  unfold genStart
  extract_lets p st
  rw [op, show genStage m p h.a h.arg0 d = (e, r) from stages]
  rfl

/-- STAGE of a sound manifest, each shard of which finds its extents free. -/
theorem genStage_sound {n a : Nat} (nonzero : n ≠ 0) (new : d.genEntry p n = none)
    (free : (List.range 8).find? (fun j => decide (d.fld F.GEN_ENTRY_STATE p.val j = 0)) = some i)
    (sound : manifest m d p a n = some l)
    (allocates : l.shards.foldlM (fun d x => d.allocShard p l x)
      (((d.setFld F.GEN_ENTRY_GEN n p.val i).setGenState p i 1).setLoads (tPut (loadKey p i) l d.loads)) = some e) :
    genStage m p n a d = (e.updateGen p i, 0) := by
  have fold := (foldl_allocNext _ allocates).1
  unfold genStage
  rw [new, free]
  dsimp only
  rw [if_neg nonzero, sound]
  dsimp only
  rw [show ((d.setFld F.GEN_ENTRY_GEN n p.val i).setGenState p i 1).loads = d.loads from rfl, fold]

section
variable (onPage : partOf h.page = p) (names : h.a = g.toNat)
include onPage names

theorem genStart_stage (op : h.op = 1) (nonzero : g ≠ 0) (new : d.genEntry p g.toNat = none)
    (free : (List.range 8).find? (fun j => decide (d.fld F.GEN_ENTRY_STATE p.val j = 0)) = some i)
    (sound : manifest m d p h.arg0 g.toNat = some l)
    (allocates : l.shards.foldlM (fun d x => d.allocShard p l x)
      (((d.setFld F.GEN_ENTRY_GEN g.toNat p.val i).setGenState p i 1).setLoads (tPut (loadKey p i) l d.loads)) = some e) :
    genStart m h d = (e.updateGen p i, some 0) := by
  have generation : g.toNat ≠ 0 := fun zero => nonzero (BitVec.eq_of_toNat_eq zero)
  exact genStart_stages onPage op (by rw [names, genStage_sound generation new free sound allocates])

theorem genStart_castle_unknown (op : h.op = 2) (unknown : d.genEntry p g.toNat = none) : genStart m h d = (d, some 2) := by
  simp only [genStart, onPage, names, op, unknown]

section
variable (known : d.genEntry p g.toNat = some i)
include known

theorem genStart_castle (op : h.op = 2) (staged : d.fld F.GEN_ENTRY_STATE p.val i = 2) :
    genStart m h d = (d.setCastling (tPut p.val g.toNat d.castling), some 0) := by
  simp only [genStart, onPage, names, op, known, staged, if_true]

theorem genStart_castle_unstaged (op : h.op = 2) (unstaged : d.fld F.GEN_ENTRY_STATE p.val i ≠ 2) :
    genStart m h d = (d, some 3) := by
  simp only [genStart, onPage, names, op, known, if_neg unstaged]

/-- ABANDON whose extents can be freed at once. -/
theorem genStart_abandon (op : h.op = 3) (state : d.fld F.GEN_ENTRY_STATE p.val i ∈ [1, 2, 5])
    (frees : (((d.setLoads (tDel (loadKey p i) d.loads)).setGenState p i 5).freeGen p i) = (e, true)) :
    genStart m h d = (e, some 0) := by
  have unread : d.fld F.GEN_ENTRY_STATE p.val i = 1 ∨ d.fld F.GEN_ENTRY_STATE p.val i = 2 ∨
      d.fld F.GEN_ENTRY_STATE p.val i = 5 := by simpa using state
  simp only [genStart, onPage, names, op, known, if_pos unread, frees, if_true]

end

end

/-! ### The rows -/

section
variable {n : Instr} {s : State} {w : Path} {op r : Nat} (takes : s.Takes n)
  (writes : writeOf n s.dev = some (w, page 0x32 p.val 0x100, op + 8 * g.toNat)) (small : op < 8)
  (starts : genStart s.mem ((genCmd s.dev w p op g).started s.dev.now) (s.dev.begun (genCmd s.dev w p op g)) = (e, some r))
  (keeps : e.desk = (s.dev.begun (genCmd s.dev w p op g)).desk)
include takes writes small starts keeps

theorem row_genEnds : Does n s (e.ended (genCmd s.dev w p op g) r) :=
  row_ended takes writes (gen_command _ w p op g small) rfl rfl ((startCmd_gen _ _ (gen_page _ w p op g _)).trans starts) keeps

theorem row_genFinishes : Does n s (e.finish (genCmd s.dev w p op g).page r) := by
  have pages : e.pageCmds = [(genCmd s.dev w p op g).started s.dev.now] := pages_of keeps
  exact row_finishes takes writes (gen_command _ w p op g small) rfl
    ((startCmd_gen _ _ (gen_page _ w p op g _)).trans starts) (by rw [pages])

end

/-- Settles O24: each command starts on the begun device and ends. The results of CASTLE and ABANDON in a wrong state rest on
log 29 of NOTES.md. -/
theorem generationCommandsAct : Obligations.GenerationCommandsAct := by
  unfold Obligations.GenerationCommandsAct
  intro s w p g i d k
  have onPage : ∀ op, partOf ((k op).started d.now).page = p := fun _ => partOf_genPage p
  refine ⟨?stage, ?castle, ?castleUnstaged, ?castleUnknown, ?abandon⟩
  case stage =>
    intro l e takes nonzero new free sound allocates
    have starts := genStart_stage (m := s.mem) (d := d.begun (k 1)) (onPage 1) rfl rfl nonzero new free
      ((manifest_begun ..).trans sound) allocates
    exact row_genFinishes takes rfl (by decide) starts ((desk_updateGen _ _ _).trans (foldl_allocNext _ allocates).2)
  case castle =>
    exact fun takes known staged => row_genEnds takes rfl (by decide) (genStart_castle (onPage 2) rfl known rfl staged) rfl
  case castleUnstaged =>
    exact fun takes known unstaged =>
      row_genEnds takes rfl (by decide) (genStart_castle_unstaged (onPage 2) rfl known rfl unstaged) rfl
  case castleUnknown =>
    exact fun takes unknown => row_genEnds takes rfl (by decide) (genStart_castle_unknown (onPage 2) rfl rfl unknown) rfl
  case abandon =>
    intro e takes known state frees
    have same := desk_freeGen (((d.begun (k 3)).setLoads (tDel (loadKey p i) d.loads)).setGenState p i 5) p i
    rw [frees] at same
    exact row_genFinishes takes rfl (by decide) (genStart_abandon (onPage 3) rfl known rfl state frees) same

end Sys2Proof.Machine
end

section
/-! The events of partitions and of weight generations (R255, R262 to R265, R274, R277, R278, R281): each meaning in the case
that its conditions name, then the statement. -/

namespace Sys2Proof.Machine

variable {m : Mem} {d : Dev} {p b : PartId} {c : CoreId} {limit target n i : Nat}

/-! ### Holds and recalls (R255, R262) -/

theorem holdReached_done (draining : d.pstate p = 2) (asked : p ∈ d.plainHold) (still : d.partExecutes p = false) :
    holdReached p d = d.setFld F.PART_STATUS_STATE 3 p.val := by
  simp [holdReached, draining, asked, still]

section
variable (recalled : d.recallOf p = some (c, b, limit)) (late : limit ≤ d.now)
include recalled late

/-- The limit of a recall has passed: a serving borrower's step is abandoned, another's turn fails, and the core returns. -/
theorem recallForced_late : recallForced m p c d =
    (((if d.isServing b then d.abandonStep b else failJobTurn m b 8 d).postEvent p 13 c.val b.val).postEvent b 13 c.val
      b.val).beginPlan c .giveBack := by
  simp [recallForced, recalled, Nat.not_lt.2 late]

theorem recallForced_serving (serves : d.isServing b = true) : recallForced m p c d =
    (((d.abandonStep b).postEvent p 13 c.val b.val).postEvent b 13 c.val b.val).beginPlan c .giveBack := by
  rw [recallForced_late recalled late, if_pos serves]

theorem recallForced_turning (turns : d.isServing b = false) : recallForced m p c d =
    (((failJobTurn m b 8 d).postEvent p 13 c.val b.val).postEvent b 13 c.val b.val).beginPlan c .giveBack := by
  rw [recallForced_late recalled late, if_neg (by simp [turns])]

end

/-! ### A move at its destination and at its source (R263 to R265) -/

section
variable (hub : d.hubOn = true)
include hub

section
variable (here : target = d.deviceId)
include here

theorem partitionMove_creates (absent : d.pstate p = 0) : partitionMove m p target d =
    (d.setFld F.PART_STATUS_STATE 3 p.val).setFld F.PART_TURN_TURN 0 p.val := by
  simp [partitionMove, hub, here, absent]

theorem partitionMove_takes (held : d.pstate p = 3) : partitionMove m p target d = d.setFld F.PART_STATUS_STATE 4 p.val := by
  simp [partitionMove, hub, here, held]

theorem partitionMove_taken (moving : d.pstate p = 4) (incoming : tFind p.val d.moves = none) :
    partitionMove m p target d = d.setFld F.PART_STATUS_STATE 3 p.val := by
  simp [partitionMove, hub, here, moving, incoming]

end

section
variable (elsewhere : target ≠ d.deviceId)
include elsewhere

theorem partitionMove_begins (held : d.pstate p = 3) (new : tFind p.val d.moves = none) (all : jobHeld m d p = true) :
    let u : Dev := { d.setFld F.PART_STATUS_STATE 4 p.val with moves := tPut p.val { target := target } d.moves }
    partitionMove m p target d = (u.ownedCores p).foldl (fun d c => d.beginPlan c .empty) u := by
  simp [partitionMove, hub, elsewhere, new, held, all]

theorem partitionMove_refused (new : tFind p.val d.moves = none) (notAll : jobHeld m d p = false) :
    partitionMove m p target d = d := by
  simp [partitionMove, hub, elsewhere, new, notAll]

theorem partitionMove_goesOn {x : MoveOut} (moving : d.pstate p = 4) (known : tFind p.val d.moves = some x)
    (same : x.target = target) : partitionMove m p target d = settleAll m (moveOn m p x d) := by
  simp [partitionMove, hub, elsewhere, known, moving, same]

end

end

/-! ### The stages of a move (R264, R265) -/

section
variable {x : MoveOut}

/-- A core that the partition owns has contexts to swap out. -/
def Dev.swapsOut (d : Dev) (p : PartId) : Bool :=
  (d.ownedCores p).any fun c => (d.core c).plan.isSome || (d.core c).swap.isSome

section
variable (first : x.stage = 0)
include first

theorem moveOn_waits (swaps : d.swapsOut p = true) : moveOn m p x d = d := by
  unfold Dev.swapsOut at swaps
  simp only [moveOn, first, swaps, if_true]

variable (out : d.swapsOut p = false)
include out

theorem moveOn_abandons {e : Nat}
    (bad : (d.ownedExtents p).find? (fun e => d.readFails (e * extentSize) extentSize) = some e) : moveOn m p x d =
      (raiseBad m (e * extentSize) extentSize (some p) (d.abandonMove p)).sendItem x.target (partJob m d p) .abandon 0 [0] := by
  unfold Dev.swapsOut at out
  simp only [moveOn, first, out, Bool.false_eq_true, if_false, bad]

theorem moveOn_sendsExtents
    (readable : (d.ownedExtents p).find? (fun e => d.readFails (e * extentSize) extentSize) = none) :
    let u := sendExtents m p x.target (partJob m d p) d
    moveOn m p x d =
      { u with moves := tPut p.val { x with stage := 1, waiting := (d.ownedExtents p).map lastPacket } u.moves } := by
  unfold Dev.swapsOut at out
  simp only [moveOn, first, out, Bool.false_eq_true, if_false, readable]

end

theorem moveOn_awaitsAcks (second : x.stage = 1) (unacknowledged : x.waiting ≠ []) : moveOn m p x d = d := by
  simp [moveOn, second, unacknowledged]

theorem moveOn_sendsRest (second : x.stage = 1) (acknowledged : x.waiting = []) :
    let u := sendRest p x.target (partJob m d p) d
    moveOn m p x d = { u with moves := tPut p.val { x with stage := 2 } u.moves } := by
  simp [moveOn, second, acknowledged]

theorem moveOn_ends (sent : 2 ≤ x.stage) : moveOn m p x d = endMove p d := by
  obtain ⟨k, stage⟩ := Nat.exists_eq_add_of_le' sent
  simp [moveOn, stage]

end

/-! ### Generations that load or were replaced (R277, R278, R281) -/

section
variable {l : GenLoad} {x : Shard}

theorem shardTimeout_late (loads : d.loadingShard p n = some (i, l, x))
    (late : x.lastAt + 1000000000 * d.fld F.GEN_LOADCFG_TIMEOUT p.val ≤ d.now) :
    shardTimeout p n d = shardFails p i x d := by
  simp only [shardTimeout, loads, late, if_true]

/-- The reader of a shard may ask its queue pair for it. -/
structure Dev.readsShard (d : Dev) (p : PartId) (x : Shard) : Prop where
  host : d.hostOn = true
  memory : d.memoryDown = false
  mine : d.ringMine p.val x.qp = true
  kind : d.rf x.qp RF.kind = 3
  ready : d.rf x.qp RF.qstate = 3
  idle : (d.qp x.qp).read = none

theorem shardRead_asks (known : d.readShard p n = some (i, l, x)) (idle : x.reading = false) (unpublished : x.published = false)
    (extents : x.count ≠ 0) (reader : n % l.group = l.member)
    (cleared : ∀ j < x.count, d.xf (x.ext + j) XF.state = 2 ∨ d.xf (x.ext + j) XF.state = 3) (reads : d.readsShard p x) :
    shardRead p n d = askShard x.qp { part := p, entry := i, shard := n, off := 0 } x (beginShard (loadKey p i) l.gen x d) := by
  obtain ⟨host, memory, mine, kind, ready, free⟩ := reads
  have clear : ((List.range x.count).all fun j => decide (d.xf (x.ext + j) XF.state = 2 ∨ d.xf (x.ext + j) XF.state = 3)) =
      true := by simpa [List.all_eq_true] using cleared
  simp only [shardRead, known, idle, unpublished, extents, reader, clear, host, memory, mine, kind, ready, free,
    Option.isSome_none, Bool.not_true, Bool.false_eq_true, ne_eq, not_true, or_self, if_false]

end

/-- The generations of a partition that a castling has replaced and whose limit has passed (R277). -/
def Dev.overdue (d : Dev) (p : PartId) : List Nat := ((d.serve p.val).castled.map fun e => e.1).filter fun g => d.oldLimit p g

theorem oldGenLimitExpiry_due (due : d.overdue p ≠ []) :
    oldGenLimitExpiry p d = d.modServe p fun x => { x with oldDue := d.overdue p } :=
  if_neg (by simpa [Dev.overdue] using due)

theorem oldGenLimitExpiry_none (nothingDue : d.overdue p = []) : oldGenLimitExpiry p d = d :=
  if_pos (by simpa [Dev.overdue] using nothingDue)

theorem overdue_single {t : Nat} (castled : (d.serve p.val).castled = [(n, t)])
    (limited : 0 < d.fld F.SEQ_POLICY_OLD_GEN_LIMIT p.val)
    (late : t + 1000000 * d.fld F.SEQ_POLICY_OLD_GEN_LIMIT p.val ≤ d.now) : d.overdue p = [n] := by
  have passed : d.oldLimit p n = true := by simp [Dev.oldLimit, castled, tFind, limited, late]
  simp [Dev.overdue, castled, passed]

theorem overdue_nil (inTime : (d.serve p.val).castled.all (fun g => !d.oldLimit p g.1) = true) : d.overdue p = [] := by
  simpa [Dev.overdue, List.filter_eq_nil_iff, List.all_eq_true] using inTime

/-! ### The statement -/

/-- Settles O47: each row is the meaning of its case, and the bookkeeping follows. The stages of PARTITION_MOVE rest on log 49
of NOTES.md, and what follows a failed shard on log 48. -/
theorem partitionEventsAct : Obligations.PartitionEventsAct := by
  unfold Obligations.PartitionEventsAct
  refine ⟨?partitions, ?generations⟩
  case partitions =>
    intro s p b c limit e target d gone still quiet
    refine ⟨fun draining asked idle => row_after rfl quiet (holdReached_done draining asked idle),
      fun recalled late serves => row_after rfl quiet (recallForced_serving recalled late serves),
      fun recalled late turns => row_after rfl quiet (recallForced_turning recalled late turns),
      fun hub here absent => row_after rfl quiet (partitionMove_creates hub here absent),
      fun hub here held => row_after rfl quiet (partitionMove_takes hub here held),
      fun hub here moving incoming => row_after rfl quiet (partitionMove_taken hub here moving incoming),
      fun hub elsewhere held new all => row_after rfl quiet (partitionMove_begins hub elsewhere held new all),
      fun hub elsewhere _ new notAll => row_after rfl quiet (partitionMove_refused hub elsewhere new notAll), ?stages⟩
    intro x hub elsewhere moving known same j go bad
    have goes : ∀ {u : Dev}, moveOn s.mem p x d = u → go u := by
      intro u on
      exact row_after rfl quiet ((partitionMove_goesOn hub elsewhere moving known same).trans (by rw [on]))
    rw [← same]
    exact ⟨fun first swaps => goes (moveOn_waits first swaps), fun first out bad => goes (moveOn_abandons first out bad),
      fun first out readable => goes (moveOn_sendsExtents first out readable),
      fun second unacknowledged => goes (moveOn_awaitsAcks second unacknowledged),
      fun second acknowledged => goes (moveOn_sendsRest second acknowledged), fun sent => goes (moveOn_ends sent)⟩
  case generations =>
    intro s p n i l x t d limit quiet
    refine ⟨row_after rfl quiet rfl, fun loads late => row_after rfl quiet (shardTimeout_late loads late), ?read, ?due,
      ?inTime⟩
    case read =>
      exact fun known idle unpublished extents reader cleared host memory mine kind ready free => row_after rfl quiet
        (shardRead_asks known idle unpublished extents reader cleared ⟨host, memory, mine, kind, ready, free⟩)
    case due =>
      intro y castled _ limited late effect
      have due := overdue_single castled limited late
      have expires := oldGenLimitExpiry_due (d := d) (p := p) (by rw [due]; exact List.cons_ne_nil _ _)
      rw [due] at expires
      exact row_after rfl quiet (expires.trans effect.symm)
    case inTime => exact fun inTime => row_after rfl quiet (oldGenLimitExpiry_none (overdue_nil inTime))

end Sys2Proof.Machine
end

section
/-! The step composer (R268 to R272): what it does with a sequence ring and a step ring, what each sequence command does to
its entry, then the statement. -/

namespace Sys2Proof.Machine

variable {m : Mem} {d u : Dev} {p : PartId} {q r n i : Nat}

/-! ### STEP_COMPOSE (R269, R272) -/

/-- u is d once the commands of the partition's sequence ring, if it has one, are taken. -/
inductive TakesCommands (m : Mem) (p : PartId) (d : Dev) : Dev → Prop
  | ring (r : Nat) (valid : d.hubRing p F.PART_RINGS_SEQ_RING 1 = some r) (consumer : d.rf r RF.consumer = 1)
      (buffer : d.bufferOk r = true) : TakesCommands m p d (takeCommands m p r (d.ringFill r) d)
  | noRing (invalid : d.hubRing p F.PART_RINGS_SEQ_RING 1 = none) : TakesCommands m p d d

/-- A step of the partition may be composed for the step ring q. -/
structure Dev.MayCompose (d : Dev) (p : PartId) (q : Nat) : Prop where
  notHeld : d.pstate p ≠ 3
  notMoving : d.pstate p ≠ 4
  noStep : (d.serve p.val).step = none
  areas : d.areasOk p = true
  tokens : d.pageTokens p ≠ 0
  producer : d.rf q RF.pHub = 1
  room : d.ringRoom q = true

/-- The half of the step area that the next step is written to (R272). -/
def Dev.stepArea (d : Dev) (p : PartId) : Nat :=
  d.fld F.SEQ_AREA_STEP_EXTENT p.val * extentSize + 1048576 * ((d.serve p.val).next % 2)

/-- The payload of the slot of a ring that the next message is written to. -/
def Dev.nextPayload (d : Dev) (q : Nat) : Nat := d.slotAddr q (d.rf q RF.produced) + 64

/-- What the composer does on a step ring once the commands are taken (R269, R272): nothing while it may not compose, else
the ring fails, or a line of the step area or of the slot, or the step is composed. -/
def composeNext (m : Mem) (p : PartId) (q : Nat) (d : Dev) : Dev :=
  if d.pstate p = 3 ∨ d.pstate p = 4 ∨ (d.serve p.val).step.isSome ∨ !d.areasOk p ∨ d.pageTokens p = 0 ∨
      d.rf q RF.pHub ≠ 1 ∨ !d.ringRoom q then d
  else if !d.bufferOk q then ringError m q 5 0 d
  else if d.badWrite (d.stepArea p) 1048576 then raiseCut m (d.stepArea p) 1048576 (some p) d
  else if d.badWrite (d.nextPayload q) 8 then raiseCut m (d.nextPayload q) 8 (some p) d
  else compose p q d

section
variable (serves : d.isServing p = true) (known : d.pstate p ≠ 0) (takes : TakesCommands m p d u)
include serves known takes

theorem stepCompose_onRing (stepRing : u.hubRing p F.PART_RINGS_STEP_RING 2 = some q) :
    stepCompose m p d = composeNext m p q u := by
  cases takes with
  | ring r valid consumer buffer =>
    simp only [stepCompose, serves, known, valid, if_neg (not_not.2 consumer), buffer, Bool.not_true, decide_false, Bool.or_self,
      Bool.false_eq_true, if_false]
    generalize takeCommands m p r (d.ringFill r) d = u at stepRing ⊢
    simp only [stepRing, composeNext, Dev.stepArea, Dev.nextPayload]
    rfl
  | noRing invalid =>
    simp only [stepCompose, serves, known, invalid, Bool.not_true, decide_false, Bool.or_self, Bool.false_eq_true, if_false,
      stepRing, composeNext, Dev.stepArea, Dev.nextPayload]
    rfl

theorem stepCompose_noRing (stepRing : u.hubRing p F.PART_RINGS_STEP_RING 2 = none) : stepCompose m p d = u := by
  cases takes with
  | ring r valid consumer buffer =>
    simp only [stepCompose, serves, known, valid, if_neg (not_not.2 consumer), buffer, stepRing, Bool.not_true, decide_false,
      Bool.or_self, Bool.false_eq_true, if_false]
  | noRing invalid =>
    simp only [stepCompose, serves, known, invalid, stepRing, Bool.not_true, decide_false, Bool.or_self, Bool.false_eq_true,
      if_false]

end

theorem composeNext_keepsStep (step : (d.serve p.val).step.isSome = true) : composeNext m p q d = d := by
  simp [composeNext, step]

/-- A step in progress stays whatever the step ring is. -/
theorem stepCompose_keepsStep (serves : d.isServing p = true) (known : d.pstate p ≠ 0) (takes : TakesCommands m p d u)
    (step : (u.serve p.val).step.isSome = true) : stepCompose m p d = u := by
  cases stepRing : u.hubRing p F.PART_RINGS_STEP_RING 2 with
  | none => exact stepCompose_noRing serves known takes stepRing
  | some q => rw [stepCompose_onRing serves known takes stepRing, composeNext_keepsStep step]

section
variable (may : d.MayCompose p q)
include may

theorem Dev.MayCompose.not_blocked : ¬ (d.pstate p = 3 ∨ d.pstate p = 4 ∨ (d.serve p.val).step.isSome = true ∨
    (!d.areasOk p) = true ∨ d.pageTokens p = 0 ∨ d.rf q RF.pHub ≠ 1 ∨ (!d.ringRoom q) = true) := by
  obtain ⟨notHeld, notMoving, noStep, areas, tokens, producer, room⟩ := may
  simp [notHeld, notMoving, noStep, areas, tokens, producer, room]

theorem composeNext_noBuffer (lost : d.bufferOk q = false) : composeNext m p q d = ringError m q 5 0 d :=
  (if_neg may.not_blocked).trans (if_pos (by rw [lost]; rfl))

variable (buffer : d.bufferOk q = true)
include buffer

theorem composeNext_writes : composeNext m p q d =
    if d.badWrite (d.stepArea p) 1048576 then raiseCut m (d.stepArea p) 1048576 (some p) d
    else if d.badWrite (d.nextPayload q) 8 then raiseCut m (d.nextPayload q) 8 (some p) d
    else compose p q d :=
  (if_neg may.not_blocked).trans (if_neg (by simp [buffer]))

theorem composeNext_cut (cut : d.badWrite (d.stepArea p) 1048576 = true) :
    composeNext m p q d = raiseCut m (d.stepArea p) 1048576 (some p) d := by rw [composeNext_writes may buffer, if_pos cut]

theorem composeNext_composes (area : d.badWrite (d.stepArea p) 1048576 = false)
    (slot : d.badWrite (d.nextPayload q) 8 = false) : composeNext m p q d = compose p q d := by
  rw [composeNext_writes may buffer, if_neg (by simp [area]), if_neg (by simp [slot])]

end

/-! ### Fields of a record -/

section
variable {f g : Bf} {v w k : Nat}

theorem Bf.get_put_self : f.get (f.put v w) = v % 2 ^ f.width := bits_setBits_self _ _ _ _

theorem Bf.get_put_apart (apart : f.lo + f.width ≤ g.lo ∨ g.lo + g.width ≤ f.lo) : f.get (g.put v w) = f.get w :=
  bits_setBits_apart apart

theorem Bf.get_zero : f.get 0 = 0 := by simp [Bf.get, bits]

theorem Bf.put_lt (inside : f.lo + f.width ≤ k) (small : w < 2 ^ k) : f.put v w < 2 ^ k := setBits_lt small inside

theorem Bf.get_mod_width : f.get w % 2 ^ f.width = f.get w := Nat.mod_eq_of_lt (bits_lt _ _ _)

end

/-! ### JOIN (R267, R268) -/

theorem joinEntry_lt (p : PartId) (r now : Nat) : joinEntry p r now < 2 ^ 256 :=
  Bf.put_lt (by decide) (Bf.put_lt (by decide) (Bf.put_lt (by decide) (Bf.put_lt (by decide) (Bf.put_lt (by decide)
    (Bf.put_lt (by decide) (by positivity))))))

/-- What the entry of a sequence that joins reads. -/
theorem joinEntry_fields (p : PartId) (r now : Nat) : let e := joinEntry p r now
    QF.state.get e = 1 ∧ QF.part.get e = p.val ∧ QF.prio.get e = CR.prio.get r ∧ QF.promptLen.get e = CR.len.get r ∧
      QF.promptAddr.get e = CR.addr.get r ∧ QF.joinTime.get e = now % 2 ^ 64 ∧ QF.pos.get e = 0 ∧ QF.gen.get e = 0 := by
  have part : p.val % 2 ^ QF.part.width = p.val := Nat.mod_eq_of_lt p.isLt
  have prio : CR.prio.get r % 2 ^ QF.prio.width = CR.prio.get r := Bf.get_mod_width (f := CR.prio)
  have len : CR.len.get r % 2 ^ QF.promptLen.width = CR.len.get r := Bf.get_mod_width (f := CR.len)
  have addr : CR.addr.get r % 2 ^ QF.promptAddr.width = CR.addr.get r := Bf.get_mod_width (f := CR.addr)
  dsimp only
  unfold joinEntry
  refine ⟨?state, ?part, ?prio, ?len, ?addr, ?time, ?pos, ?gen⟩
  case state => simp (disch := decide) only [Bf.get_put_apart, Bf.get_put_self]; rfl
  case part => simp (disch := decide) only [Bf.get_put_apart, Bf.get_put_self, part]
  case prio => simp (disch := decide) only [Bf.get_put_apart, Bf.get_put_self, prio]
  case len => simp (disch := decide) only [Bf.get_put_apart, Bf.get_put_self, len]
  case addr => simp (disch := decide) only [Bf.get_put_apart, Bf.get_put_self, addr]
  case time => simp (disch := decide) only [Bf.get_put_self]; rfl
  case pos => simp (disch := decide) only [Bf.get_put_apart, Bf.get_zero]
  case gen => simp (disch := decide) only [Bf.get_put_apart, Bf.get_zero]

/-- The device with a sequence's entry made by JOIN. -/
def Dev.joined (d : Dev) (p : PartId) (r i : Nat) : Dev :=
  { d with seqs := tSet 0 i (BitVec.ofNat 256 (joinEntry p r d.now)) d.seqs }

theorem sq_joined (d : Dev) (p : PartId) (r i : Nat) (f : Bf) : (d.joined p r i).sq i f = f.get (joinEntry p r d.now) := by
  unfold Dev.sq Dev.joined
  rw [tGet_tSet_self, BitVec.toNat_ofNat, Nat.mod_eq_of_lt (joinEntry_lt p r d.now)]

theorem seqs_restored (d : Dev) (t : Table (BitVec 256)) : ({ ({ d with seqs := t } : Dev) with seqs := d.seqs } : Dev) = d := rfl

/-- JOIN changes the sequence table only. -/
theorem joined_rest (d : Dev) (p : PartId) (r i : Nat) : ({ d.joined p r i with seqs := d.seqs } : Dev) = d :=
  seqs_restored d _

theorem joinRefusal_index (wrong : i < d.seqBase p ∨ d.seqBase p + d.seqCount p ≤ i ∨ d.sq i QF.state ≠ 0) :
    d.joinRefusal p i n = some 1 := if_pos wrong

section
variable (low : d.seqBase p ≤ i) (high : i < d.seqBase p + d.seqCount p)
include low high

section
variable (free : d.sq i QF.state = 0)
include free

theorem joinRefusal_length (wrong : n = 0 ∨ 4096 < d.pagesFor p n) : d.joinRefusal p i n = some 2 := by
  have index : ¬ (i < d.seqBase p ∨ d.seqBase p + d.seqCount p ≤ i ∨ d.sq i QF.state ≠ 0) := by omega
  exact (if_neg index).trans (if_pos (by omega))

theorem joinRefusal_none (long : n ≠ 0) (tokens : d.pageTokens p ≠ 0) (short : d.pagesFor p n ≤ 4096) :
    d.joinRefusal p i n = none := by
  have index : ¬ (i < d.seqBase p ∨ d.seqBase p + d.seqCount p ≤ i ∨ d.sq i QF.state ≠ 0) := by omega
  exact (if_neg index).trans (if_neg (by omega))

end

theorem seqLive_of (live : d.sq i QF.state ≠ 0) : d.seqLive p i = true := by simp [Dev.seqLive, low, high, live]

end

/-! ### Sequence commands (R268, R272) -/

theorem seqCommand_joins (op : CR.op.get r = 1) (accepted : d.joinRefusal p (CR.seq.get r) (CR.len.get r) = none) :
    seqCommand p r d = d.joined p r (CR.seq.get r) := by
  simp only [seqCommand, op, accepted, Dev.joined]

theorem seqCommand_refuses {why : Nat} (op : CR.op.get r = 1)
    (refused : d.joinRefusal p (CR.seq.get r) (CR.len.get r) = some why) :
    seqCommand p r d = d.refuseJoin p (CR.seq.get r) why := by
  simp only [seqCommand, op, refused]

theorem seqCommand_leaves (op : CR.op.get r = 2) (live : d.seqLive p (CR.seq.get r) = true) :
    seqCommand p r d = d.setSq (CR.seq.get r) QF.state 4 := by
  simp only [seqCommand, op, live, if_true]

theorem seqCommand_ranks (op : CR.op.get r = 3) (live : d.seqLive p (CR.seq.get r) = true) :
    seqCommand p r d = d.setSq (CR.seq.get r) QF.prio (CR.prio.get r) := by
  simp only [seqCommand, op, live, if_true]

theorem seqCommand_ends {runs : List StepRun} (op : CR.op.get r = 4) (step : (d.serve p.val).step = some (n, runs))
    (named : CR.step.get r = n) : seqCommand p r d = stepEnds p runs d := by
  simp only [seqCommand, op, step, named, if_true]

theorem seqCommand_endsNone (op : CR.op.get r = 4) (noStep : (d.serve p.val).step = none) :
    seqCommand p r d = d.count F.SEQ_COUNTS_BAD_CMDS 1 p.val := by
  simp only [seqCommand, op, noStep]

theorem seqCommand_unknown (op : CR.op.get r = 0 ∨ 4 < CR.op.get r) : seqCommand p r d = d.refuseJoin p (CR.seq.get r) 3 := by
  unfold seqCommand
  dsimp only
  split
  · omega
  · omega
  · omega
  · omega
  · rfl

/-! ### The statement -/

/-- Settles O48: the row takes the sequence ring's commands and goes on with the step ring; a sequence command is the case of
its OP. That a JOIN with PAGE_TOKENS 0 is refused, and that the composer waits for room, rest on log 28 of NOTES.md. -/
theorem stepsCompose : Obligations.StepsCompose := by
  unfold Obligations.StepsCompose
  refine ⟨?composer, ?commands⟩
  case composer =>
    intro s p r q d u ready area slot publish quiet serves known
    have publishes : ∀ v, TakesCommands s.mem p d v → v.hubRing p F.PART_RINGS_STEP_RING 2 = some q → ready v →
        publish v := by
      rintro v takes stepRing ⟨notHeld, notMoving, noStep, areas, tokens, producer, room⟩
      have may : v.MayCompose p q := ⟨notHeld, notMoving, noStep, areas, tokens, producer, room⟩
      have goesOn := stepCompose_onRing serves known takes stepRing
      exact ⟨fun buffer sound slotSound => row_after rfl quiet (goesOn.trans (composeNext_composes may buffer sound slotSound)),
        fun buffer cut => row_after rfl quiet (goesOn.trans (composeNext_cut may buffer cut)),
        fun lost => row_after rfl quiet (goesOn.trans (composeNext_noBuffer may lost))⟩
    refine ⟨fun valid consumer buffer => publishes u (.ring r valid consumer buffer), ?keeps,
      fun invalid => publishes d (.noRing invalid)⟩
    exact fun valid consumer buffer step =>
      row_after rfl quiet (stepCompose_keepsStep serves known (.ring r valid consumer buffer) step)
  case commands =>
    intro p r d n runs i op
    refine ⟨?joins, fun isJoin wrong => seqCommand_refuses isJoin (joinRefusal_index wrong),
      fun isJoin low high free wrong => seqCommand_refuses isJoin (joinRefusal_length low high free wrong),
      fun isLeave low high live => seqCommand_leaves isLeave (seqLive_of low high live),
      fun isPriority low high live => seqCommand_ranks isPriority (seqLive_of low high live),
      fun isEnd step named => seqCommand_ends isEnd step named, fun isEnd noStep => seqCommand_endsNone isEnd noStep,
      fun unknown => seqCommand_unknown unknown⟩
    intro isJoin low high free long tokens short e
    have joins : e = d.joined p r i := seqCommand_joins isJoin (joinRefusal_none low high free long tokens short)
    obtain ⟨state, part, prio, len, addr, time, pos, gen⟩ := joinEntry_fields p r d.now
    simp only [joins, sq_joined]
    exact ⟨fun j other => tGet_tSet_ne (Ne.symm other) _ _ _, joined_rest d p r i, state, part, prio, len, addr, time, pos,
      gen⟩

end Sys2Proof.Machine
end

section
/-! The CRC of a flit (R292): reflecting registers and bytes turns the division by the polynomial as R292 states it into the
reflected division of the model; first reflection bit by bit, then the two divisions bit by bit and byte by byte, then the
statement. -/

namespace Sys2Proof.Machine

variable {w n x : Nat}

/-! ### Reflection -/

/-- The w low bits of a number in the opposite order. -/
def reflectBits (w x : Nat) : Nat :=
  (List.range w).foldl (fun y i => y + b2n (x.testBit i) * 2 ^ (w - 1 - i)) 0

theorem reflectBits_eq_sum (w x : Nat) :
    reflectBits w x = ∑ i ∈ Finset.range w, b2n (x.testBit i) * 2 ^ (w - 1 - i) := by
  unfold reflectBits
  rw [← List.foldl_map (f := fun i => b2n (x.testBit i) * 2 ^ (w - 1 - i)) (g := (· + ·)), ← List.sum_eq_foldl]
  rfl

theorem reflectBits_succ (w x : Nat) : reflectBits (w + 1) x = 2 * reflectBits w x + b2n (x.testBit w) := by
  rw [reflectBits_eq_sum, reflectBits_eq_sum, Finset.sum_range_succ, Finset.mul_sum]
  have twice : ∀ i ∈ Finset.range w,
      b2n (x.testBit i) * 2 ^ (w + 1 - 1 - i) = 2 * (b2n (x.testBit i) * 2 ^ (w - 1 - i)) := by
    intro i below
    rw [show w + 1 - 1 - i = w - 1 - i + 1 by have := Finset.mem_range.1 below; omega, Nat.pow_succ]
    ring
  rw [Finset.sum_congr rfl twice]
  simp

theorem testBit_reflectBits (w x i : Nat) : (reflectBits w x).testBit i = (decide (i < w) && x.testBit (w - 1 - i)) := by
  induction w generalizing i with
  | zero => simp [reflectBits]
  | succ w ih =>
    rw [reflectBits_succ]
    cases i with
    | zero => cases h : x.testBit w <;> simp [b2n, h, Nat.testBit_zero]
    | succ i =>
      rw [Nat.testBit_succ, show (2 * reflectBits w x + b2n (x.testBit w)) / 2 = reflectBits w x by
        unfold b2n; split <;> omega, ih]
      simp [Nat.sub_sub, Nat.add_comm]

theorem reflectBits_lt (w x : Nat) : reflectBits w x < 2 ^ w :=
  Nat.lt_pow_two_of_testBit _ fun i above => by simp [testBit_reflectBits, Nat.not_lt.2 above]

theorem reflectBits_xor (w x y : Nat) : reflectBits w (x ^^^ y) = reflectBits w x ^^^ reflectBits w y := by
  refine Nat.eq_of_testBit_eq fun i => ?_
  simp only [testBit_reflectBits, Nat.testBit_xor]
  cases decide (i < w) <;> simp

theorem reflectBits_mod (w x : Nat) : reflectBits w (x % 2 ^ w) = reflectBits w x := by
  refine Nat.eq_of_testBit_eq fun i => ?_
  simp only [testBit_reflectBits, Nat.testBit_mod_two_pow]
  by_cases below : i < w
  · simp [below, show w - 1 - i < w by omega]
  · simp [below]

/-- Low bits that are reflected into the top of a wider register are found at its bottom, in their own order, once the
register is reflected. -/
theorem reflectBits_shifted (k : Nat) (h : x < 2 ^ w) : reflectBits (k + w) (reflectBits w x * 2 ^ k) = x := by
  refine Nat.eq_of_testBit_eq fun i => ?_
  rw [testBit_reflectBits, Nat.testBit_mul_two_pow, testBit_reflectBits]
  by_cases below : i < w
  · have inside : k ≤ k + w - 1 - i ∧ k + w - 1 - i - k < w ∧ w - 1 - (k + w - 1 - i - k) = i ∧ i < k + w := by omega
    obtain ⟨low, high, same, whole⟩ := inside
    simp [low, high, same, whole]
  · have zero : x.testBit i = false :=
      Nat.testBit_lt_two_pow (Nat.lt_of_lt_of_le h (Nat.pow_le_pow_right (by decide) (Nat.le_of_not_lt below)))
    have out : ¬ (i < k + w ∧ k ≤ k + w - 1 - i) := by omega
    rw [zero]
    by_cases whole : i < k + w
    · simp [whole, show ¬ k ≤ k + w - 1 - i by omega]
    · simp [whole]

/-! ### The division of R292 -/

/-- The register is multiplied by x, modulo the polynomial; bit 31 is the highest power. -/
def crcShift (r : Nat) : Nat := if r.testBit 31 then (2 * r % 2 ^ 32) ^^^ 0x1EDC6F41 else 2 * r

/-- The register after a byte, whose bits enter in reflected order at the top. -/
def crcByte (r : Nat) (b : Byte) : Nat := (crcShift^[8]) (r ^^^ (reflectBits 8 b.toNat * 2 ^ 24))

theorem reflectBits_double (w x : Nat) : reflectBits w (2 * x) = reflectBits w x / 2 := by
  refine Nat.eq_of_testBit_eq fun i => ?_
  rw [← Nat.testBit_succ, testBit_reflectBits, testBit_reflectBits, Nat.mul_comm, ← Nat.pow_one 2, Nat.testBit_mul_two_pow]
  by_cases inner : i + 1 < w
  · simp [inner, show i < w by omega, show 1 ≤ w - 1 - i by omega, show w - 1 - i - 1 = w - 1 - (i + 1) by omega]
  · simp [inner]
    omega

theorem crcBit_reflectBits (r : Nat) : crcBit 0x82F63B78 (reflectBits 32 r) = reflectBits 32 (crcShift r) := by
  have top : reflectBits 32 r % 2 = 1 ↔ r.testBit 31 = true := by
    have lowest := testBit_reflectBits 32 r 0
    rw [Nat.testBit_zero] at lowest
    simpa using congrArg (· = true) lowest
  have poly : reflectBits 32 0x1EDC6F41 = 0x82F63B78 := by decide
  unfold crcBit crcShift
  split
  · next carry =>
    rw [if_pos (top.1 carry), reflectBits_xor, reflectBits_mod, reflectBits_double, poly]
  · next noCarry =>
    rw [if_neg (fun h => noCarry (top.2 h)), reflectBits_double]

theorem crcBits_reflectBits (n r : Nat) : crcBits 0x82F63B78 n (reflectBits 32 r) = reflectBits 32 (crcShift^[n] r) := by
  induction n generalizing r with
  | zero => rfl
  | succ n ih => rw [crcBits, crcBit_reflectBits, ih, Function.iterate_succ_apply]

theorem crcBytes_reflectBits (l : List Byte) (r : Nat) :
    crcBytes 0x82F63B78 l (reflectBits 32 r) = reflectBits 32 (l.foldl crcByte r) := by
  induction l generalizing r with
  | nil => rfl
  | cons b l ih =>
    have entered : reflectBits 32 r ^^^ b.toNat = reflectBits 32 (r ^^^ (reflectBits 8 b.toNat * 2 ^ 24)) := by
      rw [reflectBits_xor, reflectBits_shifted 24 b.isLt]
    rw [crcBytes, List.foldl_cons, entered, crcBits_reflectBits, List.foldl_cons]
    exact ih (crcByte r b)

theorem crc32c_eq_reflectBits (l : List Byte) : crc32c l = reflectBits 32 (l.foldl crcByte 0xFFFFFFFF) ^^^ 0xFFFFFFFF := by
  have ones : reflectBits 32 0xFFFFFFFF = 0xFFFFFFFF := by decide
  rw [← crcBytes_reflectBits, ones, crc32c]

theorem crc32c_lt (l : List Byte) : crc32c l < 2 ^ 32 := by
  rw [crc32c_eq_reflectBits]
  exact Nat.xor_lt_two_pow (reflectBits_lt _ _) (by decide)

theorem crc32c_digits : crc32c [0x31, 0x32, 0x33, 0x34, 0x35, 0x36, 0x37, 0x38, 0x39] = 0xE3069283 := by decide +kernel

/-! ### Flits (R291, R292) -/

theorem padTo_length (n : Nat) (l : List Byte) : (padTo n l).length = max l.length n := by
  rw [padTo, List.length_append, List.length_replicate]
  omega

theorem padTo_full {l : List Byte} (h : l.length = n) : padTo n (l.take n) = l := by
  subst h
  simp [padTo]

theorem flitCovered_length (f : Flit) : (flitCovered f).length = 252 := by
  rw [flitCovered, List.length_append, leBytes_length, padTo_length, List.length_take]
  omega

theorem sealFlit_crc (f : Flit) : (sealFlit f).crc.toNat = crc32c (flitCovered f) :=
  (BitVec.toNat_ofNat _ _).trans (Nat.mod_eq_of_lt (crc32c_lt _))

/-- Settles O36: the model's division is the reflection of that of R292, for every list of bytes. -/
theorem flitCrc : Obligations.FlitCrc := by
  unfold Obligations.FlitCrc
  refine ⟨crc32c_eq_reflectBits, crc32c_digits, fun f => ⟨flitCovered_length f, sealFlit_crc f⟩, fun f whole => ?_⟩
  rw [flitCovered, padTo_full whole]

end Sys2Proof.Machine
end

section
/-! The states of a port (R289, R290, R304, R306, R312): what each event of training, of CHECK, of light and of beacons does,
case by case, then the statement. -/

namespace Sys2Proof.Machine

variable {m : Mem} {d : Dev} {n : PortId}

/-! ### Training (R288, R289) -/

section
variable (fabric : d.fabricOn = true) (training : d.portState n = 1)
include fabric training

/-- A port that trained with the lanes of a set goes to CHECK with that width and sends its words. -/
theorem trainDone_lanes {lanes : List (Fin 16)} {w : Nat} (set : laneSet (d.flag F.PL_CTL_HALF_ONLY n.val) lanes = some w) :
    trainDone m n lanes d = ((d.portEnter n 2).setFld F.PL_STATUS_WIDTH w n.val).send
      (.check n d.deviceId (d.fld F.FAB_CTL_MODE) (BitVec.ofNat 64 (d.shareDigest n))) := by
  simp [trainDone, fabric, training, set]

theorem trainDone_noSet {lanes : List (Fin 16)} (noSet : laneSet (d.flag F.PL_CTL_HALF_ONLY n.val) lanes = none) :
    trainDone m n lanes d = portDown m n 6 d := by
  simp [trainDone, fabric, training, noSet]

theorem trainTimeout_late (late : (d.port n).since + 20000000 ≤ d.now) : trainTimeout m n d = portDown m n 6 d :=
  if_pos (by simp [fabric, training, late])

end

/-! ### CHECK (R290, R304, R306) -/

/-- The device with what the partner of a port says of itself. -/
def Dev.metPartner (d : Dev) (n : PortId) (device port : Nat) : Dev :=
  ((d.setFld F.PL_PARTNER_DEVICE device n.val).setFld F.PL_PARTNER_PORT port n.val).setFld F.PL_PARTNER_VALID 1 n.val

/-- The partner is the one that the registers of a port expect. -/
def Dev.expects (d : Dev) (n : PortId) (device port : Nat) : Prop :=
  device = d.fld F.PL_EXPECT_DEVICE n.val ∧ port = d.fld F.PL_EXPECT_PORT n.val

/-- A port that is UP afresh, under the share registers. -/
def Dev.freshPort (d : Dev) (n : PortId) : Port :=
  { since := d.now, share := d.shareRegs n, sentAt := d.now, heardAt := d.now }

/-- A port enters UP with full credits, and the packets held for want of a port try again. -/
def Dev.enterUp (d : Dev) (m : Mem) (n : PortId) : Dev :=
  let u := (d.portEnter n 3).setFld F.PL_STATUS_SHARE_PENDING 0 n.val
  retryHeld m (u.setPort n { u.freshPort n with credits := (u.freshPort n).fullCredits })

section
variable {device port mode digest : Nat} (fabric : d.fabricOn = true)
include fabric

theorem checkExchange_up (up : d.portState n = 3) : checkExchange m n device port mode digest d = portDown m n 5 d :=
  if_pos (by simp [fabric, up])

theorem checkTimeout_late (checking : d.portState n = 2) (late : (d.port n).since + 1000000 ≤ d.now) :
    checkTimeout m n d = portDown m n ((Config.fresh d.draw.1).toNat % 16) d.draw.2 :=
  if_pos (by simp [fabric, checking, late])

variable (checking : d.portState n = 2)
include checking

/-- In CHECK the partner is recorded, then its digest, its mode and its identity are compared, in this order. -/
theorem checkExchange_check : checkExchange m n device port mode digest d =
    let e := d.metPartner n device port
    if digest ≠ e.shareDigest n then portDown m n 9 e
    else if mode ≠ e.fld F.FAB_CTL_MODE then portDown m n 8 e
    else if e.fld F.FAB_CTL_MODE = 0 ∧
        (device ≠ e.fld F.PL_EXPECT_DEVICE n.val ∨ port ≠ e.fld F.PL_EXPECT_PORT n.val) then
      portDown m n 7 e
    else e.enterUp m n :=
  (if_neg (by simp [checking])).trans (if_neg (by simp [fabric, checking]))

theorem checkExchange_otherShares (other : digest ≠ (d.metPartner n device port).shareDigest n) :
    checkExchange m n device port mode digest d = portDown m n 9 (d.metPartner n device port) :=
  (checkExchange_check fabric checking).trans (if_pos other)

variable (shares : digest = (d.metPartner n device port).shareDigest n)
include shares

theorem checkExchange_otherMode (other : mode ≠ (d.metPartner n device port).fld F.FAB_CTL_MODE) :
    checkExchange m n device port mode digest d = portDown m n 8 (d.metPartner n device port) :=
  (checkExchange_check fabric checking).trans ((if_neg (not_not.2 shares)).trans (if_pos other))

variable (sameMode : mode = (d.metPartner n device port).fld F.FAB_CTL_MODE)
include sameMode

theorem checkExchange_otherPartner (neighbourhood : (d.metPartner n device port).fld F.FAB_CTL_MODE = 0)
    (other : ¬ (d.metPartner n device port).expects n device port) :
    checkExchange m n device port mode digest d = portDown m n 7 (d.metPartner n device port) := by
  rw [checkExchange_check fabric checking]
  exact (if_neg (not_not.2 shares)).trans ((if_neg (not_not.2 sameMode)).trans (if_pos ⟨neighbourhood, not_and_or.1 other⟩))

theorem checkExchange_agrees (expected : (d.metPartner n device port).fld F.FAB_CTL_MODE = 0 →
    (d.metPartner n device port).expects n device port) :
    checkExchange m n device port mode digest d = (d.metPartner n device port).enterUp m n := by
  rw [checkExchange_check fabric checking]
  exact (if_neg (not_not.2 shares)).trans ((if_neg (not_not.2 sameMode)).trans
    (if_neg fun ⟨neighbourhood, other⟩ => not_and_or.2 other (expected neighbourhood)))

end

/-! ### DOWN, light and beacons (R289, R306) -/

section
variable (fabric : d.fabricOn = true)
include fabric

theorem downRetrain_late (down : d.portState n = 4) (enabled : d.flag F.PL_CTL_EN n.val = true)
    (late : (d.port n).since + 100000000 ≤ d.now) : downRetrain n d = d.portEnter n 1 :=
  if_pos (by simp [fabric, down, enabled, late])

theorem lightLoss_lit (lit : d.portState n ≠ 0) : lightLoss m n d =
    if d.portState n = 4 then d.modPort n fun x => { x with dark := true }
    else portDown m n 1 (d.modPort n fun x => { x with dark := true }) :=
  if_neg (by simp [fabric, lit])

theorem lightReturn_dark (down : d.portState n = 4) (enabled : d.flag F.PL_CTL_EN n.val = true)
    (dark : (d.port n).dark = true) : lightReturn n d = (d.modPort n fun x => { x with dark := false }).portEnter n 1 :=
  (if_pos (by simp [fabric, dark])).trans (if_pos ⟨down, enabled⟩)

theorem beaconTimeout_silent (up : d.portState n = 3) (silent : (d.port n).heardAt + 1000000 ≤ d.now) :
    beaconTimeout m n d = portDown m n 4 d :=
  if_pos (by simp [fabric, up, silent])

end

/-! ### The statement -/

/-- Settles O42: each row is the meaning of its case. The order of the three comparisons of CHECK, what its words do to a port
that is UP, and the free cause of its limit rest on log 30 of NOTES.md. -/
theorem portsTrain : Obligations.PortsTrain := by
  unfold Obligations.PortsTrain
  intro s n lanes device port mode digest d half e quiet fabric
  refine ⟨fun w training set => row_after rfl quiet (trainDone_lanes fabric training set),
    fun training noSet => row_after rfl quiet (trainDone_noSet fabric training noSet),
    fun training late => row_after rfl quiet (trainTimeout_late fabric training late),
    fun up => row_after rfl quiet (checkExchange_up fabric up),
    fun checking other => row_after rfl quiet (checkExchange_otherShares fabric checking other),
    fun checking shares other => row_after rfl quiet (checkExchange_otherMode fabric checking shares other),
    fun checking shares sameMode neighbourhood other => row_after rfl quiet
      (checkExchange_otherPartner fabric checking shares sameMode neighbourhood (not_and_or.2 other)),
    fun checking shares sameMode expected => row_after rfl quiet
      (checkExchange_agrees fabric checking shares sameMode expected),
    fun checking late => row_after rfl quiet (checkTimeout_late fabric checking late),
    fun down enabled late => row_becomes rfl quiet (downRetrain_late fabric down enabled late),
    fun lit notDown => row_after rfl quiet ((lightLoss_lit fabric lit).trans (if_neg notDown)),
    fun down => row_after rfl quiet ((lightLoss_lit fabric (by simp [down])).trans (if_pos down)),
    fun down enabled dark => row_becomes rfl quiet (lightReturn_dark fabric down enabled dark),
    fun up silent => row_after rfl quiet (beaconTimeout_silent fabric up silent)⟩

end Sys2Proof.Machine
end

section
/-! Flits and beacons of a port that is up (R287, R292 to R294, R305 to R307, R313 to R315): what a flit that arrives does by
its CRC and its FSEQ, what leaves in a slot, and what a beacon carries and does; each meaning case by case, then the
statement. -/

namespace Sys2Proof.Machine

variable {m : Mem} {d : Dev} {n : PortId} {f : Flit}

/-! ### A flit arrives (R292, R294) -/

/-- The CRC that a flit brings is that of its bytes. -/
def flitSound (f : Flit) : Bool := decide (f.crc.toNat = crc32c (flitCovered f))

theorem body_not_idle (body : f.fkind ≠ 0) : ¬ (flitSound f && decide (f.fkind = 0)) = true := by
  rw [decide_eq_false body, Bool.and_false]
  exact Bool.false_ne_true

section
variable (fabric : d.fabricOn = true) (up : d.portState n = 3)
include fabric up

/-- A sound flit that is idle, or that comes in its turn, is taken; any other is discarded while the port is still UP. -/
theorem flitReceive_up : flitReceive m n f d =
    if flitSound f && decide (f.fkind = 0) then d.takeControl n f
    else if flitSound f && decide (f.fseq.toNat = (d.port n).rxSeq) then (d.takeControl n f).takeBody n f
    else
      let e := if flitSound f then d else badFlit m n d
      if e.portState n = 3 then discardFlit m n f e else e :=
  if_neg (by simp [fabric, up])

theorem flitReceive_idle (sound : flitSound f = true) (idle : f.fkind = 0) : flitReceive m n f d = d.takeControl n f :=
  (flitReceive_up fabric up).trans (if_pos (by simp [sound, idle]))

theorem flitReceive_next (sound : flitSound f = true) (body : f.fkind ≠ 0) (next : f.fseq.toNat = (d.port n).rxSeq) :
    flitReceive m n f d = (d.takeControl n f).takeBody n f :=
  (flitReceive_up fabric up).trans ((if_neg (body_not_idle body)).trans (if_pos (by simp [sound, next])))

theorem flitReceive_outOfTurn (sound : flitSound f = true) (body : f.fkind ≠ 0) (other : f.fseq.toNat ≠ (d.port n).rxSeq) :
    flitReceive m n f d = discardFlit m n f d := by
  rw [flitReceive_up fabric up, if_neg (body_not_idle body), if_neg (by simp [other])]
  simp [sound, up]

theorem flitReceive_wrong (wrong : flitSound f = false) : flitReceive m n f d =
    if (badFlit m n d).portState n = 3 then discardFlit m n f (badFlit m n d) else badFlit m n d := by
  simp [flitReceive_up fabric up, wrong]

end

/-! ### A flit is discarded (R294) -/

/-- The discards of the expected FSEQ, with a flit that is discarded now. -/
def Port.discardsWith (x : Port) (f : Flit) : Nat := if f.fseq.toNat = x.rxSeq then x.discards + 1 else x.discards

/-- The device once a flit is discarded: NAK is asked for at the first discard of a loss, and whenever the expected FSEQ
fails again. -/
def Dev.discarded (d : Dev) (n : PortId) (f : Flit) : Dev :=
  d.modPort n fun x => { x with
    nak := x.nak || !x.losing || decide (f.fseq.toNat = (d.port n).rxSeq), losing := true
    discards := (d.port n).discardsWith f }

theorem discardFlit_counts : discardFlit m n f d =
    if 16 ≤ (d.port n).discardsWith f then portDown m n 3 (d.discarded n f) else d.discarded n f := by
  unfold discardFlit Dev.discarded Port.discardsWith
  by_cases mine : f.fseq.toNat = (d.port n).rxSeq
  · simp [mine]
  · simp [mine]

theorem Port.discardsWith_expected {x : Port} (mine : f.fseq.toNat = x.rxSeq) : x.discardsWith f = x.discards + 1 :=
  if_pos mine

theorem Port.discardsWith_other {x : Port} (other : f.fseq.toNat ≠ x.rxSeq) : x.discardsWith f = x.discards := if_neg other

theorem discardFlit_other (other : f.fseq.toNat ≠ (d.port n).rxSeq) (few : (d.port n).discards < 16) :
    discardFlit m n f d = d.discarded n f := by
  rw [discardFlit_counts, Port.discardsWith_other other, if_neg (Nat.not_le.2 few)]

section
variable (mine : f.fseq.toNat = (d.port n).rxSeq)
include mine

theorem discardFlit_expected (few : (d.port n).discards < 15) : discardFlit m n f d = d.discarded n f := by
  rw [discardFlit_counts, Port.discardsWith_expected mine, if_neg (by omega)]

theorem discardFlit_sixteenth (many : 15 ≤ (d.port n).discards) :
    discardFlit m n f d = portDown m n 3 (d.discarded n f) := by
  rw [discardFlit_counts, Port.discardsWith_expected mine, if_pos (by omega)]

end

/-! ### A wrong CRC (R287, R292, R306) -/

/-- The moments of the uncorrectable codewords of the last millisecond, with one of now. -/
def Dev.uncorrWith (d : Dev) (n : PortId) : List Nat :=
  d.now :: (d.port n).uncorr.filter fun t => decide (d.now < t + 1000000)

/-- The device with a wrong CRC counted. -/
def Dev.crcFailed (d : Dev) (n : PortId) : Dev := d.count F.PL_ERR_COUNT_CRC_FAIL 1 n.val

/-- The device with an uncorrectable codeword counted. -/
def Dev.fecFailed (d : Dev) (n : PortId) : Dev :=
  ((d.crcFailed n).draw.2.count F.PL_ERR_COUNT_FEC_UNCORR 1 n.val).modPort n fun x =>
    { x with uncorr := (d.crcFailed n).uncorrWith n }

theorem badFlit_correctable (correctable : (Config.fresh (d.crcFailed n).freeCtr).getLsbD 0 = false) :
    badFlit m n d = (d.crcFailed n).draw.2 :=
  if_neg (ne_true_of_eq_false correctable)

section
variable (uncorrectable : (Config.fresh (d.crcFailed n).freeCtr).getLsbD 0 = true)
include uncorrectable

theorem badFlit_uncorrectable : badFlit m n d =
    if 64 ≤ ((d.crcFailed n).uncorrWith n).length then portDown m n 2 (d.fecFailed n) else d.fecFailed n :=
  if_pos uncorrectable

theorem badFlit_few (few : ((d.crcFailed n).uncorrWith n).length < 64) : badFlit m n d = d.fecFailed n :=
  (badFlit_uncorrectable uncorrectable).trans (if_neg (Nat.not_le.2 few))

theorem badFlit_many (many : 64 ≤ ((d.crcFailed n).uncorrWith n).length) :
    badFlit m n d = portDown m n 2 (d.fecFailed n) :=
  (badFlit_uncorrectable uncorrectable).trans (if_pos many)

end

/-! ### A flit leaves (R293, R294, R307) -/

/-- A port once a slot has passed in which a flit of the system set left, or none. -/
def Port.afterSlot (x : Port) (sys : Bool) : Port :=
  { x with system := (sys :: x.system).take 255, slot := (x.slot + 1) % 8 }

/-- A flit of a packet, or one sent again, leaves in a slot. -/
def Dev.sendsFlit (d : Dev) (n : PortId) (x : Port) (sys : Bool) (f : Flit) : Dev :=
  ((d.setPort n (x.afterSlot sys)).send (.flit n f)).count F.PL_FLITS_TX_FLITS 1 n.val

/-- An idle flit leaves in a slot. -/
def Dev.sendsIdle (d : Dev) (n : PortId) : Dev :=
  (d.setPort n ((d.port n).paid.afterSlot false)).send (.flit n ((d.port n).stamp idleFlit 0))

/-- The next flit of a packet leaves in a slot, from a port as the arbiter left it. -/
def Dev.sendsOf (d : Dev) (n : PortId) (x : Port) (o : OutPacket) : Dev :=
  match o.flits with
  | [] => d.sendsIdle n
  | f :: _ => d.sendsFlit n (x.sendNew o f).1 (decide (o.set = 0)) (x.sendNew o f).2

/-- The port once the first flit to be sent again has left as g. -/
def Port.resent (x : Port) (f g : Flit) (r : List Flit) : Port :=
  { x with nak := false, resend := r, replay := x.replay.map fun h => if h.fseq = f.fseq then g else h }

/-- The packet of the system set that a slot may carry: within 4 flits of 256 slots. -/
def Port.systemNext (x : Port) : Option OutPacket :=
  if (x.system.filter fun b => b).length < 4 then x.ready 0 else none

section
variable (fabric : d.fabricOn = true) (up : d.portState n = 3)
include fabric up

theorem flitSend_again {r : List Flit} (asked : (d.port n).resend = f :: r) : flitSend n d =
    d.sendsFlit n ((d.port n).resent f ((d.port n).again f) r) (decide (f.vset = 0)) ((d.port n).again f) := by
  refine (if_neg (by simp [fabric, up])).trans ?_
  simp only [asked]
  rfl

variable (quiet : (d.port n).resend = []) (room : (d.port n).replay.length < 4096)
include quiet room

/-- With nothing to send again and room to keep a flit, the system set goes first, then the job set whose turn it is. -/
theorem flitSend_new : flitSend n d =
    match (d.port n).systemNext with
    | some o => d.sendsOf n (d.port n) o
    | none => match (if (d.port n).slot < d.fld F.PWR_LEVELS_LINK_LEVEL then (d.port n).nextSet else none) with
      | some (s, left) => match (d.port n).ready s with
        | some o => d.sendsOf n { d.port n with served := s, deficit := left } o
        | none => d.sendsIdle n
      | none => d.sendsIdle n := by
  refine (if_neg (by simp [fabric, up])).trans ?_
  simp only [quiet]
  exact if_neg (Nat.not_le.2 room)

theorem flitSend_system {o : OutPacket} {l : List Flit} (ready : (d.port n).ready 0 = some o)
    (within : ((d.port n).system.filter fun b => b).length < 4) (flits : o.flits = f :: l) :
    flitSend n d = d.sendsFlit n ((d.port n).sendNew o f).1 (decide (o.set = 0)) ((d.port n).sendNew o f).2 := by
  have system : (d.port n).systemNext = some o := (if_pos within).trans ready
  rw [flitSend_new fabric up quiet room, system]
  simp only [Dev.sendsOf, flits]

theorem flitSend_idle
    (noSystem : (d.port n).ready 0 = none ∨ 4 ≤ ((d.port n).system.filter fun b => b).length)
    (noJob : d.fld F.PWR_LEVELS_LINK_LEVEL ≤ (d.port n).slot ∨ (d.port n).nextSet = none) :
    flitSend n d = d.sendsIdle n := by
  have system : (d.port n).systemNext = none := by
    rcases noSystem with notReady | spent
    · exact ite_eq_right_iff.2 fun _ => notReady
    · exact if_neg (Nat.not_lt.2 spent)
  have job : (if (d.port n).slot < d.fld F.PWR_LEVELS_LINK_LEVEL then (d.port n).nextSet else none) = none := by
    rcases noJob with level | noSet
    · exact if_neg (Nat.not_lt.2 level)
    · exact ite_eq_right_iff.2 fun _ => noSet
  rw [flitSend_new fabric up quiet room, system, job]

end

/-! ### Beacons (R313 to R315) -/

/-- The port of a device when its beacon is the packet to send. -/
def Dev.beaconPort (d : Dev) (n : PortId) (o : OutPacket) : Port :=
  { d.port n with out := o :: (d.port n).out, sentAt := d.now, told := BitVec.ofNat 64 (d.shareDigest n) }

/-- The beacon of a port as the packet of one flit. -/
def Dev.beaconOut (d : Dev) (n : PortId) (f : Flit) : OutPacket :=
  { pkt := d.beaconPacket n, set := 0, vc := 0, flits := [f] }

/-- The offset of this device's time from the partner's, by the four stamps of a beacon. -/
def beaconOffset (b : Beacon) : Int :=
  (((b.t2.toNat : Int) - b.t1.toNat) - ((b.t4.toNat : Int) - b.t3.toNat)) / 2

/-- The delay of the link, by the four stamps of a beacon. -/
def beaconDelay (b : Beacon) : Int :=
  (((b.t2.toNat : Int) - b.t1.toNat) + ((b.t4.toNat : Int) - b.t3.toNat)) / 2

/-- The device that has heard a beacon, with its source of time chosen anew. -/
def Dev.heardBeacon (d : Dev) (n : PortId) (b : Beacon) : Dev :=
  (((d.modPort n fun x => { x with heardAt := d.now, hops := b.hops.toNat }).applyShare n b.pendingDigest).setFld
    F.PL_DELAY_DELAY ((beaconDelay b).toNat % 2 ^ 24) n.val).chooseTime

section
variable (fabric : d.fabricOn = true) (up : d.portState n = 3)
include fabric up

theorem beaconSend_due {l : List Flit} (due : (d.port n).sentAt + 100000 ≤ d.now) (slot : (d.port n).beaconSlot = true)
    (flits : packetFlits (d.beaconPacket n) 0 0 = f :: l) : beaconSend n d =
    let z := (d.beaconPort n (d.beaconOut n f)).sendNew (d.beaconOut n f) f
    d.sendsFlit n z.1 true z.2 := by
  refine (if_pos (by simp [fabric, up, due, slot])).trans ?_
  simp only [flits]
  rfl

theorem beaconReceive_up {b : Beacon} : beaconReceive n b d =
    if (d.heardBeacon n b).timePort = some n ∧ (!(d.heardBeacon n b).flag F.FAB_TIME_SYNC_ROOT) = true then
      ((d.heardBeacon n b).setFld F.FAB_TIME_SYNC_OFFSET (offset32 (beaconOffset b))).correctTime (-beaconOffset b)
    else d.heardBeacon n b :=
  if_neg (by simp [fabric, up])

theorem beaconReceive_source {b : Beacon} (source : (d.heardBeacon n b).timePort = some n)
    (notRoot : (d.heardBeacon n b).flag F.FAB_TIME_SYNC_ROOT = false) : beaconReceive n b d =
    ((d.heardBeacon n b).setFld F.FAB_TIME_SYNC_OFFSET (offset32 (beaconOffset b))).correctTime (-beaconOffset b) :=
  (beaconReceive_up fabric up).trans (if_pos ⟨source, by simp [notRoot]⟩)

theorem beaconReceive_noSource {b : Beacon}
    (noSource : (d.heardBeacon n b).timePort ≠ some n ∨ (d.heardBeacon n b).flag F.FAB_TIME_SYNC_ROOT = true) :
    beaconReceive n b d = d.heardBeacon n b := by
  refine (beaconReceive_up fabric up).trans (if_neg ?_)
  rintro ⟨source, notRoot⟩
  rcases noSource with other | root
  · exact other source
  · simp [root] at notRoot

end

/-! ### The statement -/

/-- Settles O43: each row is the meaning of its case. The free bit of a wrong codeword, the moments of NAK and the places of a
beacon's fields rest on log 30 of NOTES.md. -/
theorem flitsCrossLinks : Obligations.FlitsCrossLinks := by
  unfold Obligations.FlitsCrossLinks
  refine ⟨?flits, ?beacons⟩
  case flits =>
    intro s n f r d x good e y mine nak c l u quiet fabric up
    have isSound : good → flitSound f = true := decide_eq_true
    have isWrong : ¬ good → flitSound f = false := decide_eq_false
    have discards : ¬ good ∨ (f.fkind ≠ 0 ∧ f.fseq.toNat ≠ x.rxSeq) → e.portState n = 3 →
        flitReceive s.mem n f d = discardFlit s.mem n f e := by
      intro refused stillUp
      by_cases sound : good
      · obtain ⟨body, other⟩ := refused.resolve_left (not_not.2 sound)
        simp only [e, if_pos sound]
        exact flitReceive_outOfTurn fabric up (isSound sound) body other
      · simp only [e, if_neg sound] at stillUp ⊢
        exact (flitReceive_wrong fabric up (isWrong sound)).trans (if_pos stillUp)
    refine ⟨fun sound idle => row_after rfl quiet (flitReceive_idle fabric up (isSound sound) idle),
      fun sound body next => row_after rfl quiet (flitReceive_next fabric up (isSound sound) body next),
      fun refused stillUp => ⟨?other, ?expected, ?sixteenth⟩, ?down, badFlit_correctable, badFlit_few, badFlit_many,
      fun asked => row_becomes rfl quiet (flitSend_again fabric up asked),
      fun settled room noSystem noJob => row_becomes rfl quiet (flitSend_idle fabric up settled room noSystem noJob),
      fun o g l settled room ready within flits => row_becomes rfl quiet
        (flitSend_system fabric up settled room ready within flits)⟩
    case other => exact fun other few => row_after rfl quiet ((discards refused stillUp).trans (discardFlit_other other few))
    case expected => exact fun own few => row_after rfl quiet ((discards refused stillUp).trans (discardFlit_expected own few))
    case sixteenth =>
      exact fun own many => row_after rfl quiet ((discards refused stillUp).trans (discardFlit_sixteenth own many))
    case down =>
      intro wrong wentDown
      simp only [e, if_neg wrong] at wentDown ⊢
      exact row_after rfl quiet ((flitReceive_wrong fabric up (isWrong wrong)).trans (if_neg wentDown))
  case beacons =>
    intro s n b d i off delay e quiet fabric up
    exact ⟨fun f l due slot flits => row_becomes rfl quiet (beaconSend_due fabric up due slot flits), rfl,
      fun source notRoot => row_becomes rfl quiet (beaconReceive_source fabric up source notRoot),
      fun noSource => row_becomes rfl quiet (beaconReceive_noSource fabric up noSource)⟩

end Sys2Proof.Machine
end

section
/-! Packets that go on (R297, R301 to R303, R309, R311): where a packet goes by its route, how one leaves the device's own
queue and how one in transit goes on, then the statement. -/

namespace Sys2Proof.Machine

variable {m : Mem} {d : Dev} {n : PortId} {p : Packet} {vc since : Nat} {arrival : Option PortId}

/-! ### By the route (R300 to R302, R309, R311) -/

theorem Dev.route_here (here : p.dst.toNat = d.deviceId) : d.route p vc = .here := if_pos here

theorem dispatchPacket_here (here : p.dst.toNat = d.deviceId) :
    dispatchPacket m p vc since d arrival = { d with inbox := d.inbox ++ [(arrival, p)] } := by
  rw [dispatchPacket, Dev.route_here here]

theorem dispatchPacket_noRoute (route : d.route p vc = .noRoute) :
    dispatchPacket m p vc since d arrival = (d.count F.FAB_DROPS_NO_ROUTE 1).errorNotice p false := by
  rw [dispatchPacket, route]

theorem dispatchPacket_hold (route : d.route p vc = .hold) : dispatchPacket m p vc since d arrival =
    { d with held := d.held ++ [({ pkt := p, vc := vc, since := since } : HeldPacket)] } := by
  rw [dispatchPacket, route]

section
variable {v : Nat} (route : d.route p vc = .out n v)
include route

theorem dispatchPacket_out {k : Nat} (set : (d.port n).setOf p = some k) : dispatchPacket m p vc since d arrival =
    d.modPort n fun x => { x with
      out := x.out ++ [({ pkt := p, set := k, vc := v, flits := packetFlits p k v, came := vc } : OutPacket)] } := by
  simp only [dispatchPacket, route, set]

/-- A packet of a job without a share of the port is dropped, and the fabric source of the port's die is raised. -/
theorem dispatchPacket_noShare (set : (d.port n).setOf p = none) : dispatchPacket m p vc since d arrival =
    raiseOwn m (2816 + 16 * (n.val / 4) + 4) none none ((d.count F.FAB_DROPS_NO_SHARE 1).errorNotice p false) := by
  simp only [dispatchPacket, route, set]

end

/-! ### Control packets (R297) -/

/-- Without a control packet in the inbox nothing takes effect. -/
theorem takeControls_none (noControl : ∀ q ∈ d.inbox, q.2.pkind ≠ 4) : takeControls m d = d := by
  have noneActs : (d.inbox.filter fun e => decide (e.2.pkind = 4)) = [] :=
    List.filter_eq_nil_iff.2 fun q mem => by simpa using noControl q mem
  have allStay : (d.inbox.filter fun e => decide (e.2.pkind ≠ 4)) = d.inbox :=
    List.filter_eq_self.2 fun q mem => decide_eq_true (noControl q mem)
  rw [takeControls, noneActs, allStay, List.foldl_nil]

/-! ### Leaving the device's own queue, and transit (R302, R303, R305) -/

/-- The device with a packet out of the queue of those that it originates. -/
def Dev.outOfEgress (d : Dev) (p : Packet) : Dev := { d with egress := d.egress.erase p }

/-- Leaving a buffer does not change the device's number. -/
theorem Dev.deviceId_leaveTransit : (d.leaveTransit n p).deviceId = d.deviceId := by
  unfold Dev.leaveTransit Dev.owe
  dsimp only
  split <;> rfl

section
variable (fabric : d.fabricOn = true)
include fabric

theorem packetForward_own (queued : p ∈ d.egress) : packetForward m none p d =
    takeControls m (dispatchPacket m p 0 d.now (d.outOfEgress p)) :=
  (if_neg (by simp [fabric])).trans (if_pos (by simpa using queued))

theorem packetForward_arrived : packetForward m (some n) p d =
    let u := d.leaveTransit n p
    let e := if p.dst.toNat = u.deviceId then u else u.count F.FAB_TRANSIT_FLITS_FLITS (packetFlits p 0 0).length
    takeControls m (dispatchPacket m p (d.transitKey n p % 2) e.now e (some n)) :=
  if_neg (by simp [fabric])

theorem packetForward_arrived_here (here : p.dst.toNat = d.deviceId) : packetForward m (some n) p d =
    takeControls m { d.leaveTransit n p with inbox := (d.leaveTransit n p).inbox ++ [(some n, p)] } := by
  have stays : p.dst.toNat = (d.leaveTransit n p).deviceId := by rw [Dev.deviceId_leaveTransit, here]
  rw [packetForward_arrived fabric]
  simp only [if_pos stays, dispatchPacket_here stays]

theorem packetForward_transit (other : p.dst.toNat ≠ d.deviceId) : packetForward m (some n) p d =
    let u := (d.leaveTransit n p).count F.FAB_TRANSIT_FLITS_FLITS (packetFlits p 0 0).length
    takeControls m (dispatchPacket m p (d.transitKey n p % 2) u.now u (some n)) := by
  have goesOn : p.dst.toNat ≠ (d.leaveTransit n p).deviceId := by rwa [Dev.deviceId_leaveTransit]
  rw [packetForward_arrived fabric]
  simp only [if_neg goesOn]

end

/-! ### The statement -/

/-- Settles O44: a packet of the device's own goes by its route, one in transit by the same dispatch once it has left its
buffer. -/
theorem packetsGoOn : Obligations.PacketsGoOn := by
  unfold Obligations.PacketsGoOn
  intro s n p d e old goes quiet
  have own : d.fabricOn = true → p ∈ d.egress → ∀ {u},
      dispatchPacket s.mem p 0 d.now (d.outOfEgress p) = u → goes u :=
    fun fabric queued _ dispatched =>
      row_after rfl quiet ((packetForward_own fabric queued).trans (congrArg (takeControls s.mem) dispatched))
  exact ⟨fun fabric queued here => own fabric queued (dispatchPacket_here here),
    fun fabric queued route => own fabric queued (dispatchPacket_noRoute route),
    fun fabric queued route => own fabric queued (dispatchPacket_hold route),
    fun v k fabric queued route set => own fabric queued (dispatchPacket_out (d := e) route set),
    fun v fabric queued route set => own fabric queued (dispatchPacket_noShare (d := e) route set),
    fun fabric here => row_after rfl quiet (packetForward_arrived_here fabric here),
    fun fabric other => row_after rfl quiet (packetForward_transit fabric other),
    fun _ _ noControl => takeControls_none noControl,
    row_becomes rfl quiet rfl⟩

end Sys2Proof.Machine
end

section
/-! Calls of collectives (R331, R336, R337): a call is refused by its checks or lays out its schedule, whatever its
operation. -/

namespace Sys2Proof.Machine

variable {d : Dev} {c : CoreId} {k : SlotId} {y : Ctx} {key op : Nat}

/-- The registers name an operation only where a7 holds the number of a call. -/
theorem Ctx.a7_of_callOp (calls : y.callOp = some op) : (y.x 17).toNat = 0x4B43 := by
  unfold Ctx.callOp at calls
  by_contra other
  rw [if_pos (.inl other)] at calls
  exact absurd calls nofun

theorem callCollective_calls (holds : (d.core c).slotKey k = some key) (resident : d.ctx? key = some y)
    (picked : d.hartPick c = some k) (free : y.wait = none) (calls : y.callOp = some op) :
    callCollective op c k d = (d.hartServed c k).setCtx key (collectiveCall (d.hartServed c k) c k y) := by
  have reaches : callCollective op c k d = issueTensor c k (fun _ => .ecall) d := by
    unfold callCollective
    rw [Dev.slotCtx_of_key holds, resident]
    exact if_pos calls
  rw [reaches, issueTensor_picked holds resident picked free]
  exact if_pos (Ctx.a7_of_callOp calls)

theorem collectiveCall_refused {n : Nat} (fails : checkCall d c k y (y.x 10).toNat = .error n) :
    collectiveCall d c k y = (y.setX 10 (BitVec.ofNat 64 n)).adv 4 := by
  unfold collectiveCall
  rw [fails]

theorem collectiveCall_accepted {q : Coll} (passes : checkCall d c k y (y.x 10).toNat = .ok q) :
    collectiveCall d c k y = y.beginCall q := by
  unfold collectiveCall
  rw [passes]

/-- Settles O11: the seven rows are one call under their own operation, which the checks refuse or let begin. The order in
which the checks are made rests on log 14 of NOTES.md. -/
theorem collectivesCall : Obligations.CollectivesCall := by
  unfold Obligations.CollectivesCall
  intro s c k key y op i d e quiet holds resident picked free command calls
  have row : exec i s = .next (s.run fun m d => afterCore m c false (callCollective op c k d)) := by
    generalize named : (op, i) = row at command
    fin_cases command
    all_goals
      cases named
      rfl
  have goes {z : Ctx} (outcome : collectiveCall e c k y = z) : AfterOn i s c (e.setCtx key z) :=
    row_afterOn row quiet ((callCollective_calls holds resident picked free calls).trans
      (congrArg (Dev.setCtx (d.hartServed c k) key) outcome))
  exact ⟨fun n fails => goes (collectiveCall_refused fails), fun q passes => goes (collectiveCall_accepted passes)⟩

end Sys2Proof.Machine
end

section
/-! The commands of the RING page (R347, R348): what each starts once its checks have passed, what keeps a FREE waiting, and
how their rows end. -/

namespace Sys2Proof.Machine

variable {m : Mem} {d e : Dev} {c : CoreId}

/-! ### What a command starts (R347) -/

section
variable {h : PageCmd}

theorem ringStart_allocate (op : h.op = 1) (unused : d.rf h.a RF.kind = 0)
    (sound : contextOk (RF.error.put 0 h.context) = true)
    (active : d.fld F.PART_STATUS_STATE (RF.owner.get (RF.error.put 0 h.context)) = 1)
    (buffer : d.contextBuffer (RF.error.put 0 h.context) = true) (noPair : RF.kind.get (RF.error.put 0 h.context) ≠ 3) :
    ringStart m h d = (d.newRing h.a (RF.error.put 0 h.context), some 0) := by
  simp [ringStart, ringAllocate, op, unused, sound, active, buffer, noPair]

/-- FREE of a ring that no message uses: that of a DCP ring would close a session as well. -/
theorem ringStart_free (op : h.op = 2) (used : d.rf h.a RF.kind ≠ 0) (idle : d.ringBusy h.a = false)
    (notDcp : d.rf h.a RF.kind ≠ 4) : ringStart m h d = (d.dropRing h.a, some 0) := by
  simp [ringStart, ringFreeStep, Dev.freeRing, op, used, idle, notDcp]

theorem ringStart_free_waits (op : h.op = 2) (used : d.rf h.a RF.kind ≠ 0) (busy : d.ringBusy h.a = true) :
    ringStart m h d = (d, none) := by
  simp [ringStart, ringFreeStep, op, used, busy]

theorem ringContinue_free_waits (op : h.op = 2) (busy : d.ringBusy h.a = true) : ringContinue h d = (d, none) := by
  simp [ringContinue, ringFreeStep, op, busy]

theorem ringStart_reset (op : h.op = 3) (kind : d.rf h.a RF.kind = 1 ∨ d.rf h.a RF.kind = 2) :
    ringStart m h d = (ringClear m h.a d, some 0) := by
  have resets : ¬ (d.rf h.a RF.kind ≠ 1 ∧ d.rf h.a RF.kind ≠ 2) := by omega
  simp only [ringStart, ringReset, op, if_neg resets]

theorem ringStart_retarget (op : h.op = 4)
    (kind : d.rf h.a RF.kind = 2 ∨ (d.rf h.a RF.kind = 1 ∧ d.rf h.a RF.remote = 1))
    (still : d.fld F.PART_STATUS_STATE (partOf (d.rf h.a RF.owner)).val = 3 ∨
      d.quiescedFor m (partOf (d.rf h.a RF.owner)) = true) : ringStart m h d =
    (((d.setRf h.a RF.peerDevice (RF.peerDevice.get h.context)).setRf h.a RF.peerRing
      (RF.peerRing.get h.context)).clearFlows (d.rf h.a RF.job), some 0) := by
  have points : ¬ (d.rf h.a RF.kind ≠ 2 ∧ ¬ (d.rf h.a RF.kind = 1 ∧ d.rf h.a RF.remote = 1)) := by tauto
  have quiesced : ¬ (d.fld F.PART_STATUS_STATE (partOf (d.rf h.a RF.owner)).val ≠ 3 ∧
      (!d.quiescedFor m (partOf (d.rf h.a RF.owner))) = true) := by
    rintro ⟨running, awake⟩
    obtain held | quiesced := still
    · exact running held
    · simp [quiesced] at awake
  simp only [ringStart, ringRetarget, op, if_neg points, if_neg quiesced]

end

/-! ### A mover command keeps its ring busy (R347) -/

/-- A mover of a core holds an MSEND or an MRECV of the ring. -/
def Core.movesRing (x : Core) (r : Nat) : Bool :=
  x.mover.any fun y => decide (y.cmd.f CF.op = 0x45 ∨ y.cmd.f CF.op = 0x46) && decide (y.cmd.f MF.ring = r)

theorem mem_allCores (c : CoreId) : c ∈ allCores :=
  List.mem_map.2 ⟨c.val, List.mem_range.2 c.isLt, Fin.ext (Nat.mod_eq_of_lt c.isLt)⟩

theorem ringBusy_of_movesRing {r : Nat} (moves : (d.core c).movesRing r = true) : d.ringBusy r = true := by
  have onSomeCore : (allCores.any fun c => (d.core c).movesRing r) = true := List.any_eq_true.2 ⟨c, mem_allCores c, moves⟩
  unfold Core.movesRing at onSomeCore
  unfold Dev.ringBusy
  rw [onSomeCore]
  rfl

/-- Bookkeeping takes nothing out of a mover. -/
theorem Settled.movesRing (settled : Settled d e) (c : CoreId) (r : Nat) :
    (e.core c).movesRing r = (d.core c).movesRing r :=
  (congrArg (Core.movesRing · r) (settled.core c) : (e.core c).calm.movesRing r = (d.core c).calm.movesRing r)

/-! ### RING_FREE_TIMEOUT (R347) -/

section
variable {h : PageCmd} {t : Nat}

theorem ringFreeTimeout_due (op : h.op = 2) (busy : d.ringBusy h.a = true) (due : t + 10000000 ≤ d.now) :
    ringFreeTimeout (h.started t) d = some 6 :=
  if_pos ⟨op, due, busy⟩

theorem ringFreeTimeout_early (early : d.now < t + 10000000) : ringFreeTimeout (h.started t) d = none :=
  if_neg fun ⟨_, due, _⟩ => Nat.not_lt.2 due early

end

/-! ### The rows -/

@[simp] theorem desk_clearFlows (d : Dev) (j : Nat) : (d.clearFlows j).desk = d.desk := (rfl)

theorem ring_page (d : Dev) (w : Path) (op : Nat) (r : RingId) (t : Nat) :
    ((ringCmd d w op r).started t).page / 256 = 0x12 := by
  show 0x1200 / 256 = 0x12
  decide

section
variable {i : Instr} {s : State} {w : Path} {r : RingId} {op : Nat} (takes : s.Takes i)
  (writes : writeOf i s.dev = some (w, page 0x12 0 0x100, op + 8 * r.toNat)) (code : op < 8)
include takes writes code

theorem row_ringEnds {n : Nat}
    (starts : ringStart s.mem ((ringCmd s.dev w op r).started s.dev.now) (s.dev.begun (ringCmd s.dev w op r)) = (e, some n))
    (keeps : e.desk = (s.dev.begun (ringCmd s.dev w op r)).desk) : Does i s (e.ended (ringCmd s.dev w op r) n) :=
  row_ended takes writes (ring_command _ w op r code) rfl rfl ((startCmd_ring _ _ (ring_page _ w op r _)).trans starts) keeps

end

/-- FREE of a ring that a mover command uses stays BUSY: the bookkeeping leaves the command in its mover. -/
theorem row_ringFree_runs {s : State} {w : Path} {r : RingId} (takes : s.Takes (.ringFree w r))
    (used : s.dev.rf r.toNat RF.kind ≠ 0) (moves : (s.dev.core c).movesRing r.toNat = true) :
    Does (.ringFree w r) s (s.dev.begun (ringCmd s.dev w 2 r)) := by
  have starts : startCmd s.mem ((ringCmd s.dev w 2 r).started s.dev.now) (s.dev.begun (ringCmd s.dev w 2 r)) =
      (s.dev.begun (ringCmd s.dev w 2 r), none) :=
    (startCmd_ring _ _ (ring_page _ w 2 r _)).trans
      (ringStart_free_waits rfl used (ringBusy_of_movesRing (d := s.dev.begun (ringCmd s.dev w 2 r)) moves))
  refine row_running takes rfl (ring_command _ w 2 r (by decide)) rfl starts rfl fun f settled => ?_
  have movesStill : (f.core c).movesRing r.toNat = true := (settled.movesRing c r.toNat).trans moves
  exact (continueCmd_ring _ _ (ring_page _ w 2 r _)).trans (ringContinue_free_waits rfl (ringBusy_of_movesRing movesStill))

/-- Settles O26: each command starts on the begun device and ends, or stays BUSY until its event. That RETARGET clears the
flows of the ring's job rests on log 31 of NOTES.md. -/
theorem ringCommandsEnd : Obligations.RingCommandsEnd := by
  unfold Obligations.RingCommandsEnd
  refine ⟨fun s w r => ⟨?allocate, ?free, fun k takes used moves => row_ringFree_runs takes used moves, ?reset,
    ?retarget⟩, fun s c t => ?timeout⟩
  case allocate =>
    intro takes unused sound active buffer noPair
    exact row_ringEnds takes rfl (by decide) (ringStart_allocate rfl unused sound active
      ((Dev.begun_contextBuffer _ _ _).trans buffer) noPair) (desk_newRing _ _ _)
  case free =>
    exact fun takes used idle notDcp =>
      row_ringEnds takes rfl (by decide) (ringStart_free rfl used idle notDcp) (desk_dropRing _ _)
  case reset =>
    exact fun takes kind => row_ringEnds takes rfl (by decide) (ringStart_reset rfl kind) (desk_ringClear _ _ _)
  case retarget =>
    exact fun takes kind still => row_ringEnds takes rfl (by decide)
      (ringStart_retarget rfl kind (still.imp id ((Dev.begun_quiescedFor _ _ _ _).trans ·)))
      (by rw [desk_clearFlows, desk_setRf, desk_setRf])
  case timeout =>
    intro d quiet runs onPage isOpen op busy
    refine ⟨fun due => ?_, fun early => ?_⟩
    · refine does_settled rfl quiet ?_ (Settled.afterAll s.mem (Dev.ended_pageCmds _ _ _))
      rw [← onPage]
      exact eventEnds_ends runs (by rw [ringFreeTimeout_due op busy due]) rfl isOpen
    · refine row_after rfl quiet ?_
      rw [← onPage]
      exact eventEnds_runs runs (by rw [ringFreeTimeout_early early])

end Sys2Proof.Machine
end

section
/-! The room of a ring, and what a send claims of it as it enters the mover (R323). -/

namespace Sys2Proof.Machine

variable {d e : Dev} {c : CoreId} {k : SlotId}

/-! ### Room (R323) -/

/-- What a ring holds is the difference of its counters modulo 2^32, as an integer. -/
theorem Dev.ringFill_eq (d : Dev) (r : Nat) :
    (d.ringFill r : Int) = ((d.rf r RF.produced : Int) - d.rf r RF.consumed) % 2 ^ 32 := by
  have consumed : d.rf r RF.consumed < 2 ^ 32 := bits_lt _ _ _
  unfold Dev.ringFill
  omega

/-- A ring has room where it holds fewer messages than it has slots. -/
theorem Dev.ringRoom_iff {r n : Nat}
    (slots : (if d.rf r RF.kind = 2 then d.rf r RF.peerSlotsLog else d.rf r RF.slotsLog) = n) :
    d.ringRoom r = true ↔ ((d.rf r RF.produced : Int) - d.rf r RF.consumed) % 2 ^ 32 < 2 ^ n := by
  rw [← Dev.ringFill_eq, Dev.ringRoom, slots, decide_eq_true_iff]
  norm_cast

/-! ### What enters a mover (R323) -/

section
variable {p : PartId} {o : MOp} {cmd : Cmd} {count image n : Nat} {doomed : Bool}

/-- The record of a command that enters a mover. -/
def Dev.moverEntry (d : Dev) (c : CoreId) (k : SlotId) (p : PartId) (o : MOp) (cmd : Cmd) (count n : Nat) (doomed : Bool) :
    MovExec :=
  { slot := k, cmd := cmd, slotNo := n, turn := d.turnOf p, doomed := doomed, due := d.cycle c + o.cycles cmd count }

theorem Core.mover_groupIssued (z : Core) (k : SlotId) (o : MOp) (cmd : Cmd) (image : Nat) :
    (z.groupIssued k o cmd image).mover = z.mover := by
  cases o <;> rfl

theorem moverEntry_mem : d.moverEntry c k p o cmd count n doomed ∈
    ((d.enterMover c k p o cmd count image n doomed).core c).mover := by
  unfold Dev.enterMover
  rw [core_modCore, if_pos rfl, Core.mover_groupIssued]
  exact List.mem_append_right _ (List.mem_singleton.2 rfl)

theorem rings_modSlot (d : Dev) (c : CoreId) (k : SlotId) (f : Ctx → Ctx) : (d.modSlot c k f).rings = d.rings := by
  unfold Dev.modSlot Dev.modCtx
  split
  · split <;> rfl
  · rfl

theorem rings_startTimer (d : Dev) (c : CoreId) (u : Nat) (busy : Bool) : (d.startTimer c u busy).rings = d.rings := by
  unfold Dev.startTimer
  split <;> rfl

/-- Entering a mover touches no ring. -/
theorem rings_enterMover : (d.enterMover c k p o cmd count image n doomed).rings = d.rings :=
  (rings_modSlot _ _ _ _).trans (rings_startTimer _ _ _ _)

theorem rf_congr_rings (same : e.rings = d.rings) (r : Nat) (f : Bf) : e.rf r f = d.rf r f := by
  unfold Dev.rf Dev.ring
  rw [same]

end

/-- The device with the number PRODUCED of a ring claimed by a send that enters the mover. -/
def Dev.sendClaimed (d : Dev) (c : CoreId) (k : SlotId) (p : PartId) (cmd : Cmd) : Dev :=
  let r := cmd.f MF.ring
  (d.setRf r RF.produced (d.rf r RF.produced + 1)).enterMover c k p .send cmd 0 0 (d.rf r RF.produced) false

section
variable {p : PartId} {cmd : Cmd}

theorem produced_sendClaimed : (d.sendClaimed c k p cmd).rf (cmd.f MF.ring) RF.produced =
    (d.rf (cmd.f MF.ring) RF.produced + 1) % 2 ^ 32 :=
  (rf_congr_rings rings_enterMover _ _).trans (Dev.rf_setRf_self _ _ RF.produced _ (by decide))

/-- A slot's address depends on fields of its ring that no claim touches. -/
theorem slotAddr_sendClaimed (n : Nat) :
    (d.sendClaimed c k p cmd).slotAddr (cmd.f MF.ring) n = d.slotAddr (cmd.f MF.ring) n := by
  have kept {f : Bf} (low : f.lo + f.width ≤ 192) :
      (d.sendClaimed c k p cmd).rf (cmd.f MF.ring) f = d.rf (cmd.f MF.ring) f :=
    (rf_congr_rings rings_enterMover _ _).trans (Dev.rf_setRf_low _ _ _ f RF.produced _ low (by decide))
  unfold Dev.slotAddr
  rw [kept (by decide), kept (by decide), kept (by decide)]

end

/-- Settles O37: the room is the difference of the counters, and the accepted send is the head that enters its mover with
the number that it claims. -/
theorem ringsHaveRoom : Obligations.RingsHaveRoom := by
  unfold Obligations.RingsHaveRoom
  refine ⟨fun d r message => Dev.ringRoom_iff (by simp [message]), fun d r send => Dev.ringRoom_iff (by simp [send]), ?_⟩
  intro s c k y cmd d r quiet turn head op reserved accept sound whole
  have issues : moverIssue .send s.mem c k d = d.sendClaimed c k y.part cmd := by
    rw [moverIssue_turn turn head op reserved, accept]
    exact issueMover_send whole sound
  exact ⟨d.sendClaimed c k y.part cmd, _, row_afterOn rfl quiet issues, moverEntry_mem, rfl, rfl, rfl, rfl,
    produced_sendClaimed, fun _ => slotAddr_sendClaimed _⟩

end Sys2Proof.Machine
end

section
/-! Steps and register writes as a whole: what a step does with its queue, the state after reset, that every command
completes, and what a row that stands for a register write does (R8, R474, R475, R482, R483, R498). -/

namespace Sys2Proof.Machine

variable {m : Mem} {d : Dev}

/-! ### Idle steps (R474, R498) -/

theorem step_idle {s : State} (idle : s.pending = []) : step s = .next (s.run tick) := by
  unfold step
  rw [idle]

theorem tick_unpowered (off : d.power.auxOn = false) : tick m d = d := by simp [tick, off]

/-- While the main rails are off nothing passes but the nanosecond. -/
theorem tick_asleep (on : d.power.auxOn = true) (asleep : d.power.phase = .asleep) (steady : d.power.slewLeft = 0) :
    tick m d = d.setPower { d.power with raw := d.power.raw + 1 } := by
  have time : tickTime d.power = { d.power with raw := d.power.raw + 1 } := if_pos steady
  simp only [tick, on, asleep, time, if_true]
  rfl

/-- Running a change that stores nothing leaves memory and the queue alone. -/
theorem State.run_of_no_stores {s : State} {f : Mem → Dev → Dev} {e : Dev} (quiet : s.dev.stores = [])
    (effect : f s.mem s.dev = e) (noStores : e.stores = []) : s.run f = { s with dev := e } := by
  rw [State.run_quiet quiet, effect, heal_none noStores, noStores]
  rfl

/-- Settles O1: the queue's head selects exec. -/
theorem stepRunsFront : Obligations.StepRunsFront := by
  unfold Obligations.StepRunsFront
  intro s c r front
  unfold step
  rw [front]

/-- Settles O2: the tick of an idle step, without auxiliary power and with the main rails off. That an idle step lets 1 ns
pass rests on log 9 of NOTES.md. -/
theorem idleStepTicks : Obligations.IdleStepTicks := by
  unfold Obligations.IdleStepTicks
  intro s idle quiet
  rw [step_idle idle]
  refine ⟨fun off => ?_, fun on asleep steady => ?_⟩
  · rw [State.run_id quiet (tick_unpowered off)]
  · rw [State.run_of_no_stores quiet (tick_asleep on asleep steady) quiet]

/-- Settles O3: memory is empty after reset, and so are the stores and the queue. -/
theorem resetMeetsInv : Obligations.ResetMeetsInv := by
  unfold Obligations.ResetMeetsInv
  have memory : memWf State.reset.mem = true := (memWf_iff _).2 ⟨rfl, fun c mem => absurd mem List.not_mem_nil⟩
  exact ⟨⟨memory, rfl⟩, rfl⟩

/-- Settles O5: exec runs a change of the device, whose stores are then applied. That a row whose cause the state does not
give answers a next state as well rests on log 46 of NOTES.md. -/
theorem commandsComplete : Obligations.CommandsComplete := by
  unfold Obligations.CommandsComplete
  intro i s
  obtain ⟨f, runs⟩ := exec_runs i s
  exact ⟨s.run f, runs, s.run_pending f, s.run_stores f, s.run_wf f⟩

/-! ### Rows that stand for register writes (R475, R482) -/

section
variable {w : Path} {a v : Nat}

/-- A write that the device takes has its effect, the journal its entry, and the bookkeeping follows (R462). -/
theorem doWrite_ok (ok : d.writeAns w a v = .ok) :
    doWrite m w a v d = afterAll m (journalWrite m w a v (d.readWord w a) ((writeEffect m w a v d).readWord w a)
      (writeEffect m w a v d)) := by
  unfold doWrite regWrite
  rw [if_pos ok, if_pos ok]

end

/-- Settles O6: the row is the write, which the device takes. -/
theorem writeRowsWrite : Obligations.WriteRowsWrite := by
  unfold Obligations.WriteRowsWrite
  intro i s w a v quiet writes ok
  exact row_becomes (exec_write quiet writes) quiet (doWrite_ok ok)

/-- Settles O7: the row is the write, which the access rules refuse. -/
theorem refusedWritesChangeNothing : Obligations.RefusedWritesChangeNothing := by
  unfold Obligations.RefusedWritesChangeNothing
  intro i s w a v quiet writes refused
  exact (exec_write quiet writes).trans
    (congrArg _ (State.run_id (f := fun m => doWrite m w a v) quiet (doWrite_refused refused)))

end Sys2Proof.Machine
end

section
/-! The register writes that act on the hourglass unit and on fault sources: WAKE, SHUTDOWN, FORCE and FORCE_WIRE (R403, R428,
R471, R499, R501). -/

namespace Sys2Proof.Machine

variable {m : Mem} {d : Dev} {w : Path}

/-! ### WAKE and SHUTDOWN (R471) -/

/-- A write of HGU_CTL with WAKE alone, whatever it keeps of the rest. -/
theorem hguCtl_wake (n : Nat) : hguCtl m w (1 + n / 4 * 4) d = wakeUp m (d.writeFields w (page 0x50 0 0x0100) (1 + n / 4 * 4)) := by
  have wake : bitAt (1 + n / 4 * 4) 0 = true := by simp only [bitAt, beq_iff_eq]; omega
  have stays : bitAt (1 + n / 4 * 4) 1 = false := by simp only [bitAt, beq_eq_false_iff_ne]; omega
  unfold hguCtl
  simp only [wake, stays, Bool.not_false, Bool.and_self, if_true, Bool.false_eq_true, if_false]
  rfl

/-- A write of HGU_CTL with SHUTDOWN alone, whatever it keeps of the rest. -/
theorem hguCtl_shutdown (n : Nat) : hguCtl m w (2 + n / 4 * 4) d = shutDown (d.writeFields w (page 0x50 0 0x0100) (2 + n / 4 * 4)) := by
  have sleeps : bitAt (2 + n / 4 * 4) 0 = false := by simp only [bitAt, beq_eq_false_iff_ne]; omega
  have shutdown : bitAt (2 + n / 4 * 4) 1 = true := by simp only [bitAt, beq_iff_eq]; omega
  unfold hguCtl
  simp only [sleeps, shutdown, Bool.false_and, Bool.false_eq_true, if_false, if_true]
  rfl

section
variable {s : State} {e : Dev}

/-- The row of WAKE is what waking does once the write's fields are set. -/
theorem row_wake (takes : s.Takes (.wake w))
    (wakes : wakeUp s.mem (s.dev.writeFields w (page 0x50 0 0x0100) (1 + s.dev.hguKept)) = e) : Does (.wake w) s e := by
  subst wakes
  refine row_at takes rfl ((effect_hguCtl ..).trans (hguCtl_wake _)) (idle_wakeUp _ ?_)
  rw [idle_writeFields]
  exact takes.none

/-- The row of SHUTDOWN is what shutting down does once the write's fields are set. -/
theorem row_shutdown (takes : s.Takes (.shutdown w))
    (shuts : shutDown (s.dev.writeFields w (page 0x50 0 0x0100) (2 + s.dev.hguKept)) = e) : Does (.shutdown w) s e := by
  subst shuts
  refine row_at takes rfl ((effect_hguCtl ..).trans (hguCtl_shutdown _)) (idle_shutDown ?_)
  rw [idle_writeFields]
  exact takes.none

end

/-- Settles O31: each row is waking or shutting down by the phase of the module, which the write's fields leave. -/
theorem wakeAndShutdown : Obligations.WakeAndShutdown := by
  unfold Obligations.WakeAndShutdown
  intro s w up down
  have power : up.power = s.dev.power := writeFields_power ..
  have power' : down.power = s.dev.power := writeFields_power ..
  rw [← power]
  refine ⟨fun takes asleep on shut main puf => row_wake takes (wakeUp_starts on asleep shut main puf),
    fun takes asleep on shut => row_wake takes (wakeUp_refused on asleep shut),
    fun takes awake => row_wake takes (wakeUp_awake awake), ?_, ?_⟩
  all_goals rw [power, ← power']
  · exact fun takes awake => row_shutdown takes (shutDown_awake awake)
  · exact fun takes asleep => row_shutdown takes (shutDown_asleep asleep)

/-! ### FORCE and FORCE_WIRE (R403, R428) -/

/-- A write of CLASS looks at the low four bits only. -/
theorem Dev.srcCfg_mod (d : Dev) (w : Path) {v n : Nat} (low : v % 16 = n % 16) : d.srcCfg w v = d.srcCfg w n := by
  have cls : bits v 0 4 = bits n 0 4 := by simpa [bits] using low
  simp only [Dev.srcCfg, cls]

/-- Setting a source's CLASS leaves the registers and every path's copies. -/
theorem Dev.srcCfg_pfld (d : Dev) (w u : Path) (v : Nat) (f : Fld) (i j : Nat) : (d.srcCfg w v).pfld u f i j = d.pfld u f i j := by
  unfold Dev.srcCfg
  dsimp only
  split <;> rfl

theorem Dev.srcCfg_flag (d : Dev) (w : Path) (v : Nat) (f : Fld) (i j : Nat) : (d.srcCfg w v).flag f i j = d.flag f i j := by
  unfold Dev.srcCfg
  dsimp only
  split <;> rfl

section
variable {src v : Nat} (names : d.pfld w F.FLT_SRC_IDX_SOURCE = src) (loaded : d.flag F.FLT_CTL_DICE_EN = true)
include names loaded

/-- With DICE_EN set, the force bits of a write of FLT_SRC_CFG raise the source once CLASS is set. -/
theorem srcCfgWrite_loaded : srcCfgWrite m w v d =
    let e := (d.srcCfg w v).draw.2.draw.2
    let detail := (Config.fresh (d.srcCfg w v).draw.2.draw.1).toNat
    let f := if bitAt v 5 then raiseFault m src 0xFF detail true false none e else e
    settleAll m (if bitAt v 6 then raiseFault m src ((Config.fresh (d.srcCfg w v).draw.1).toNat % 256) detail true true none f
      else f) := by
  unfold srcCfgWrite
  dsimp only
  rw [Dev.srcCfg_pfld, Dev.srcCfg_flag, names, loaded]
  rfl

theorem srcCfgWrite_force (cls : Nat) : ∃ detail, srcCfgWrite m w (cls % 16 + 2 ^ 5) d =
    settleAll m (raiseFault m src 0xFF detail true false none ((d.srcCfg w (cls % 16)).draw.2.draw.2)) := by
  have force : bitAt (cls % 16 + 2 ^ 5) 5 = true := by simp only [bitAt, beq_iff_eq]; omega
  have noWire : bitAt (cls % 16 + 2 ^ 5) 6 = false := by simp only [bitAt, beq_eq_false_iff_ne]; omega
  rw [srcCfgWrite_loaded names loaded, force, noWire, Dev.srcCfg_mod d w (n := cls % 16) (by omega)]
  exact ⟨_, rfl⟩

theorem srcCfgWrite_forceWire (cls : Nat) : ∃ code detail, srcCfgWrite m w (cls % 16 + 2 ^ 6) d =
    settleAll m (raiseFault m src code detail true true none ((d.srcCfg w (cls % 16)).draw.2.draw.2)) := by
  have noForce : bitAt (cls % 16 + 2 ^ 6) 5 = false := by simp only [bitAt, beq_eq_false_iff_ne]; omega
  have wire : bitAt (cls % 16 + 2 ^ 6) 6 = true := by simp only [bitAt, beq_iff_eq]; omega
  rw [srcCfgWrite_loaded names loaded, noForce, wire, Dev.srcCfg_mod d w (n := cls % 16) (by omega)]
  exact ⟨_, _, rfl⟩

end

/-- A row that writes FLT_SRC_CFG and raises a source. -/
theorem row_srcCfg {i : Instr} {s : State} {v src code detail : Nat} {wire : Bool} {e : Dev} (takes : s.Takes i)
    (writes : writeOf i s.dev = some (w, page 0x48 0 0x118, v))
    (raises : srcCfgWrite s.mem w v s.dev = settleAll s.mem (raiseFault s.mem src code detail true wire none e))
    (keeps : e.pageCmds = s.dev.pageCmds) : Does i s (raiseFault s.mem src code detail true wire none e) :=
  row_at_settled takes writes ((effect_srcCfg ..).trans raises) (idle_raiseFault _ _ _ _ _ _ _ (keeps ▸ takes.none))

/-- Settles O32: each row sets CLASS as it was and raises the source by its force bit. The code and the detail of a forced
fault are free (log 5 of NOTES.md). -/
theorem forcedFaults : Obligations.ForcedFaults := by
  unfold Obligations.ForcedFaults
  intro s w src d loaded
  have keeps : d.pageCmds = s.dev.pageCmds := idle_srcCfg ..
  refine ⟨fun takes => ?_, fun takes => ?_⟩
  · obtain ⟨detail, raises⟩ := srcCfgWrite_force (m := s.mem) rfl loaded (s.dev.srcClass src)
    exact ⟨detail, row_srcCfg takes rfl raises keeps⟩
  · obtain ⟨code, detail, raises⟩ := srcCfgWrite_forceWire (m := s.mem) rfl loaded (s.dev.srcClass src)
    exact ⟨code, detail, row_srcCfg takes rfl raises keeps⟩

end Sys2Proof.Machine
end

section
/-! The commands of the fault, security and configuration pages (R422, R423, R433, R434, R440, R446): what each starts once its
checks have passed, and how their rows end. -/

namespace Sys2Proof.Machine

variable {m : Mem} {d e : Dev} {c : CoreId} {h : PageCmd}

/-! ### Fences (R422, R423) -/

theorem fenceStart_fence (op : h.op = 1) (names : h.a = c.val) : fenceStart m h d = (fenceCommand m c d, 0) := by
  simp only [fenceStart, op, names, coreOf_val]

theorem fenceStart_clear (op : h.op = 2) (names : h.a = c.val) : fenceStart m h d =
    (d.setFlash { d.flash with fence := d.flash.fence.filter fun x => decide (x ≠ c.val) }, 0) := by
  simp only [fenceStart, op, names, coreOf_val]

/-- A core that is fenced already stays so. -/
theorem fenceCommand_fenced (fenced : (d.core c).fenced = true) : fenceCommand m c d = d := if_pos fenced

theorem idle_fenceCommand (m : Mem) (c : CoreId) (d : Dev) : (fenceCommand m c d).pageCmds = d.pageCmds := by
  unfold fenceCommand
  split
  · rfl
  · rw [idle_settleAll, idle_fenceCore, idle_failParts]

theorem startCmd_fenceCmd {w : Path} {op n t r : Nat} (starts : fenceStart m ((fenceCmd w op n).started t) d = (e, r)) :
    startCmd m ((fenceCmd w op n).started t) d = (e, some r) := by
  rw [startCmd_fence _ _ (by show 0x4800 / 256 = 0x48; decide), starts]

section
variable {i : Instr} {s : State} {w : Path} {op r : Nat} (takes : s.Takes i)
  (writes : writeOf i s.dev = some (w, page 0x48 0 0x178, op + 4 * c.val)) (code : op < 4)
  (starts : fenceStart s.mem ((fenceCmd w op c.val).started s.dev.now) (s.dev.begun (fenceCmd w op c.val)) = (e, r))
include takes writes code starts

theorem row_fenceEnds (keeps : e.desk = (s.dev.begun (fenceCmd w op c.val)).desk) : Does i s (e.ended (fenceCmd w op c.val) r) :=
  row_ended takes writes (fence_command _ w op c.val code (by omega)) rfl rfl (startCmd_fenceCmd starts) keeps

theorem row_fenceFinishes (keeps : e.pageCmds = (s.dev.begun (fenceCmd w op c.val)).pageCmds) :
    Does i s (e.finish 0x4800 r) :=
  row_finishes takes writes (fence_command _ w op c.val code (by omega)) rfl (startCmd_fenceCmd starts)
    (by rw [keeps]; rfl)

end

/-- Settles O27: each command starts on the begun device and ends. That a FENCE of a fenced core does nothing rests on log 37
of NOTES.md. -/
theorem fenceCommandsEnd : Obligations.FenceCommandsEnd := by
  unfold Obligations.FenceCommandsEnd
  intro s w c n names d
  have fence : writeOf (.fence w n) d = some (w, page 0x48 0 0x178, 1 + 4 * c.val) := by rw [← names]; rfl
  have clear : writeOf (.clear w n) d = some (w, page 0x48 0 0x178, 2 + 4 * c.val) := by rw [← names]; rfl
  refine ⟨fun takes unfenced => ?_, fun takes fenced => ?_, fun takes => ?_⟩
  · exact row_fenceFinishes takes fence (by decide) (fenceStart_fence rfl rfl) (idle_fenceCommand _ _ _)
  · have same : fenceCommand s.mem c (d.begun (fenceCmd w 1 c.val)) = d.begun (fenceCmd w 1 c.val) := fenceCommand_fenced fenced
    exact row_fenceEnds takes fence (by decide) ((fenceStart_fence rfl rfl).trans (by rw [same])) rfl
  · exact row_fenceEnds takes clear (by decide) (fenceStart_clear rfl rfl) rfl

/-! ### Firmware (R440) -/

section
variable {k src len dst : Nat} (component : k ≤ 6)
include component

/-- What a WRITE starts from: nothing where it begins the image, else what the slot holds. -/
theorem fwCommand_write (nonempty : len ≠ 0) (staged : src + len ≤ 4194304) (fits : 4096 * dst + len ≤ slotBytes k) :
    let x := d.fwSlot k (d.inactive k)
    fwCommand m 1 k src len dst d = (d.setFwSlot k (d.inactive k) { (if dst = 0 then { state := 1 } else x : FwSlot) with
      data := bWrite (4096 * dst) (memRead m d (stagingBase + src) len) (if dst = 0 then [] else x.data) }, 0) := by
  have inside : ¬ (len = 0 ∨ 4194304 < src + len ∨ slotBytes k < 4096 * dst + len) := by omega
  unfold fwCommand
  dsimp only
  rw [if_neg (by omega), if_neg inside]
  by_cases begins : dst = 0
  · simp only [if_pos begins]
  · simp only [if_neg begins]

theorem fwCommand_stage (loaded : (d.fwSlot k (d.inactive k)).state = 1) (none : ∀ e, e < 7 → d.slotIn e 2 = none) :
    fwCommand m 2 k src len dst d = (d.setFwSlot k (d.inactive k) { d.fwSlot k (d.inactive k) with state := 2 }, 0) := by
  have unstaged : ((List.range 7).any fun e => (d.slotIn e 2).isSome) = false := by
    simpa only [List.any_eq_false, List.mem_range, Bool.not_eq_true, Option.isSome_eq_false_iff, Option.isNone_iff_eq_none]
      using none
  unfold fwCommand
  dsimp only
  rw [if_neg (by omega), if_neg (not_not.2 loaded), unstaged]
  rfl

theorem fwCommand_discard (kept : (d.fwSlot k (d.inactive k)).state = 1 ∨ (d.fwSlot k (d.inactive k)).state = 2 ∨
    (d.fwSlot k (d.inactive k)).state = 5) : fwCommand m 3 k src len dst d = (d.setFwSlot k (d.inactive k) {}, 0) := by
  unfold fwCommand
  dsimp only
  rw [if_neg (by omega), if_pos kept]
  rfl

theorem fwCommand_commit {a : Nat} (active : d.slotIn k 3 = some a) (running : d.power.phase = .running)
    (booted : d.fld (bootFields k).1 = a) : fwCommand m 4 k src len dst d = (d.setFlash { d.flash with
      counters := tSet 0 k (max (d.counter k) ((d.fwSlot k a).svn k)) d.flash.counters }, 0) := by
  unfold fwCommand
  dsimp only
  rw [if_neg (by omega), active]
  simp only [running, booted, decide_true, Bool.and_self, if_true]

end

section
variable {i : Instr} {s : State} {w : Path} {op r : Nat} (takes : s.Takes i)
include takes

theorem row_fwEnds {k : Fin 7} (writes : writeOf i s.dev = some (w, page 0x51 0 0x118, op + 16 * k.val)) (code : op < 16)
    (starts : fwCommand s.mem op k.val (fwCmd s.dev w op k.val).arg0 (fwCmd s.dev w op k.val).arg1 (fwCmd s.dev w op k.val).arg2
      (s.dev.begun (fwCmd s.dev w op k.val)) = (e, r))
    (keeps : e.desk = (s.dev.begun (fwCmd s.dev w op k.val)).desk) : Does i s (e.ended (fwCmd s.dev w op k.val) r) := by
  refine row_ended takes writes (fw_command _ w op k code) rfl rfl ?_ keeps
  rw [startCmd_fw _ _ (by show 0x5100 / 256 = 0x51; decide) (by show op / 256 = 0; omega)]
  exact congrArg (fun x : Dev × Nat => (x.1, some x.2)) starts

/-! ### Attestation (R433, R434) -/

theorem row_attestEnds {index : Nat} (writes : writeOf i s.dev = some (w, page 0x51 0 0x150, op + 4 * index)) (code : op < 4)
    (register : index < 16) (starts : attest w op index (s.dev.begun (attestCmd w op index)) = (e, r))
    (keeps : e.desk = (s.dev.begun (attestCmd w op index)).desk) : Does i s (e.ended (attestCmd w op index) r) := by
  refine row_ended takes writes (attest_command _ w op index code register) rfl rfl ?_ keeps
  have operation : ((attestCmd w op index).started s.dev.now).code = op := by
    show (256 + op) % 256 = op
    omega
  rw [startCmd_attest _ _ (by show 0x5100 / 256 = 0x51; decide) (by show (256 + op) / 256 = 1; omega), operation]
  exact congrArg (fun x : Dev × Nat => (x.1, some x.2)) starts

end

theorem attest_extend {w : Path} {index : Nat} (runtime : 8 ≤ index) : attest w 2 index d = (d.extendM index (d.nonce w), 0) :=
  if_pos runtime

theorem attest_extend_boot {w : Path} {index : Nat} (boot : index < 8) : attest w 2 index d = (d, 2) :=
  if_neg (Nat.not_le.2 boot)

/-- Settles O28: each command starts on the begun device and ends. -/
theorem firmwareCommandsEnd : Obligations.FirmwareCommandsEnd := by
  unfold Obligations.FirmwareCommandsEnd
  intro s w k j d c slot x n b b'
  have component : k.val ≤ 6 := Nat.le_of_lt_succ k.isLt
  have register : j.toNat < 16 := j.isLt
  refine ⟨fun takes nonempty staged fits => ?_, fun takes loaded unstaged => ?_, fun takes kept => ?_,
    fun a takes active running booted => ?_, fun takes => ?_, fun takes runtime => ?_, fun takes boot => ?_⟩
  · exact row_fwEnds takes rfl (by decide) (fwCommand_write component nonempty staged fits) rfl
  · exact row_fwEnds takes rfl (by decide) (fwCommand_stage component loaded unstaged) rfl
  · exact row_fwEnds takes rfl (by decide) (fwCommand_discard component kept) rfl
  · exact row_fwEnds takes rfl (by decide) (fwCommand_commit component active running booted) rfl
  · exact row_attestEnds takes rfl (by decide) (by decide) rfl rfl
  · exact row_attestEnds takes rfl (by decide) register (attest_extend runtime) rfl
  · exact row_attestEnds takes rfl (by decide) register (attest_extend_boot boot) rfl

/-! ### Positions (R446) -/

section
variable {n src : Nat}

theorem positionCommand_store (free : (d.position n).state ∈ [0, 1, 5])
    (staged : src + posLength (memRead m d (stagingBase + src) 256) ≤ 4194304)
    (long : 256 ≤ posLength (memRead m d (stagingBase + src) 256)) (short : posLength (memRead m d (stagingBase + src) 256) ≤ 524288)
    (format : positionFormat (memRead m d (stagingBase + src) (posLength (memRead m d (stagingBase + src) 256))) = true)
    (check : positionCheckOk (memRead m d (stagingBase + src) (posLength (memRead m d (stagingBase + src) 256))) = true) :
    positionCommand m 1 n src d =
      (d.setPosition n ⟨1, memRead m d (stagingBase + src) (posLength (memRead m d (stagingBase + src) 256))⟩, 0) := by
  have state : (d.position n).state = 0 ∨ (d.position n).state = 1 ∨ (d.position n).state = 5 := by simpa using free
  show positionStore m n src d = _
  unfold positionStore
  dsimp only
  rw [if_neg (by omega), if_neg (by omega), format, check]
  rfl

/-- The slots as ACTIVATE leaves them: the PREVIOUS one is stored, the one in force PREVIOUS, the new one on TRIAL. -/
def Dev.trialSlots (d : Dev) (n : Nat) : Dev :=
  ((d.setPosState (d.positionIn 4) 1).setPosState d.inForce 4).setPosState (some n) 3

theorem Dev.setPosState_fld (d : Dev) (n : Option Nat) (k : Nat) (f : Fld) (i j : Nat) :
    (d.setPosState n k).fld f i j = d.fld f i j := by cases n <;> rfl

theorem Dev.setPosState_now (d : Dev) (n : Option Nat) (k : Nat) : (d.setPosState n k).now = d.now := by cases n <;> rfl

theorem positionCommand_activate (noTrial : d.positionIn 3 = none) (stored : (d.position n).state = 1)
    (check : positionCheckOk (d.position n).data = true) : positionCommand m 2 n src d =
      (applyPosition m d.positionInForce (((d.trialSlots n).setFld F.CFG_DEADLINE_TIME
        (d.now + 1000000000 * d.fld F.CFG_SETTLE_SECONDS)).showActive), 0) := by
  have sound : ¬ (!positionCheckOk (d.position n).data) = true := by simp [check]
  show positionActivate m n d = _
  unfold positionActivate
  rw [if_neg (by simp [noTrial, stored]), if_neg sound]
  simp only [Dev.trialSlots, Dev.setPosState_fld, Dev.setPosState_now]

theorem positionCommand_settle {i : Nat} (trial : d.positionIn 3 = some i) (early : d.now < d.fld F.CFG_DEADLINE_TIME) :
    let e := ((d.setPosState (some i) 2).setFld F.CFG_DEADLINE_TIME 0).showActive
    positionCommand m 3 n src d = (e.extendM 7 e.checkInForce, 0) := by
  show positionSettle d = _
  unfold positionSettle
  rw [trial]
  exact if_pos early

theorem positionCommand_takeBack {i : Nat} (previous : d.positionIn 4 = some i) : positionCommand m 4 n src d =
    (takeBack m d, if ((takeBack m d).position i).state = 5 then 3 else 0) := by
  simp only [positionCommand, previous]

theorem positionCommand_erase (unused : (d.position n).state = 1 ∨ (d.position n).state = 5) :
    positionCommand m 5 n src d = (d.setPosition n {}, 0) := if_pos unused

end

/-- The device with a position taken back enters no command. -/
theorem idle_takeBack {L : List PageCmd} (m : Mem) (idle : d.pageCmds.Sublist L) : (takeBack m d).pageCmds.Sublist L := by
  unfold takeBack
  exact idle_applyPosition _ _ (by rw [idle_takeBackSlots]; exact idle)

theorem startCmd_positionCmd {w : Path} {op n src t r : Nat} (starts : positionCommand m op n src d = (e, r)) :
    startCmd m ((positionCmd w op n src).started t) d = (e, some r) := by
  rw [startCmd_position _ _ (by show 0x5200 / 256 = 0x52; decide)]
  exact congrArg (fun x : Dev × Nat => (x.1, some x.2)) starts

section
variable {i : Instr} {s : State} {w : Path} {op n r : Nat} {src : BitVec 22} (takes : s.Takes i)
  (writes : writeOf i s.dev = some (w, page 0x52 0 0x100, op + 8 * n + 64 * src.toNat)) (code : op < 8) (slot : n < 8)
  (starts : positionCommand s.mem op n src.toNat (s.dev.begun (positionCmd w op n src.toNat)) = (e, r))
include takes writes code slot starts

theorem row_positionEnds (keeps : e.desk = (s.dev.begun (positionCmd w op n src.toNat)).desk) :
    Does i s (e.ended (positionCmd w op n src.toNat) r) :=
  row_ended takes writes (position_command _ w op n src code slot) rfl rfl
    (startCmd_positionCmd starts) keeps

theorem row_positionFinishes (keeps : e.pageCmds.Sublist (s.dev.begun (positionCmd w op n src.toNat)).pageCmds) :
    Does i s (e.finish 0x5200 r) :=
  row_finishes takes writes (position_command _ w op n src code slot) rfl
    (startCmd_positionCmd starts) keeps

end

/-- Settles O25: each command starts on the begun device and ends. -/
theorem positionCommandsAct : Obligations.PositionCommandsAct := by
  unfold Obligations.PositionCommandsAct
  intro s w j src d k n x len l
  have slot : j.toNat < 8 := j.isLt
  refine ⟨fun takes free staged long short format check => ?_, fun takes noTrial stored check => ?_,
    fun i takes trial early => ?_, fun i takes previous => ?_, fun takes unused => ?_⟩
  · exact row_positionEnds takes rfl (by decide) slot (positionCommand_store free staged long short format check) rfl
  · refine row_positionFinishes (src := 0) takes rfl (by decide) slot (positionCommand_activate noTrial stored check)
      (idle_applyPosition _ _ ?_)
    simp only [idle_showActive, idle_setFld, idle_setPosState]
    exact List.Sublist.refl _
  · exact row_positionEnds (n := 0) (src := 0) takes rfl (by decide) (by decide) (positionCommand_settle trial early) rfl
  · exact row_positionFinishes (n := 0) (src := 0) takes rfl (by decide) (by decide) (positionCommand_takeBack previous)
      (idle_takeBack _ (List.Sublist.refl _))
  · exact row_positionEnds (src := 0) takes rfl (by decide) slot (positionCommand_erase unused) rfl

end Sys2Proof.Machine
end

section
/-! Neighbour requests, IEEE 1588, and the links of the host port and of management (R350, R367, R471, R492, R493): each
meaning case by case, then the statement. -/

namespace Sys2Proof.Machine

variable {d : Dev}

/-! ### Neighbour requests (R350) -/

/-- The address that a request asks for is the port's own, for the protocol of the request, and is set. -/
def Dev.owns (d : Dev) (k : NeighbourFrame) : Prop :=
  match k.kind with
  | .arp | .icmpEcho => d.fld F.HOST_IP4_ADDR ≠ 0 ∧ k.asked.toNat = 0xFFFF * 2 ^ 32 + d.fld F.HOST_IP4_ADDR
  | .neighbourDiscovery | .icmpv6Echo => d.fld F.HOST_IP6_LO_ADDR + 2 ^ 64 * d.fld F.HOST_IP6_HI_ADDR ≠ 0 ∧
      k.asked.toNat = d.fld F.HOST_IP6_LO_ADDR + 2 ^ 64 * d.fld F.HOST_IP6_HI_ADDR

theorem ownAddress_iff (k : NeighbourFrame) : d.ownAddress k.kind k.asked.toNat = true ↔ d.owns k := by
  unfold Dev.ownAddress Dev.owns
  cases k.kind <;> simp only [Bool.and_eq_true, decide_eq_true_eq]

theorem neighbourRequest_own {k : NeighbourFrame} (on : d.portOn = true) (link : d.flag F.HOST_STATUS_LINK = true)
    (taken : d.frameTaken .host k.source = true) (own : d.owns k) : neighbourRequest k d =
      ((d.countFrame false 0).countFrame true 0).send (.neighbour k.kind k.source (d.frameTag .host)) :=
  if_pos (by simp [on, link, taken, ownAddress_iff, own])

theorem neighbourRequest_ignored {k : NeighbourFrame} (h : ¬ d.owns k ∨ d.frameTaken .host k.source = false) :
    neighbourRequest k d = d := by
  refine if_neg ?_
  rcases h with other | vlan
  · simp [ownAddress_iff, other]
  · simp [vlan]

/-! ### IEEE 1588 (R367) -/

theorem ptpMessage_sync {x : PtpMessage} (on : d.portOn = true) (link : d.flag F.HOST_STATUS_LINK = true)
    (sync : x.sync = true) (domain : x.domain.toNat = d.fld F.HOST_PTP_DOMAIN) :
    let e := ((d.setFld F.HOST_PTP_HOLDOVER 0).setFld F.HOST_PTP_OFFSET (offset32 x.offset)).rootTime false
    let f := if e.flag F.FAB_TIME_SYNC_ROOT then e.correctTime (-x.offset) else e
    ptpMessage x d = { f.countFrame false 0 with ptpAt := f.now } :=
  if_neg (by simp [on, link, sync, domain])

theorem ptpHoldover_due (on : d.portOn = true) (notHeld : d.flag F.HOST_PTP_HOLDOVER = false)
    (due : d.ptpAt + 10000000000 ≤ d.now) : ptpHoldover d = (d.setFld F.HOST_PTP_HOLDOVER 1).rootTime true :=
  if_pos (by simp [on, notHeld, due])

/-! ### Link and cage (R350, R493) -/

theorem hostLinkUp_trained (on : d.portOn = true) (enabled : d.flag F.HOST_CTL_EN = true) (cage : d.power.cagePresent = true) :
    hostLinkUp d = (d.setFld F.HOST_STATUS_LINK 1).setFld F.HOST_STATUS_SPEED (d.fld F.HOST_CTL_SPEED) :=
  if_pos (by simp [on, enabled, cage])

theorem hostLinkUp_empty (empty : d.power.cagePresent = false) : hostLinkUp d = d := if_neg (by simp [empty])

theorem hostLinkDown_on (on : d.portOn = true) : hostLinkDown d = d.setFld F.HOST_STATUS_LINK 0 := if_pos on

/-- Settles O52: each row is the meaning of its case. -/
theorem hostPortLinks : Obligations.HostPortLinks := by
  unfold Obligations.HostPortLinks
  intro s k x n up d v4 v6 own quiet
  have owns : own ↔ d.owns k := by
    show (match k.kind with | .arp => _ | .icmpEcho => _ | _ => _ : Prop) ↔ _
    unfold Dev.owns
    cases k.kind <;> rfl
  rw [owns]
  exact ⟨fun on link taken own => row_becomes rfl quiet (neighbourRequest_own on link taken own),
    fun other => row_becomes rfl quiet (neighbourRequest_ignored (.inl other)),
    fun vlan => row_becomes rfl quiet (neighbourRequest_ignored (.inr vlan)),
    fun on link sync domain => row_becomes rfl quiet (ptpMessage_sync on link sync domain),
    fun on notHeld due => row_becomes rfl quiet (ptpHoldover_due on notHeld due),
    fun on enabled cage => row_becomes rfl quiet (hostLinkUp_trained on enabled cage),
    fun empty => row_becomes rfl quiet (hostLinkUp_empty empty),
    fun on => row_becomes rfl quiet (hostLinkDown_on on),
    row_becomes rfl quiet rfl, row_becomes rfl quiet rfl, row_becomes rfl quiet rfl⟩

end Sys2Proof.Machine
end

section
/-! The clock of a die (R374 to R376, R378): set point changes, PLLs that have settled and droop, case by case, then the
statement. -/

namespace Sys2Proof.Machine

variable {d : Dev}

/-! ### Set points (R375, R376) -/

section
variable {k : Nat} (on : d.controllerOn = true)
include on

/-- A die at rest heeds its target. -/
theorem setPointChange_resting (resting : (d.clock k).change = none) : setPointChange k d =
    if (d.target k).1 = d.fld F.CLK_STATUS_CURRENT k then d.setClock k { d.clock k with deferred := false }
    else if (d.target k).1 < d.fld F.CLK_STATUS_CURRENT k then d.program k (d.target k).1
    else if d.droopBlocks k then
      if (d.clock k).deferred then d else (d.setClock k { d.clock k with deferred := true }).count F.CLK_CHANGES_DEFERRED 1 k
    else d.program k (d.target k).1 := by
  simp only [setPointChange, on, resting, Bool.not_true, Bool.false_eq_true, if_false]

/-- A die that is going to a set point turns when its target has changed. -/
theorem setPointChange_going {g t : Nat} (going : (d.clock k).change = some (g, t)) : setPointChange k d =
    if (d.target k).1 = g then d
    else if d.fld F.CLK_STATUS_CURRENT k < g then
      if (d.target k).1 = d.fld F.CLK_STATUS_CURRENT k then d.setClock k { d.clock k with change := none, held := false }
      else d.program k (d.target k).1
    else if (d.target k).1 < d.fld F.CLK_STATUS_CURRENT k then d.program k (d.target k).1 else d := by
  simp only [setPointChange, on, going, Bool.not_true, Bool.false_eq_true, if_false]

/-- A PLL that has settled switches, or is held while droop blocks the step up. -/
theorem pllSettled_due {g t : Nat} (going : (d.clock k).change = some (g, t)) (due : t ≤ d.now)
    (free : (d.clock k).held = false) : pllSettled k d =
      if d.fld F.CLK_STATUS_CURRENT k < g ∧ d.droopBlocks k then
        (d.setClock k { d.clock k with held := true }).count F.CLK_CHANGES_DEFERRED 1 k
      else d.switchPll k g := by
  have acts : (!d.controllerOn || decide (d.now < t) || (d.clock k).held) = false := by
    simpa [on, free] using due
  simp only [pllSettled, going, acts, Bool.false_eq_true, if_false]

theorem deferredSwitch_clear {g t : Nat} (going : (d.clock k).change = some (g, t)) (held : (d.clock k).held = true)
    (clear : d.droopBlocks k = false) : deferredSwitch k d = d.switchPll k g := by
  simp [deferredSwitch, going, on, held, clear]

/-! ### Droop (R378) -/

theorem droopTrip_on (c : CoreId) : droopTrip c d =
    (d.setFld F.CLK_STATUS_DROOP 1 (dieOf c)).count F.CLK_DROOP_EVENTS 1 (dieOf c) := if_pos on

theorem droopRelease_set (droop : d.flag F.CLK_STATUS_DROOP k = true) : droopRelease k d =
    (d.setFld F.CLK_STATUS_DROOP 0 k).setClock k { d.clock k with clearFrom := some (d.clock k).cycles } :=
  if_pos (by simp [on, droop])

end

/-- Settles O53: each row is the meaning of its case. -/
theorem clocksFollowSetPoints : Obligations.ClocksFollowSetPoints := by
  unfold Obligations.ClocksFollowSetPoints
  intro s k c g t d x cur want start u switched quiet on
  have change : ∀ {e}, setPointChange k.val d = e → Becomes (.setPointChange k) s e :=
    row_becomes (E := fun _ => setPointChange k.val) rfl quiet
  have settled : ∀ {e}, pllSettled k.val d = e → Becomes (.pllSettled k) s e :=
    row_becomes (E := fun _ => pllSettled k.val) rfl quiet
  refine ⟨fun resting same => ?_, fun resting down => ?_, fun resting up free => ?_, fun resting up blocked new => ?_,
    fun going same => ?_, fun going falls down other => ?_, fun going rises other apart => ?_, fun going rises back => ?_,
    fun going due free way => ?_, fun going due free rises blocked => ?_,
    fun going held clear => row_becomes rfl quiet (deferredSwitch_clear on going held clear),
    row_becomes rfl quiet (droopTrip_on on c), fun droop => row_becomes rfl quiet (droopRelease_set on droop)⟩
  · exact change ((setPointChange_resting on resting).trans (if_pos same))
  · exact change ((setPointChange_resting on resting).trans ((if_neg (Nat.ne_of_lt down)).trans (if_pos down)))
  · have acts := setPointChange_resting on resting
    rw [if_neg (Nat.ne_of_gt up), if_neg (Nat.lt_asymm up), free] at acts
    exact change acts
  · have acts := setPointChange_resting on resting
    rw [if_neg (Nat.ne_of_gt up), if_neg (Nat.lt_asymm up), blocked, show (d.clock k.val).deferred = false from new] at acts
    exact change acts
  · exact change ((setPointChange_going on going).trans (if_pos same))
  · have acts := setPointChange_going on going
    rw [if_neg other, if_neg (Nat.not_lt.2 falls), if_pos down] at acts
    exact change acts
  · have acts := setPointChange_going on going
    rw [if_neg other, if_pos rises, if_neg apart] at acts
    exact change acts
  · have acts := setPointChange_going on going
    have other : want ≠ g := fun same => Nat.ne_of_lt rises (back.symm.trans same)
    rw [if_neg other, if_pos rises, if_pos back] at acts
    exact change acts
  · refine settled ((pllSettled_due on going due free).trans (if_neg ?_))
    rintro ⟨rises, blocked⟩
    rcases way with falls | clear
    · exact Nat.not_lt.2 falls rises
    · simp [clear] at blocked
  · exact settled ((pllSettled_due on going due free).trans (if_pos ⟨rises, blocked⟩))

end Sys2Proof.Machine
end

section
/-! The main input, the caps and the energy accounts (R372, R373, R379 to R382, R392 to R394): each meaning case by case, then
the statement. -/

namespace Sys2Proof.Machine

variable {m : Mem} {d : Dev}

/-! ### The main input (R372, R498) -/

/-- A voltage of the main input lies in its range. -/
def inputOk (v : Nat) : Bool := decide (40000 ≤ v) && decide (v ≤ 58000)

/-- Since when a condition of the main input holds, with the stamp from before. -/
def Dev.inputSince (d : Dev) (holds : Bool) (before : Option Nat) : Option Nat :=
  if holds then some (before.getD d.now) else none

/-- The device with a sample of the main input taken: its stamps, and MAIN_PRESENT. -/
def Dev.inputTaken (d : Dev) (v : Nat) : Dev :=
  let e := d.setPower { d.power with
    mainMv := v, okSince := d.inputSince (inputOk v) d.power.okSince
    lowSince := d.inputSince (decide (v < 36000)) d.power.lowSince
    highSince := d.inputSince (decide (60000 < v)) d.power.highSince }
  if inputOk v then e else e.setFld F.HGU_STATUS_MAIN_PRESENT 0

/-- The device that shows the sample, with the mark of a low input. -/
def Dev.inputShown (d : Dev) (v : Nat) : Dev :=
  ((d.inputTaken v).setFld F.PWR_INPUT_MAIN_MV v).setFld F.PWR_STATUS_INPUT_LOW (b2n (decide (36000 ≤ v) && decide (v < 40000)))

/-- Taking a sample changes the voltage and its stamps only. -/
theorem inputTaken_power (d : Dev) (v : Nat) : (d.inputTaken v).power = { d.power with
    mainMv := v, okSince := d.inputSince (inputOk v) d.power.okSince
    lowSince := d.inputSince (decide (v < 36000)) d.power.lowSince
    highSince := d.inputSince (decide (60000 < v)) d.power.highSince } := by
  unfold Dev.inputTaken
  dsimp only
  split <;> rfl

theorem inputShown_power (d : Dev) (v : Nat) : (d.inputShown v).power = (d.inputTaken v).power := rfl

theorem inputShown_now (d : Dev) (v : Nat) : (d.inputShown v).now = d.now := by
  unfold Dev.now
  rw [inputShown_power, inputTaken_power]

section
variable {v : Nat} (aux : d.power.auxOn = true)
include aux

theorem mainInputSample_asleep (asleep : d.power.phase = .asleep) : mainInputSample v d = d.inputTaken v := by
  have phase : (d.inputTaken v).power.phase = .asleep := by rw [inputTaken_power]; exact asleep
  unfold mainInputSample
  rw [if_neg (by simp [aux])]
  exact if_pos phase

section
variable (awake : d.power.phase ≠ .asleep) (word : v < 65536)
include awake word

/-- An awake device shows the sample, and goes off once the input has been out of range for 20 µs. -/
theorem mainInputSample_awake : mainInputSample v d =
    if past20 (d.inputShown v) (d.inputSince (decide (v < 36000)) d.power.lowSince) ||
        past20 (d.inputShown v) (d.inputSince (decide (60000 < v)) d.power.highSince) then (d.inputShown v).mainOff
    else d.inputShown v := by
  have phase : (d.inputTaken v).power.phase ≠ .asleep := by rw [inputTaken_power]; exact awake
  unfold mainInputSample
  rw [if_neg (by simp [aux]), Nat.min_eq_left (by omega)]
  refine (if_neg phase).trans ?_
  show (if past20 (d.inputShown v) (d.inputShown v).power.lowSince || past20 (d.inputShown v) (d.inputShown v).power.highSince
    then (d.inputShown v).mainOff else d.inputShown v) = _
  rw [inputShown_power, inputTaken_power]

theorem mainInputSample_in_range (notLow : 36000 ≤ v) (notHigh : v ≤ 60000) : mainInputSample v d = d.inputShown v := by
  rw [mainInputSample_awake aux awake word]
  simp [past20, Dev.inputSince, Nat.not_lt.2 notLow, Nat.not_lt.2 notHigh]

theorem mainInputSample_low {t : Nat} (low : v < 36000) (since : d.power.lowSince = some t) (due : t + 20000 ≤ d.now) :
    mainInputSample v d = (d.inputShown v).mainOff := by
  rw [mainInputSample_awake aux awake word]
  simp [past20, Dev.inputSince, low, since, inputShown_now, due]

theorem mainInputSample_high {t : Nat} (high : 60000 < v) (since : d.power.highSince = some t) (due : t + 20000 ≤ d.now) :
    mainInputSample v d = (d.inputShown v).mainOff := by
  rw [mainInputSample_awake aux awake word]
  simp [past20, Dev.inputSince, high, since, inputShown_now, due]

end

end

/-! ### Caps (R379 to R382) -/

section
variable {w : Nat} (on : d.controllerOn = true)
include on

theorem capEvaluation_floor (exceeds : 0 < d.excess w) (floor : (d.capsActed w).allFloor = true) :
    let b := d.capsActed w
    capEvaluation w d = (b.setFloor (some (b.floorSince.getD b.now))).setFld F.PWR_STATUS_OVER (b2n b.anyCut) := by
  simp [capEvaluation, on, exceeds, floor]

theorem capEvaluation_above_floor (h : d.excess w ≤ 0 ∨ (d.capsActed w).allFloor = false) :
    let b := d.capsActed w
    capEvaluation w d = (b.setFloor none).setFld F.PWR_STATUS_OVER (b2n b.anyCut) := by
  have atFloor : (decide (0 < d.excess w) && (d.capsActed w).allFloor) = false := by
    rcases h with room | above
    · simp [Int.not_lt.2 room]
    · simp [above]
  simp [capEvaluation, on, atFloor]

theorem capUnmet_due {t : Nat} (since : d.floorSince = some t) (due : t + 10000000 ≤ d.now) :
    capUnmet m d = raiseOwn m 2952 none none (d.setFld F.PWR_STATUS_UNMET 1) := by
  simp [capUnmet, since, on, due]

/-! ### Energy (R393, R394) -/

theorem energyEstimate_on (charges : List (BitVec 6 × Account × BitVec 64)) : energyEstimate charges d = { d with
    charges := d.charges ++ (charges.filter fun c => decide (c.1.toNat < 14)).map fun c => ⟨c.1.toNat, c.2.1, c.2.2.toNat⟩ } :=
  if_pos on

/-- The rails are reconciled in turn, and the loss goes to the device's account. -/
theorem energyReconcile_on (measured : List (BitVec 32)) :
    let e := ((measured.take 14).zipIdx).foldl (fun d x => reconcileRail x.2 x.1.toNat d) d
    energyReconcile measured d =
      { (match measured[14]? with | some n => e.charge .device n.toNat | none => e : Dev) with charges := [] } :=
  if_neg (by simp [on])

end

/-- Settles O54: each row is the meaning of its case. That MAIN_PRESENT goes outside 40 to 58 V, the opaque watts of a level
and the rail by rail scaling rest on log 36 of NOTES.md. -/
theorem inputCapsAndEnergy : Obligations.InputCapsAndEnergy := by
  unfold Obligations.InputCapsAndEnergy
  refine ⟨?input, ?energy⟩
  case input =>
    intro s mv w t d v ok since e f h excess a b quiet
    have word : v < 65536 := mv.isLt
    exact ⟨fun aux asleep => row_becomes rfl quiet (mainInputSample_asleep aux asleep),
      fun aux awake notLow notHigh => row_becomes rfl quiet (mainInputSample_in_range aux awake word notLow notHigh),
      fun aux awake low since due => row_becomes rfl quiet (mainInputSample_low aux awake word low since due),
      fun aux awake high since due => row_becomes rfl quiet (mainInputSample_high aux awake word high since due),
      fun on exceeds floor => row_becomes rfl quiet (capEvaluation_floor on exceeds floor),
      fun on room => row_becomes rfl quiet (capEvaluation_above_floor on room),
      fun on since due => row_after rfl quiet (capUnmet_due on since due)⟩
  case energy =>
    intro s charges measured n d e quiet on
    refine ⟨row_becomes rfl quiet (energyEstimate_on on charges), fun loss => ?_, fun short => ?_⟩
    · exact row_becomes rfl quiet ((energyReconcile_on on measured).trans (by rw [loss]))
    · exact row_becomes rfl quiet ((energyReconcile_on on measured).trans (by rw [List.getElem?_eq_none short]))

end Sys2Proof.Machine
end

section
/-! Temperatures and pace notices (R377, R383, R385 to R388, R391): each meaning case by case, then the statement. -/

namespace Sys2Proof.Machine

variable {m : Mem} {d : Dev}

/-! ### Samples of temperatures (R383, R385, R386) -/

/-- The device with the THERMAL limit of each die set anew, by whether THM_STATUS shows the die as hot so far. -/
def Dev.diesThrottled (d : Dev) : Dev :=
  [0, 1, 2, 3].foldl (fun e k => thermalDie (bitAt (d.fld F.THM_STATUS_HOT) k) k e) d

section
variable {temps : List (Option (BitVec 8))} (on : d.controllerOn = true)
include on

/-- A sample is taken, throttles or releases the dies, and is shown; at 105 °C anywhere the thermal source raises. -/
theorem thermalSample_on : thermalSample m temps d =
    let b := (d.takeTemps temps).diesThrottled
    let limit := decide (105 ≤ b.hottest 0 144)
    let e := opticsHot m (if limit then b.thermalLimit else b).showTemps
    if limit || decide (105 ≤ e.hottest 144 20) then raiseOwn m 2954 none none e else e :=
  if_neg (by simp [on])

/-- Below 105 °C on every compute die, the hub die and the optics decide. -/
theorem thermalSample_cool (cool : (d.takeTemps temps).diesThrottled.hottest 0 144 < 105) : thermalSample m temps d =
    let e := opticsHot m (d.takeTemps temps).diesThrottled.showTemps
    if 105 ≤ e.hottest 144 20 then raiseOwn m 2954 none none e else e := by
  have below : decide (105 ≤ (d.takeTemps temps).diesThrottled.hottest 0 144) = false := decide_eq_false (Nat.not_le.2 cool)
  rw [thermalSample_on on]
  simp only [below, Bool.false_eq_true, if_false, Bool.false_or, decide_eq_true_eq]

theorem thermalSample_limit (hot : 105 ≤ (d.takeTemps temps).diesThrottled.hottest 0 144) : thermalSample m temps d =
    raiseOwn m 2954 none none (opticsHot m (d.takeTemps temps).diesThrottled.thermalLimit.showTemps) := by
  rw [thermalSample_on on]
  simp only [decide_eq_true hot, if_true, Bool.true_or]

theorem thermalTrip_due {n : Nat × Nat} (hot : n ∈ d.hotSince) (due : n.2 + 100000000 ≤ d.now) :
    thermalTrip d = (d.setFld F.THM_STATUS_TRIPPED 1).mainOff := by
  have long : (d.hotSince.any fun e => decide (e.2 + 100000000 ≤ d.now)) = true :=
    List.any_eq_true.2 ⟨n, hot, decide_eq_true due⟩
  simp [thermalTrip, on, long]

end

theorem thermalTrip_early (early : ∀ e ∈ d.hotSince, d.now < e.2 + 100000000) : thermalTrip d = d := by
  have short : (d.hotSince.any fun e => decide (e.2 + 100000000 ≤ d.now)) = false :=
    List.any_eq_false.2 fun e mem => by simpa using early e mem
  simp [thermalTrip, short]

/-! ### Sending pace notices (R387, R388) -/

section
variable {p : PartId}

theorem pace_silent (silent : paces m d p = false) :
    paceNoticeSend m p d = d ∧ paceNoticeRepeat m p d = d ∧ releaseNoticeSend m p d = d := by
  simp [paceNoticeSend, paceNoticeRepeat, releaseNoticeSend, silent]

section
variable (sends : paces m d p = true)
include sends

section
variable (slow : jobThrottled m d (partJob m d p) = true)
include slow

/-- The first notice goes at once, a later one when RATE has changed and 100 µs have passed. -/
theorem paceNoticeSend_throttled (news : (tGet {} d.pace (partJob m d p)).active = false ∨
    ((tGet {} d.pace (partJob m d p)).rate ≠ jobRate m d (partJob m d p) ∧
      (tGet {} d.pace (partJob m d p)).sentAt + 100000 ≤ d.now)) :
    paceNoticeSend m p d = sendPace m (partJob m d p) false d := by
  refine if_pos ?_
  rw [sends, slow, Bool.true_and, Bool.true_and, Bool.or_eq_true, Bool.and_eq_true, decide_eq_true_eq, decide_eq_true_eq,
    Bool.not_eq_true']
  exact news

theorem paceNoticeRepeat_due (active : (tGet {} d.pace (partJob m d p)).active = true)
    (due : (tGet {} d.pace (partJob m d p)).sentAt + 1000000 ≤ d.now) :
    paceNoticeRepeat m p d = sendPace m (partJob m d p) false d :=
  if_pos (by simp only [sends, slow, active, due, decide_true, Bool.and_self])

end

theorem releaseNoticeSend_calm {t : Nat} (calm : jobThrottled m d (partJob m d p) = false)
    (active : (tGet {} d.pace (partJob m d p)).active = true)
    (since : (tGet {} d.pace (partJob m d p)).calmSince = some t) (due : t + 1000000 ≤ d.now) :
    releaseNoticeSend m p d = sendPace m (partJob m d p) true d := by
  have calmed : calmed d (tGet {} d.pace (partJob m d p)) = true := by simp only [Machine.calmed, since, due, decide_true]
  exact if_pos (by simp only [sends, calm, active, calmed, Bool.not_false, Bool.and_self])

end

end

/-! ### Receiving pace notices (R391) -/

/-- Under which number the notices of a device for a job are kept. -/
def paceKey (device job : Nat) : Nat := device * 2 ^ 16 + job

section
variable {n : PaceNotice} {r : PaceIn}

theorem newerPace_some : newerPace n (some r) = true ↔
    0 < (n.seq.toNat + 2 ^ 32 - r.seq) % 2 ^ 32 ∧ (n.seq.toNat + 2 ^ 32 - r.seq) % 2 ^ 32 < 2 ^ 31 := by
  simp only [newerPace, Bool.and_eq_true, decide_eq_true_eq, Nat.pos_iff_ne_zero]

theorem paceNoticeReceive_newer (on : d.controllerOn = true) (fabric : d.fabricOn = true)
    (listed : n.device.toNat ∈ paceTable m d n.job.toNat)
    (newer : newerPace n (tFind (paceKey n.device.toNat n.job.toNat) d.paceIn) = true) :
    paceNoticeReceive m n d = updatePace m { d with
      paceIn := tPut (paceKey n.device.toNat n.job.toNat) ⟨n.seq.toNat, n.rate.toNat, d.now, !n.release⟩ d.paceIn } := by
  have drops : (!d.controllerOn || !d.fabricOn || !(paceTable m d n.job.toNat).contains n.device.toNat ||
      !newerPace n (tFind (paceKey n.device.toNat n.job.toNat) d.paceIn)) = false := by
    simp [on, fabric, listed, newer]
  exact if_neg (Bool.eq_false_iff.1 drops)

theorem paceNoticeReceive_older (last : tFind (paceKey n.device.toNat n.job.toNat) d.paceIn = some r)
    (older : 2 ^ 31 ≤ (n.seq.toNat + 2 ^ 32 - r.seq) % 2 ^ 32) : paceNoticeReceive m n d = d := by
  have stale : newerPace n (some r) = false := by
    rw [← Bool.not_eq_true, newerPace_some]
    exact fun ⟨_, recent⟩ => Nat.not_lt.2 older recent
  have drops : (!d.controllerOn || !d.fabricOn || !(paceTable m d n.job.toNat).contains n.device.toNat ||
      !newerPace n (tFind (paceKey n.device.toNat n.job.toNat) d.paceIn)) = true := by
    rw [last, stale, Bool.not_false, Bool.or_true]
  exact if_pos drops

theorem paceNoticeExpiry_due {dev job : Nat} (known : tFind (paceKey dev job) d.paceIn = some r) (inForce : r.inForce = true)
    (due : r.at_ + 5000000 ≤ d.now) : paceNoticeExpiry m dev job d =
      updatePace m { d with paceIn := tPut (paceKey dev job) { r with inForce := false } d.paceIn } := by
  unfold paceNoticeExpiry
  rw [show dev * 2 ^ 16 + job = paceKey dev job from rfl]
  simp only [known, inForce, due, decide_true, Bool.and_self, if_true]

end

/-- Settles O55: each row is the meaning of its case. The source of the hub die and the optics at 105 °C rests on log 36 of
NOTES.md, to whom notices go on log 35. -/
theorem thermalsAndPaces : Obligations.ThermalsAndPaces := by
  unfold Obligations.ThermalsAndPaces
  refine ⟨?temperatures, ?paces⟩
  case temperatures =>
    intro s temps n d a was b quiet on
    have sample : ∀ {e}, thermalSample s.mem temps d = e → After (.thermalSample temps) s e :=
      row_after (E := fun m => thermalSample m temps) rfl quiet
    exact ⟨fun cool opticsCool => sample ((thermalSample_cool on cool).trans (if_neg (Nat.not_le.2 opticsCool))),
      fun cool opticsLimit => sample ((thermalSample_cool on cool).trans (if_pos opticsLimit)),
      fun hot => sample (thermalSample_limit on hot),
      fun hot due => row_becomes rfl quiet (thermalTrip_due on hot due),
      fun early => row_becomes rfl quiet (thermalTrip_early early)⟩
  case paces =>
    intro s p n dev job t r d j x key old slow quiet
    refine ⟨fun sends throttled inactive => ?_, fun sends throttled active changed due => ?_,
      fun sends throttled active due => row_becomes rfl quiet (paceNoticeRepeat_due sends throttled active due),
      fun sends calm active since due => row_becomes rfl quiet (releaseNoticeSend_calm sends calm active since due),
      fun silent => ?_, fun on fabric listed first => ?_, fun on fabric listed last newer recent => ?_,
      fun last older => row_becomes rfl quiet (paceNoticeReceive_older last older),
      fun known inForce due => row_becomes rfl quiet (paceNoticeExpiry_due known inForce due)⟩
    · exact row_becomes rfl quiet (paceNoticeSend_throttled sends throttled (.inl inactive))
    · exact row_becomes rfl quiet (paceNoticeSend_throttled sends throttled (.inr ⟨changed, due⟩))
    · obtain ⟨send, again, release⟩ := pace_silent silent
      simp only [List.forall_mem_cons, List.not_mem_nil, false_implies, implies_true, and_true]
      exact ⟨row_becomes rfl quiet send, row_becomes rfl quiet again, row_becomes rfl quiet release⟩
    · have unknown : tFind (paceKey n.device.toNat n.job.toNat) d.paceIn = none := first
      exact row_becomes rfl quiet (paceNoticeReceive_newer on fabric listed (by rw [unknown]; rfl))
    · have known : tFind (paceKey n.device.toNat n.job.toNat) d.paceIn = some r := last
      exact row_becomes rfl quiet (paceNoticeReceive_newer on fabric listed (by rw [known]; exact newerPace_some.2 ⟨newer, recent⟩))

end Sys2Proof.Machine
end

section
/-! Elections and heartbeats (R421, R466 to R468): what an announcement and a heartbeat do by the role of the device, and what
the device sends and misses, each meaning case by case, then the statement. -/

namespace Sys2Proof.Machine

variable {d : Dev} {x : BankerMsg}

/-! ### Announcements (R466 to R468) -/

/-- The device that has heard an announcement's epoch. -/
def Dev.hearEpoch (d : Dev) (x : BankerMsg) : Dev :=
  { d with bank := { d.bank with epochHeard := max d.bank.epochHeard x.epoch.toNat } }

theorem bankAnnounce_other_pod (other : d.samePod x.device.toNat = false) : bankAnnounce x d = d := by
  simp [bankAnnounce, other]

section
variable (same : d.samePod x.device.toNat = true)
include same

theorem bankAnnounce_candidate (kind : x.f0.toNat = 1) : bankAnnounce x d =
    (d.hearEpoch x).modMember (podIndex x.device.toNat) fun y => { y with priority := some x.f1.toNat } := by
  simp only [bankAnnounce, same, kind]
  rfl

/-- A standby is heeded by members of its epoch. -/
theorem bankAnnounce_standby (kind : x.f0.toNat = 3) : bankAnnounce x d =
    if d.role = 2 ∧ x.epoch.toNat = d.fld F.BNK_EPOCH_EPOCH then (d.hearEpoch x).setStandby (some x.device.toNat)
    else d.hearEpoch x := by
  simp only [bankAnnounce, same, kind, Bool.and_eq_true, decide_eq_true_eq]
  rfl

section
variable (kind : x.f0.toNat = 4)
include kind

/-- What an active banker's announcement does, by the role of the device that hears it. -/
theorem bankAnnounce_active : bankAnnounce x d =
    let e := d.hearEpoch x
    let mine := d.fld F.BNK_EPOCH_EPOCH
    if d.role = 1 ∨ d.role = 5 then e.sendBanker (some x.device) 0x11 0 0 d.role 0 0
    else if d.role = 4 then
      if mine < x.epoch.toNat ∨ (mine = x.epoch.toNat ∧
        outranks (x.f1.toNat, x.device.toNat) (d.fld F.BNK_CTL_PRIORITY, d.deviceId)) then e.follow x.device.toNat x.epoch.toNat
      else e
    else if mine < x.epoch.toNat then e.follow x.device.toNat x.epoch.toNat
    else if d.fld F.BNK_STATUS_ACTIVE = x.device.toNat then { e with bank := { e.bank with heardAt := e.now } }
    else e := by
  simp only [bankAnnounce, same, kind]
  rfl

theorem bankAnnounce_active_electing (role : d.role = 1 ∨ d.role = 5) :
    bankAnnounce x d = (d.hearEpoch x).sendBanker (some x.device) 0x11 0 0 d.role 0 0 :=
  (bankAnnounce_active same kind).trans (if_pos role)

theorem bankAnnounce_active_outranked (role : d.role = 4) (outranked : d.fld F.BNK_EPOCH_EPOCH < x.epoch.toNat ∨
    (d.fld F.BNK_EPOCH_EPOCH = x.epoch.toNat ∧
      outranks (x.f1.toNat, x.device.toNat) (d.fld F.BNK_CTL_PRIORITY, d.deviceId) = true)) :
    bankAnnounce x d = (d.hearEpoch x).follow x.device.toNat x.epoch.toNat := by
  rw [bankAnnounce_active same kind]
  dsimp only
  rw [if_neg (by omega), if_pos role, if_pos outranked]

section
variable (role : d.role = 2 ∨ d.role = 3)
include role

theorem bankAnnounce_active_newer (newer : d.fld F.BNK_EPOCH_EPOCH < x.epoch.toNat) :
    bankAnnounce x d = (d.hearEpoch x).follow x.device.toNat x.epoch.toNat := by
  rw [bankAnnounce_active same kind]
  dsimp only
  rw [if_neg (by omega), if_neg (by omega), if_pos newer]

theorem bankAnnounce_active_known (notNewer : x.epoch.toNat ≤ d.fld F.BNK_EPOCH_EPOCH)
    (active : d.fld F.BNK_STATUS_ACTIVE = x.device.toNat) : bankAnnounce x d =
      { d.hearEpoch x with bank := { (d.hearEpoch x).bank with heardAt := (d.hearEpoch x).now } } := by
  rw [bankAnnounce_active same kind]
  dsimp only
  rw [if_neg (by omega), if_neg (by omega), if_neg (Nat.not_lt.2 notNewer), if_pos active]

end

end

end

/-! ### Heartbeats that arrive (R466, R467) -/

/-- The member that a heartbeat is of has been heard; one that was not known, or failed and starts anew, is live. -/
def Dev.memberBeats (d : Dev) (x : BankerMsg) : Dev :=
  d.modMember (podIndex x.device.toNat) fun y => { y with
    heardAt := d.now, state := if y.state = 0 ∨ (y.state = 2 ∧ x.f0 = 1) then 1 else y.state }

theorem bankHeartbeat_other_pod (other : d.samePod x.device.toNat = false) : bankHeartbeat x d = d := by
  simp [bankHeartbeat, other]

section
variable (same : d.samePod x.device.toNat = true)
include same

theorem bankHeartbeat_admitted (role : d.role = 4) (admitted : (d.member (podIndex x.device.toNat)).admitted = true) :
    bankHeartbeat x d = (d.memberBeats x).sendBanker (some x.device) 0x1A 0 0 x.seq.toNat 0 0 := by
  simp only [bankHeartbeat, same, role, admitted]
  rfl

theorem bankHeartbeat_refused (role : d.role = 4) (refused : (d.member (podIndex x.device.toNat)).admitted = false) :
    bankHeartbeat x d = d.sendBanker (some x.device) 0x1A 0 0 x.seq.toNat 1 0 := by
  simp only [bankHeartbeat, same, role, refused]
  rfl

theorem bankHeartbeat_elsewhere (role : d.role ≠ 4) : bankHeartbeat x d =
    if d.fld F.BNK_STATUS_ACTIVE = x.device.toNat then { d with bank := { d.bank with heardAt := d.now, lostAt := none } }
    else d := by
  simp only [bankHeartbeat, same, if_neg role]
  rfl

end

/-! ### Candidates and the end of an election (R466) -/

theorem candidateAnnounce_due (hub : d.hubOn = true) (role : d.role = 1) (eligible : d.flag F.BNK_CTL_ELIGIBLE = true)
    (due : d.bank.saidAt + 100000000 ≤ d.now) : candidateAnnounce d =
      ({ d with bank := { d.bank with saidAt := d.now } } : Dev).sendBanker none 0x10 0 0 1 (d.fld F.BNK_CTL_PRIORITY) 0 :=
  if_pos (by simp [hub, role, eligible, due])

theorem candidateAnnounce_silent
    (h : d.role ≠ 1 ∨ d.flag F.BNK_CTL_ELIGIBLE = false ∨ d.now < d.bank.saidAt + 100000000) : candidateAnnounce d = d := by
  refine if_neg ?_
  rcases h with role | notEligible | early
  · simp [role]
  · simp [notEligible]
  · simp [Nat.not_le.2 early]

section
variable (hub : d.hubOn = true)
include hub

theorem electionTimeout_electing (role : d.role = 1) : electionTimeout d =
    if d.bank.electAt + 1000000 * d.fld F.BNK_TIMING_ELECT_MS ≤ d.now then d.rankSelf else d := by
  simp only [electionTimeout, hub, role]
  rfl

theorem electionTimeout_lost {t : Nat} (role : d.role ≠ 1) (lost : d.bank.lostAt = some t)
    (due : t + 1000000 * d.fld F.BNK_TIMING_ELECT_MS ≤ d.now) : electionTimeout d = d.startElection := by
  simp [electionTimeout, hub, role, lost, due]

theorem electionTimeout_heard (role : d.role ≠ 1) (heard : d.bank.lostAt = none) : electionTimeout d = d := by
  simp [electionTimeout, hub, role, heard]

/-! ### Heartbeats that the device sends (R467) -/

section
variable (due : d.bank.beatAt + 1000000 * d.fld F.BNK_TIMING_HB_MS ≤ d.now)
include due

theorem heartbeatSend_member (role : d.role = 2 ∨ d.role = 3) : heartbeatSend d =
    ({ d with bank := { d.bank with beatAt := d.now } } : Dev).sendBanker
      (some (BitVec.ofNat 20 (d.fld F.BNK_STATUS_ACTIVE))) 0x11 0 0 d.role 0 0 := by
  simp only [heartbeatSend, hub, due, if_pos role]
  rfl

theorem heartbeatSend_active (role : d.role = 4) (standby : d.flag F.BNK_STATUS_STANDBY_VALID = true) : heartbeatSend d =
    ({ d with bank := { d.bank with beatAt := d.now } } : Dev).sendBanker
      (some (BitVec.ofNat 20 (d.fld F.BNK_STATUS_STANDBY))) 0x11 0 0 4 0 0 := by
  simp only [heartbeatSend, hub, due, role, standby]
  rfl

end

omit hub in
theorem heartbeatSend_no_standby (role : d.role = 4) (none : d.flag F.BNK_STATUS_STANDBY_VALID = false) :
    heartbeatSend d = d := by
  simp [heartbeatSend, role, none]

/-! ### Heartbeats that the device misses (R421, R467) -/

section
variable {dev : Nat}

theorem heartbeatMiss_member (role : d.role = 2) (active : d.fld F.BNK_STATUS_ACTIVE = dev)
    (due : d.bank.heardAt + 1000000 * d.fld F.BNK_TIMING_HB_MS * d.fld F.BNK_TIMING_MISS ≤ d.now)
    (first : d.bank.lostAt = none) :
    heartbeatMiss dev d = { d with bank := { d.bank with lostAt := some d.now } } := by
  simp [heartbeatMiss, hub, role, active, due, first]

theorem heartbeatMiss_standby (role : d.role = 3) (active : d.fld F.BNK_STATUS_ACTIVE = dev)
    (due : d.bank.heardAt + 1000000 * d.fld F.BNK_TIMING_HB_MS * d.fld F.BNK_TIMING_MISS ≤ d.now) :
    heartbeatMiss dev d = d.takeOver := by
  simp [heartbeatMiss, hub, role, active, due]

/-- The active banker fails a member of its pod; one that is not its standby leaves it at that. -/
theorem heartbeatMiss_active (role : d.role = 4) (same : d.samePod dev = true)
    (live : (d.member (podIndex dev)).state = 1 ∨ (d.member (podIndex dev)).state = 3)
    (due : (d.member (podIndex dev)).heardAt + 1000000 * d.fld F.BNK_TIMING_HB_MS * d.fld F.BNK_TIMING_MISS ≤ d.now)
    (notStandby : (d.failMember dev).flag F.BNK_STATUS_STANDBY_VALID = false ∨
      (d.failMember dev).fld F.BNK_STATUS_STANDBY ≠ dev) : heartbeatMiss dev d = d.failMember dev := by
  have missed : (!d.samePod dev || (decide ((d.member (podIndex dev)).state ≠ 1) && decide ((d.member (podIndex dev)).state ≠ 3)) ||
      decide (d.now < (d.member (podIndex dev)).heardAt + 1000000 * d.fld F.BNK_TIMING_HB_MS * d.fld F.BNK_TIMING_MISS)) = false := by
    rcases live with live | live <;> simpa [same, live] using due
  have other : ¬ ((d.failMember dev).flag F.BNK_STATUS_STANDBY_VALID = true ∧
      (d.failMember dev).fld F.BNK_STATUS_STANDBY = dev) := by
    rcases notStandby with none | other
    · simp [none]
    · simp [other]
  simp only [heartbeatMiss, hub, role, missed, if_neg other]
  rfl

theorem heartbeatMiss_early (role : d.role = 4) (early : d.now <
    (d.member (podIndex dev)).heardAt + 1000000 * d.fld F.BNK_TIMING_HB_MS * d.fld F.BNK_TIMING_MISS) :
    heartbeatMiss dev d = d := by
  simp [heartbeatMiss, hub, role, early]

end

end

/-! ### The statement -/

/-- Settles O58: each row is the meaning of its case, on the device with the message's number recorded. That an ACK answers
every heartbeat at the active banker rests on log 40 of NOTES.md. -/
theorem bankersElected : Obligations.BankersElected := by
  unfold Obligations.BankersElected
  intro s x a t d dev who span miss quiet
  refine ⟨fun new same => ?announce, fun new other => row_newMessage (f := fun _ => bankAnnounce x) rfl quiet new
      (bankAnnounce_other_pod other), fun new => ?heartbeat,
    fun old => row_oldMessage (f := fun _ => bankAnnounce x) rfl quiet old,
    fun old => row_oldMessage (f := fun _ => bankHeartbeat x) rfl quiet old,
    fun hub role eligible due => row_becomes rfl quiet (candidateAnnounce_due hub role eligible due),
    fun silent => row_becomes rfl quiet (candidateAnnounce_silent silent),
    fun hub role due => row_becomes rfl quiet ((electionTimeout_electing hub role).trans (if_pos due)),
    fun hub role early => row_becomes rfl quiet ((electionTimeout_electing hub role).trans (if_neg (Nat.not_le.2 early))),
    fun hub role lost due => row_becomes rfl quiet (electionTimeout_lost hub role lost due),
    fun hub role heard => row_becomes rfl quiet (electionTimeout_heard hub role heard),
    fun hub due => ⟨fun role => row_becomes rfl quiet (heartbeatSend_member hub due role),
      fun role standby => row_becomes rfl quiet (heartbeatSend_active hub due role standby),
      fun role none => row_becomes rfl quiet (heartbeatSend_no_standby role none)⟩,
    fun hub role active due first => row_becomes rfl quiet (heartbeatMiss_member hub role active due first),
    fun hub role active due => row_becomes rfl quiet (heartbeatMiss_standby hub role active due),
    fun hub role same live due notStandby => row_becomes rfl quiet (heartbeatMiss_active hub role same live due notStandby),
    fun hub role early => row_becomes rfl quiet (heartbeatMiss_early hub role early)⟩
  case announce =>
    have row : ∀ {u}, bankAnnounce x (d.noted 0x10 x) = u → Becomes (.announce x) s u :=
      row_newMessage (f := fun _ => bankAnnounce x) rfl quiet new
    exact ⟨fun kind => row (bankAnnounce_candidate same kind),
      fun kind role epoch => row ((bankAnnounce_standby same kind).trans (if_pos ⟨role, epoch⟩)),
      fun kind other => row ((bankAnnounce_standby same kind).trans (if_neg (not_and_or.2 other))),
      fun kind role => row (bankAnnounce_active_electing same kind role),
      fun kind role outranked => row (bankAnnounce_active_outranked same kind role outranked),
      fun kind role newer => row (bankAnnounce_active_newer same kind role newer),
      fun kind role notNewer active => row (bankAnnounce_active_known same kind role notNewer active)⟩
  case heartbeat =>
    have row : ∀ {u}, bankHeartbeat x (d.noted 0x11 x) = u → Becomes (.heartbeat x) s u :=
      row_newMessage (f := fun _ => bankHeartbeat x) rfl quiet new
    exact ⟨fun other => row (bankHeartbeat_other_pod other),
      fun same role admitted => row (bankHeartbeat_admitted same role admitted),
      fun same role refused => row (bankHeartbeat_refused same role refused),
      fun same role active => row ((bankHeartbeat_elsewhere same role).trans (if_pos active)),
      fun same role other => row ((bankHeartbeat_elsewhere same role).trans (if_neg other))⟩

end Sys2Proof.Machine
end

section
/-! DCP sessions (R353, R354, R356, R361, R363): what an OPEN begins, how sessions and held requests end, when notices go; each
meaning case by case, then the statement. -/

namespace Sys2Proof.Machine

variable {d : Dev}

/-! ### The scope of an OPEN (R353) -/

section
variable {o : OpenPacket}

theorem openScope_device (device : o.scope = 0xFF) : openScope o = some .device := if_pos device

theorem openScope_partition {p : PartId} (names : o.scope.toNat = p.val) : openScope o = some (.partition p) := by
  have part : o.scope.toNat < 64 := names ▸ p.isLt
  have notDevice : o.scope ≠ 0xFF := fun device => by simp [device] at part
  unfold openScope
  rw [if_neg notDevice, dif_pos part]
  simp only [names]

/-- An OPEN that names no scope is refused. -/
theorem openScope_of_not_refused (fine : d.openRefusal o = none) : o.scope = 0xFF ∨ ∃ p : PartId, o.scope.toNat = p.val := by
  by_cases device : o.scope = 0xFF
  · exact .inl device
  · by_cases part : o.scope.toNat < 64
    · exact .inr ⟨⟨o.scope.toNat, part⟩, rfl⟩
    · have noScope : openScope o = none := by unfold openScope; rw [if_neg device, dif_neg part]
      unfold Dev.openRefusal at fine
      rw [noScope] at fine
      split_ifs at fine

/-! ### Opening (R353, R354) -/

theorem beginSession_device {n : Nat} {keys : List Byte} (device : o.scope = 0xFF) :
    d.beginSession n o keys = d.setSession n { port := o.port, scope := .device, key := o.keyIndex, ring := 0, peer := o.source
                                               toDevice := keys.take 32, toHost := keys.drop 32, lastAt := d.now
                                               byHgu := d.hguAlone } := by
  simp only [Dev.beginSession, openedSession, openScope_device device, Option.getD_some]

theorem beginSession_partition {n : Nat} {keys : List Byte} {p : PartId} (names : o.scope.toNat = p.val) :
    d.beginSession n o keys =
      let ring := BitVec.ofNat 18 o.ring.toNat
      ((d.setSession n { port := o.port, scope := .partition p, key := o.keyIndex, ring := ring, peer := o.source
                         toDevice := keys.take 32, toHost := keys.drop 32, lastAt := d.now
                         byHgu := d.hguAlone }).setRf ring.toNat RF.session n).setRf ring.toNat RF.nextSeq 0 := by
  simp only [Dev.beginSession, openedSession, openScope_partition names, Option.getD_some]

theorem dcpOpen_away (away : ¬ (d.portServes o.port = true ∧ d.frameTaken o.port o.source = true)) : dcpOpen o d = d :=
  if_pos (by simpa [imp_iff_not_or] using away)

section
variable (comes : d.portServes o.port = true ∧ d.frameTaken o.port o.source = true)
include comes

theorem dcpOpen_wrong_header (wrong : ¬ (o.magic = 0x4443 ∧ o.version = 1)) : dcpOpen o d = d.unheard := by
  have head : dcpHead o.magic o.version = false := by simpa [dcpHead] using wrong
  simp only [dcpOpen, comes, head, Bool.not_true, Bool.or_self, Bool.not_false, Bool.false_eq_true, if_false, if_true]

section
variable (right : o.magic = 0x4443 ∧ o.version = 1)
include right

theorem dcpOpen_refused {k : Nat} (refused : d.openRefusal o = some k) : dcpOpen o d =
    (d.openFrames o.port).send (.dcp o.port o.source (d.frameTag o.port) 6 0 0 0 (leBytes 4 k)) := by
  simp [dcpOpen, dcpHead, comes, right, refused]

theorem dcpOpen_opened (fine : d.openRefusal o = none) : dcpOpen o d =
    let u := (d.openFrames o.port).draw
    let n := u.2.freeSession (Config.fresh u.1).toNat
    (u.2.beginSession n o (sessionKeys o (deviceNonce u.1))).send
      (.dcp o.port o.source (d.frameTag o.port) 2 (BitVec.ofNat 32 n) 0 0 (openAck o n (deviceNonce u.1))) := by
  simp [dcpOpen, dcpHead, comes, right, fine]

end

end

end

/-! ### Ends and notices (R356, R361, R363) -/

section
variable {n : Nat} {x : Session} (isOpen : tFind n d.sessions = some x)
include isOpen

theorem sessionIdleExpiry_due (due : x.lastAt + 1000000000 * d.fld F.HOST_DCP_IDLE ≤ d.now) :
    sessionIdleExpiry n d = d.closeSession n := by
  simp only [sessionIdleExpiry, isOpen, if_pos due]

theorem heldRequestExpiry_session : heldRequestExpiry n d =
    d.setSession n { x with held := x.held.filter fun e => decide (d.now < e.2.at_ + 100000000) } := by
  simp only [heldRequestExpiry, isOpen]

section
variable {r : Nat}

/-- A notice goes when the counts of a subscribed ring have changed, the gap since the last one has passed, and the port is on. -/
theorem notifySend_changed {c : Nat} (subscribed : tFind r x.subs = some c) (changed : d.ringCounts r ≠ c) (on : d.portOn = true)
    (gap : ∀ t, tFind r x.heard = some t → t + 1000 * d.fld F.HOST_DCP_NOTIFY_GAP ≤ d.now) : notifySend n r d =
      (d.setSession n { x with subs := tPut r (d.ringCounts r) x.subs, heard := tPut r d.now x.heard }).notify
        n (leBytes 4 r ++ leBytes 8 (d.ringCounts r)) := by
  have passed : x.gapPassed (1000 * d.fld F.HOST_DCP_NOTIFY_GAP) r d.now = true := by
    unfold Session.gapPassed
    split
    next t heard => exact decide_eq_true (gap t heard)
    next => rfl
  simp [notifySend, isOpen, subscribed, changed, on, passed]

theorem notifySend_early {t : Nat} (heard : tFind r x.heard = some t) (early : d.now < t + 1000 * d.fld F.HOST_DCP_NOTIFY_GAP) :
    notifySend n r d = d := by
  have waits : x.gapPassed (1000 * d.fld F.HOST_DCP_NOTIFY_GAP) r d.now = false := by
    simp only [Session.gapPassed, heard, decide_eq_false (Nat.not_le.2 early)]
  simp only [notifySend, isOpen, waits]
  cases tFind r x.subs <;> simp

end

end

/-- Settles O50: each row is the meaning of its case. That an OPEN_ACK has SEQ 0 and the order of the checks of an OPEN rest on
log 34 of NOTES.md. -/
theorem sessionsOpenAndEnd : Obligations.SessionsOpenAndEnd := by
  unfold Obligations.SessionsOpenAndEnd
  intro s o n r x c d u num nonce keys sent comes right y w answer quiet
  exact ⟨fun k comes right refused => row_becomes rfl quiet (dcpOpen_refused comes right refused),
    fun comes right fine device => row_becomes rfl quiet ((dcpOpen_opened comes right fine).trans
      (congrArg (·.send answer) (beginSession_device device))),
    fun p comes right fine names => row_becomes rfl quiet ((dcpOpen_opened comes right fine).trans
      (congrArg (·.send answer) (beginSession_partition names))),
    fun comes wrong => row_becomes rfl quiet (dcpOpen_wrong_header comes wrong),
    fun away => row_becomes rfl quiet (dcpOpen_away away),
    openScope_of_not_refused,
    fun isOpen due => row_becomes rfl quiet (sessionIdleExpiry_due isOpen due),
    fun isOpen => row_becomes rfl quiet (heldRequestExpiry_session isOpen),
    fun isOpen subscribed changed on gap => row_becomes rfl quiet (notifySend_changed isOpen subscribed changed on gap),
    fun t isOpen heard early => row_becomes rfl quiet (notifySend_early isOpen heard early)⟩

end Sys2Proof.Machine
end

section
/-! DCP requests (R350, R352, R358 to R361, R368): where a request goes by its session, its header and its place in the order,
and what each operation does; each meaning case by case, then the statement. -/

namespace Sys2Proof.Machine

variable {m : Mem} {d : Dev} {h : ReqHead}

/-! ### The order of requests (R361) -/

section
variable {code : Nat} {op : Option DcpOp} {s : State} {i : Instr}

/-- The nine rows of requests: each takes its request by the code and the operation that belong to it. -/
theorem exec_request {o : DcpOp} (row : (i, code, op) ∈ [(Instr.dcpNop h, 1, none), (.regRead h o, 2, some o),
    (.regWrite h o, 3, some o), (.memRead h o, 4, some o), (.memWrite h o, 5, some o), (.doorbell h o, 6, some o),
    (.consume h o, 7, some o), (.subscribe h o, 8, some o), (.dcpClose h, 9, none)]) :
    exec i s = .next (s.run fun m d => afterAll m (takeRequest m code h op d)) := by
  simp only [List.mem_cons, List.not_mem_nil, or_false, Prod.mk.injEq] at row
  rcases row with ⟨rfl, rfl, rfl⟩ | ⟨rfl, rfl, rfl⟩ | ⟨rfl, rfl, rfl⟩ | ⟨rfl, rfl, rfl⟩ | ⟨rfl, rfl, rfl⟩ | ⟨rfl, rfl, rfl⟩ |
    ⟨rfl, rfl, rfl⟩ | ⟨rfl, rfl, rfl⟩ | ⟨rfl, rfl, rfl⟩ <;> rfl

/-- The header and the tag of a request are those that its session asks for, and it comes from the session's side (R352). -/
def Session.asksFor (x : Session) (h : ReqHead) : Prop :=
  h.magic = 0x4443 ∧ h.version = 1 ∧ h.type = 3 ∧ h.tagOk = true ∧ (x.port = .host ↔ h.port = .host)

theorem asksFor_iff {x : Session} : x.asksFor h ↔ (!dcpHead h.magic h.version || decide (h.type ≠ 3) || !h.tagOk ||
    decide ((x.port = .host) ≠ (h.port = .host))) = false := by
  simp [Session.asksFor, dcpHead, and_assoc]

theorem takeRequest_away (away : ¬ (d.portServes h.port = true ∧ d.frameTaken h.port h.source = true)) :
    takeRequest m code h op d = d :=
  if_pos (by simpa [imp_iff_not_or] using away)

section
variable (comes : d.portServes h.port = true ∧ d.frameTaken h.port h.source = true)
include comes

theorem takeRequest_no_session (noSession : tFind h.session.toNat (d.heard h).sessions = none) :
    takeRequest m code h op d = (d.heard h).unheard := by
  simp only [takeRequest, comes, noSession, Bool.not_true, Bool.or_self, Bool.false_eq_true, if_false]

section
variable {x : Session} (isOpen : tFind h.session.toNat (d.heard h).sessions = some x)
include isOpen

theorem takeRequest_wrong_header (wrong : ¬ x.asksFor h) : takeRequest m code h op d = (d.heard h).unheard := by
  have drops : (!dcpHead h.magic h.version || decide (h.type ≠ 3) || !h.tagOk ||
      decide ((x.port = .host) ≠ (h.port = .host))) = true := Bool.not_eq_false _ ▸ mt asksFor_iff.2 wrong
  simp only [takeRequest, comes, isOpen, drops, Bool.not_true, Bool.or_self, Bool.false_eq_true, if_false, if_true]

/-- The session of a request has heard from its peer. -/
def Dev.requestHeard (d : Dev) (h : ReqHead) : Dev :=
  (d.heard h).modSession h.session.toNat fun y => { y with lastAt := (d.heard h).now, port := h.port, peer := h.source }

/-- What becomes of a request with the right header, by how far it is ahead of the session's next one or behind it. -/
theorem takeRequest_ordered (right : x.asksFor h) : takeRequest m code h op d =
      let v := d.requestHeard h
      let n := h.session.toNat
      let q : HeldReq := ⟨code, h, op, v.now⟩
      let ahead := (h.seq - x.next).toNat
      if ahead = 0 then execHeld m n x.held.length (execRequest m n q v)
      else if ahead ≤ 63 then if (tFind h.seq.toNat x.held).isSome then v else v.modSession n fun y => y.early q
      else if (x.next - h.seq).toNat ≤ 64 then
        (tFind h.seq.toNat x.cache).elim v (v.respond n h.seq.toNat)
      else if v.hguAlone then v else v.count F.HOST_ERR_DCP_SEQ 1 := by
  have passes := asksFor_iff.1 right
  simp only [takeRequest, comes, isOpen, passes, Bool.not_true, Bool.or_self, Bool.false_eq_true, if_false]
  cases tFind h.seq.toNat x.cache <;> rfl

end

end

end

/-! ### Operations (R359, R360) -/

section
variable {n : Nat} {x : Session} {o : DcpOp}

/-- What a reply says, and the free value that its DONE draws. -/
theorem of_eq_reply {run : Dev × Reply} {status : Nat} {data : List Byte} (ends : run = reply status data d) :
    run.1 = d.draw.2 ∧ run.2.status = status ∧ run.2.data = data := by
  subst ends
  exact ⟨rfl, rfl, rfl⟩

section
variable {code : Nat} (zero : h.reservedZero = true) (same : o.op.toNat = code)
include zero same

omit same zero in
theorem runOp_unfit (unfit : h.reservedZero = false ∨ o.op.toNat ≠ code) : runOp m n code x h o d = reply 6 [] d :=
  if_pos (by simpa using unfit)

/-- The header and the operation of a request are those of its row. -/
theorem op_fits : ¬ (!h.reservedZero || decide (o.op.toNat ≠ code)) = true := by simp [zero, same]

theorem runOp_plain (plain : code = 1 ∨ code = 9) :
    runOp m n code x h o d = if h.length.toNat = 40 then reply 0 [] d else reply 8 [] d := by
  rcases plain with rfl | rfl <;> exact if_neg (op_fits zero same)

theorem runOp_regRead (is : code = 2) : runOp m n code x h o d = opRegRead (sessionPath n x) h o d := by
  subst is
  exact if_neg (op_fits zero same)

theorem runOp_regWrite (is : code = 3) : runOp m n code x h o d = opRegWrite m (sessionPath n x) h o d := by
  subst is
  exact if_neg (op_fits zero same)

theorem runOp_memRead (is : code = 4) : runOp m n code x h o d = opMemRead m x h o d := by
  subst is
  exact if_neg (op_fits zero same)

theorem runOp_memWrite (is : code = 5) : runOp m n code x h o d = opMemWrite m x h o d := by
  subst is
  exact if_neg (op_fits zero same)

theorem runOp_doorbell (is : code = 6) : runOp m n code x h o d = opDoorbell m x h o d := by
  subst is
  exact if_neg (op_fits zero same)

theorem runOp_consume (is : code = 7) : runOp m n code x h o d = opConsume m x h o d := by
  subst is
  exact if_neg (op_fits zero same)

theorem runOp_subscribe (is : code = 8) : runOp m n code x h o d = opSubscribe n x h o d := by
  subst is
  exact if_neg (op_fits zero same)

end

theorem opRegRead_sized {w : Path} (size : sized h o 1 1000 0 = true) :
    opRegRead w h o d = (d, readWords w d o.addr.toNat 0 o.count.toNat []) := if_neg (by simp [size])

theorem opRegRead_missized {w : Path} (size : sized h o 1 1000 0 = false) : opRegRead w h o d = reply 8 [] d :=
  if_pos (by simp [size])

theorem opRegWrite_sized {w : Path} (size : sized h o 1 1000 (8 * o.count.toNat) = true) : opRegWrite m w h o d =
    writeWords m w ((List.range o.count.toNat).map fun i => (o.data.drop (8 * i)).take 8) o.addr.toNat 0 d :=
  if_neg (by simp [size])

section
variable (size : sized h o 1 4096 0 = true)
include size

theorem opMemRead_ok (ok : d.memStatus x.scope o.addr.toNat o.count.toNat false = 0) : opMemRead m x h o d =
    reply 0 (memRead m d o.addr.toNat o.count.toNat) (d.countStk false o.addr.toNat o.count.toNat) := by
  simp only [opMemRead, size, ok, Bool.not_true, Bool.false_eq_true, if_false]

theorem opMemRead_bad (bad : d.memStatus x.scope o.addr.toNat o.count.toNat false = 7) : opMemRead m x h o d =
    reply 7 [] (raiseBad m o.addr.toNat o.count.toNat (scopePart x.scope) d) := by
  simp only [opMemRead, size, bad, Bool.not_true, Bool.false_eq_true, if_false]

theorem opMemRead_refused (notOk : d.memStatus x.scope o.addr.toNat o.count.toNat false ≠ 0)
    (notBad : d.memStatus x.scope o.addr.toNat o.count.toNat false ≠ 7) : opMemRead m x h o d =
    reply (d.memStatus x.scope o.addr.toNat o.count.toNat false) [] d := by
  simp only [opMemRead, size, Bool.not_true, Bool.false_eq_true, if_false]

end

section
variable (size : sized h o 1 8064 o.count.toNat = true)
include size

theorem opMemWrite_ok (ok : d.memStatus x.scope o.addr.toNat o.count.toNat true = 0) : opMemWrite m x h o d =
    reply 0 [] (accumulate m o.addr.toNat o.count.toNat
      ((d.store o.addr.toNat o.data).countStk true o.addr.toNat o.count.toNat)) := by
  simp only [opMemWrite, size, ok, Bool.not_true, Bool.false_eq_true, if_false]

theorem opMemWrite_bad (bad : d.memStatus x.scope o.addr.toNat o.count.toNat true = 7) : opMemWrite m x h o d =
    reply 7 [] (raiseCut m o.addr.toNat o.count.toNat (scopePart x.scope) d) := by
  simp only [opMemWrite, size, bad, Bool.not_true, Bool.false_eq_true, if_false]

theorem opMemWrite_refused (notOk : d.memStatus x.scope o.addr.toNat o.count.toNat true ≠ 0)
    (notBad : d.memStatus x.scope o.addr.toNat o.count.toNat true ≠ 7) : opMemWrite m x h o d =
    reply (d.memStatus x.scope o.addr.toNat o.count.toNat true) [] d := by
  simp only [opMemWrite, size, Bool.not_true, Bool.false_eq_true, if_false]

end

/-- Ring requests need the memory of the rings (R368). -/
theorem ringOp_memoryDown (down : d.memoryDown = true) :
    opDoorbell m x h o d = reply 5 [] d ∧ opConsume m x h o d = reply 5 [] d :=
  ⟨if_pos (.inl down), if_pos (.inl down)⟩

section
variable (up : d.memoryDown = false) (hub : d.hguAlone = false)
include up hub

/-- Ring requests keep to the session's scope (R355). -/
theorem ringOp_out_of_scope (out : d.ringInScope x.scope o.ring.toNat = false) :
    opDoorbell m x h o d = reply 1 [] d ∧ opConsume m x h o d = reply 1 [] d := by
  constructor <;> simp only [opDoorbell, opConsume, up, hub, out, Bool.false_eq_true, or_self, if_false, Bool.not_false, if_true]

section
variable (inScope : d.ringInScope x.scope o.ring.toNat = true)
include inScope

theorem opDoorbell_posted (kind : d.rf o.ring.toNat RF.kind = 1) (host : d.rf o.ring.toNat RF.pHost = 1)
    (size : sized h o 1 (d.slotCapacity o.ring.toNat) 0 = true) (place : o.addr.toNat % 2 ^ 32 = d.rf o.ring.toNat RF.produced)
    (room : d.ringRoom o.ring.toNat = true) (fine : d.rf o.ring.toNat RF.error ≠ 1) (buffer : d.bufferOk o.ring.toNat = true) :
    opDoorbell m x h o d =
      let e := (d.claim o.ring.toNat).2
      let p := e.slotAddr o.ring.toNat (d.claim o.ring.toNat).1
      reply 0 [] ((e.store p (slotHeader o.count.toNat (d.claim o.ring.toNat).1
        (e.turnOf (partOf (d.rf o.ring.toNat RF.owner))) e.deviceId true false)).countStk true p 64) := by
  simp only [opDoorbell, up, hub, inScope, kind, host, size, place, room, fine, buffer, Bool.false_eq_true, Bool.not_true, ne_eq,
    not_true_eq_false, or_self, if_false]

theorem opConsume_consumed (size : sized h o 0 (2 ^ 32) 0 = true) (kind : d.rf o.ring.toNat RF.kind = 1)
    (consumer : d.rf o.ring.toNat RF.consumer = 2) (place : o.addr.toNat % 2 ^ 32 = d.rf o.ring.toNat RF.consumed)
    (fine : d.rf o.ring.toNat RF.error ≠ 1) (visible : ringVisible m d o.ring.toNat = true)
    (buffer : d.bufferOk o.ring.toNat = true) :
    opConsume m x h o d = reply 0 [] (d.consumeAt m o.ring.toNat (d.rf o.ring.toNat RF.consumed)) := by
  simp only [opConsume, up, hub, inScope, size, kind, consumer, place, fine, visible, buffer, Bool.false_eq_true, Bool.not_true,
    ne_eq, not_true_eq_false, or_self, if_false]

end

end

section
variable (size : sized h o 0 1 0 = true)
include size

theorem opSubscribe_telemetry (management : x.port ≠ .host) (telemetry : o.addr = 1) : opSubscribe n x h o d =
    reply 0 [] (d.modSession n fun y => { y with telemetry := decide (o.count = 1), lastTelemetry := d.now }) := by
  simp only [opSubscribe, size, Bool.not_true, Bool.false_eq_true, if_false]
  exact if_pos ⟨management, telemetry⟩

theorem opSubscribe_ring (host : x.port = .host) (up : d.memoryDown = false) (hub : d.hguAlone = false)
    (inScope : d.ringInScope x.scope o.ring.toNat = true)
    (kind : d.rf o.ring.toNat RF.kind = 1 ∨ d.rf o.ring.toNat RF.kind = 2) : opSubscribe n x h o d =
      reply 0 [] (d.modSession n fun y => { y with
        subs := if o.count ≠ 1 then tDel o.ring.toNat y.subs else if (tFind o.ring.toNat y.subs).isSome then y.subs
          else tPut o.ring.toNat (d.ringCounts o.ring.toNat) y.subs }) := by
  have counts : ¬ (d.rf o.ring.toNat RF.kind ≠ 1 ∧ d.rf o.ring.toNat RF.kind ≠ 2) := by omega
  simp only [opSubscribe, size, host, up, hub, inScope, counts, Bool.false_eq_true, Bool.not_true, ne_eq, not_true_eq_false,
    false_and, or_self, if_false, Bool.not_eq_true', decide_eq_false_iff_not]

end

end

/-- Settles O49: each row is the meaning of its case. STATUS 6 for an operation that is not its row's, and SIZE before the
scope, rest on log 34 of NOTES.md. -/
theorem requestsTaken : Obligations.RequestsTaken := by
  unfold Obligations.RequestsTaken
  refine ⟨?order, ?operations⟩
  case order =>
    intro s h o i code op x r d n u v q ahead behind comes right row quiet
    have taken : ∀ {e}, takeRequest s.mem code h op d = e → After i s e :=
      row_after (E := fun m => takeRequest m code h op) (exec_request row) quiet
    refine ⟨fun away => taken (takeRequest_away away), fun comes none => taken (takeRequest_no_session comes none),
      fun comes isOpen wrong => taken (takeRequest_wrong_header comes isOpen wrong), fun comes isOpen right => ?_⟩
    have ordered := takeRequest_ordered (m := s.mem) (code := code) (op := op) comes isOpen right
    refine ⟨fun next => taken (ordered.trans (if_pos next)),
      fun later near unknown => taken (ordered.trans ?early), fun later near known => taken (ordered.trans ?twice),
      fun far recent cached => taken (ordered.trans ?cached), fun far recent uncached => taken (ordered.trans ?uncached),
      fun far old hub => taken (ordered.trans ?old)⟩
    case early => exact (if_neg (Nat.ne_of_gt later)).trans ((if_pos near).trans (if_neg (by rw [unknown]; decide)))
    case twice =>
      exact (if_neg (Nat.ne_of_gt later)).trans ((if_pos near).trans (if_pos (Option.isSome_iff_ne_none.2 known)))
    case cached =>
      refine (if_neg (by omega)).trans ((if_neg (by omega)).trans ((if_pos recent).trans ?_))
      rw [cached]
      rfl
    case uncached =>
      refine (if_neg (by omega)).trans ((if_neg (by omega)).trans ((if_pos recent).trans ?_))
      rw [uncached]
      rfl
    case old =>
      exact (if_neg (by omega)).trans ((if_neg (by omega)).trans ((if_neg (Nat.not_le.2 old)).trans
        (if_neg (Bool.eq_false_iff.1 hub))))
  case operations =>
    intro m n code x h o d a k r run ends
    refine ⟨fun unfit => of_eq_reply (runOp_unfit unfit), fun zero same => ?_⟩
    exact ⟨fun plain length => of_eq_reply ((runOp_plain zero same plain).trans (if_pos length)),
      fun plain length => of_eq_reply ((runOp_plain zero same plain).trans (if_neg length)),
      fun read size => (runOp_regRead zero same read).trans (opRegRead_sized size),
      fun read size => of_eq_reply ((runOp_regRead zero same read).trans (opRegRead_missized size)),
      fun write size => (runOp_regWrite zero same write).trans (opRegWrite_sized size),
      fun read size ok => of_eq_reply ((runOp_memRead zero same read).trans (opMemRead_ok size ok)),
      fun read size notOk notBad => of_eq_reply ((runOp_memRead zero same read).trans (opMemRead_refused size notOk notBad)),
      fun read size bad => of_eq_reply ((runOp_memRead zero same read).trans (opMemRead_bad size bad)),
      fun write size ok => of_eq_reply ((runOp_memWrite zero same write).trans (opMemWrite_ok size ok)),
      fun write size notOk notBad => of_eq_reply ((runOp_memWrite zero same write).trans (opMemWrite_refused size notOk notBad)),
      fun write size bad => of_eq_reply ((runOp_memWrite zero same write).trans (opMemWrite_bad size bad)),
      fun ringOp down => of_eq_reply (ringOp.elim (fun ring => (runOp_doorbell zero same ring).trans (ringOp_memoryDown down).1)
        fun ring => (runOp_consume zero same ring).trans (ringOp_memoryDown down).2),
      fun ringOp up hub out => of_eq_reply (ringOp.elim
        (fun ring => (runOp_doorbell zero same ring).trans (ringOp_out_of_scope up hub out).1)
        fun ring => (runOp_consume zero same ring).trans (ringOp_out_of_scope up hub out).2),
      fun ring up hub inScope kind host size place room fine buffer => of_eq_reply ((runOp_doorbell zero same ring).trans
        (opDoorbell_posted up hub inScope kind host size place room fine buffer)),
      fun ring up hub inScope size kind consumer place fine visible buffer => of_eq_reply ((runOp_consume zero same ring).trans
        (opConsume_consumed up hub inScope size kind consumer place fine visible buffer)),
      fun hears size management telemetry => of_eq_reply ((runOp_subscribe zero same hears).trans
        (opSubscribe_telemetry size management telemetry)),
      fun hears size host up hub inScope kind => of_eq_reply ((runOp_subscribe zero same hears).trans
        (opSubscribe_ring size host up hub inScope kind))⟩

end Sys2Proof.Machine
end

section
/-! RoCE v2 queue pairs (R364 to R366, R368) and the reads by which generations load from storage (R278, R281): how a request
goes by its PSN, what each request, each response and the timeout do, and the congestion control; each meaning case by case,
then the statement. -/

namespace Sys2Proof.Machine

variable {m : Mem} {d : Dev} {r : Nat}

/-! ### Requests by their PSN (R364, R368) -/

section
variable {p : RocePacket}

/-- A request without a mark of congestion reaches a queue pair that receives. -/
structure Dev.Reached (d : Dev) (p : RocePacket) (r : Nat) : Prop where
  on : d.hostOn = true
  taken : d.frameTaken .host p.source = true
  memory : d.memoryDown = false
  names : d.qpOf p.qpn.toNat = some r
  receives : d.rf r RF.qstate = 2 ∨ d.rf r RF.qstate = 3
  unmarked : p.ce = false

/-- How far a request's PSN is ahead of the one that the queue pair expects, once its frame is counted. -/
def Dev.psnAhead (d : Dev) (p : RocePacket) (r : Nat) : Nat :=
  (p.psn.toNat + 2 ^ 24 - (d.countFrame false p.data.length).rf r RF.recvPsn) % 2 ^ 24

section
variable {f again : Nat → Dev → Dev} (reached : d.Reached p r)
include reached

theorem onQp_reached : onQp p f again d =
    let e := d.countFrame false p.data.length
    if d.psnAhead p r = 0 then f r e
    else if 2 ^ 23 ≤ d.psnAhead p r then again r e
    else e.sendRoce r 2 (e.rf r RF.recvPsn) [0] := by
  obtain ⟨on, taken, memory, names, receives, unmarked⟩ := reached
  have state : ¬ (d.rf r RF.qstate ≠ 2 ∧ d.rf r RF.qstate ≠ 3) := by omega
  simp only [onQp, on, taken, memory, names, state, unmarked, Bool.not_true, Bool.or_self, Bool.false_and, Bool.false_eq_true,
    if_false]
  rfl

end

/-- The request is the one that queue pair r expects: what a request does is done at e. -/
def IsNext (d : Dev) (p : RocePacket) (r : Nat) (e : Dev) : Prop := ∀ f again, onQp p f again d = f r e

/-- The request has been taken before: what is done with it again is done at e. -/
def IsRepeat (d : Dev) (p : RocePacket) (r : Nat) (e : Dev) : Prop := ∀ f again, onQp p f again d = again r e

section
variable (reached : d.Reached p r)
include reached

theorem isNext_of_psn (next : d.psnAhead p r = 0) : IsNext d p r (d.countFrame false p.data.length) :=
  fun _ _ => (onQp_reached reached).trans (if_pos next)

theorem isRepeat_of_psn (other : 0 < d.psnAhead p r) (before : 2 ^ 23 ≤ d.psnAhead p r) :
    IsRepeat d p r (d.countFrame false p.data.length) :=
  fun _ _ => (onQp_reached reached).trans ((if_neg (Nat.ne_of_gt other)).trans (if_pos before))

/-- A request that is ahead of the one expected gets a NAK for the sequence, whatever it asks for. -/
theorem onQp_ahead {f again : Nat → Dev → Dev} (other : 0 < d.psnAhead p r) (ahead : d.psnAhead p r < 2 ^ 23) :
    onQp p f again d =
      (d.countFrame false p.data.length).sendRoce r 2 ((d.countFrame false p.data.length).rf r RF.recvPsn) [0] :=
  (onQp_reached reached).trans ((if_neg (Nat.ne_of_gt other)).trans (if_neg (Nat.not_le.2 ahead)))

end

theorem endsMsg_iff : endsMsg p = true ↔ p.place = .only ∨ p.place = .last := by
  rw [endsMsg, Bool.or_eq_true, decide_eq_true_eq, decide_eq_true_eq]

/-! ### WRITE (R364) -/

/-- A WRITE's packet fits its queue pair and brings what its message still lacks: all of it at its end, less before. -/
def Dev.writeFits (d : Dev) (r : Nat) (p : RocePacket) : Prop :=
  d.packetFits r false p = true ∧ (p.place = .only ∨ p.place = .last → p.data.length = (d.writeMsg r p).left) ∧
    (¬ (p.place = .only ∨ p.place = .last) → p.data.length < (d.writeMsg r p).left)

theorem writeFits_iff : d.writeFits r p ↔ ¬ (!d.packetFits r false p ||
    decide (if endsMsg p then p.data.length ≠ (d.writeMsg r p).left else (d.writeMsg r p).left ≤ p.data.length)) = true := by
  unfold Dev.writeFits
  by_cases ends : endsMsg p = true
  · simp [ends, ← endsMsg_iff]
  · simp [ends, ← endsMsg_iff]

/-- The device with the bytes of a WRITE's packet in memory. -/
def Dev.bytesWritten (d : Dev) (m : Mem) (r : Nat) (p : RocePacket) : Dev :=
  accumulate m (d.writeMsg r p).addr p.data.length
    ((d.store (d.writeMsg r p).addr p.data).countStk true (d.writeMsg r p).addr p.data.length)

/-- The queue pair expects the next PSN. -/
def Dev.nextPsn (d : Dev) (r : Nat) : Dev := d.setRf r RF.recvPsn (psnAdd (d.rf r RF.recvPsn) 1)

section
variable {e : Dev} (next : IsNext d p r e)
include next

theorem rdmaWrite_unfit (unfit : ¬ e.writeFits r p) : rdmaWrite m p d = qpNak r 1 p.psn.toNat e :=
  (next _ _).trans (if_pos (not_not.1 (mt writeFits_iff.2 unfit)))

section
variable (fits : e.writeFits r p)
include fits

theorem rdmaWrite_denied (denied : e.rdmaOk r (e.writeMsg r p).rkey (e.writeMsg r p).addr
    (checkedBytes p (e.writeMsg r p)) true = false) : rdmaWrite m p d = qpNak r 2 p.psn.toNat e :=
  (next _ _).trans ((if_neg (writeFits_iff.1 fits)).trans (if_pos (by rw [denied]; rfl)))

section
variable (may : e.rdmaOk r (e.writeMsg r p).rkey (e.writeMsg r p).addr (checkedBytes p (e.writeMsg r p)) true = true)
include may

theorem rdmaWrite_bad (bad : e.badWrite (e.writeMsg r p).addr p.data.length = true) : rdmaWrite m p d =
    raiseCut m (e.writeMsg r p).addr p.data.length (some (partOf (e.rf r RF.owner))) (qpNak r 3 p.psn.toNat e) :=
  (next _ _).trans ((if_neg (writeFits_iff.1 fits)).trans ((if_neg (by rw [may]; decide)).trans (if_pos bad)))

/-- The bytes are written; the message ends with its last packet, and goes on after another. -/
theorem rdmaWrite_good (good : e.badWrite (e.writeMsg r p).addr p.data.length = false) : rdmaWrite m p d =
    (((e.bytesWritten m r p).setQp r { (e.bytesWritten m r p).qp r with
      msg := if endsMsg p then none else some ((e.writeMsg r p).after p.data.length) }).nextPsn r).sendRoce r 1 p.psn.toNat [] :=
  (next _ _).trans ((if_neg (writeFits_iff.1 fits)).trans ((if_neg (by rw [may]; decide)).trans
    (if_neg (Bool.eq_false_iff.1 good))))

end

end

/-! ### READ (R364) -/

/-- How many packets answer a READ. -/
def Dev.readPackets (d : Dev) (r : Nat) (p : RocePacket) : Nat := max 1 ((p.length.toNat + d.mtu r - 1) / d.mtu r)

theorem rdmaRead_within_message (message : (e.qp r).msg ≠ none) : rdmaRead m p d = qpNak r 1 p.psn.toNat e := by
  unfold rdmaRead
  exact (next _ _).trans (if_pos (Option.isSome_iff_ne_none.2 message))

omit next in
theorem rdmaRead_ahead (reached : d.Reached p r) (other : 0 < d.psnAhead p r) (ahead : d.psnAhead p r < 2 ^ 23) :
    rdmaRead m p d =
      (d.countFrame false p.data.length).sendRoce r 2 ((d.countFrame false p.data.length).rf r RF.recvPsn) [0] := by
  unfold rdmaRead
  exact onQp_ahead reached other ahead

section
variable (free : (e.qp r).msg = none)
include free

theorem rdmaRead_denied (denied : e.rdmaOk r p.rkey.toNat p.va.toNat p.length.toNat false = false) :
    rdmaRead m p d = qpNak r 2 p.psn.toNat e := by
  unfold rdmaRead
  exact (next _ _).trans ((if_neg (by rw [free]; decide)).trans (if_pos (by rw [denied]; rfl)))

theorem rdmaRead_next (may : e.rdmaOk r p.rkey.toNat p.va.toNat p.length.toNat false = true) : rdmaRead m p d =
    readPieces m r p.psn.toNat p.va.toNat (e.mtu r) p.length.toNat (List.range (e.readPackets r p))
      (e.setRf r RF.recvPsn (psnAdd (e.rf r RF.recvPsn) (e.readPackets r p))) := by
  unfold rdmaRead
  exact (next _ _).trans ((if_neg (by rw [free]; decide)).trans (if_neg (by rw [may]; decide)))

omit next in
theorem rdmaRead_repeat (again : IsRepeat d p r e)
    (may : e.rdmaOk r p.rkey.toNat p.va.toNat p.length.toNat false = true) : rdmaRead m p d =
      readPieces m r p.psn.toNat p.va.toNat (e.mtu r) p.length.toNat (List.range (e.readPackets r p)) e := by
  unfold rdmaRead
  exact (again _ _).trans ((if_neg (by rw [free]; decide)).trans (if_neg (by rw [may]; decide)))

end

/-! ### SEND (R364, R365) -/

omit next in
theorem recvOk_iff : e.recvOk r = true ↔ e.rf r RF.recvEn = 1 ∧ e.rf (e.rf r RF.recvRing) RF.kind = 1 ∧
    e.rf (e.rf r RF.recvRing) RF.owner = e.rf r RF.owner ∧ e.rf (e.rf r RF.recvRing) RF.pHost = 1 := by
  simp only [Dev.recvOk, Bool.and_eq_true, decide_eq_true_eq, and_assoc]

/-- A SEND's packet fits its queue pair, whose receive ring takes the message as it stands with it. -/
def Dev.sendTaken (d : Dev) (r : Nat) (p : RocePacket) : Prop :=
  let q := d.rf r RF.recvRing
  d.packetFits r true p = true ∧ d.rf r RF.recvEn = 1 ∧ d.rf q RF.kind = 1 ∧ d.rf q RF.owner = d.rf r RF.owner ∧
    d.rf q RF.pHost = 1 ∧ (d.sendMsg r p).bytes.length ≤ d.slotCapacity q ∧ (d.sendMsg r p).bytes ≠ []

omit next in
theorem sendTaken_iff : e.sendTaken r p ↔ ¬ (!e.packetFits r true p || !e.recvOk r ||
    decide (e.slotCapacity (e.rf r RF.recvRing) < (e.sendMsg r p).bytes.length) || (e.sendMsg r p).bytes.isEmpty) = true := by
  have receives := recvOk_iff (e := e) (r := r)
  unfold Dev.sendTaken
  simp only [Bool.or_eq_true, not_or, Bool.not_eq_true', Bool.not_eq_false, decide_eq_true_eq, Nat.not_lt, List.isEmpty_iff,
    receives, and_assoc]

/-- Where the next message of a queue pair's receive ring goes. -/
def Dev.receiveSlot (d : Dev) (r : Nat) : Nat := d.slotAddr (d.rf r RF.recvRing) (d.rf (d.rf r RF.recvRing) RF.produced)

/-- The device with the message of a SEND on the receive ring. -/
def Dev.received (d : Dev) (r : Nat) (p : RocePacket) : Dev :=
  let q := d.rf r RF.recvRing
  (d.produce q (d.turnOf (partOf (d.rf q RF.owner))) (d.sendMsg r p).bytes).countStk true (d.receiveSlot r)
    (64 + (d.sendMsg r p).bytes.length)

theorem roceSend_unfit (unfit : ¬ e.sendTaken r p) : roceSend m p d = qpNak r 1 p.psn.toNat e :=
  (next _ _).trans (if_pos (not_not.1 (mt sendTaken_iff.2 unfit)))

section
variable (takes : e.sendTaken r p)
include takes

theorem roceSend_no_room (full : ¬ (e.ringRoom (e.rf r RF.recvRing) = true ∧ e.rf (e.rf r RF.recvRing) RF.error ≠ 1)) :
    roceSend m p d = e.notReady r (e.sendMsg r p).psn :=
  (next _ _).trans ((if_neg (sendTaken_iff.1 takes)).trans (if_pos (by
    simp only [Bool.or_eq_true, Bool.not_eq_true', decide_eq_true_eq]
    rw [← Bool.not_eq_true, ← not_ne_iff (b := 1)]
    exact not_and_or.1 full)))

section
variable (room : e.ringRoom (e.rf r RF.recvRing) = true ∧ e.rf (e.rf r RF.recvRing) RF.error ≠ 1)
include room

omit next takes in
/-- The receive ring has room. -/
theorem roomy : ¬ (!e.ringRoom (e.rf r RF.recvRing) || decide (e.rf (e.rf r RF.recvRing) RF.error = 1)) = true := by
  simp [room]

theorem roceSend_begun (goesOn : endsMsg p = false) : roceSend m p d =
    (e.setQp r { e.qp r with msg := some (e.sendMsg r p) }).nextPsn r :=
  (next _ _).trans ((if_neg (sendTaken_iff.1 takes)).trans ((if_neg (roomy room)).trans (if_pos (by rw [goesOn]; rfl))))

section
variable (ends : endsMsg p = true) (buffer : e.bufferOk (e.rf r RF.recvRing) = true)
include ends buffer

theorem roceSend_bad (bad : e.badWrite (e.receiveSlot r) (64 + (e.sendMsg r p).bytes.length) = true) : roceSend m p d =
    raiseCut m (e.receiveSlot r) (64 + (e.sendMsg r p).bytes.length) (some (partOf (e.rf r RF.owner)))
      (qpNak r 3 p.psn.toNat e) :=
  (next _ _).trans ((if_neg (sendTaken_iff.1 takes)).trans ((if_neg (roomy room)).trans ((if_neg (by rw [ends]; decide)).trans
    ((if_neg (by rw [buffer]; decide)).trans (if_pos bad)))))

theorem roceSend_good (good : e.badWrite (e.receiveSlot r) (64 + (e.sendMsg r p).bytes.length) = false) : roceSend m p d =
    (((e.received r p).setQp r { (e.received r p).qp r with msg := none }).nextPsn r).sendRoce r 1 p.psn.toNat [] :=
  (next _ _).trans ((if_neg (sendTaken_iff.1 takes)).trans ((if_neg (roomy room)).trans ((if_neg (by rw [ends]; decide)).trans
    ((if_neg (by rw [buffer]; decide)).trans (if_neg (Bool.eq_false_iff.1 good))))))

end

end

end

end

end

/-! ### Responses and the timeout (R278, R281, R364, R365) -/

/-- A READ is asked for again while its shard is read. -/
theorem readAgain_shard {rd : QpRead} {i : Nat} {l : GenLoad} {h : Shard}
    (shard : d.readShard rd.part rd.shard = some (i, l, h)) : readAgain r rd d = (d.sendRead r rd h).setRead r rd := by
  simp only [readAgain, shard]

section
variable {x : RoceResponse} {rd : QpRead}

/-- A response reaches the queue pair whose READ it answers. -/
structure Dev.Answers (d : Dev) (x : RoceResponse) (r : Nat) (rd : QpRead) : Prop where
  on : d.hostOn = true
  taken : d.frameTaken .host x.source = true
  names : d.qpOf x.qpn.toNat = some r
  reads : (d.qp r).read = some rd

section
variable (answers : d.Answers x r rd)
include answers

theorem readResponse_nak (nak : x.answer = .nak) : readResponse m x d = qpError r (d.countFrame false x.data.length) := by
  obtain ⟨on, taken, names, reads⟩ := answers
  simp -zeta only [readResponse, on, taken, names, reads, nak, Bool.not_true, Bool.or_self, Bool.false_eq_true, if_false]
  rfl

/-- An answer that the other side is not ready: the READ is made again as often as RNR_RETRY allows. -/
theorem readResponse_rnr (rnr : x.answer = .rnr) : readResponse m x d =
    let e := d.countFrame false x.data.length
    if e.rf r RF.rnrRetry = 7 ∨ rd.rnr < e.rf r RF.rnrRetry then readAgain r { rd with rnr := rd.rnr + 1 } e else qpError r e := by
  obtain ⟨on, taken, names, reads⟩ := answers
  simp -zeta only [readResponse, on, taken, names, reads, rnr, Bool.not_true, Bool.or_self, Bool.false_eq_true, if_false]

section
variable (data : x.answer = .data) {e : Dev} (counted : e = d.countFrame false x.data.length)
include data counted

theorem readResponse_other_psn (other : x.psn.toNat ≠ psnAdd (e.rf r RF.sendPsn) (rd.got / e.mtu r)) :
    readResponse m x d = e := by
  obtain ⟨on, taken, names, reads⟩ := answers
  subst counted
  simp -zeta only [readResponse, on, taken, names, reads, data, Bool.not_true, Bool.or_self, Bool.false_eq_true, if_false]
  exact if_pos other

section
variable (psn : x.psn.toNat = psnAdd (e.rf r RF.sendPsn) (rd.got / e.mtu r)) {i : Nat} {l : GenLoad} {h : Shard}
  (shard : e.readShard rd.part rd.shard = some (i, l, h))
include psn shard

/-- The bytes expected go to the shard. The READ goes on until its piece has come, and then with the shard's next piece, if
there is one. -/
theorem readResponse_expected : readResponse m x d =
    let got := rd.got + x.data.length
    let v := shardArrives m rd.part i l h (rd.off + rd.got) x.data (e.setRead r { rd with got := got, tries := 0, rnr := 0 })
    let u := v.setRf r RF.sendPsn (psnAdd (v.rf r RF.sendPsn) ((rd.want h + v.mtu r - 1) / v.mtu r))
    if x.data.length ≠ min (e.mtu r) (rd.want h - rd.got) ∨ x.last ≠ decide (got = rd.want h) then qpError r e
    else if got < rd.want h then v
    else if rd.off + rd.want h < h.count * extentSize then askShard r { rd with off := rd.off + rd.want h } h u
    else u.setQp r { u.qp r with read := none } := by
  obtain ⟨on, taken, names, reads⟩ := answers
  subst counted
  simp -zeta only [readResponse, on, taken, names, reads, data, Bool.not_true, Bool.or_self, Bool.false_eq_true, if_false]
  rw [if_neg (not_not.2 psn), shard]

theorem readResponse_wrong_length (wrong : x.data.length ≠ min (e.mtu r) (rd.want h - rd.got) ∨
    x.last ≠ decide (rd.got + x.data.length = rd.want h)) : readResponse m x d = qpError r e :=
  (readResponse_expected answers data counted psn shard).trans (if_pos wrong)

theorem readResponse_part (length : x.data.length = min (e.mtu r) (rd.want h - rd.got))
    (last : x.last = decide (rd.got + x.data.length = rd.want h)) (part : rd.got + x.data.length < rd.want h) :
    readResponse m x d = shardArrives m rd.part i l h (rd.off + rd.got) x.data
      (e.setRead r { rd with got := rd.got + x.data.length, tries := 0, rnr := 0 }) :=
  (readResponse_expected answers data counted psn shard).trans
    ((if_neg (not_or.2 ⟨not_not.2 length, not_not.2 last⟩)).trans (if_pos part))

end

end

end

section
variable (reads : (d.qp r).read = some rd) (on : d.hostOn = true) (due : rd.at_ + 4096 * 2 ^ d.rf r RF.ackTimeout ≤ d.now)
include reads on due

/-- After its retries the queue pair fails; before, the READ is asked for again. -/
theorem ackTimeout_due : ackTimeout r d =
    if d.rf r RF.retryCnt ≤ rd.tries then qpError r d else readAgain r { rd with tries := rd.tries + 1 } d := by
  simp only [ackTimeout, reads, on, Nat.not_lt.2 due, decide_false, Bool.not_true, Bool.or_self, Bool.false_eq_true, if_false]

end

end

/-! ### Congestion (R366) -/

section
variable (on : d.hostOn = true)
include on

section
variable (kind : d.rf r RF.kind = 3)
include kind

/-- A CNP lowers the rate by alpha, raises alpha, and starts the timers anew. -/
theorem cnpReceive_queuePair : cnpReceive r d =
    let u := ((d.countFrame false 0).count F.HOST_ERR_CNP_RX 1).setQp r
      { d.qp r with target := d.rf r RF.rate, cnpAt := d.now, decayAt := d.now, raiseAt := d.now }
    (u.setRf r RF.rate (u.clampRate (d.rf r RF.rate - d.rf r RF.rate * u.rf r RF.alpha / 131072))).setRf r RF.alpha
      (min 65535 (u.decayed r + 256 * u.fld F.HOST_CC_G)) :=
  if_neg (by simp [on, kind])

theorem alphaDecay_due (due : (d.qp r).decayAt + 55000 ≤ d.now) :
    alphaDecay r d = (d.setRf r RF.alpha (d.decayed r)).setQp r { d.qp r with decayAt := d.now } :=
  if_pos (by simp [on, kind, due])

theorem rateIncrease_due (due : (d.qp r).raiseAt + 1000 * d.fld F.HOST_CC_T_INC ≤ d.now) : rateIncrease r d =
    (d.setRf r RF.rate (d.clampRate ((d.rf r RF.rate + (d.qp r).target) / 2))).setQp r { d.qp r with raiseAt := d.now } :=
  if_pos (by simp [on, kind, due])

end

section
variable {prio : Nat} {pause : Bool}

theorem pauseFrame_own (flow : d.flag F.HOST_NET_PFC_EN = true) (own : prio = d.fld F.HOST_NET_PFC_PRIO) :
    pauseFrame prio pause d = { d.countFrame false 0 with paused := pause } :=
  if_pos (by simp [on, flow, own])

omit on in
theorem pauseFrame_other (other : prio ≠ d.fld F.HOST_NET_PFC_PRIO) : pauseFrame prio pause d = d :=
  if_neg (by simp [other])

end

end

/-- Settles O51: each row is the meaning of its case. The answers to a request that is a repeat, early, or does not go on with
its message, the PSN set back without room, and the repeated READ rest on log 33 of NOTES.md. -/
theorem rdmaActs : Obligations.RdmaActs := by
  unfold Obligations.RdmaActs
  refine ⟨?requests, ?reads, ?congestion⟩
  case requests =>
    intro s p r d n psn e ends x fits may k reads q y takes room slot ahead next again quiet on taken memory names receives unmarked
    have reached : d.Reached p r := ⟨on, taken, memory, names, receives, unmarked⟩
    have write : ∀ {u}, rdmaWrite s.mem p d = u → After (.rdmaWrite p) s u := row_after (E := fun m => rdmaWrite m p) rfl quiet
    have read : ∀ {u}, rdmaRead s.mem p d = u → After (.rdmaRead p) s u := row_after (E := fun m => rdmaRead m p) rfl quiet
    have send : ∀ {u}, roceSend s.mem p d = u → After (.send p) s u := row_after (E := fun m => roceSend m p) rfl quiet
    refine ⟨fun expected => ?expected,
      fun other => ⟨fun before => ?repeated, fun before free may => ?rereads, fun early => ?early⟩⟩
    case expected =>
      have next : IsNext d p r e := isNext_of_psn reached expected
      refine ⟨fun unfit => write (rdmaWrite_unfit next unfit), fun fits denied => write (rdmaWrite_denied next fits denied),
        fun fits may bad => write (rdmaWrite_bad next fits may bad),
        fun fits may good last => write ((rdmaWrite_good next fits may good).trans ?_),
        fun fits may good goesOn => write ((rdmaWrite_good next fits may good).trans ?_),
        fun free may => read (rdmaRead_next next free may), fun free denied => read (rdmaRead_denied next free denied),
        fun message => read (rdmaRead_within_message next message),
        fun unfit => send (roceSend_unfit next unfit), fun takes full => send (roceSend_no_room next takes full),
        fun takes room goesOn => send (roceSend_begun next takes room (Bool.eq_false_iff.2 (mt endsMsg_iff.1 goesOn))),
        fun takes room last buffer good => send (roceSend_good next takes room (endsMsg_iff.2 last) buffer good),
        fun takes room last buffer bad => send (roceSend_bad next takes room (endsMsg_iff.2 last) buffer bad)⟩
      · rw [if_pos (endsMsg_iff.2 last)]
        rfl
      · rw [if_neg (mt endsMsg_iff.1 goesOn)]
        rfl
    case repeated =>
      have isRepeat : IsRepeat d p r e := isRepeat_of_psn reached other before
      exact ⟨write (isRepeat _ _), send (isRepeat _ _)⟩
    case rereads => exact read (rdmaRead_repeat free (isRepeat_of_psn reached other before) may)
    case early =>
      simp only [List.forall_mem_cons, List.not_mem_nil, false_implies, implies_true, and_true]
      exact ⟨write (onQp_ahead reached other early), read (rdmaRead_ahead reached other early),
        send (onQp_ahead reached other early)⟩
  case reads =>
    intro s x r rd q i l h d e want got ask comes quiet
    have response : ∀ {u}, readResponse s.mem x d = u → After (.readResponse x) s u :=
      row_after (E := fun m => readResponse m x) rfl quiet
    have answers : comes → d.Answers x r rd := fun ⟨on, taken, names, reads⟩ => ⟨on, taken, names, reads⟩
    exact ⟨fun comes nak => response (readResponse_nak (answers comes) nak),
      fun comes rnr bounded spent => response ((readResponse_rnr (answers comes) rnr).trans
        (if_neg (not_or.2 ⟨bounded, Nat.not_lt.2 spent⟩))),
      fun comes rnr tries shard => response ((readResponse_rnr (answers comes) rnr).trans
        ((if_pos tries).trans (readAgain_shard shard))),
      fun comes data other => response (readResponse_other_psn (answers comes) data rfl other),
      fun comes data psn shard wrong => response (readResponse_wrong_length (answers comes) data rfl psn shard wrong),
      fun comes data psn shard length last part => response (readResponse_part (answers comes) data rfl psn shard length last part),
      fun reads on due spent => row_after rfl quiet ((ackTimeout_due reads on due).trans (if_pos spent)),
      fun reads on due tries shard => row_after rfl quiet ((ackTimeout_due reads on due).trans
        ((if_neg (Nat.not_le.2 tries)).trans (readAgain_shard shard)))⟩
  case congestion =>
    intro s q prio pause d r line rate g lower quiet on
    exact ⟨fun kind => row_becomes rfl quiet (cnpReceive_queuePair on kind),
      fun kind due => row_becomes rfl quiet (alphaDecay_due on kind due),
      fun kind due => row_becomes rfl quiet (rateIncrease_due on kind due),
      fun flow own => row_becomes rfl quiet (pauseFrame_own on flow own),
      fun other => row_becomes rfl quiet (pauseFrame_other other)⟩

end Sys2Proof.Machine
end
